-- ==== Sys2Proof/Word.lean ====
section
/-! DEFINITION. The word types of the Denog (R2, R36). -/

namespace Sys2Proof

/-- A byte of memory (R2). -/
abbrev Byte := BitVec 8

/-- A 64-bit register or memory word. -/
abbrev Word := BitVec 64

/-- An instruction word (R41). -/
abbrev Word32 := BitVec 32

/-- A vector register (R36). -/
abbrev Vec := BitVec 512

/-- One matrix accumulator: 32 rows of 32 elements of 32 bits, element (r, c) in bits [32 (32 r + c) + 31 : ...] (R187). -/
abbrev AccBits := BitVec 32768

end Sys2Proof
end

