-- ==== Sys2Proof/Syntax.lean ====
section
/-! DEFINITION. The instruction set and the device's own steps: one constructor per row of the opcode table. -/

namespace Sys2Proof

/-- What a frame of a link carries (R309): an access that a core has under way, by its serial number, or other traffic
(management, answers, what passes through) of a class. -/
inductive Traffic where
  | access (core seq : Nat)
  | other (tc : Nat)
  deriving DecidableEq, Repr

/-- The steps of the Denog (R55, 95_what_each_step_holds.md): the 154 instruction encodings, whose operands are the
fields of their words as the table names them, and the 108 steps that the device takes without a word. What a peer
module answers is an operand: `peer` and `code` of HOME_PERFORM are its bytes and 0, or a reason of R241 or another end; `src`
and `dst` of an engine's row its answer to the check of the row's source and destination (R262), 0 or a reason; `elem` and
`code` of a higher-order operation its answer to the check of the output element with that number (R213). -/
inductive Instr where
  /-- ADD (R98): Writes rs1 + rs2 to rd, modulo 2^64, or in 32 bits under W. -/
  | add (d : BitVec 5) (a : BitVec 5) (b : BitVec 5) (w : BitVec 1)
  /-- SUB (R98): Writes rs1 − rs2 to rd. -/
  | sub (d : BitVec 5) (a : BitVec 5) (b : BitVec 5) (w : BitVec 1)
  /-- AND (R98): Writes the bitwise AND of rs1 and rs2 to rd. -/
  | and (d : BitVec 5) (a : BitVec 5) (b : BitVec 5) (w : BitVec 1)
  /-- OR (R98): Writes the bitwise OR of rs1 and rs2 to rd. -/
  | or (d : BitVec 5) (a : BitVec 5) (b : BitVec 5) (w : BitVec 1)
  /-- XOR (R98): Writes the bitwise XOR of rs1 and rs2 to rd. -/
  | xor (d : BitVec 5) (a : BitVec 5) (b : BitVec 5) (w : BitVec 1)
  /-- SLL (R98): Shifts rs1 left by rs2 mod 64, or mod 32 under W. -/
  | sll (d : BitVec 5) (a : BitVec 5) (b : BitVec 5) (w : BitVec 1)
  /-- SRL (R98): Shifts rs1 right logically by rs2. -/
  | srl (d : BitVec 5) (a : BitVec 5) (b : BitVec 5) (w : BitVec 1)
  /-- SRA (R98): Shifts rs1 right arithmetically by rs2. -/
  | sra (d : BitVec 5) (a : BitVec 5) (b : BitVec 5) (w : BitVec 1)
  /-- SLT (R98): Writes 1 to rd if rs1 < rs2, signed or unsigned by U, else 0. -/
  | slt (d : BitVec 5) (a : BitVec 5) (b : BitVec 5) (w : BitVec 1) (u : BitVec 1)
  /-- MIN (R98): Writes the lesser of rs1 and rs2. -/
  | min (d : BitVec 5) (a : BitVec 5) (b : BitVec 5) (w : BitVec 1) (u : BitVec 1)
  /-- MAX (R98): Writes the greater of rs1 and rs2. -/
  | max (d : BitVec 5) (a : BitVec 5) (b : BitVec 5) (w : BitVec 1) (u : BitVec 1)
  /-- MUL (R98): Writes the low 64 bits of rs1 × rs2. -/
  | mul (d : BitVec 5) (a : BitVec 5) (b : BitVec 5) (w : BitVec 1)
  /-- MULH (R98): Writes the high half of the exact product, signed or unsigned. -/
  | mulh (d : BitVec 5) (a : BitVec 5) (b : BitVec 5) (w : BitVec 1) (u : BitVec 1)
  /-- DIV (R99): Writes the quotient under the division rule. -/
  | div (d : BitVec 5) (a : BitVec 5) (b : BitVec 5) (w : BitVec 1) (u : BitVec 1)
  /-- REM (R99): Writes the remainder under the division rule. -/
  | rem (d : BitVec 5) (a : BitVec 5) (b : BitVec 5) (w : BitVec 1) (u : BitVec 1)
  /-- CLZ (R98): Writes the number of leading zero bits of rs1. -/
  | clz (d : BitVec 5) (a : BitVec 5) (w : BitVec 1)
  /-- CTZ (R98): Writes the number of trailing zero bits of rs1. -/
  | ctz (d : BitVec 5) (a : BitVec 5) (w : BitVec 1)
  /-- POPC (R98): Writes the number of one bits of rs1. -/
  | popc (d : BitVec 5) (a : BitVec 5) (w : BitVec 1)
  /-- BFX (R100): Extracts a bit field of rs1 chosen by rs2, optionally sign-extended. -/
  | bfx (d : BitVec 5) (a : BitVec 5) (b : BitVec 5) (s : BitVec 1) (w : BitVec 1)
  /-- ADDI (R101): Writes rs1 + sext(imm14). -/
  | addi (d : BitVec 5) (a : BitVec 5) (i : BitVec 14)
  /-- ANDI (R101): Writes rs1 AND sext(imm14). -/
  | andi (d : BitVec 5) (a : BitVec 5) (i : BitVec 14)
  /-- ORI (R101): Writes rs1 OR sext(imm14). -/
  | ori (d : BitVec 5) (a : BitVec 5) (i : BitVec 14)
  /-- XORI (R101): Writes rs1 XOR sext(imm14). -/
  | xori (d : BitVec 5) (a : BitVec 5) (i : BitVec 14)
  /-- SLLI (R101): Shifts rs1 left by an immediate amount 0 to 63. -/
  | slli (d : BitVec 5) (a : BitVec 5) (i : BitVec 14)
  /-- SRLI (R101): Shifts rs1 right logically by an immediate amount. -/
  | srli (d : BitVec 5) (a : BitVec 5) (i : BitVec 14)
  /-- SRAI (R101): Shifts rs1 right arithmetically by an immediate amount. -/
  | srai (d : BitVec 5) (a : BitVec 5) (i : BitVec 14)
  /-- SLTI (R101): Writes 1 if rs1 < sext(imm14), signed, else 0. -/
  | slti (d : BitVec 5) (a : BitVec 5) (i : BitVec 14)
  /-- LUI (R102): Writes sext(imm19 × 2^13) to rd. -/
  | lui (d : BitVec 5) (i : BitVec 19)
  /-- AUIPC (R102): Writes PC + sext(imm19 × 2^13) to rd. -/
  | auipc (d : BitVec 5) (i : BitVec 19)
  /-- BEQ (R103): Branches by 4 × off14 if rs1 = rs2. -/
  | beq (a : BitVec 5) (b : BitVec 5) (o : BitVec 14)
  /-- BNE (R103): Branches if rs1 ≠ rs2. -/
  | bne (a : BitVec 5) (b : BitVec 5) (o : BitVec 14)
  /-- BLT (R103): Branches if rs1 < rs2, signed. -/
  | blt (a : BitVec 5) (b : BitVec 5) (o : BitVec 14)
  /-- BGE (R103): Branches if rs1 ≥ rs2, signed. -/
  | bge (a : BitVec 5) (b : BitVec 5) (o : BitVec 14)
  /-- BLTU (R103): Branches if rs1 < rs2, unsigned. -/
  | bltu (a : BitVec 5) (b : BitVec 5) (o : BitVec 14)
  /-- BGEU (R103): Branches if rs1 ≥ rs2, unsigned. -/
  | bgeu (a : BitVec 5) (b : BitVec 5) (o : BitVec 14)
  /-- JAL (R104): Writes PC + 4 to rd and jumps by 4 × off19. -/
  | jal (d : BitVec 5) (o : BitVec 19)
  /-- JALR (R104): Writes PC + 4 to rd and jumps to rs1 + sext(imm14), trapping on a misaligned target. -/
  | jalr (d : BitVec 5) (a : BitVec 5) (i : BitVec 14)
  /-- LOOP (R107): Pins a body of 1 to 64 words in the loop buffer and repeats it the count held in rs1. -/
  | loop (a : BitVec 5) (n : BitVec 14)
  /-- LD (R245): Loads 1 to 8 bytes into an x register, sign- or zero-extended. -/
  | ld (d : BitVec 5) (a : BitVec 5) (w : BitVec 3) (i : BitVec 11)
  /-- ST (R245): Stores 1 to 8 bytes of an x register. -/
  | st (b : BitVec 5) (a : BitVec 5) (w : BitVec 3) (i : BitVec 11)
  /-- FLD (R245): Loads an FP value into an f register, zero-extended. -/
  | fld (d : BitVec 5) (a : BitVec 5) (w : BitVec 3) (i : BitVec 11)
  /-- FST (R245): Stores the low bits of an f register. -/
  | fst (b : BitVec 5) (a : BitVec 5) (w : BitVec 3) (i : BitVec 11)
  /-- VLD (R245): Loads 64 bytes into a vector register. -/
  | vld (d : BitVec 5) (a : BitVec 5) (i : BitVec 11)
  /-- VST (R245): Stores a vector register as 64 bytes. -/
  | vst (b : BitVec 5) (a : BitVec 5) (i : BitVec 11)
  /-- VLDX (R247): Loads each active lane from base plus scaled index. -/
  | vldx (d : BitVec 5) (a : BitVec 5) (b : BitVec 5) (p : BitVec 3) (t : BitVec 3) (h : BitVec 3)
  /-- VSTX (R247): Stores each active lane to base plus scaled index, in ascending lane order. -/
  | vstx (d : BitVec 5) (a : BitVec 5) (b : BitVec 5) (p : BitVec 3) (t : BitVec 3) (h : BitVec 3)
  /-- LDO (R248): Loads with plain, acquire or SC ordering at a named scope. -/
  | ldo (d : BitVec 5) (a : BitVec 5) (w : BitVec 3) (o : BitVec 2) (s : BitVec 3)
  /-- STO (R248): Stores with plain, release or SC ordering at a named scope. -/
  | sto (b : BitVec 5) (a : BitVec 5) (w : BitVec 3) (o : BitVec 2) (s : BitVec 3)
  /-- LDS (R249): Synchronising load that waits for a full word and leaves or takes it. -/
  | lds (d : BitVec 5) (a : BitVec 5) (m : BitVec 2) (s : BitVec 3)
  /-- STS (R249): Synchronising store that fills an empty word or sets the word full or empty. -/
  | sts (b : BitVec 5) (a : BitVec 5) (m : BitVec 2) (s : BitVec 3)
  /-- TPF (R250): Asks the CTU to hold the translation of an address, without fault. -/
  | tpf (a : BitVec 5) (i : BitVec 11)
  /-- AMO (R251): Reads a 64-bit word and writes it with the selected operation in one step at its home. -/
  | amo (d : BitVec 5) (a : BitVec 5) (b : BitVec 5) (s : BitVec 3) (o : BitVec 2) (f : BitVec 4)
  /-- CAS (R252): Compares a word with rs3 and writes rs2 on a match, returning the old value. -/
  | cas (d : BitVec 5) (a : BitVec 5) (b : BitVec 5) (e : BitVec 5) (s : BitVec 2) (o : BitVec 2)
  /-- FENCE (R254): Refills the stream buffer and at wider scopes parks until earlier stores are performed. -/
  | fence (s : BitVec 3)
  /-- XFENCE (R227): Holds later accesses on path b until earlier accesses on path a are performed. -/
  | xfence (a : BitVec 3) (b : BitVec 3)
  /-- MWATCH (R287): Reads a word and arms the strand's watch on it in one step at its home. -/
  | mwatch (d : BitVec 5) (a : BitVec 5)
  /-- MWAIT (R288): Waits until the strand's watch fires, or for a timed limit. -/
  | mwait (d : BitVec 5) (t : BitVec 5)
  /-- MBXWAIT (R285): Waits until the strand's mailbox holds a message and writes the count held. -/
  | mbxwait (d : BitVec 5) (t : BitVec 5)
  /-- MBXPOP (R286): Removes the strand's oldest message into two registers and merges its flags. -/
  | mbxpop (d : BitVec 5) (e : BitVec 5)
  /-- BARRIVE (R292): Arrives at a barrier object as a release and returns the phase. -/
  | barrive (d : BitVec 5) (a : BitVec 5) (s : BitVec 3)
  /-- CPSET (R257): Writes one or two copy shadow geometry registers. -/
  | cpset (a : BitVec 5) (b : BitVec 5) (g : BitVec 4)
  /-- CPGO (R260): Checks and snapshots the shadow set and starts a copy transfer, or reports FULL, BADCFG or BADGEOM. -/
  | cpgo (d : BitVec 5)
  /-- GXPOST (R266): Reads a gather record and posts a gather request to the cluster's gather engine. -/
  | gxpost (d : BitVec 5) (a : BitVec 5)
  /-- TMOV (R268): Moves up to 16 KiB synchronously on the CORE path. -/
  | tmov (d : BitVec 5) (a : BitVec 5) (b : BitVec 5)
  /-- RELOC (R270): Starts a barchan move of a tile of movable class. -/
  | reloc (d : BitVec 5) (a : BitVec 5) (b : BitVec 5) (t : BitVec 3)
  /-- RELOC_RET (R271): Starts the retirement of the slip marks of a tile. -/
  | relocRet (d : BitVec 5) (a : BitVec 5) (t : BitVec 3)
  /-- MSWEEP (R272): Sweeps up to 4,096 words and rewrites stale pointers through slip marks. -/
  | msweep (d : BitVec 5) (a : BitVec 5) (b : BitVec 5)
  /-- FADD (R111): Delivers round(rs1 + rs2). -/
  | fadd (d : BitVec 5) (a : BitVec 5) (b : BitVec 5) (r : BitVec 3) (f : BitVec 2)
  /-- FSUB (R111): Delivers round(rs1 − rs2). -/
  | fsub (d : BitVec 5) (a : BitVec 5) (b : BitVec 5) (r : BitVec 3) (f : BitVec 2)
  /-- FMUL (R111): Delivers round(rs1 × rs2). -/
  | fmul (d : BitVec 5) (a : BitVec 5) (b : BitVec 5) (r : BitVec 3) (f : BitVec 2)
  /-- FDIV (R111): Delivers round(rs1 / rs2). -/
  | fdiv (d : BitVec 5) (a : BitVec 5) (b : BitVec 5) (r : BitVec 3) (f : BitVec 2)
  /-- FSQRT (R111): Delivers round(√rs1). -/
  | fsqrt (d : BitVec 5) (a : BitVec 5) (r : BitVec 3) (f : BitVec 2)
  /-- FMA (R112): Delivers round(rs1 × rs2 + rs3) with one rounding. -/
  | fma (d : BitVec 5) (a : BitVec 5) (b : BitVec 5) (c : BitVec 5) (f : BitVec 1) (r : BitVec 3)
  /-- FNMA (R112): Delivers round(−(rs1 × rs2) + rs3) with one rounding. -/
  | fnma (d : BitVec 5) (a : BitVec 5) (b : BitVec 5) (c : BitVec 5) (f : BitVec 1) (r : BitVec 3)
  /-- FMIN (R113): Delivers the minimum, number-preferring or NaN-propagating. -/
  | fmin (d : BitVec 5) (a : BitVec 5) (b : BitVec 5) (f : BitVec 2) (p : BitVec 1)
  /-- FMAX (R113): Delivers the maximum, number-preferring or NaN-propagating. -/
  | fmax (d : BitVec 5) (a : BitVec 5) (b : BitVec 5) (f : BitVec 2) (p : BitVec 1)
  /-- FCMP (R114): Writes 1 to an x register if the EQ, LT, LE or UN condition holds. -/
  | fcmp (d : BitVec 5) (a : BitVec 5) (b : BitVec 5) (f : BitVec 2) (c : BitVec 2)
  /-- FCLASS (R115): Writes the class code of an FP value. -/
  | fclass (d : BitVec 5) (a : BitVec 5) (f : BitVec 2)
  /-- FCVT (R116): Converts between FP formats. -/
  | fcvt (d : BitVec 5) (a : BitVec 5) (r : BitVec 3) (f : BitVec 2) (s : BitVec 2)
  /-- FCVTI (R116): Converts an FP value to an integer with saturation. -/
  | fcvti (d : BitVec 5) (a : BitVec 5) (r : BitVec 3) (f : BitVec 2) (w : BitVec 1) (u : BitVec 1)
  /-- FCVTF (R116): Converts an integer to an FP value. -/
  | fcvtf (d : BitVec 5) (a : BitVec 5) (r : BitVec 3) (f : BitVec 2) (w : BitVec 1) (u : BitVec 1)
  /-- FMV (R117): Moves bits between f and x registers or between f registers. -/
  | fmv (d : BitVec 5) (a : BitVec 5) (f : BitVec 2) (s : BitVec 2)
  /-- FSGNJ (R117): Writes rs1 with a sign taken from rs2 by the sub-op. -/
  | fsgnj (d : BitVec 5) (a : BitVec 5) (b : BitVec 5) (f : BitVec 2) (s : BitVec 2)
  /-- FEXP (R85): Delivers the correctly rounded exponential. -/
  | fexp (d : BitVec 5) (a : BitVec 5) (r : BitVec 3) (f : BitVec 1)
  /-- FLOG (R85): Delivers the correctly rounded natural logarithm. -/
  | flog (d : BitVec 5) (a : BitVec 5) (r : BitVec 3) (f : BitVec 1)
  /-- FERF (R85): Delivers the correctly rounded error function. -/
  | ferf (d : BitVec 5) (a : BitVec 5) (r : BitVec 3) (f : BitVec 1)
  /-- FAPX (R87): Delivers a pinned approximate function selected by sub-op at the FNVER version. -/
  | fapx (d : BitVec 5) (a : BitVec 5) (r : BitVec 3) (f : BitVec 2) (s : BitVec 3)
  /-- VADD (R123): Adds lanes, wrapping or saturating for integers. -/
  | vadd (d : BitVec 5) (a : BitVec 5) (b : BitVec 5) (p : BitVec 3) (t : BitVec 3) (r : BitVec 3)
  /-- VSUB (R123): Subtracts lanes. -/
  | vsub (d : BitVec 5) (a : BitVec 5) (b : BitVec 5) (p : BitVec 3) (t : BitVec 3) (r : BitVec 3)
  /-- VMUL (R123): Multiplies lanes, low or high half for integers. -/
  | vmul (d : BitVec 5) (a : BitVec 5) (b : BitVec 5) (p : BitVec 3) (t : BitVec 3) (r : BitVec 3)
  /-- VFMA (R119): Lane-wise fused multiply-add into vd. -/
  | vfma (d : BitVec 5) (a : BitVec 5) (b : BitVec 5) (p : BitVec 3) (t : BitVec 3) (r : BitVec 3)
  /-- VMIN (R123): Lane-wise minimum. -/
  | vmin (d : BitVec 5) (a : BitVec 5) (b : BitVec 5) (p : BitVec 3) (t : BitVec 3) (r : BitVec 3)
  /-- VMAX (R123): Lane-wise maximum. -/
  | vmax (d : BitVec 5) (a : BitVec 5) (b : BitVec 5) (p : BitVec 3) (t : BitVec 3) (r : BitVec 3)
  /-- VBIT (R124): Lane-wise AND, OR, XOR, ANDN or POPC. -/
  | vbit (d : BitVec 5) (a : BitVec 5) (b : BitVec 5) (p : BitVec 3) (t : BitVec 3) (v : BitVec 3)
  /-- VSH (R124): Lane-wise shifts by per-lane amounts. -/
  | vsh (d : BitVec 5) (a : BitVec 5) (b : BitVec 5) (p : BitVec 3) (t : BitVec 3) (v : BitVec 3)
  /-- VCMP (R125): Writes a predicate from a lane-wise comparison. -/
  | vcmp (c : BitVec 2) (q : BitVec 3) (a : BitVec 5) (b : BitVec 5) (p : BitVec 3) (t : BitVec 3) (v : BitVec 3)
  /-- VSEL (R126): Selects lanes of vs1 or vs2 by a selector predicate. -/
  | vsel (d : BitVec 5) (a : BitVec 5) (b : BitVec 5) (p : BitVec 3) (t : BitVec 3) (s : BitVec 3)
  /-- VCVT (R127): Converts lanes between types using part q. -/
  | vcvt (d : BitVec 5) (a : BitVec 5) (q : BitVec 2) (s : BitVec 3) (p : BitVec 3) (t : BitVec 3) (r : BitVec 3)
  /-- VFUN (R128): Applies the selected function to each active lane. -/
  | vfun (d : BitVec 5) (a : BitVec 5) (f : BitVec 5) (p : BitVec 3) (t : BitVec 3) (r : BitVec 3)
  /-- VRED (R129): Reduces active lanes in a fixed tree into lane 0. -/
  | vred (d : BitVec 5) (a : BitVec 5) (o : BitVec 5) (p : BitVec 3) (t : BitVec 3) (v : BitVec 3)
  /-- VSPLAT (R130): Writes a scalar register to each active lane. -/
  | vsplat (d : BitVec 5) (a : BitVec 5) (p : BitVec 3) (t : BitVec 3) (r : BitVec 3)
  /-- VPERM (R130): Permutes lanes of a table register by indices. -/
  | vperm (d : BitVec 5) (a : BitVec 5) (b : BitVec 5) (p : BitVec 3) (t : BitVec 3) (v : BitVec 3)
  /-- VEXTR (R130): Extracts one lane to an x or f register. -/
  | vextr (d : BitVec 5) (a : BitVec 5) (b : BitVec 5) (t : BitVec 3) (v : BitVec 3)
  /-- VHASH (R131): Writes counter-based hashes of lane indices under a key. -/
  | vhash (d : BitVec 5) (a : BitVec 5) (b : BitVec 5) (p : BitVec 3) (v : BitVec 3)
  /-- VBMAND (R132): ANDs bitmap words and writes a nonempty mask predicate. -/
  | vbmand (d : BitVec 5) (a : BitVec 5) (b : BitVec 5) (p : BitVec 3) (q : BitVec 3)
  /-- VPFX (R133): Writes exclusive or inclusive prefix popcounts. -/
  | vpfx (d : BitVec 5) (a : BitVec 5) (p : BitVec 3) (v : BitVec 3)
  /-- VISECT (R134): Writes the value positions of matching set bits of a bitmap word pair. -/
  | visect (d : BitVec 5) (a : BitVec 5) (b : BitVec 5) (p : BitVec 3) (q : BitVec 2)
  /-- VDOT (R135): Accumulates narrow-lane dot products into 32-bit lanes. -/
  | vdot (d : BitVec 5) (a : BitVec 5) (b : BitVec 5) (p : BitVec 3) (t : BitVec 3) (v : BitVec 3)
  /-- CXLOAD (R170): Loads and checks a complex descriptor into a slot. -/
  | cxload (s : BitVec 2) (x : BitVec 5) (d : BitVec 5)
  /-- CXEDIT (R173): Applies an edit record to a loaded slot and bumps its generation. -/
  | cxedit (s : BitVec 2) (x : BitVec 5) (d : BitVec 5)
  /-- CXINFO (R174): Writes slot, landing or register information selected by a selector. -/
  | cxinfo (c : BitVec 4) (x : BitVec 5) (d : BitVec 5) (s : BitVec 5) (g : BitVec 4)
  /-- CXINFO_SETEXP (R174): Sets the EXP field of a CI64 cochain register. -/
  | cxinfoSetexp (c : BitVec 4) (x : BitVec 5)
  /-- CBIND (R175): Fills a cochain register from a slot, a data base and a ghost base. -/
  | cbind (c : BitVec 4) (x : BitVec 5) (g : BitVec 5) (f : BitVec 2) (u : BitVec 1) (e : BitVec 2) (s : BitVec 2)
  /-- CQ (R177): Quantises a float cochain into CI64. -/
  | cq (c : BitVec 4) (a : BitVec 4) (r : BitVec 3)
  /-- CDQ (R177): Converts a CI64 cochain to float. -/
  | cdq (c : BitVec 4) (a : BitVec 4) (r : BitVec 3)
  /-- DEXT (R178): Computes the exterior derivative of a cochain. -/
  | dext (c : BitVec 4) (a : BitVec 4) (r : BitVec 3)
  /-- DCOB (R178): Computes the coboundary sum over cofaces. -/
  | dcob (c : BitVec 4) (a : BitVec 4) (r : BitVec 3)
  /-- HSTAR (R179): Applies the Hodge star or its inverse with metric weights. -/
  | hstar (c : BitVec 4) (a : BitVec 4) (r : BitVec 3)
  /-- WEDGE (R181): Computes the cup product of two cochains. -/
  | wedge (c : BitVec 4) (a : BitVec 4) (b : BitVec 4) (r : BitVec 3) (s : BitVec 7)
  /-- INTERP (R180): Evaluates the Whitney interpolant at top-cell barycentres. -/
  | interp (c : BitVec 4) (a : BitVec 4) (r : BitVec 3) (n : BitVec 2)
  /-- CLIN (R182): Computes α × ca + β × cb elementwise. -/
  | clin (c : BitVec 4) (a : BitVec 4) (b : BitVec 4) (r : BitVec 3) (p : BitVec 4) (q : BitVec 4)
  /-- CSEAM_SEND (R184): Sends every seam value of a cochain to the cores holding ghosts. -/
  | cseamSend (c : BitVec 4) (l : BitVec 4)
  /-- CSEAM_RELEASE (R183): Empties every ghost word of a cochain register. -/
  | cseamRelease (c : BitVec 4)
  /-- CSEAM_LAND (R183): Copies a register's fields into a landing register and makes it VALID. -/
  | cseamLand (c : BitVec 4) (l : BitVec 4)
  /-- CRED (R185): Sums the owned elements of a cochain, optionally weighted. -/
  | cred (c : BitVec 4) (x : BitVec 5) (d : BitVec 5) (r : BitVec 3) (w : BitVec 1)
  /-- MCFG (R195): Reads and optionally writes a matrix configuration field. -/
  | mcfg (d : BitVec 5) (a : BitVec 5) (s : BitVec 3)
  /-- MMA (R197): Enqueues a matrix multiply-accumulate into an accumulator. -/
  | mma (n : BitVec 1) (k : BitVec 4) (a : BitVec 5) (b : BitVec 5) (t : BitVec 3) (r : BitVec 3) (s : BitVec 2)
  /-- MCONST (R203): Enqueues a multiply by a constant matrix. -/
  | mconst (n : BitVec 1) (k : BitVec 4) (a : BitVec 5) (b : BitVec 5) (t : BitVec 3) (r : BitVec 3) (c : BitVec 2) (e : BitVec 1)
  /-- MACC_ZERO (R204): Enqueues zeroing of an accumulator. -/
  | maccZero (n : BitVec 1) (k : BitVec 4)
  /-- MACC_LOAD (R204): Enqueues a load of an accumulator from memory. -/
  | maccLoad (n : BitVec 1) (k : BitVec 4) (a : BitVec 5) (f : BitVec 3)
  /-- MACC_STORE (R204): Enqueues a store of an accumulator to memory on the MATRIX path. -/
  | maccStore (n : BitVec 1) (k : BitVec 4) (a : BitVec 5) (r : BitVec 3) (f : BitVec 3)
  /-- MACC_ADD (R204): Enqueues an elementwise add of two accumulators. -/
  | maccAdd (n : BitVec 1) (k : BitVec 4) (j : BitVec 4) (r : BitVec 3) (f : BitVec 3)
  /-- RTDEF (R208): Checks a routine record and copies it into a handle. -/
  | rtdef (h : BitVec 4) (a : BitVec 5)
  /-- HFOLD (R212): Starts a fold of a routine over a stream on an engine. -/
  | hfold (d : BitVec 5) (a : BitVec 5) (h : BitVec 4) (e : BitVec 2)
  /-- HSCAN (R212): Starts a scan of a routine over a stream on an engine. -/
  | hscan (d : BitVec 5) (a : BitVec 5) (h : BitVec 4) (e : BitVec 2)
  /-- HZIP (R212): Starts an elementwise application of a routine over streams. -/
  | hzip (d : BitVec 5) (a : BitVec 5) (h : BitVec 4) (e : BitVec 2)
  /-- HOUTER (R212): Starts an outer application of a routine over two streams. -/
  | houter (d : BitVec 5) (a : BitVec 5) (h : BitVec 4) (e : BitVec 2)
  /-- COLPUT (R306): Sends the core's contribution to a collective group and opens a round. -/
  | colput (d : BitVec 5) (v : BitVec 5) (g : BitVec 6)
  /-- COLGET (R308): Waits for and collects the result of the core's open round. -/
  | colget (d : BitVec 5) (g : BitVec 6)
  /-- SSYNC (R302): Drains the core, arrives at the superstep and waits for the commit. -/
  | ssync (d : BitVec 5) (a : BitVec 5)
  /-- LAUNCH (R299): Starts a launch from a launch record and returns a ticket. -/
  | launch (d : BitVec 5) (a : BitVec 5)
  /-- LAUNCH_QUERY (R299): Returns the completion counter of a level. -/
  | launchQuery (d : BitVec 5) (a : BitVec 5) (l : BitVec 2)
  /-- LAUNCH_JOB (R342): Starts a job from a job record on the cores of its core table. -/
  | launchJob (d : BitVec 5) (a : BitVec 5)
  /-- CANCEL (R300): Cancels the launches a level covers and their DEFER successors. -/
  | cancel (d : BitVec 5) (a : BitVec 5) (l : BitVec 2)
  /-- CSRRW (R345): Exchanges a CSR with a register. -/
  | csrrw (d : BitVec 5) (a : BitVec 5) (n : BitVec 14)
  /-- CSRRS (R345): Reads a CSR and sets the given bits. -/
  | csrrs (d : BitVec 5) (a : BitVec 5) (n : BitVec 14)
  /-- CSRRC (R345): Reads a CSR and clears the given bits. -/
  | csrrc (d : BitVec 5) (a : BitVec 5) (n : BitVec 14)
  /-- CTUINV (R346): Drops translation entries in the reach and parks until accesses that used them are performed. -/
  | ctuinv (a : BitVec 5) (b : BitVec 5) (r : BitVec 3) (k : BitVec 2)
  /-- BOOT (R376): The mask ROM reads, verifies and measures the firmware image and starts it or the recovery loader. -/
  | boot (image : List Byte) (number : BitVec 10)
  /-- RECOVERY_IMAGE_RECEIVE (R376): The recovery loader receives an image over the management port and checks it. -/
  | recoveryImageReceive (image : List Byte)
  /-- ATTESTATION_REQUEST (R377): Answers a nonce with the measurement log and an LMS signature, advancing the leaf counter. -/
  | attestationRequest (nonce : List Byte)
  /-- JUNCTION_TRIP (R378): A die reaching 105 °C stops the module and logs the cause. -/
  | junctionTrip (die : Nat)
  /-- UNIT_DISPATCH (R298): The dispatcher places a unit of a queued launch on a free strand of its core set. -/
  | unitDispatch (job : Nat)
  /-- MATRIX_WAIT_EXPIRY (R200): A matrix command waiting on a gathered block or sprue slot beyond WLIM completes with WAITTO. -/
  | matrixWaitExpiry (core : Nat)
  /-- POSTED_STORE_MOVE (R220): An entry of the posted-store queue moves into the CORE path queue. -/
  | postedStoreMove (core : Nat) (k : Nat)
  /-- HOME_PERFORM (R221): A home performs the oldest access that a path queue holds for it. -/
  | homePerform (core : Nat) (seq : Nat) (peer : List Byte) (code : Nat)
  /-- RETRY_LIST_RETRY (R231): After a full/empty change the home retries waiting entries oldest first. -/
  | retryListRetry (k : Nat)
  /-- SLIP_MARK_HOP (R236): An access answered at a slip mark is sent again with D added, counting one hop. -/
  | slipMarkHop (core : Nat) (seq : Nat)
  /-- CTU_WALK_COMPLETE (R327): A page-table walk finishes and serves the lookups that joined it, or faults. -/
  | ctuWalkComplete (cluster : Nat) (k : Nat)
  /-- RELOC_BEGIN (R235): The old home marks the tile MOVING, or the move is refused. -/
  | relocBegin (core : Nat) (id : Nat)
  /-- RELOC_COPY (R235): The barchan copies each word with its full/empty bit and poison to the new place. -/
  | relocCopy (core : Nat) (id : Nat)
  /-- RELOC_INSTALL (R235): Once the copy writes are performed the old home writes slip marks and forwards its retry list. -/
  | relocInstall (core : Nat) (id : Nat)
  /-- RELOC_COMPLETION (R270): The barchan posts the move's message with OFFSET = D. -/
  | relocCompletion (core : Nat) (id : Nat)
  /-- RELOC_RETIREMENT_STEP (R271): The barchan replaces every slip mark of a tile with zero in one step. -/
  | relocRetirementStep (core : Nat) (id : Nat)
  /-- COPY_ROW (R262): The copy engine checks a row and moves or converts its bytes on the COPY path. -/
  | copyRow (core : Nat) (id : Nat) (src : Nat) (dst : Nat)
  /-- COPY_COMPLETION (R264): A copy transfer ends and posts its completion message. -/
  | copyCompletion (core : Nat) (id : Nat)
  /-- GATHER_ROW (R267): The gather engine reads an index and copies one row. -/
  | gatherRow (core : Nat) (id : Nat) (src : Nat) (dst : Nat)
  /-- GATHER_MARK (R267): After all other writes are performed the gather writes row 0's first word as write-set-full. -/
  | gatherMark (core : Nat) (id : Nat)
  /-- GATHER_COMPLETION (R267): A gather ends, signals its event line if asked and posts a message when due. -/
  | gatherCompletion (core : Nat) (id : Nat)
  /-- MAILBOX_PLACE (R283): A held message is placed in a free reserved or shared mailbox entry. -/
  | mailboxPlace (core : Nat)
  /-- MATRIX_TILE_STEP (R192): The arbiter grants a core one tile step of its head command. -/
  | matrixTileStep (cluster : Nat)
  /-- SPRUE_HOP (R201): A published tile enters an empty sprue slot with its use count and passes on. -/
  | sprueHop (cluster : Nat) (k : Nat)
  /-- HOT_OPERATION_COMPLETION (R212): A higher-order operation ends and posts its message. -/
  | hotOperationCompletion (core : Nat) (engine : Bool) (id : Nat) (elem : Nat) (code : Nat)
  /-- COLLECTIVE_COMBINE (R305): A router combines one contribution from each child port and sends it toward the root. -/
  | collectiveCombine (core : Nat) (group : Nat)
  /-- COLLECTIVE_RESULT_ARRIVAL (R305): A round's result arrives at a contributing core. -/
  | collectiveResultArrival (core : Nat) (group : Nat)
  /-- COLLECTIVE_QUEUE_RECORD (R333): In host-assisted mode a contribution is written to the fault queue once records are free. -/
  | collectiveQueueRecord (core : Nat) (group : Nat)
  /-- COLLECTIVE_GO (R333): A store of GO = 1 makes the root send the kernel's result down the tree. -/
  | collectiveGo (core : Nat) (seq : Nat)
  /-- GROUP_TABLE_WRITE (R305): A store to a collective group table entry, refused if it breaks the limits. -/
  | groupTableWrite (core : Nat) (seq : Nat)
  /-- CHAN_SEND (R293): A store to a SEND offset appends an entry to a channel queue, waiting while it is full. -/
  | chanSend (core : Nat) (seq : Nat)
  /-- CHAN_ENTRY_WRITE (R293): A channel entry arrives at the target queue and is written. -/
  | chanEntryWrite (core : Nat) (seq : Nat)
  /-- CHAN_RECV (R293): A load of RECV waits while the queue is empty, then returns TAIL. -/
  | chanRecv (core : Nat) (seq : Nat)
  /-- CHAN_HEAD_WRITE (R355): A store to HEAD frees entries, or traps #CHAN beyond the entries written. -/
  | chanHeadWrite (core : Nat) (seq : Nat)
  /-- CHAN_CFG_WRITE (R355): A store to CFG enables or configures a queue, or traps #CHAN. -/
  | chanCfgWrite (core : Nat) (seq : Nat)
  /-- SEAM_QUEUE_TAKE (R184): The incidence unit takes a seam message and issues its write-when-empty, or records a mismatch. -/
  | seamQueueTake (core : Nat) (queue : Nat)
  /-- BARRIER_CFG_WRITE (R289): A store to a barrier CFG writes it and resets PHASE and ARRIVED. -/
  | barrierCfgWrite (core : Nat) (seq : Nat)
  /-- BARRIER_CHILD_ARRIVAL (R291): A child object's arrival reaches its parent object. -/
  | barrierChildArrival (cluster : Nat) (obj : Nat)
  /-- BARRIER_PARENT_FLIP (R291): A parent's flip reaches a holding child, which clears HOLD and flips. -/
  | barrierParentFlip (cluster : Nat) (obj : Nat)
  /-- PHASE_WAIT (R289): A load of a phase-wait word waits until the phase changes. -/
  | phaseWait (core : Nat) (seq : Nat)
  /-- MUTEX_ACQUIRE (R289): A load of a mutex word waits while held, then holds it. -/
  | mutexAcquire (core : Nat) (seq : Nat)
  /-- MUTEX_RELEASE (R289): A store to a mutex word releases it. -/
  | mutexRelease (core : Nat) (seq : Nat)
  /-- EVENT_LINE_WAIT (R289): A load of an event line waits while COUNT = 0, then decrements it. -/
  | eventLineWait (core : Nat) (seq : Nat)
  /-- EVENT_LINE_SIGNAL (R289): A store to an event line adds to COUNT. -/
  | eventLineSignal (core : Nat) (seq : Nat)
  /-- EVENT_PEEK_SET (R289): A store to an event line's peek word sets COUNT. -/
  | eventPeekSet (core : Nat) (seq : Nat)
  /-- SCHEDULE_CHOICE (R303): Once arrivals are complete the root chooses the schedule of least predicted time. -/
  | scheduleChoice (job : Nat)
  /-- POUR_BEGIN (R304): The pour begins at the third 128-cycle window after the last arrival. -/
  | pourBegin (job : Nat)
  /-- POUR_ENTRY_SEND (R304): A pour plan entry sends its words starting at its SLOT. -/
  | pourEntrySend (job : Nat) (k : Nat)
  /-- POUR_DELIVERY_STAGE (R304): A pour delivery is staged at its target, not yet visible. -/
  | pourDeliveryStage (job : Nat) (k : Nat)
  /-- SSYNC_COMMIT (R304): Each core writes its staged words, fills ghosts and returns SSYNC. -/
  | ssyncCommit (job : Nat)
  /-- JOB_END (R405): A job ends when its counters, units and engines are done, clearing slots, landings, queues and accumulators. -/
  | jobEnd (job : Nat)
  /-- ANSA_RESUME (R334): A store of 1 to ANSA resumes a forwarded strand with x10 := ANSV. -/
  | ansaResume (core : Nat) (seq : Nat)
  /-- ANSA_END (R334): A store of 2 to ANSA ends the forwarded strand's unit. -/
  | ansaEnd (core : Nat) (seq : Nat)
  /-- ENGACT_RETRY (R334): Action 01 resumes a parked engine operation from the same byte. -/
  | engactRetry (core : Nat) (seq : Nat)
  /-- ENGACT_END (R334): Action 10 ends a parked engine operation with status PF. -/
  | engactEnd (core : Nat) (seq : Nat)
  /-- PCTL_NOTICE (R335): Sets IPEND.PRE on every strand of the core. -/
  | pctlNotice (core : Nat) (seq : Nat)
  /-- PCTL_PREEMPT (R336): Starts the save of the core's context. -/
  | pctlPreempt (core : Nat) (seq : Nat)
  /-- CORE_SAVE_COMPLETE (R336): After drains the context is written, PSTATE becomes SAVED and a KIND 2 record is written. -/
  | coreSaveComplete (core : Nat)
  /-- PCTL_RESUME (R338): Reloads the saved context and starts draining the spill queue. -/
  | pctlResume (core : Nat) (seq : Nat)
  /-- PCTL_WITHDRAW (R335): Clears IPEND.PRE. -/
  | pctlWithdraw (core : Nat) (seq : Nat)
  /-- SPILL_DRAIN (R338): A spilled entry enters its queue or mailbox once it fits. -/
  | spillDrain (core : Nat)
  /-- EXTINT_WRITE (R335): Sets IPEND.EXT for each strand named in the store. -/
  | extintWrite (core : Nat) (seq : Nat)
  /-- ICMD_INSERT (R341): Inserts a leaf entry into a cluster's CTU. -/
  | icmdInsert (core : Nat) (seq : Nat)
  /-- ICMD_MSTORE (R341): Writes a word at its home without chasing slip marks. -/
  | icmdMstore (core : Nat) (seq : Nat)
  /-- REGISTER_WRITE (R318): A store to a privileged register that has no behaviour of its own. -/
  | registerWrite (core : Nat) (seq : Nat)
  /-- GATEWAY_REQUEST (R328): A target gateway checks key, translation and permission of a peer request and performs or refuses it. -/
  | gatewayRequest (die : Nat) (src : Nat) (hub : Bool) (strand : Nat) (path : Nat) (key : BitVec 24) (va : Word) (len : Nat) (op : Nat) (data : List Byte)
  /-- TC1_ANNOUNCE (R310): A source gateway announces bytes ready for a receiver. -/
  | tc1Announce (port : Nat) (receives : Bool) (peer : Nat) (bytes : Nat)
  /-- TC1_GRANT (R310): A receiver gateway grants 4 KiB units in round-robin order. -/
  | tc1Grant (port : Nat) (receives : Bool) (peer : Nat)
  /-- LINK_FRAME_SEND (R369): A sender transmits a frame and keeps it in the retry buffer. -/
  | linkFrameSend (port : Nat) (kind : Nat) (tc : Traffic) (peer : Nat) (data : List Byte)
  /-- LINK_FRAME_RECEIVE (R369): A receiver accepts an in-order frame with good CRC, or discards it and NAKs; slot returns and NAK resends follow. -/
  | linkFrameReceive (port : Nat) (good : Bool) (bytes : List Byte)
  /-- LINK_REPLAY_LIMIT (R369): A frame sent 16 times unacknowledged starts retraining and logs event 0x07. -/
  | linkReplayLimit (port : Nat)
  /-- PHY_LOCK_LOSS (R371): Loss of PHY lock starts retraining. -/
  | phyLockLoss (port : Nat)
  /-- PHY_TRAIN_COMPLETE (R371): The PHY trains at the target speed and the handshake begins. -/
  | phyTrainComplete (port : Nat)
  /-- HELLO_SEND (R372): Every 1,024 cycles an end sends HELLO until it has the peer's LID. -/
  | helloSend (port : Nat)
  /-- HELLO_RECEIVE (R372): Receipt of the peer's LID; the lower end sends OFFER. -/
  | helloReceive (port : Nat) (lid : BitVec 32)
  /-- OFFER_RECEIVE (R371): An end receives OFFER and answers with ANSWER. -/
  | offerReceive (port : Nat) (bytes : List Byte)
  /-- ANSWER_RECEIVE (R373): The offering end judges the records and sends CONFIRM or fails the attempt. -/
  | answerReceive (port : Nat) (bytes : List Byte)
  /-- CONFIRM_RECEIVE (R373): The answering end judges the attempt good and restores traffic, or fails it. -/
  | confirmReceive (port : Nat) (bytes : List Byte)
  /-- TRAINING_TIMEOUT (R373): No final handshake frame within 2^20 cycles fails the attempt. -/
  | trainingTimeout (port : Nat)
  /-- LCMD_STEP (R375): Starts the next retraining attempt in host-assisted mode. -/
  | lcmdStep (core : Nat) (seq : Nat)
  /-- LCMD_RETRAIN (R375): Retrains the link at 212.5 Gb/s. -/
  | lcmdRetrain (core : Nat) (seq : Nat)
  /-- LCMD_DOWN (R375): Takes the link down. -/
  | lcmdDown (core : Nat) (seq : Nat)
  /-- PCIE_INBOUND_MEMORY_REQUEST (R24): A device memory request is matched, translated and performed, or completed with Unsupported Request. -/
  | pcieInboundMemoryRequest (root : Nat) (rid : Nat) (addr : Word) (write : Bool) (poisoned : Bool) (len : Nat) (data : List Byte)
  /-- MSI_MESSAGE (R26): A 4-byte write to the interrupt window sets a vector's PEND and the target's IPEND.EXT. -/
  | msiMessage (root : Nat) (rid : Nat) (addr : Word) (data : BitVec 32)
  /-- VSTAT_CLEAR (R26): A store of 0 to VSTAT clears a vector's PEND. -/
  | vstatClear (core : Nat) (seq : Nat)
  /-- PCIE_COMPLETION (R25): A completion for a control core's load or non-posted store arrives. -/
  | pcieCompletion (root : Nat) (k : Nat) (ok : Bool) (poisoned : Bool) (data : List Byte)
  /-- PCIE_COMPLETION_TIMEOUT (R25): No completion within 50 ms returns all ones and logs cause 7. -/
  | pcieCompletionTimeout (root : Nat) (k : Nat)
  /-- RPCMD_RETRAIN (R24): Retrains the root port's link. -/
  | rpcmdRetrain (core : Nat) (seq : Nat)
  /-- RPCMD_HOT_RESET (R24): Hot-resets the port's hierarchy. -/
  | rpcmdHotReset (core : Nat) (seq : Nat)
  /-- RPCMD_DISABLE (R24): Disables the root port's link. -/
  | rpcmdDisable (core : Nat) (seq : Nat)
  /-- RPCMD_ENABLE (R24): Enables the root port's link. -/
  | rpcmdEnable (core : Nat) (seq : Nat)
  /-- SCRUB_LINE (R360): A home slice reads and checks an HBM line and writes back corrections. -/
  | scrubLine (slice : Nat) (off : Nat)
  /-- SUPERSTEP_REPLAY (R364): An uncorrectable error in a DET compute phase restores the recorded state and reruns the phase. -/
  | superstepReplay (job : Nat)
  /-- RESERVED_OPCODE (R57): A strand issues a word whose primary opcode is 0x00 or 0x91 to 0xFF and traps #ILL with TVAL2 holding the word. -/
  | reservedOpcode (word : Word32)
  /-- ROOT_PORT_LINK_UP (R24): A root port's link training completes and RPSTAT passes from training to up with its negotiated width and rate. -/
  | rootPortLinkUp (root : Nat) (width : Nat) (rate : Nat)
  /-- ROOT_PORT_LINK_LOSS (R24): A root port's link is lost from the device side and RPSTAT returns to down. -/
  | rootPortLinkLoss (root : Nat)
  /-- YIELD (R277): Ends the strand's quantum. -/
  | yield
  /-- YIELD_END (R277): Ends the unit that the strand runs. -/
  | yieldEnd
  /-- ECALL (R344): Traps in U mode, forwards a fault in S mode on a compute strand, or traps to M mode on a control core. -/
  | ecall
  /-- EBREAK (R344): Traps #BRK. -/
  | ebreak
  /-- ERET (R344): Returns from a trap to EPC and the saved mode. -/
  | eret
  /-- WFI (R344): Parks until an enabled interrupt is pending. -/
  | wfi
  /-- MODULE_RESET (R36): Resets every register file, CSR and slot to its reset value. -/
  | moduleReset
  /-- POWER_THROTTLE (R19): A 1 ms power window above the design power makes the matrix units leave tile slots empty. -/
  | powerThrottle
  /-- QUANTUM_END (R275): The running strand's budget no longer fits the next instruction and it gives up the core. -/
  | quantumEnd
  /-- TIMECMP_MATCH (R343): TIME reaching TIMECMP makes the timer interrupt pending. -/
  | timecmpMatch
  /-- INTERRUPT_TAKE (R343): An enabled pending interrupt is taken at an instruction boundary. -/
  | interruptTake
  /-- WAIT_LIMIT_EXPIRY (R279): A wait reaching its captured LIMIT is withdrawn and the strand traps #WAITTO. -/
  | waitLimitExpiry
  /-- TIMED_WAIT_EXPIRY (R285): The t cycles of a timed MBXWAIT or MWAIT pass and it returns its timeout value. -/
  | timedWaitExpiry
  /-- DRAIN_COMPLETE (R224): The strand's earlier stores or a fenced path have been performed, so a parked release, SC access, STS or fence proceeds. -/
  | drainComplete
  /-- ACCESS_RESPONSE (R219): The answer to an off-core access returns and the parked strand becomes ready. -/
  | accessResponse
  /-- CANCEL_RETURN (R300): CANCEL returns once every unit it stopped has ended. -/
  | cancelReturn
  /-- FAULT_QUEUE_ENTRY (R331): A parked forward writes its record once a fault queue entry frees. -/
  | faultQueueEntry
  /-- COOLANT_LIMIT_STOP (R378): Coolant inlet temperature or flow outside its limits makes the management controller stop the module and log the cause. -/
  | coolantLimitStop
  deriving DecidableEq, Repr

end Sys2Proof
end

