-- ==== Sys2Proof/Decode.lean ====
section
/-! DEFINITION. The decoder of instruction words, and after it the encoder. -/

namespace Sys2Proof

/-- Why a word or a string of bytes is no instruction. -/
inductive DecodeError where
  /-- The opcode is assigned, and a fixed field of every one of its rows holds another value (R58). -/
  | noRow (w : Word32)
  /-- Fewer than four bytes are left. -/
  | truncated
  deriving DecidableEq, Repr


/-- Opcode 0x01 (R98): ADD. -/
def decodeOp01 (w : Word32) : Except DecodeError Instr :=
  if w.extractLsb' 0 1 = 0#1 ∧ w.extractLsb' 2 7 = 0#7 then
    .ok (.add (w.extractLsb' 19 5) (w.extractLsb' 14 5) (w.extractLsb' 9 5) (w.extractLsb' 1 1))
  else
  .error (.noRow w)

/-- Opcode 0x02 (R98): SUB. -/
def decodeOp02 (w : Word32) : Except DecodeError Instr :=
  if w.extractLsb' 0 1 = 0#1 ∧ w.extractLsb' 2 7 = 0#7 then
    .ok (.sub (w.extractLsb' 19 5) (w.extractLsb' 14 5) (w.extractLsb' 9 5) (w.extractLsb' 1 1))
  else
  .error (.noRow w)

/-- Opcode 0x03 (R98): AND. -/
def decodeOp03 (w : Word32) : Except DecodeError Instr :=
  if w.extractLsb' 0 1 = 0#1 ∧ w.extractLsb' 2 7 = 0#7 then
    .ok (.and (w.extractLsb' 19 5) (w.extractLsb' 14 5) (w.extractLsb' 9 5) (w.extractLsb' 1 1))
  else
  .error (.noRow w)

/-- Opcode 0x04 (R98): OR. -/
def decodeOp04 (w : Word32) : Except DecodeError Instr :=
  if w.extractLsb' 0 1 = 0#1 ∧ w.extractLsb' 2 7 = 0#7 then
    .ok (.or (w.extractLsb' 19 5) (w.extractLsb' 14 5) (w.extractLsb' 9 5) (w.extractLsb' 1 1))
  else
  .error (.noRow w)

/-- Opcode 0x05 (R98): XOR. -/
def decodeOp05 (w : Word32) : Except DecodeError Instr :=
  if w.extractLsb' 0 1 = 0#1 ∧ w.extractLsb' 2 7 = 0#7 then
    .ok (.xor (w.extractLsb' 19 5) (w.extractLsb' 14 5) (w.extractLsb' 9 5) (w.extractLsb' 1 1))
  else
  .error (.noRow w)

/-- Opcode 0x06 (R98): SLL. -/
def decodeOp06 (w : Word32) : Except DecodeError Instr :=
  if w.extractLsb' 0 1 = 0#1 ∧ w.extractLsb' 2 7 = 0#7 then
    .ok (.sll (w.extractLsb' 19 5) (w.extractLsb' 14 5) (w.extractLsb' 9 5) (w.extractLsb' 1 1))
  else
  .error (.noRow w)

/-- Opcode 0x07 (R98): SRL. -/
def decodeOp07 (w : Word32) : Except DecodeError Instr :=
  if w.extractLsb' 0 1 = 0#1 ∧ w.extractLsb' 2 7 = 0#7 then
    .ok (.srl (w.extractLsb' 19 5) (w.extractLsb' 14 5) (w.extractLsb' 9 5) (w.extractLsb' 1 1))
  else
  .error (.noRow w)

/-- Opcode 0x08 (R98): SRA. -/
def decodeOp08 (w : Word32) : Except DecodeError Instr :=
  if w.extractLsb' 0 1 = 0#1 ∧ w.extractLsb' 2 7 = 0#7 then
    .ok (.sra (w.extractLsb' 19 5) (w.extractLsb' 14 5) (w.extractLsb' 9 5) (w.extractLsb' 1 1))
  else
  .error (.noRow w)

/-- Opcode 0x09 (R98): SLT. -/
def decodeOp09 (w : Word32) : Except DecodeError Instr :=
  if w.extractLsb' 2 7 = 0#7 then
    .ok (.slt (w.extractLsb' 19 5) (w.extractLsb' 14 5) (w.extractLsb' 9 5) (w.extractLsb' 1 1) (w.extractLsb' 0 1))
  else
  .error (.noRow w)

/-- Opcode 0x0A (R98): MIN. -/
def decodeOp0A (w : Word32) : Except DecodeError Instr :=
  if w.extractLsb' 2 7 = 0#7 then
    .ok (.min (w.extractLsb' 19 5) (w.extractLsb' 14 5) (w.extractLsb' 9 5) (w.extractLsb' 1 1) (w.extractLsb' 0 1))
  else
  .error (.noRow w)

/-- Opcode 0x0B (R98): MAX. -/
def decodeOp0B (w : Word32) : Except DecodeError Instr :=
  if w.extractLsb' 2 7 = 0#7 then
    .ok (.max (w.extractLsb' 19 5) (w.extractLsb' 14 5) (w.extractLsb' 9 5) (w.extractLsb' 1 1) (w.extractLsb' 0 1))
  else
  .error (.noRow w)

/-- Opcode 0x0C (R98): MUL. -/
def decodeOp0C (w : Word32) : Except DecodeError Instr :=
  if w.extractLsb' 0 1 = 0#1 ∧ w.extractLsb' 2 7 = 0#7 then
    .ok (.mul (w.extractLsb' 19 5) (w.extractLsb' 14 5) (w.extractLsb' 9 5) (w.extractLsb' 1 1))
  else
  .error (.noRow w)

/-- Opcode 0x0D (R98): MULH. -/
def decodeOp0D (w : Word32) : Except DecodeError Instr :=
  if w.extractLsb' 2 7 = 0#7 then
    .ok (.mulh (w.extractLsb' 19 5) (w.extractLsb' 14 5) (w.extractLsb' 9 5) (w.extractLsb' 1 1) (w.extractLsb' 0 1))
  else
  .error (.noRow w)

/-- Opcode 0x0E (R99): DIV. -/
def decodeOp0E (w : Word32) : Except DecodeError Instr :=
  if w.extractLsb' 2 7 = 0#7 then
    .ok (.div (w.extractLsb' 19 5) (w.extractLsb' 14 5) (w.extractLsb' 9 5) (w.extractLsb' 1 1) (w.extractLsb' 0 1))
  else
  .error (.noRow w)

/-- Opcode 0x0F (R99): REM. -/
def decodeOp0F (w : Word32) : Except DecodeError Instr :=
  if w.extractLsb' 2 7 = 0#7 then
    .ok (.rem (w.extractLsb' 19 5) (w.extractLsb' 14 5) (w.extractLsb' 9 5) (w.extractLsb' 1 1) (w.extractLsb' 0 1))
  else
  .error (.noRow w)

/-- Opcode 0x10 (R98): CLZ. -/
def decodeOp10 (w : Word32) : Except DecodeError Instr :=
  if w.extractLsb' 0 1 = 0#1 ∧ w.extractLsb' 2 12 = 0#12 then
    .ok (.clz (w.extractLsb' 19 5) (w.extractLsb' 14 5) (w.extractLsb' 1 1))
  else
  .error (.noRow w)

/-- Opcode 0x11 (R98): CTZ. -/
def decodeOp11 (w : Word32) : Except DecodeError Instr :=
  if w.extractLsb' 0 1 = 0#1 ∧ w.extractLsb' 2 12 = 0#12 then
    .ok (.ctz (w.extractLsb' 19 5) (w.extractLsb' 14 5) (w.extractLsb' 1 1))
  else
  .error (.noRow w)

/-- Opcode 0x12 (R98): POPC. -/
def decodeOp12 (w : Word32) : Except DecodeError Instr :=
  if w.extractLsb' 0 1 = 0#1 ∧ w.extractLsb' 2 12 = 0#12 then
    .ok (.popc (w.extractLsb' 19 5) (w.extractLsb' 14 5) (w.extractLsb' 1 1))
  else
  .error (.noRow w)

/-- Opcode 0x13 (R100): BFX. -/
def decodeOp13 (w : Word32) : Except DecodeError Instr :=
  if w.extractLsb' 0 1 = 0#1 ∧ w.extractLsb' 3 6 = 0#6 then
    .ok (.bfx (w.extractLsb' 19 5) (w.extractLsb' 14 5) (w.extractLsb' 9 5) (w.extractLsb' 2 1) (w.extractLsb' 1 1))
  else
  .error (.noRow w)

/-- Opcode 0x14 (R101): ADDI. -/
def decodeOp14 (w : Word32) : Except DecodeError Instr :=
  .ok (.addi (w.extractLsb' 19 5) (w.extractLsb' 14 5) (w.extractLsb' 0 14))

/-- Opcode 0x15 (R101): ANDI. -/
def decodeOp15 (w : Word32) : Except DecodeError Instr :=
  .ok (.andi (w.extractLsb' 19 5) (w.extractLsb' 14 5) (w.extractLsb' 0 14))

/-- Opcode 0x16 (R101): ORI. -/
def decodeOp16 (w : Word32) : Except DecodeError Instr :=
  .ok (.ori (w.extractLsb' 19 5) (w.extractLsb' 14 5) (w.extractLsb' 0 14))

/-- Opcode 0x17 (R101): XORI. -/
def decodeOp17 (w : Word32) : Except DecodeError Instr :=
  .ok (.xori (w.extractLsb' 19 5) (w.extractLsb' 14 5) (w.extractLsb' 0 14))

/-- Opcode 0x18 (R101): SLLI. -/
def decodeOp18 (w : Word32) : Except DecodeError Instr :=
  .ok (.slli (w.extractLsb' 19 5) (w.extractLsb' 14 5) (w.extractLsb' 0 14))

/-- Opcode 0x19 (R101): SRLI. -/
def decodeOp19 (w : Word32) : Except DecodeError Instr :=
  .ok (.srli (w.extractLsb' 19 5) (w.extractLsb' 14 5) (w.extractLsb' 0 14))

/-- Opcode 0x1A (R101): SRAI. -/
def decodeOp1A (w : Word32) : Except DecodeError Instr :=
  .ok (.srai (w.extractLsb' 19 5) (w.extractLsb' 14 5) (w.extractLsb' 0 14))

/-- Opcode 0x1B (R101): SLTI. -/
def decodeOp1B (w : Word32) : Except DecodeError Instr :=
  .ok (.slti (w.extractLsb' 19 5) (w.extractLsb' 14 5) (w.extractLsb' 0 14))

/-- Opcode 0x1C (R102): LUI. -/
def decodeOp1C (w : Word32) : Except DecodeError Instr :=
  .ok (.lui (w.extractLsb' 19 5) (w.extractLsb' 0 19))

/-- Opcode 0x1D (R102): AUIPC. -/
def decodeOp1D (w : Word32) : Except DecodeError Instr :=
  .ok (.auipc (w.extractLsb' 19 5) (w.extractLsb' 0 19))

/-- Opcode 0x1E (R103): BEQ. -/
def decodeOp1E (w : Word32) : Except DecodeError Instr :=
  .ok (.beq (w.extractLsb' 19 5) (w.extractLsb' 14 5) (w.extractLsb' 0 14))

/-- Opcode 0x1F (R103): BNE. -/
def decodeOp1F (w : Word32) : Except DecodeError Instr :=
  .ok (.bne (w.extractLsb' 19 5) (w.extractLsb' 14 5) (w.extractLsb' 0 14))

/-- Opcode 0x20 (R103): BLT. -/
def decodeOp20 (w : Word32) : Except DecodeError Instr :=
  .ok (.blt (w.extractLsb' 19 5) (w.extractLsb' 14 5) (w.extractLsb' 0 14))

/-- Opcode 0x21 (R103): BGE. -/
def decodeOp21 (w : Word32) : Except DecodeError Instr :=
  .ok (.bge (w.extractLsb' 19 5) (w.extractLsb' 14 5) (w.extractLsb' 0 14))

/-- Opcode 0x22 (R103): BLTU. -/
def decodeOp22 (w : Word32) : Except DecodeError Instr :=
  .ok (.bltu (w.extractLsb' 19 5) (w.extractLsb' 14 5) (w.extractLsb' 0 14))

/-- Opcode 0x23 (R103): BGEU. -/
def decodeOp23 (w : Word32) : Except DecodeError Instr :=
  .ok (.bgeu (w.extractLsb' 19 5) (w.extractLsb' 14 5) (w.extractLsb' 0 14))

/-- Opcode 0x24 (R104): JAL. -/
def decodeOp24 (w : Word32) : Except DecodeError Instr :=
  .ok (.jal (w.extractLsb' 19 5) (w.extractLsb' 0 19))

/-- Opcode 0x25 (R104): JALR. -/
def decodeOp25 (w : Word32) : Except DecodeError Instr :=
  .ok (.jalr (w.extractLsb' 19 5) (w.extractLsb' 14 5) (w.extractLsb' 0 14))

/-- Opcode 0x26 (R107): LOOP. -/
def decodeOp26 (w : Word32) : Except DecodeError Instr :=
  if w.extractLsb' 19 5 = 0#5 then
    .ok (.loop (w.extractLsb' 14 5) (w.extractLsb' 0 14))
  else
  .error (.noRow w)

/-- Opcode 0x27 (R245): LD. -/
def decodeOp27 (w : Word32) : Except DecodeError Instr :=
  .ok (.ld (w.extractLsb' 19 5) (w.extractLsb' 14 5) (w.extractLsb' 11 3) (w.extractLsb' 0 11))

/-- Opcode 0x28 (R245): ST. -/
def decodeOp28 (w : Word32) : Except DecodeError Instr :=
  .ok (.st (w.extractLsb' 19 5) (w.extractLsb' 14 5) (w.extractLsb' 11 3) (w.extractLsb' 0 11))

/-- Opcode 0x29 (R245): FLD. -/
def decodeOp29 (w : Word32) : Except DecodeError Instr :=
  .ok (.fld (w.extractLsb' 19 5) (w.extractLsb' 14 5) (w.extractLsb' 11 3) (w.extractLsb' 0 11))

/-- Opcode 0x2A (R245): FST. -/
def decodeOp2A (w : Word32) : Except DecodeError Instr :=
  .ok (.fst (w.extractLsb' 19 5) (w.extractLsb' 14 5) (w.extractLsb' 11 3) (w.extractLsb' 0 11))

/-- Opcode 0x2B (R245): VLD. -/
def decodeOp2B (w : Word32) : Except DecodeError Instr :=
  if w.extractLsb' 11 3 = 3#3 then
    .ok (.vld (w.extractLsb' 19 5) (w.extractLsb' 14 5) (w.extractLsb' 0 11))
  else
  .error (.noRow w)

/-- Opcode 0x2C (R245): VST. -/
def decodeOp2C (w : Word32) : Except DecodeError Instr :=
  if w.extractLsb' 11 3 = 3#3 then
    .ok (.vst (w.extractLsb' 19 5) (w.extractLsb' 14 5) (w.extractLsb' 0 11))
  else
  .error (.noRow w)

/-- Opcode 0x2D (R247): VLDX. -/
def decodeOp2D (w : Word32) : Except DecodeError Instr :=
  .ok (.vldx (w.extractLsb' 19 5) (w.extractLsb' 14 5) (w.extractLsb' 9 5) (w.extractLsb' 6 3) (w.extractLsb' 3 3) (w.extractLsb' 0 3))

/-- Opcode 0x2E (R247): VSTX. -/
def decodeOp2E (w : Word32) : Except DecodeError Instr :=
  .ok (.vstx (w.extractLsb' 19 5) (w.extractLsb' 14 5) (w.extractLsb' 9 5) (w.extractLsb' 6 3) (w.extractLsb' 3 3) (w.extractLsb' 0 3))

/-- Opcode 0x2F (R248): LDO. -/
def decodeOp2F (w : Word32) : Except DecodeError Instr :=
  if w.extractLsb' 0 6 = 0#6 then
    .ok (.ldo (w.extractLsb' 19 5) (w.extractLsb' 14 5) (w.extractLsb' 11 3) (w.extractLsb' 9 2) (w.extractLsb' 6 3))
  else
  .error (.noRow w)

/-- Opcode 0x30 (R248): STO. -/
def decodeOp30 (w : Word32) : Except DecodeError Instr :=
  if w.extractLsb' 0 6 = 0#6 then
    .ok (.sto (w.extractLsb' 19 5) (w.extractLsb' 14 5) (w.extractLsb' 11 3) (w.extractLsb' 9 2) (w.extractLsb' 6 3))
  else
  .error (.noRow w)

/-- Opcode 0x31 (R249): LDS. -/
def decodeOp31 (w : Word32) : Except DecodeError Instr :=
  if w.extractLsb' 0 6 = 0#6 ∧ w.extractLsb' 11 3 = 3#3 then
    .ok (.lds (w.extractLsb' 19 5) (w.extractLsb' 14 5) (w.extractLsb' 9 2) (w.extractLsb' 6 3))
  else
  .error (.noRow w)

/-- Opcode 0x32 (R249): STS. -/
def decodeOp32 (w : Word32) : Except DecodeError Instr :=
  if w.extractLsb' 0 6 = 0#6 ∧ w.extractLsb' 11 3 = 3#3 then
    .ok (.sts (w.extractLsb' 19 5) (w.extractLsb' 14 5) (w.extractLsb' 9 2) (w.extractLsb' 6 3))
  else
  .error (.noRow w)

/-- Opcode 0x33 (R250): TPF. -/
def decodeOp33 (w : Word32) : Except DecodeError Instr :=
  if w.extractLsb' 11 3 = 0#3 ∧ w.extractLsb' 19 5 = 0#5 then
    .ok (.tpf (w.extractLsb' 14 5) (w.extractLsb' 0 11))
  else
  .error (.noRow w)

/-- Opcode 0x34 (R251): AMO. -/
def decodeOp34 (w : Word32) : Except DecodeError Instr :=
  .ok (.amo (w.extractLsb' 19 5) (w.extractLsb' 14 5) (w.extractLsb' 9 5) (w.extractLsb' 6 3) (w.extractLsb' 4 2) (w.extractLsb' 0 4))

/-- Opcode 0x35 (R252): CAS. -/
def decodeOp35 (w : Word32) : Except DecodeError Instr :=
  .ok (.cas (w.extractLsb' 19 5) (w.extractLsb' 14 5) (w.extractLsb' 9 5) (w.extractLsb' 4 5) (w.extractLsb' 2 2) (w.extractLsb' 0 2))

/-- Opcode 0x36 (R254): FENCE. -/
def decodeOp36 (w : Word32) : Except DecodeError Instr :=
  if w.extractLsb' 0 6 = 0#6 ∧ w.extractLsb' 9 15 = 0#15 then
    .ok (.fence (w.extractLsb' 6 3))
  else
  .error (.noRow w)

/-- Opcode 0x37 (R227): XFENCE. -/
def decodeOp37 (w : Word32) : Except DecodeError Instr :=
  if w.extractLsb' 6 18 = 0#18 then
    .ok (.xfence (w.extractLsb' 3 3) (w.extractLsb' 0 3))
  else
  .error (.noRow w)

/-- Opcode 0x38 (R287): MWATCH. -/
def decodeOp38 (w : Word32) : Except DecodeError Instr :=
  if w.extractLsb' 0 14 = 0#14 then
    .ok (.mwatch (w.extractLsb' 19 5) (w.extractLsb' 14 5))
  else
  .error (.noRow w)

/-- Opcode 0x39 (R288): MWAIT. -/
def decodeOp39 (w : Word32) : Except DecodeError Instr :=
  if w.extractLsb' 0 9 = 0#9 ∧ w.extractLsb' 14 5 = 0#5 then
    .ok (.mwait (w.extractLsb' 19 5) (w.extractLsb' 9 5))
  else
  .error (.noRow w)

/-- Opcode 0x3A (R285): MBXWAIT. -/
def decodeOp3A (w : Word32) : Except DecodeError Instr :=
  if w.extractLsb' 0 9 = 0#9 ∧ w.extractLsb' 14 5 = 0#5 then
    .ok (.mbxwait (w.extractLsb' 19 5) (w.extractLsb' 9 5))
  else
  .error (.noRow w)

/-- Opcode 0x3B (R286): MBXPOP. -/
def decodeOp3B (w : Word32) : Except DecodeError Instr :=
  if w.extractLsb' 5 14 = 0#14 then
    .ok (.mbxpop (w.extractLsb' 19 5) (w.extractLsb' 0 5))
  else
  .error (.noRow w)

/-- Opcode 0x3C (R292): BARRIVE. -/
def decodeOp3C (w : Word32) : Except DecodeError Instr :=
  if w.extractLsb' 0 6 = 0#6 ∧ w.extractLsb' 9 5 = 0#5 then
    .ok (.barrive (w.extractLsb' 19 5) (w.extractLsb' 14 5) (w.extractLsb' 6 3))
  else
  .error (.noRow w)

/-- Opcode 0x3D (R277): YIELD, YIELD_END. -/
def decodeOp3D (w : Word32) : Except DecodeError Instr :=
  if w.extractLsb' 0 24 = 0#24 then
    .ok (.yield)
  else
  if w.extractLsb' 0 24 = 1#24 then
    .ok (.yieldEnd)
  else
  .error (.noRow w)

/-- Opcode 0x3E (R257): CPSET. -/
def decodeOp3E (w : Word32) : Except DecodeError Instr :=
  if w.extractLsb' 4 5 = 0#5 ∧ w.extractLsb' 19 5 = 0#5 then
    .ok (.cpset (w.extractLsb' 14 5) (w.extractLsb' 9 5) (w.extractLsb' 0 4))
  else
  .error (.noRow w)

/-- Opcode 0x3F (R260): CPGO. -/
def decodeOp3F (w : Word32) : Except DecodeError Instr :=
  if w.extractLsb' 0 19 = 0#19 then
    .ok (.cpgo (w.extractLsb' 19 5))
  else
  .error (.noRow w)

/-- Opcode 0x40 (R266): GXPOST. -/
def decodeOp40 (w : Word32) : Except DecodeError Instr :=
  if w.extractLsb' 0 14 = 0#14 then
    .ok (.gxpost (w.extractLsb' 19 5) (w.extractLsb' 14 5))
  else
  .error (.noRow w)

/-- Opcode 0x41 (R268): TMOV. -/
def decodeOp41 (w : Word32) : Except DecodeError Instr :=
  if w.extractLsb' 0 9 = 0#9 then
    .ok (.tmov (w.extractLsb' 19 5) (w.extractLsb' 14 5) (w.extractLsb' 9 5))
  else
  .error (.noRow w)

/-- Opcode 0x42 (R271): RELOC_RET, RELOC. -/
def decodeOp42 (w : Word32) : Except DecodeError Instr :=
  if w.extractLsb' 3 11 = 1#11 then
    .ok (.relocRet (w.extractLsb' 19 5) (w.extractLsb' 14 5) (w.extractLsb' 0 3))
  else
  if w.extractLsb' 3 6 = 0#6 then
    .ok (.reloc (w.extractLsb' 19 5) (w.extractLsb' 14 5) (w.extractLsb' 9 5) (w.extractLsb' 0 3))
  else
  .error (.noRow w)

/-- Opcode 0x43 (R272): MSWEEP. -/
def decodeOp43 (w : Word32) : Except DecodeError Instr :=
  if w.extractLsb' 0 9 = 0#9 then
    .ok (.msweep (w.extractLsb' 19 5) (w.extractLsb' 14 5) (w.extractLsb' 9 5))
  else
  .error (.noRow w)

/-- Opcode 0x44 (R111): FADD. -/
def decodeOp44 (w : Word32) : Except DecodeError Instr :=
  if w.extractLsb' 0 4 = 0#4 then
    .ok (.fadd (w.extractLsb' 19 5) (w.extractLsb' 14 5) (w.extractLsb' 9 5) (w.extractLsb' 6 3) (w.extractLsb' 4 2))
  else
  .error (.noRow w)

/-- Opcode 0x45 (R111): FSUB. -/
def decodeOp45 (w : Word32) : Except DecodeError Instr :=
  if w.extractLsb' 0 4 = 0#4 then
    .ok (.fsub (w.extractLsb' 19 5) (w.extractLsb' 14 5) (w.extractLsb' 9 5) (w.extractLsb' 6 3) (w.extractLsb' 4 2))
  else
  .error (.noRow w)

/-- Opcode 0x46 (R111): FMUL. -/
def decodeOp46 (w : Word32) : Except DecodeError Instr :=
  if w.extractLsb' 0 4 = 0#4 then
    .ok (.fmul (w.extractLsb' 19 5) (w.extractLsb' 14 5) (w.extractLsb' 9 5) (w.extractLsb' 6 3) (w.extractLsb' 4 2))
  else
  .error (.noRow w)

/-- Opcode 0x47 (R111): FDIV. -/
def decodeOp47 (w : Word32) : Except DecodeError Instr :=
  if w.extractLsb' 0 4 = 0#4 then
    .ok (.fdiv (w.extractLsb' 19 5) (w.extractLsb' 14 5) (w.extractLsb' 9 5) (w.extractLsb' 6 3) (w.extractLsb' 4 2))
  else
  .error (.noRow w)

/-- Opcode 0x48 (R111): FSQRT. -/
def decodeOp48 (w : Word32) : Except DecodeError Instr :=
  if w.extractLsb' 0 4 = 0#4 ∧ w.extractLsb' 9 5 = 0#5 then
    .ok (.fsqrt (w.extractLsb' 19 5) (w.extractLsb' 14 5) (w.extractLsb' 6 3) (w.extractLsb' 4 2))
  else
  .error (.noRow w)

/-- Opcode 0x49 (R112): FMA. -/
def decodeOp49 (w : Word32) : Except DecodeError Instr :=
  .ok (.fma (w.extractLsb' 19 5) (w.extractLsb' 14 5) (w.extractLsb' 9 5) (w.extractLsb' 4 5) (w.extractLsb' 3 1) (w.extractLsb' 0 3))

/-- Opcode 0x4A (R112): FNMA. -/
def decodeOp4A (w : Word32) : Except DecodeError Instr :=
  .ok (.fnma (w.extractLsb' 19 5) (w.extractLsb' 14 5) (w.extractLsb' 9 5) (w.extractLsb' 4 5) (w.extractLsb' 3 1) (w.extractLsb' 0 3))

/-- Opcode 0x4B (R113): FMIN. -/
def decodeOp4B (w : Word32) : Except DecodeError Instr :=
  if w.extractLsb' 1 3 = 0#3 ∧ w.extractLsb' 6 3 = 0#3 then
    .ok (.fmin (w.extractLsb' 19 5) (w.extractLsb' 14 5) (w.extractLsb' 9 5) (w.extractLsb' 4 2) (w.extractLsb' 0 1))
  else
  .error (.noRow w)

/-- Opcode 0x4C (R113): FMAX. -/
def decodeOp4C (w : Word32) : Except DecodeError Instr :=
  if w.extractLsb' 1 3 = 0#3 ∧ w.extractLsb' 6 3 = 0#3 then
    .ok (.fmax (w.extractLsb' 19 5) (w.extractLsb' 14 5) (w.extractLsb' 9 5) (w.extractLsb' 4 2) (w.extractLsb' 0 1))
  else
  .error (.noRow w)

/-- Opcode 0x4D (R114): FCMP. -/
def decodeOp4D (w : Word32) : Except DecodeError Instr :=
  if w.extractLsb' 2 2 = 0#2 ∧ w.extractLsb' 6 3 = 0#3 then
    .ok (.fcmp (w.extractLsb' 19 5) (w.extractLsb' 14 5) (w.extractLsb' 9 5) (w.extractLsb' 4 2) (w.extractLsb' 0 2))
  else
  .error (.noRow w)

/-- Opcode 0x4E (R115): FCLASS. -/
def decodeOp4E (w : Word32) : Except DecodeError Instr :=
  if w.extractLsb' 0 4 = 0#4 ∧ w.extractLsb' 6 8 = 0#8 then
    .ok (.fclass (w.extractLsb' 19 5) (w.extractLsb' 14 5) (w.extractLsb' 4 2))
  else
  .error (.noRow w)

/-- Opcode 0x4F (R116): FCVT. -/
def decodeOp4F (w : Word32) : Except DecodeError Instr :=
  if w.extractLsb' 2 2 = 0#2 ∧ w.extractLsb' 9 5 = 0#5 then
    .ok (.fcvt (w.extractLsb' 19 5) (w.extractLsb' 14 5) (w.extractLsb' 6 3) (w.extractLsb' 4 2) (w.extractLsb' 0 2))
  else
  .error (.noRow w)

/-- Opcode 0x50 (R116): FCVTI. -/
def decodeOp50 (w : Word32) : Except DecodeError Instr :=
  if w.extractLsb' 2 2 = 0#2 ∧ w.extractLsb' 9 5 = 0#5 then
    .ok (.fcvti (w.extractLsb' 19 5) (w.extractLsb' 14 5) (w.extractLsb' 6 3) (w.extractLsb' 4 2) (w.extractLsb' 1 1) (w.extractLsb' 0 1))
  else
  .error (.noRow w)

/-- Opcode 0x51 (R116): FCVTF. -/
def decodeOp51 (w : Word32) : Except DecodeError Instr :=
  if w.extractLsb' 2 2 = 0#2 ∧ w.extractLsb' 9 5 = 0#5 then
    .ok (.fcvtf (w.extractLsb' 19 5) (w.extractLsb' 14 5) (w.extractLsb' 6 3) (w.extractLsb' 4 2) (w.extractLsb' 1 1) (w.extractLsb' 0 1))
  else
  .error (.noRow w)

/-- Opcode 0x52 (R117): FMV. -/
def decodeOp52 (w : Word32) : Except DecodeError Instr :=
  if w.extractLsb' 2 2 = 0#2 ∧ w.extractLsb' 6 8 = 0#8 then
    .ok (.fmv (w.extractLsb' 19 5) (w.extractLsb' 14 5) (w.extractLsb' 4 2) (w.extractLsb' 0 2))
  else
  .error (.noRow w)

/-- Opcode 0x53 (R117): FSGNJ. -/
def decodeOp53 (w : Word32) : Except DecodeError Instr :=
  if w.extractLsb' 2 2 = 0#2 ∧ w.extractLsb' 6 3 = 0#3 then
    .ok (.fsgnj (w.extractLsb' 19 5) (w.extractLsb' 14 5) (w.extractLsb' 9 5) (w.extractLsb' 4 2) (w.extractLsb' 0 2))
  else
  .error (.noRow w)

/-- Opcode 0x54 (R85): FEXP. -/
def decodeOp54 (w : Word32) : Except DecodeError Instr :=
  if w.extractLsb' 0 4 = 0#4 ∧ w.extractLsb' 5 1 = 0#1 ∧ w.extractLsb' 9 5 = 0#5 then
    .ok (.fexp (w.extractLsb' 19 5) (w.extractLsb' 14 5) (w.extractLsb' 6 3) (w.extractLsb' 4 1))
  else
  .error (.noRow w)

/-- Opcode 0x55 (R85): FLOG. -/
def decodeOp55 (w : Word32) : Except DecodeError Instr :=
  if w.extractLsb' 0 4 = 0#4 ∧ w.extractLsb' 5 1 = 0#1 ∧ w.extractLsb' 9 5 = 0#5 then
    .ok (.flog (w.extractLsb' 19 5) (w.extractLsb' 14 5) (w.extractLsb' 6 3) (w.extractLsb' 4 1))
  else
  .error (.noRow w)

/-- Opcode 0x56 (R85): FERF. -/
def decodeOp56 (w : Word32) : Except DecodeError Instr :=
  if w.extractLsb' 0 4 = 0#4 ∧ w.extractLsb' 5 1 = 0#1 ∧ w.extractLsb' 9 5 = 0#5 then
    .ok (.ferf (w.extractLsb' 19 5) (w.extractLsb' 14 5) (w.extractLsb' 6 3) (w.extractLsb' 4 1))
  else
  .error (.noRow w)

/-- Opcode 0x57 (R87): FAPX. -/
def decodeOp57 (w : Word32) : Except DecodeError Instr :=
  if w.extractLsb' 3 1 = 0#1 ∧ w.extractLsb' 9 5 = 0#5 then
    .ok (.fapx (w.extractLsb' 19 5) (w.extractLsb' 14 5) (w.extractLsb' 6 3) (w.extractLsb' 4 2) (w.extractLsb' 0 3))
  else
  .error (.noRow w)

/-- Opcode 0x58 (R123): VADD. -/
def decodeOp58 (w : Word32) : Except DecodeError Instr :=
  .ok (.vadd (w.extractLsb' 19 5) (w.extractLsb' 14 5) (w.extractLsb' 9 5) (w.extractLsb' 6 3) (w.extractLsb' 3 3) (w.extractLsb' 0 3))

/-- Opcode 0x59 (R123): VSUB. -/
def decodeOp59 (w : Word32) : Except DecodeError Instr :=
  .ok (.vsub (w.extractLsb' 19 5) (w.extractLsb' 14 5) (w.extractLsb' 9 5) (w.extractLsb' 6 3) (w.extractLsb' 3 3) (w.extractLsb' 0 3))

/-- Opcode 0x5A (R123): VMUL. -/
def decodeOp5A (w : Word32) : Except DecodeError Instr :=
  .ok (.vmul (w.extractLsb' 19 5) (w.extractLsb' 14 5) (w.extractLsb' 9 5) (w.extractLsb' 6 3) (w.extractLsb' 3 3) (w.extractLsb' 0 3))

/-- Opcode 0x5B (R119): VFMA. -/
def decodeOp5B (w : Word32) : Except DecodeError Instr :=
  .ok (.vfma (w.extractLsb' 19 5) (w.extractLsb' 14 5) (w.extractLsb' 9 5) (w.extractLsb' 6 3) (w.extractLsb' 3 3) (w.extractLsb' 0 3))

/-- Opcode 0x5C (R123): VMIN. -/
def decodeOp5C (w : Word32) : Except DecodeError Instr :=
  .ok (.vmin (w.extractLsb' 19 5) (w.extractLsb' 14 5) (w.extractLsb' 9 5) (w.extractLsb' 6 3) (w.extractLsb' 3 3) (w.extractLsb' 0 3))

/-- Opcode 0x5D (R123): VMAX. -/
def decodeOp5D (w : Word32) : Except DecodeError Instr :=
  .ok (.vmax (w.extractLsb' 19 5) (w.extractLsb' 14 5) (w.extractLsb' 9 5) (w.extractLsb' 6 3) (w.extractLsb' 3 3) (w.extractLsb' 0 3))

/-- Opcode 0x5E (R124): VBIT. -/
def decodeOp5E (w : Word32) : Except DecodeError Instr :=
  .ok (.vbit (w.extractLsb' 19 5) (w.extractLsb' 14 5) (w.extractLsb' 9 5) (w.extractLsb' 6 3) (w.extractLsb' 3 3) (w.extractLsb' 0 3))

/-- Opcode 0x5F (R124): VSH. -/
def decodeOp5F (w : Word32) : Except DecodeError Instr :=
  .ok (.vsh (w.extractLsb' 19 5) (w.extractLsb' 14 5) (w.extractLsb' 9 5) (w.extractLsb' 6 3) (w.extractLsb' 3 3) (w.extractLsb' 0 3))

/-- Opcode 0x60 (R125): VCMP. -/
def decodeOp60 (w : Word32) : Except DecodeError Instr :=
  .ok (.vcmp (w.extractLsb' 22 2) (w.extractLsb' 19 3) (w.extractLsb' 14 5) (w.extractLsb' 9 5) (w.extractLsb' 6 3) (w.extractLsb' 3 3) (w.extractLsb' 0 3))

/-- Opcode 0x61 (R126): VSEL. -/
def decodeOp61 (w : Word32) : Except DecodeError Instr :=
  .ok (.vsel (w.extractLsb' 19 5) (w.extractLsb' 14 5) (w.extractLsb' 9 5) (w.extractLsb' 6 3) (w.extractLsb' 3 3) (w.extractLsb' 0 3))

/-- Opcode 0x62 (R127): VCVT. -/
def decodeOp62 (w : Word32) : Except DecodeError Instr :=
  .ok (.vcvt (w.extractLsb' 19 5) (w.extractLsb' 14 5) (w.extractLsb' 12 2) (w.extractLsb' 9 3) (w.extractLsb' 6 3) (w.extractLsb' 3 3) (w.extractLsb' 0 3))

/-- Opcode 0x63 (R128): VFUN. -/
def decodeOp63 (w : Word32) : Except DecodeError Instr :=
  .ok (.vfun (w.extractLsb' 19 5) (w.extractLsb' 14 5) (w.extractLsb' 9 5) (w.extractLsb' 6 3) (w.extractLsb' 3 3) (w.extractLsb' 0 3))

/-- Opcode 0x64 (R129): VRED. -/
def decodeOp64 (w : Word32) : Except DecodeError Instr :=
  .ok (.vred (w.extractLsb' 19 5) (w.extractLsb' 14 5) (w.extractLsb' 9 5) (w.extractLsb' 6 3) (w.extractLsb' 3 3) (w.extractLsb' 0 3))

/-- Opcode 0x65 (R130): VSPLAT. -/
def decodeOp65 (w : Word32) : Except DecodeError Instr :=
  if w.extractLsb' 9 5 = 0#5 then
    .ok (.vsplat (w.extractLsb' 19 5) (w.extractLsb' 14 5) (w.extractLsb' 6 3) (w.extractLsb' 3 3) (w.extractLsb' 0 3))
  else
  .error (.noRow w)

/-- Opcode 0x66 (R130): VPERM. -/
def decodeOp66 (w : Word32) : Except DecodeError Instr :=
  .ok (.vperm (w.extractLsb' 19 5) (w.extractLsb' 14 5) (w.extractLsb' 9 5) (w.extractLsb' 6 3) (w.extractLsb' 3 3) (w.extractLsb' 0 3))

/-- Opcode 0x67 (R130): VEXTR. -/
def decodeOp67 (w : Word32) : Except DecodeError Instr :=
  if w.extractLsb' 6 3 = 0#3 then
    .ok (.vextr (w.extractLsb' 19 5) (w.extractLsb' 14 5) (w.extractLsb' 9 5) (w.extractLsb' 3 3) (w.extractLsb' 0 3))
  else
  .error (.noRow w)

/-- Opcode 0x68 (R131): VHASH. -/
def decodeOp68 (w : Word32) : Except DecodeError Instr :=
  if w.extractLsb' 3 3 = 3#3 then
    .ok (.vhash (w.extractLsb' 19 5) (w.extractLsb' 14 5) (w.extractLsb' 9 5) (w.extractLsb' 6 3) (w.extractLsb' 0 3))
  else
  .error (.noRow w)

/-- Opcode 0x69 (R132): VBMAND. -/
def decodeOp69 (w : Word32) : Except DecodeError Instr :=
  if w.extractLsb' 3 3 = 3#3 then
    .ok (.vbmand (w.extractLsb' 19 5) (w.extractLsb' 14 5) (w.extractLsb' 9 5) (w.extractLsb' 6 3) (w.extractLsb' 0 3))
  else
  .error (.noRow w)

/-- Opcode 0x6A (R133): VPFX. -/
def decodeOp6A (w : Word32) : Except DecodeError Instr :=
  if w.extractLsb' 3 3 = 3#3 ∧ w.extractLsb' 9 5 = 0#5 then
    .ok (.vpfx (w.extractLsb' 19 5) (w.extractLsb' 14 5) (w.extractLsb' 6 3) (w.extractLsb' 0 3))
  else
  .error (.noRow w)

/-- Opcode 0x6B (R134): VISECT. -/
def decodeOp6B (w : Word32) : Except DecodeError Instr :=
  if w.extractLsb' 2 4 = 2#4 then
    .ok (.visect (w.extractLsb' 19 5) (w.extractLsb' 14 5) (w.extractLsb' 9 5) (w.extractLsb' 6 3) (w.extractLsb' 0 2))
  else
  .error (.noRow w)

/-- Opcode 0x6C (R135): VDOT. -/
def decodeOp6C (w : Word32) : Except DecodeError Instr :=
  .ok (.vdot (w.extractLsb' 19 5) (w.extractLsb' 14 5) (w.extractLsb' 9 5) (w.extractLsb' 6 3) (w.extractLsb' 3 3) (w.extractLsb' 0 3))

/-- Opcode 0x6D (R170): CXLOAD. -/
def decodeOp6D (w : Word32) : Except DecodeError Instr :=
  if w.extractLsb' 0 9 = 0#9 ∧ w.extractLsb' 19 1 = 0#1 ∧ w.extractLsb' 22 2 = 0#2 then
    .ok (.cxload (w.extractLsb' 20 2) (w.extractLsb' 14 5) (w.extractLsb' 9 5))
  else
  .error (.noRow w)

/-- Opcode 0x6E (R173): CXEDIT. -/
def decodeOp6E (w : Word32) : Except DecodeError Instr :=
  if w.extractLsb' 0 9 = 0#9 ∧ w.extractLsb' 19 1 = 0#1 ∧ w.extractLsb' 22 2 = 0#2 then
    .ok (.cxedit (w.extractLsb' 20 2) (w.extractLsb' 14 5) (w.extractLsb' 9 5))
  else
  .error (.noRow w)

/-- Opcode 0x6F (R174): CXINFO_SETEXP, CXINFO. -/
def decodeOp6F (w : Word32) : Except DecodeError Instr :=
  if w.extractLsb' 0 14 = 320#14 ∧ w.extractLsb' 19 1 = 0#1 then
    .ok (.cxinfoSetexp (w.extractLsb' 20 4) (w.extractLsb' 14 5))
  else
  if w.extractLsb' 19 1 = 0#1 then
    .ok (.cxinfo (w.extractLsb' 20 4) (w.extractLsb' 14 5) (w.extractLsb' 9 5) (w.extractLsb' 4 5) (w.extractLsb' 0 4))
  else
  .error (.noRow w)

/-- Opcode 0x70 (R175): CBIND. -/
def decodeOp70 (w : Word32) : Except DecodeError Instr :=
  if w.extractLsb' 0 2 = 0#2 ∧ w.extractLsb' 19 1 = 0#1 then
    .ok (.cbind (w.extractLsb' 20 4) (w.extractLsb' 14 5) (w.extractLsb' 9 5) (w.extractLsb' 7 2) (w.extractLsb' 6 1) (w.extractLsb' 4 2) (w.extractLsb' 2 2))
  else
  .error (.noRow w)

/-- Opcode 0x71 (R177): CQ. -/
def decodeOp71 (w : Word32) : Except DecodeError Instr :=
  if w.extractLsb' 0 9 = 0#9 ∧ w.extractLsb' 12 4 = 0#4 then
    .ok (.cq (w.extractLsb' 20 4) (w.extractLsb' 16 4) (w.extractLsb' 9 3))
  else
  .error (.noRow w)

/-- Opcode 0x72 (R177): CDQ. -/
def decodeOp72 (w : Word32) : Except DecodeError Instr :=
  if w.extractLsb' 0 9 = 0#9 ∧ w.extractLsb' 12 4 = 0#4 then
    .ok (.cdq (w.extractLsb' 20 4) (w.extractLsb' 16 4) (w.extractLsb' 9 3))
  else
  .error (.noRow w)

/-- Opcode 0x73 (R178): DEXT. -/
def decodeOp73 (w : Word32) : Except DecodeError Instr :=
  if w.extractLsb' 0 9 = 0#9 ∧ w.extractLsb' 12 4 = 0#4 then
    .ok (.dext (w.extractLsb' 20 4) (w.extractLsb' 16 4) (w.extractLsb' 9 3))
  else
  .error (.noRow w)

/-- Opcode 0x74 (R178): DCOB. -/
def decodeOp74 (w : Word32) : Except DecodeError Instr :=
  if w.extractLsb' 0 9 = 0#9 ∧ w.extractLsb' 12 4 = 0#4 then
    .ok (.dcob (w.extractLsb' 20 4) (w.extractLsb' 16 4) (w.extractLsb' 9 3))
  else
  .error (.noRow w)

/-- Opcode 0x75 (R179): HSTAR. -/
def decodeOp75 (w : Word32) : Except DecodeError Instr :=
  if w.extractLsb' 0 9 = 0#9 ∧ w.extractLsb' 12 4 = 0#4 then
    .ok (.hstar (w.extractLsb' 20 4) (w.extractLsb' 16 4) (w.extractLsb' 9 3))
  else
  .error (.noRow w)

/-- Opcode 0x76 (R181): WEDGE. -/
def decodeOp76 (w : Word32) : Except DecodeError Instr :=
  if w.extractLsb' 7 2 = 0#2 then
    .ok (.wedge (w.extractLsb' 20 4) (w.extractLsb' 16 4) (w.extractLsb' 12 4) (w.extractLsb' 9 3) (w.extractLsb' 0 7))
  else
  .error (.noRow w)

/-- Opcode 0x77 (R180): INTERP. -/
def decodeOp77 (w : Word32) : Except DecodeError Instr :=
  if w.extractLsb' 2 7 = 0#7 ∧ w.extractLsb' 12 4 = 0#4 then
    .ok (.interp (w.extractLsb' 20 4) (w.extractLsb' 16 4) (w.extractLsb' 9 3) (w.extractLsb' 0 2))
  else
  .error (.noRow w)

/-- Opcode 0x78 (R182): CLIN. -/
def decodeOp78 (w : Word32) : Except DecodeError Instr :=
  if w.extractLsb' 8 1 = 0#1 then
    .ok (.clin (w.extractLsb' 20 4) (w.extractLsb' 16 4) (w.extractLsb' 12 4) (w.extractLsb' 9 3) (w.extractLsb' 4 4) (w.extractLsb' 0 4))
  else
  .error (.noRow w)

/-- Opcode 0x79 (R183): CSEAM_RELEASE, CSEAM_SEND, CSEAM_LAND. -/
def decodeOp79 (w : Word32) : Except DecodeError Instr :=
  if w.extractLsb' 0 20 = 4096#20 then
    .ok (.cseamRelease (w.extractLsb' 20 4))
  else
  if w.extractLsb' 0 8 = 0#8 ∧ w.extractLsb' 12 8 = 0#8 then
    .ok (.cseamSend (w.extractLsb' 20 4) (w.extractLsb' 8 4))
  else
  if w.extractLsb' 0 8 = 0#8 ∧ w.extractLsb' 12 8 = 2#8 then
    .ok (.cseamLand (w.extractLsb' 20 4) (w.extractLsb' 8 4))
  else
  .error (.noRow w)

/-- Opcode 0x7A (R185): CRED. -/
def decodeOp7A (w : Word32) : Except DecodeError Instr :=
  if w.extractLsb' 0 5 = 0#5 ∧ w.extractLsb' 19 1 = 0#1 then
    .ok (.cred (w.extractLsb' 20 4) (w.extractLsb' 14 5) (w.extractLsb' 9 5) (w.extractLsb' 6 3) (w.extractLsb' 5 1))
  else
  .error (.noRow w)

/-- Opcode 0x7B (R195): MCFG. -/
def decodeOp7B (w : Word32) : Except DecodeError Instr :=
  if w.extractLsb' 3 11 = 0#11 then
    .ok (.mcfg (w.extractLsb' 19 5) (w.extractLsb' 14 5) (w.extractLsb' 0 3))
  else
  .error (.noRow w)

/-- Opcode 0x7C (R197): MMA. -/
def decodeOp7C (w : Word32) : Except DecodeError Instr :=
  if w.extractLsb' 0 1 = 0#1 then
    .ok (.mma (w.extractLsb' 23 1) (w.extractLsb' 19 4) (w.extractLsb' 14 5) (w.extractLsb' 9 5) (w.extractLsb' 6 3) (w.extractLsb' 3 3) (w.extractLsb' 1 2))
  else
  .error (.noRow w)

/-- Opcode 0x7D (R203): MCONST. -/
def decodeOp7D (w : Word32) : Except DecodeError Instr :=
  .ok (.mconst (w.extractLsb' 23 1) (w.extractLsb' 19 4) (w.extractLsb' 14 5) (w.extractLsb' 9 5) (w.extractLsb' 6 3) (w.extractLsb' 3 3) (w.extractLsb' 1 2) (w.extractLsb' 0 1))

/-- Opcode 0x7E (R204): MACC_ZERO, MACC_LOAD, MACC_ADD, MACC_STORE. -/
def decodeOp7E (w : Word32) : Except DecodeError Instr :=
  if w.extractLsb' 0 19 = 0#19 then
    .ok (.maccZero (w.extractLsb' 23 1) (w.extractLsb' 19 4))
  else
  if w.extractLsb' 3 11 = 8#11 then
    .ok (.maccLoad (w.extractLsb' 23 1) (w.extractLsb' 19 4) (w.extractLsb' 14 5) (w.extractLsb' 0 3))
  else
  if w.extractLsb' 6 3 = 3#3 ∧ w.extractLsb' 13 6 = 0#6 then
    .ok (.maccAdd (w.extractLsb' 23 1) (w.extractLsb' 19 4) (w.extractLsb' 9 4) (w.extractLsb' 3 3) (w.extractLsb' 0 3))
  else
  if w.extractLsb' 6 8 = 2#8 then
    .ok (.maccStore (w.extractLsb' 23 1) (w.extractLsb' 19 4) (w.extractLsb' 14 5) (w.extractLsb' 3 3) (w.extractLsb' 0 3))
  else
  .error (.noRow w)

/-- Opcode 0x7F (R208): RTDEF. -/
def decodeOp7F (w : Word32) : Except DecodeError Instr :=
  if w.extractLsb' 0 14 = 0#14 ∧ w.extractLsb' 23 1 = 0#1 then
    .ok (.rtdef (w.extractLsb' 19 4) (w.extractLsb' 14 5))
  else
  .error (.noRow w)

/-- Opcode 0x80 (R212): HFOLD. -/
def decodeOp80 (w : Word32) : Except DecodeError Instr :=
  if w.extractLsb' 0 3 = 0#3 ∧ w.extractLsb' 9 5 = 0#5 then
    .ok (.hfold (w.extractLsb' 19 5) (w.extractLsb' 14 5) (w.extractLsb' 5 4) (w.extractLsb' 3 2))
  else
  .error (.noRow w)

/-- Opcode 0x81 (R212): HSCAN. -/
def decodeOp81 (w : Word32) : Except DecodeError Instr :=
  if w.extractLsb' 0 3 = 0#3 ∧ w.extractLsb' 9 5 = 0#5 then
    .ok (.hscan (w.extractLsb' 19 5) (w.extractLsb' 14 5) (w.extractLsb' 5 4) (w.extractLsb' 3 2))
  else
  .error (.noRow w)

/-- Opcode 0x82 (R212): HZIP. -/
def decodeOp82 (w : Word32) : Except DecodeError Instr :=
  if w.extractLsb' 0 3 = 0#3 ∧ w.extractLsb' 9 5 = 0#5 then
    .ok (.hzip (w.extractLsb' 19 5) (w.extractLsb' 14 5) (w.extractLsb' 5 4) (w.extractLsb' 3 2))
  else
  .error (.noRow w)

/-- Opcode 0x83 (R212): HOUTER. -/
def decodeOp83 (w : Word32) : Except DecodeError Instr :=
  if w.extractLsb' 0 3 = 0#3 ∧ w.extractLsb' 9 5 = 0#5 then
    .ok (.houter (w.extractLsb' 19 5) (w.extractLsb' 14 5) (w.extractLsb' 5 4) (w.extractLsb' 3 2))
  else
  .error (.noRow w)

/-- Opcode 0x84 (R306): COLPUT. -/
def decodeOp84 (w : Word32) : Except DecodeError Instr :=
  if w.extractLsb' 0 1 = 0#1 ∧ w.extractLsb' 7 7 = 0#7 then
    .ok (.colput (w.extractLsb' 19 5) (w.extractLsb' 14 5) (w.extractLsb' 1 6))
  else
  .error (.noRow w)

/-- Opcode 0x85 (R308): COLGET. -/
def decodeOp85 (w : Word32) : Except DecodeError Instr :=
  if w.extractLsb' 0 1 = 0#1 ∧ w.extractLsb' 7 12 = 0#12 then
    .ok (.colget (w.extractLsb' 19 5) (w.extractLsb' 1 6))
  else
  .error (.noRow w)

/-- Opcode 0x86 (R302): SSYNC. -/
def decodeOp86 (w : Word32) : Except DecodeError Instr :=
  if w.extractLsb' 0 14 = 0#14 then
    .ok (.ssync (w.extractLsb' 19 5) (w.extractLsb' 14 5))
  else
  .error (.noRow w)

/-- Opcode 0x87 (R299): LAUNCH, LAUNCH_JOB, LAUNCH_QUERY. -/
def decodeOp87 (w : Word32) : Except DecodeError Instr :=
  if w.extractLsb' 0 14 = 0#14 then
    .ok (.launch (w.extractLsb' 19 5) (w.extractLsb' 14 5))
  else
  if w.extractLsb' 0 14 = 256#14 then
    .ok (.launchJob (w.extractLsb' 19 5) (w.extractLsb' 14 5))
  else
  if w.extractLsb' 0 4 = 1#4 ∧ w.extractLsb' 6 8 = 0#8 then
    .ok (.launchQuery (w.extractLsb' 19 5) (w.extractLsb' 14 5) (w.extractLsb' 4 2))
  else
  .error (.noRow w)

/-- Opcode 0x88 (R300): CANCEL. -/
def decodeOp88 (w : Word32) : Except DecodeError Instr :=
  if w.extractLsb' 0 4 = 0#4 ∧ w.extractLsb' 6 8 = 0#8 then
    .ok (.cancel (w.extractLsb' 19 5) (w.extractLsb' 14 5) (w.extractLsb' 4 2))
  else
  .error (.noRow w)

/-- Opcode 0x89 (R344): ECALL. -/
def decodeOp89 (w : Word32) : Except DecodeError Instr :=
  if w.extractLsb' 0 24 = 0#24 then
    .ok (.ecall)
  else
  .error (.noRow w)

/-- Opcode 0x8A (R344): EBREAK. -/
def decodeOp8A (w : Word32) : Except DecodeError Instr :=
  if w.extractLsb' 0 24 = 0#24 then
    .ok (.ebreak)
  else
  .error (.noRow w)

/-- Opcode 0x8B (R344): ERET. -/
def decodeOp8B (w : Word32) : Except DecodeError Instr :=
  if w.extractLsb' 0 24 = 0#24 then
    .ok (.eret)
  else
  .error (.noRow w)

/-- Opcode 0x8C (R345): CSRRW. -/
def decodeOp8C (w : Word32) : Except DecodeError Instr :=
  .ok (.csrrw (w.extractLsb' 19 5) (w.extractLsb' 14 5) (w.extractLsb' 0 14))

/-- Opcode 0x8D (R345): CSRRS. -/
def decodeOp8D (w : Word32) : Except DecodeError Instr :=
  .ok (.csrrs (w.extractLsb' 19 5) (w.extractLsb' 14 5) (w.extractLsb' 0 14))

/-- Opcode 0x8E (R345): CSRRC. -/
def decodeOp8E (w : Word32) : Except DecodeError Instr :=
  .ok (.csrrc (w.extractLsb' 19 5) (w.extractLsb' 14 5) (w.extractLsb' 0 14))

/-- Opcode 0x8F (R346): CTUINV. -/
def decodeOp8F (w : Word32) : Except DecodeError Instr :=
  if w.extractLsb' 5 4 = 0#4 ∧ w.extractLsb' 19 5 = 0#5 then
    .ok (.ctuinv (w.extractLsb' 14 5) (w.extractLsb' 9 5) (w.extractLsb' 2 3) (w.extractLsb' 0 2))
  else
  .error (.noRow w)

/-- Opcode 0x90 (R344): WFI. -/
def decodeOp90 (w : Word32) : Except DecodeError Instr :=
  if w.extractLsb' 0 24 = 0#24 then
    .ok (.wfi)
  else
  .error (.noRow w)

/-- The instruction that one word decodes to (R41, R55 to R58), one arm per assigned opcode;
a word of a reserved opcode is the RESERVED_OPCODE step (R57). -/
def decode (w : Word32) : Except DecodeError Instr :=
  match (w.extractLsb' 24 8).toNat with
  | 0x01 => decodeOp01 w
  | 0x02 => decodeOp02 w
  | 0x03 => decodeOp03 w
  | 0x04 => decodeOp04 w
  | 0x05 => decodeOp05 w
  | 0x06 => decodeOp06 w
  | 0x07 => decodeOp07 w
  | 0x08 => decodeOp08 w
  | 0x09 => decodeOp09 w
  | 0x0A => decodeOp0A w
  | 0x0B => decodeOp0B w
  | 0x0C => decodeOp0C w
  | 0x0D => decodeOp0D w
  | 0x0E => decodeOp0E w
  | 0x0F => decodeOp0F w
  | 0x10 => decodeOp10 w
  | 0x11 => decodeOp11 w
  | 0x12 => decodeOp12 w
  | 0x13 => decodeOp13 w
  | 0x14 => decodeOp14 w
  | 0x15 => decodeOp15 w
  | 0x16 => decodeOp16 w
  | 0x17 => decodeOp17 w
  | 0x18 => decodeOp18 w
  | 0x19 => decodeOp19 w
  | 0x1A => decodeOp1A w
  | 0x1B => decodeOp1B w
  | 0x1C => decodeOp1C w
  | 0x1D => decodeOp1D w
  | 0x1E => decodeOp1E w
  | 0x1F => decodeOp1F w
  | 0x20 => decodeOp20 w
  | 0x21 => decodeOp21 w
  | 0x22 => decodeOp22 w
  | 0x23 => decodeOp23 w
  | 0x24 => decodeOp24 w
  | 0x25 => decodeOp25 w
  | 0x26 => decodeOp26 w
  | 0x27 => decodeOp27 w
  | 0x28 => decodeOp28 w
  | 0x29 => decodeOp29 w
  | 0x2A => decodeOp2A w
  | 0x2B => decodeOp2B w
  | 0x2C => decodeOp2C w
  | 0x2D => decodeOp2D w
  | 0x2E => decodeOp2E w
  | 0x2F => decodeOp2F w
  | 0x30 => decodeOp30 w
  | 0x31 => decodeOp31 w
  | 0x32 => decodeOp32 w
  | 0x33 => decodeOp33 w
  | 0x34 => decodeOp34 w
  | 0x35 => decodeOp35 w
  | 0x36 => decodeOp36 w
  | 0x37 => decodeOp37 w
  | 0x38 => decodeOp38 w
  | 0x39 => decodeOp39 w
  | 0x3A => decodeOp3A w
  | 0x3B => decodeOp3B w
  | 0x3C => decodeOp3C w
  | 0x3D => decodeOp3D w
  | 0x3E => decodeOp3E w
  | 0x3F => decodeOp3F w
  | 0x40 => decodeOp40 w
  | 0x41 => decodeOp41 w
  | 0x42 => decodeOp42 w
  | 0x43 => decodeOp43 w
  | 0x44 => decodeOp44 w
  | 0x45 => decodeOp45 w
  | 0x46 => decodeOp46 w
  | 0x47 => decodeOp47 w
  | 0x48 => decodeOp48 w
  | 0x49 => decodeOp49 w
  | 0x4A => decodeOp4A w
  | 0x4B => decodeOp4B w
  | 0x4C => decodeOp4C w
  | 0x4D => decodeOp4D w
  | 0x4E => decodeOp4E w
  | 0x4F => decodeOp4F w
  | 0x50 => decodeOp50 w
  | 0x51 => decodeOp51 w
  | 0x52 => decodeOp52 w
  | 0x53 => decodeOp53 w
  | 0x54 => decodeOp54 w
  | 0x55 => decodeOp55 w
  | 0x56 => decodeOp56 w
  | 0x57 => decodeOp57 w
  | 0x58 => decodeOp58 w
  | 0x59 => decodeOp59 w
  | 0x5A => decodeOp5A w
  | 0x5B => decodeOp5B w
  | 0x5C => decodeOp5C w
  | 0x5D => decodeOp5D w
  | 0x5E => decodeOp5E w
  | 0x5F => decodeOp5F w
  | 0x60 => decodeOp60 w
  | 0x61 => decodeOp61 w
  | 0x62 => decodeOp62 w
  | 0x63 => decodeOp63 w
  | 0x64 => decodeOp64 w
  | 0x65 => decodeOp65 w
  | 0x66 => decodeOp66 w
  | 0x67 => decodeOp67 w
  | 0x68 => decodeOp68 w
  | 0x69 => decodeOp69 w
  | 0x6A => decodeOp6A w
  | 0x6B => decodeOp6B w
  | 0x6C => decodeOp6C w
  | 0x6D => decodeOp6D w
  | 0x6E => decodeOp6E w
  | 0x6F => decodeOp6F w
  | 0x70 => decodeOp70 w
  | 0x71 => decodeOp71 w
  | 0x72 => decodeOp72 w
  | 0x73 => decodeOp73 w
  | 0x74 => decodeOp74 w
  | 0x75 => decodeOp75 w
  | 0x76 => decodeOp76 w
  | 0x77 => decodeOp77 w
  | 0x78 => decodeOp78 w
  | 0x79 => decodeOp79 w
  | 0x7A => decodeOp7A w
  | 0x7B => decodeOp7B w
  | 0x7C => decodeOp7C w
  | 0x7D => decodeOp7D w
  | 0x7E => decodeOp7E w
  | 0x7F => decodeOp7F w
  | 0x80 => decodeOp80 w
  | 0x81 => decodeOp81 w
  | 0x82 => decodeOp82 w
  | 0x83 => decodeOp83 w
  | 0x84 => decodeOp84 w
  | 0x85 => decodeOp85 w
  | 0x86 => decodeOp86 w
  | 0x87 => decodeOp87 w
  | 0x88 => decodeOp88 w
  | 0x89 => decodeOp89 w
  | 0x8A => decodeOp8A w
  | 0x8B => decodeOp8B w
  | 0x8C => decodeOp8C w
  | 0x8D => decodeOp8D w
  | 0x8E => decodeOp8E w
  | 0x8F => decodeOp8F w
  | 0x90 => decodeOp90 w
  | _ => .ok (.reservedOpcode w)

/-- The word of an instruction (R41 and the tables of R42 to R56), none for a step of the device that has
no encoding. -/
def encode : Instr → Option Word32
  | .add d a b w => some (0x01#8 ++ d ++ a ++ b ++ 0#7 ++ w ++ 0#1)
  | .sub d a b w => some (0x02#8 ++ d ++ a ++ b ++ 0#7 ++ w ++ 0#1)
  | .and d a b w => some (0x03#8 ++ d ++ a ++ b ++ 0#7 ++ w ++ 0#1)
  | .or d a b w => some (0x04#8 ++ d ++ a ++ b ++ 0#7 ++ w ++ 0#1)
  | .xor d a b w => some (0x05#8 ++ d ++ a ++ b ++ 0#7 ++ w ++ 0#1)
  | .sll d a b w => some (0x06#8 ++ d ++ a ++ b ++ 0#7 ++ w ++ 0#1)
  | .srl d a b w => some (0x07#8 ++ d ++ a ++ b ++ 0#7 ++ w ++ 0#1)
  | .sra d a b w => some (0x08#8 ++ d ++ a ++ b ++ 0#7 ++ w ++ 0#1)
  | .slt d a b w u => some (0x09#8 ++ d ++ a ++ b ++ 0#7 ++ w ++ u)
  | .min d a b w u => some (0x0A#8 ++ d ++ a ++ b ++ 0#7 ++ w ++ u)
  | .max d a b w u => some (0x0B#8 ++ d ++ a ++ b ++ 0#7 ++ w ++ u)
  | .mul d a b w => some (0x0C#8 ++ d ++ a ++ b ++ 0#7 ++ w ++ 0#1)
  | .mulh d a b w u => some (0x0D#8 ++ d ++ a ++ b ++ 0#7 ++ w ++ u)
  | .div d a b w u => some (0x0E#8 ++ d ++ a ++ b ++ 0#7 ++ w ++ u)
  | .rem d a b w u => some (0x0F#8 ++ d ++ a ++ b ++ 0#7 ++ w ++ u)
  | .clz d a w => some (0x10#8 ++ d ++ a ++ 0#12 ++ w ++ 0#1)
  | .ctz d a w => some (0x11#8 ++ d ++ a ++ 0#12 ++ w ++ 0#1)
  | .popc d a w => some (0x12#8 ++ d ++ a ++ 0#12 ++ w ++ 0#1)
  | .bfx d a b s w => some (0x13#8 ++ d ++ a ++ b ++ 0#6 ++ s ++ w ++ 0#1)
  | .addi d a i => some (0x14#8 ++ d ++ a ++ i)
  | .andi d a i => some (0x15#8 ++ d ++ a ++ i)
  | .ori d a i => some (0x16#8 ++ d ++ a ++ i)
  | .xori d a i => some (0x17#8 ++ d ++ a ++ i)
  | .slli d a i => some (0x18#8 ++ d ++ a ++ i)
  | .srli d a i => some (0x19#8 ++ d ++ a ++ i)
  | .srai d a i => some (0x1A#8 ++ d ++ a ++ i)
  | .slti d a i => some (0x1B#8 ++ d ++ a ++ i)
  | .lui d i => some (0x1C#8 ++ d ++ i)
  | .auipc d i => some (0x1D#8 ++ d ++ i)
  | .beq a b o => some (0x1E#8 ++ a ++ b ++ o)
  | .bne a b o => some (0x1F#8 ++ a ++ b ++ o)
  | .blt a b o => some (0x20#8 ++ a ++ b ++ o)
  | .bge a b o => some (0x21#8 ++ a ++ b ++ o)
  | .bltu a b o => some (0x22#8 ++ a ++ b ++ o)
  | .bgeu a b o => some (0x23#8 ++ a ++ b ++ o)
  | .jal d o => some (0x24#8 ++ d ++ o)
  | .jalr d a i => some (0x25#8 ++ d ++ a ++ i)
  | .loop a n => some (0x26#8 ++ 0#5 ++ a ++ n)
  | .ld d a w i => some (0x27#8 ++ d ++ a ++ w ++ i)
  | .st b a w i => some (0x28#8 ++ b ++ a ++ w ++ i)
  | .fld d a w i => some (0x29#8 ++ d ++ a ++ w ++ i)
  | .fst b a w i => some (0x2A#8 ++ b ++ a ++ w ++ i)
  | .vld d a i => some (0x2B#8 ++ d ++ a ++ 3#3 ++ i)
  | .vst b a i => some (0x2C#8 ++ b ++ a ++ 3#3 ++ i)
  | .vldx d a b p t h => some (0x2D#8 ++ d ++ a ++ b ++ p ++ t ++ h)
  | .vstx d a b p t h => some (0x2E#8 ++ d ++ a ++ b ++ p ++ t ++ h)
  | .ldo d a w o s => some (0x2F#8 ++ d ++ a ++ w ++ o ++ s ++ 0#6)
  | .sto b a w o s => some (0x30#8 ++ b ++ a ++ w ++ o ++ s ++ 0#6)
  | .lds d a m s => some (0x31#8 ++ d ++ a ++ 3#3 ++ m ++ s ++ 0#6)
  | .sts b a m s => some (0x32#8 ++ b ++ a ++ 3#3 ++ m ++ s ++ 0#6)
  | .tpf a i => some (0x33#8 ++ 0#5 ++ a ++ 0#3 ++ i)
  | .amo d a b s o f => some (0x34#8 ++ d ++ a ++ b ++ s ++ o ++ f)
  | .cas d a b e s o => some (0x35#8 ++ d ++ a ++ b ++ e ++ s ++ o)
  | .fence s => some (0x36#8 ++ 0#15 ++ s ++ 0#6)
  | .xfence a b => some (0x37#8 ++ 0#18 ++ a ++ b)
  | .mwatch d a => some (0x38#8 ++ d ++ a ++ 0#14)
  | .mwait d t => some (0x39#8 ++ d ++ 0#5 ++ t ++ 0#9)
  | .mbxwait d t => some (0x3A#8 ++ d ++ 0#5 ++ t ++ 0#9)
  | .mbxpop d e => some (0x3B#8 ++ d ++ 0#14 ++ e)
  | .barrive d a s => some (0x3C#8 ++ d ++ a ++ 0#5 ++ s ++ 0#6)
  | .yield => some (0x3D#8 ++ 0#24)
  | .yieldEnd => some (0x3D#8 ++ 1#24)
  | .cpset a b g => some (0x3E#8 ++ 0#5 ++ a ++ b ++ 0#5 ++ g)
  | .cpgo d => some (0x3F#8 ++ d ++ 0#19)
  | .gxpost d a => some (0x40#8 ++ d ++ a ++ 0#14)
  | .tmov d a b => some (0x41#8 ++ d ++ a ++ b ++ 0#9)
  | .reloc d a b t => some (0x42#8 ++ d ++ a ++ b ++ 0#6 ++ t)
  | .relocRet d a t => some (0x42#8 ++ d ++ a ++ 1#11 ++ t)
  | .msweep d a b => some (0x43#8 ++ d ++ a ++ b ++ 0#9)
  | .fadd d a b r f => some (0x44#8 ++ d ++ a ++ b ++ r ++ f ++ 0#4)
  | .fsub d a b r f => some (0x45#8 ++ d ++ a ++ b ++ r ++ f ++ 0#4)
  | .fmul d a b r f => some (0x46#8 ++ d ++ a ++ b ++ r ++ f ++ 0#4)
  | .fdiv d a b r f => some (0x47#8 ++ d ++ a ++ b ++ r ++ f ++ 0#4)
  | .fsqrt d a r f => some (0x48#8 ++ d ++ a ++ 0#5 ++ r ++ f ++ 0#4)
  | .fma d a b c f r => some (0x49#8 ++ d ++ a ++ b ++ c ++ f ++ r)
  | .fnma d a b c f r => some (0x4A#8 ++ d ++ a ++ b ++ c ++ f ++ r)
  | .fmin d a b f p => some (0x4B#8 ++ d ++ a ++ b ++ 0#3 ++ f ++ 0#3 ++ p)
  | .fmax d a b f p => some (0x4C#8 ++ d ++ a ++ b ++ 0#3 ++ f ++ 0#3 ++ p)
  | .fcmp d a b f c => some (0x4D#8 ++ d ++ a ++ b ++ 0#3 ++ f ++ 0#2 ++ c)
  | .fclass d a f => some (0x4E#8 ++ d ++ a ++ 0#8 ++ f ++ 0#4)
  | .fcvt d a r f s => some (0x4F#8 ++ d ++ a ++ 0#5 ++ r ++ f ++ 0#2 ++ s)
  | .fcvti d a r f w u => some (0x50#8 ++ d ++ a ++ 0#5 ++ r ++ f ++ 0#2 ++ w ++ u)
  | .fcvtf d a r f w u => some (0x51#8 ++ d ++ a ++ 0#5 ++ r ++ f ++ 0#2 ++ w ++ u)
  | .fmv d a f s => some (0x52#8 ++ d ++ a ++ 0#8 ++ f ++ 0#2 ++ s)
  | .fsgnj d a b f s => some (0x53#8 ++ d ++ a ++ b ++ 0#3 ++ f ++ 0#2 ++ s)
  | .fexp d a r f => some (0x54#8 ++ d ++ a ++ 0#5 ++ r ++ 0#1 ++ f ++ 0#4)
  | .flog d a r f => some (0x55#8 ++ d ++ a ++ 0#5 ++ r ++ 0#1 ++ f ++ 0#4)
  | .ferf d a r f => some (0x56#8 ++ d ++ a ++ 0#5 ++ r ++ 0#1 ++ f ++ 0#4)
  | .fapx d a r f s => some (0x57#8 ++ d ++ a ++ 0#5 ++ r ++ f ++ 0#1 ++ s)
  | .vadd d a b p t r => some (0x58#8 ++ d ++ a ++ b ++ p ++ t ++ r)
  | .vsub d a b p t r => some (0x59#8 ++ d ++ a ++ b ++ p ++ t ++ r)
  | .vmul d a b p t r => some (0x5A#8 ++ d ++ a ++ b ++ p ++ t ++ r)
  | .vfma d a b p t r => some (0x5B#8 ++ d ++ a ++ b ++ p ++ t ++ r)
  | .vmin d a b p t r => some (0x5C#8 ++ d ++ a ++ b ++ p ++ t ++ r)
  | .vmax d a b p t r => some (0x5D#8 ++ d ++ a ++ b ++ p ++ t ++ r)
  | .vbit d a b p t v => some (0x5E#8 ++ d ++ a ++ b ++ p ++ t ++ v)
  | .vsh d a b p t v => some (0x5F#8 ++ d ++ a ++ b ++ p ++ t ++ v)
  | .vcmp c q a b p t v => some (0x60#8 ++ c ++ q ++ a ++ b ++ p ++ t ++ v)
  | .vsel d a b p t s => some (0x61#8 ++ d ++ a ++ b ++ p ++ t ++ s)
  | .vcvt d a q s p t r => some (0x62#8 ++ d ++ a ++ q ++ s ++ p ++ t ++ r)
  | .vfun d a f p t r => some (0x63#8 ++ d ++ a ++ f ++ p ++ t ++ r)
  | .vred d a o p t v => some (0x64#8 ++ d ++ a ++ o ++ p ++ t ++ v)
  | .vsplat d a p t r => some (0x65#8 ++ d ++ a ++ 0#5 ++ p ++ t ++ r)
  | .vperm d a b p t v => some (0x66#8 ++ d ++ a ++ b ++ p ++ t ++ v)
  | .vextr d a b t v => some (0x67#8 ++ d ++ a ++ b ++ 0#3 ++ t ++ v)
  | .vhash d a b p v => some (0x68#8 ++ d ++ a ++ b ++ p ++ 3#3 ++ v)
  | .vbmand d a b p q => some (0x69#8 ++ d ++ a ++ b ++ p ++ 3#3 ++ q)
  | .vpfx d a p v => some (0x6A#8 ++ d ++ a ++ 0#5 ++ p ++ 3#3 ++ v)
  | .visect d a b p q => some (0x6B#8 ++ d ++ a ++ b ++ p ++ 2#4 ++ q)
  | .vdot d a b p t v => some (0x6C#8 ++ d ++ a ++ b ++ p ++ t ++ v)
  | .cxload s x d => some (0x6D#8 ++ 0#2 ++ s ++ 0#1 ++ x ++ d ++ 0#9)
  | .cxedit s x d => some (0x6E#8 ++ 0#2 ++ s ++ 0#1 ++ x ++ d ++ 0#9)
  | .cxinfo c x d s g => some (0x6F#8 ++ c ++ 0#1 ++ x ++ d ++ s ++ g)
  | .cxinfoSetexp c x => some (0x6F#8 ++ c ++ 0#1 ++ x ++ 320#14)
  | .cbind c x g f u e s => some (0x70#8 ++ c ++ 0#1 ++ x ++ g ++ f ++ u ++ e ++ s ++ 0#2)
  | .cq c a r => some (0x71#8 ++ c ++ a ++ 0#4 ++ r ++ 0#9)
  | .cdq c a r => some (0x72#8 ++ c ++ a ++ 0#4 ++ r ++ 0#9)
  | .dext c a r => some (0x73#8 ++ c ++ a ++ 0#4 ++ r ++ 0#9)
  | .dcob c a r => some (0x74#8 ++ c ++ a ++ 0#4 ++ r ++ 0#9)
  | .hstar c a r => some (0x75#8 ++ c ++ a ++ 0#4 ++ r ++ 0#9)
  | .wedge c a b r s => some (0x76#8 ++ c ++ a ++ b ++ r ++ 0#2 ++ s)
  | .interp c a r n => some (0x77#8 ++ c ++ a ++ 0#4 ++ r ++ 0#7 ++ n)
  | .clin c a b r p q => some (0x78#8 ++ c ++ a ++ b ++ r ++ 0#1 ++ p ++ q)
  | .cseamSend c l => some (0x79#8 ++ c ++ 0#8 ++ l ++ 0#8)
  | .cseamRelease c => some (0x79#8 ++ c ++ 4096#20)
  | .cseamLand c l => some (0x79#8 ++ c ++ 2#8 ++ l ++ 0#8)
  | .cred c x d r w => some (0x7A#8 ++ c ++ 0#1 ++ x ++ d ++ r ++ w ++ 0#5)
  | .mcfg d a s => some (0x7B#8 ++ d ++ a ++ 0#11 ++ s)
  | .mma n k a b t r s => some (0x7C#8 ++ n ++ k ++ a ++ b ++ t ++ r ++ s ++ 0#1)
  | .mconst n k a b t r c e => some (0x7D#8 ++ n ++ k ++ a ++ b ++ t ++ r ++ c ++ e)
  | .maccZero n k => some (0x7E#8 ++ n ++ k ++ 0#19)
  | .maccLoad n k a f => some (0x7E#8 ++ n ++ k ++ a ++ 8#11 ++ f)
  | .maccStore n k a r f => some (0x7E#8 ++ n ++ k ++ a ++ 2#8 ++ r ++ f)
  | .maccAdd n k j r f => some (0x7E#8 ++ n ++ k ++ 0#6 ++ j ++ 3#3 ++ r ++ f)
  | .rtdef h a => some (0x7F#8 ++ 0#1 ++ h ++ a ++ 0#14)
  | .hfold d a h e => some (0x80#8 ++ d ++ a ++ 0#5 ++ h ++ e ++ 0#3)
  | .hscan d a h e => some (0x81#8 ++ d ++ a ++ 0#5 ++ h ++ e ++ 0#3)
  | .hzip d a h e => some (0x82#8 ++ d ++ a ++ 0#5 ++ h ++ e ++ 0#3)
  | .houter d a h e => some (0x83#8 ++ d ++ a ++ 0#5 ++ h ++ e ++ 0#3)
  | .colput d v g => some (0x84#8 ++ d ++ v ++ 0#7 ++ g ++ 0#1)
  | .colget d g => some (0x85#8 ++ d ++ 0#12 ++ g ++ 0#1)
  | .ssync d a => some (0x86#8 ++ d ++ a ++ 0#14)
  | .launch d a => some (0x87#8 ++ d ++ a ++ 0#14)
  | .launchQuery d a l => some (0x87#8 ++ d ++ a ++ 0#8 ++ l ++ 1#4)
  | .launchJob d a => some (0x87#8 ++ d ++ a ++ 256#14)
  | .cancel d a l => some (0x88#8 ++ d ++ a ++ 0#8 ++ l ++ 0#4)
  | .ecall => some (0x89#8 ++ 0#24)
  | .ebreak => some (0x8A#8 ++ 0#24)
  | .eret => some (0x8B#8 ++ 0#24)
  | .csrrw d a n => some (0x8C#8 ++ d ++ a ++ n)
  | .csrrs d a n => some (0x8D#8 ++ d ++ a ++ n)
  | .csrrc d a n => some (0x8E#8 ++ d ++ a ++ n)
  | .ctuinv a b r k => some (0x8F#8 ++ 0#5 ++ a ++ b ++ 0#4 ++ r ++ k)
  | .wfi => some (0x90#8 ++ 0#24)
  | .moduleReset => none
  | .boot _ _ => none
  | .recoveryImageReceive _ => none
  | .attestationRequest _ => none
  | .junctionTrip _ => none
  | .powerThrottle => none
  | .unitDispatch _ => none
  | .quantumEnd => none
  | .timecmpMatch => none
  | .interruptTake => none
  | .waitLimitExpiry => none
  | .timedWaitExpiry => none
  | .matrixWaitExpiry _ => none
  | .postedStoreMove _ _ => none
  | .drainComplete => none
  | .homePerform _ _ _ _ => none
  | .retryListRetry _ => none
  | .slipMarkHop _ _ => none
  | .accessResponse => none
  | .ctuWalkComplete _ _ => none
  | .relocBegin _ _ => none
  | .relocCopy _ _ => none
  | .relocInstall _ _ => none
  | .relocCompletion _ _ => none
  | .relocRetirementStep _ _ => none
  | .copyRow _ _ _ _ => none
  | .copyCompletion _ _ => none
  | .gatherRow _ _ _ _ => none
  | .gatherMark _ _ => none
  | .gatherCompletion _ _ => none
  | .mailboxPlace _ => none
  | .matrixTileStep _ => none
  | .sprueHop _ _ => none
  | .hotOperationCompletion _ _ _ _ _ => none
  | .collectiveCombine _ _ => none
  | .collectiveResultArrival _ _ => none
  | .collectiveQueueRecord _ _ => none
  | .collectiveGo _ _ => none
  | .groupTableWrite _ _ => none
  | .chanSend _ _ => none
  | .chanEntryWrite _ _ => none
  | .chanRecv _ _ => none
  | .chanHeadWrite _ _ => none
  | .chanCfgWrite _ _ => none
  | .seamQueueTake _ _ => none
  | .barrierCfgWrite _ _ => none
  | .barrierChildArrival _ _ => none
  | .barrierParentFlip _ _ => none
  | .phaseWait _ _ => none
  | .mutexAcquire _ _ => none
  | .mutexRelease _ _ => none
  | .eventLineWait _ _ => none
  | .eventLineSignal _ _ => none
  | .eventPeekSet _ _ => none
  | .scheduleChoice _ => none
  | .pourBegin _ => none
  | .pourEntrySend _ _ => none
  | .pourDeliveryStage _ _ => none
  | .ssyncCommit _ => none
  | .cancelReturn => none
  | .jobEnd _ => none
  | .faultQueueEntry => none
  | .ansaResume _ _ => none
  | .ansaEnd _ _ => none
  | .engactRetry _ _ => none
  | .engactEnd _ _ => none
  | .pctlNotice _ _ => none
  | .pctlPreempt _ _ => none
  | .coreSaveComplete _ => none
  | .pctlResume _ _ => none
  | .pctlWithdraw _ _ => none
  | .spillDrain _ => none
  | .extintWrite _ _ => none
  | .icmdInsert _ _ => none
  | .icmdMstore _ _ => none
  | .registerWrite _ _ => none
  | .gatewayRequest _ _ _ _ _ _ _ _ _ _ => none
  | .tc1Announce _ _ _ _ => none
  | .tc1Grant _ _ _ => none
  | .linkFrameSend _ _ _ _ _ => none
  | .linkFrameReceive _ _ _ => none
  | .linkReplayLimit _ => none
  | .phyLockLoss _ => none
  | .phyTrainComplete _ => none
  | .helloSend _ => none
  | .helloReceive _ _ => none
  | .offerReceive _ _ => none
  | .answerReceive _ _ => none
  | .confirmReceive _ _ => none
  | .trainingTimeout _ => none
  | .lcmdStep _ _ => none
  | .lcmdRetrain _ _ => none
  | .lcmdDown _ _ => none
  | .pcieInboundMemoryRequest _ _ _ _ _ _ _ => none
  | .msiMessage _ _ _ _ => none
  | .vstatClear _ _ => none
  | .pcieCompletion _ _ _ _ _ => none
  | .pcieCompletionTimeout _ _ => none
  | .rpcmdRetrain _ _ => none
  | .rpcmdHotReset _ _ => none
  | .rpcmdDisable _ _ => none
  | .rpcmdEnable _ _ => none
  | .scrubLine _ _ => none
  | .superstepReplay _ => none
  | .reservedOpcode w => some w
  | .coolantLimitStop => none
  | .rootPortLinkUp _ _ _ => none
  | .rootPortLinkLoss _ => none

/-- The word that four bytes hold, the byte at the lowest address in bits [7:0] (R2, R62). -/
def wordOfBytes (b0 b1 b2 b3 : Byte) : Word32 := b3 ++ b2 ++ b1 ++ b0

/-- The first instruction of a string of bytes, and the bytes behind it. -/
def decodeBytes : List Byte → Except DecodeError (Instr × List Byte)
  | b0 :: b1 :: b2 :: b3 :: rest => (decode (wordOfBytes b0 b1 b2 b3)).map (·, rest)
  | _ => .error .truncated

/-- The bytes of a word, lowest address first (R2). -/
def bytesOfWord (w : Word32) : List Byte :=
  [w.extractLsb' 0 8, w.extractLsb' 8 8, w.extractLsb' 16 8, w.extractLsb' 24 8]

/-- The instruction that the decoder reads from a word of the opcode table given by its bits; the bits above `nbits`
are 0. -/
def decodeTableWord (nbits w : Nat) : Option Instr :=
  match decodeBytes (bytesOfWord (BitVec.ofNat 32 (w % 2 ^ nbits))) with
  | .ok (i, _) => some i
  | .error _ => none

end Sys2Proof
end

