-- ==== Sys2Proof/Machine/Flags.lean ====
section
/-! DEFINITION. The five exception flags (R32) and the five rounding modes (R45). -/

namespace Sys2Proof.Machine

/-- A set of flags, laid out as FFLAGS [4:0] (R32). -/
abbrev FlagSet := BitVec 5

/-- Invalid operation (R32). -/
def flagNV : FlagSet := 0x10#5
/-- Division by zero (R32). -/
def flagDZ : FlagSet := 0x08#5
/-- Overflow (R32). -/
def flagOF : FlagSet := 0x04#5
/-- Underflow (R32). -/
def flagUF : FlagSet := 0x02#5
/-- Inexact (R32). -/
def flagNX : FlagSet := 0x01#5

/-- The set `f` where the condition holds, no flag elsewhere. -/
def flagIf (c : Bool) (f : FlagSet) : FlagSet := if c then f else 0#5

/-- The rounding modes (R45). -/
inductive Rm where
  | rne | rtz | rdn | rup | rmm
  deriving DecidableEq, Repr

/-- The mode that a code names outright; none for the reserved codes and for DYN (R45). -/
def Rm.ofCode : BitVec 3 → Option Rm
  | 0#3 => some .rne
  | 1#3 => some .rtz
  | 2#3 => some .rdn
  | 3#3 => some .rup
  | 4#3 => some .rmm
  | _ => none

/-- Step 1 of R59 for an rm field: the codes 101 and 110 are refused (R45). -/
def rmCodeOk (r : BitVec 3) : Bool := r != 5#3 && r != 6#3

/-- The mode in effect: the field's own, or FRM [2:0] under DYN; none where DYN meets an FRM of 101 to 111 (R45). -/
def effectiveRm (r : BitVec 3) (frm : Word) : Option Rm :=
  if r = 7#3 then Rm.ofCode (frm.extractLsb' 0 3) else Rm.ofCode r

/-- FFLAGS after an instruction raised `fl`: the flags are sticky (R32, R73). -/
def mergeFlags (fflags : Word) (fl : FlagSet) : Word := fflags ||| fl.setWidth 64

/-- The flags raised that FTE enables (R72, R73). -/
def enabledFlags (fte : Word) (fl : FlagSet) : FlagSet := fl &&& fte.extractLsb' 0 5

/-- The lowest lane whose flags meet FTE, counting from `i`; none if no lane's flags do (R73). -/
def firstEnabledLane (fte : Word) : Nat → List FlagSet → Option Nat
  | _, [] => none
  | i, f :: fs => if enabledFlags fte f = 0#5 then firstEnabledLane fte (i + 1) fs else some i

/-- The flags of all lanes together (R73). -/
def orFlags (fs : List FlagSet) : FlagSet := fs.foldl (· ||| ·) 0#5

end Sys2Proof.Machine
end

