-- ==== Sys2Proof/Machine/Float.lean ====
section
/-! DEFINITION. The floating-point formats and the arithmetic that is exact and rounded once (R66 to R76, R111 to
R117). A value is unpacked to an exact number, the operation is done exactly, and `roundNum` rounds it. -/

namespace Sys2Proof.Machine

/-- The formats, in the order of the fmt codes of R46. -/
inductive Fmt where
  | f32 | f64 | bf16 | f16
  deriving DecidableEq, Repr

/-- The format of an fmt code (R46). -/
def Fmt.ofCode : BitVec 2 → Fmt
  | 0#2 => .f32
  | 1#2 => .f64
  | 2#2 => .bf16
  | _ => .f16

/-- Width in bits (R66). -/
def Fmt.width : Fmt → Nat
  | .f32 => 32 | .f64 => 64 | .bf16 => 16 | .f16 => 16

/-- Fraction bits (R66). -/
def Fmt.frac : Fmt → Nat
  | .f32 => 23 | .f64 => 52 | .bf16 => 7 | .f16 => 10

/-- Exponent bits (R66). -/
def Fmt.ebits : Fmt → Nat
  | .f32 => 8 | .f64 => 11 | .bf16 => 8 | .f16 => 5

/-- Exponent bias (R66). -/
def Fmt.bias : Fmt → Nat
  | .f32 => 127 | .f64 => 1023 | .bf16 => 127 | .f16 => 15

/-- Precision in bits (R66). -/
def Fmt.prec (f : Fmt) : Nat := f.frac + 1

/-- The exponent of the smallest subnormal (R66). -/
def Fmt.qmin (f : Fmt) : Int := 1 - (f.bias : Int) - f.frac

/-- The exponent of the last place of the largest finite value (R66). -/
def Fmt.qmax (f : Fmt) : Int := (f.bias : Int) - f.frac

/-- The sign bit of the format, set when `neg`. -/
def Fmt.sign (f : Fmt) (neg : Bool) : Word := if neg then BitVec.ofNat 64 (2 ^ (f.width - 1)) else 0#64

/-- An infinity (R66). -/
def Fmt.inf (f : Fmt) (neg : Bool) : Word := f.sign neg ||| BitVec.ofNat 64 ((2 ^ f.ebits - 1) * 2 ^ f.frac)

/-- The largest finite value (R66). -/
def Fmt.largest (f : Fmt) (neg : Bool) : Word :=
  f.sign neg ||| BitVec.ofNat 64 ((2 ^ f.ebits - 1) * 2 ^ f.frac - 1)

/-- The canonical NaN (R66, R68). -/
def Fmt.nan (f : Fmt) : Word := BitVec.ofNat 64 ((2 ^ f.ebits - 1) * 2 ^ f.frac + 2 ^ (f.frac - 1))

/-- One. -/
def Fmt.one (f : Fmt) (neg : Bool) : Word := f.sign neg ||| BitVec.ofNat 64 (f.bias * 2 ^ f.frac)

/-- One half. -/
def Fmt.half (f : Fmt) : Word := BitVec.ofNat 64 ((f.bias - 1) * 2 ^ f.frac)

/-- A number read from a register: a NaN, an infinity, a signed zero, or (-1)^neg * m * 2^e with m nonzero (R66). -/
inductive Num where
  | nan (signalling : Bool)
  | inf (neg : Bool)
  | zero (neg : Bool)
  | fin (neg : Bool) (m : Nat) (e : Int)
  deriving DecidableEq, Repr

/-- The number that the low bits of a register hold in a format (R38, R66, R67). -/
def unpack (f : Fmt) (w : Word) : Num :=
  let n := w.toNat % 2 ^ f.width
  let neg := 2 ^ (f.width - 1) ≤ n
  let ex := n / 2 ^ f.frac % 2 ^ f.ebits
  let fr := n % 2 ^ f.frac
  if ex = 2 ^ f.ebits - 1 then
    if fr = 0 then .inf neg else .nan (decide (fr < 2 ^ (f.frac - 1)))
  else if ex = 0 then
    if fr = 0 then .zero neg else .fin neg fr f.qmin
  else .fin neg (2 ^ f.frac + fr) (f.qmin + ex - 1)

/-- Is the number a NaN? -/
def Num.isNan : Num → Bool
  | .nan _ => true
  | _ => false

/-- Is the number a signalling NaN? -/
def Num.isSnan : Num → Bool
  | .nan s => s
  | _ => false

/-- The number with its sign inverted; a NaN stays as it is. -/
def Num.negate : Num → Num
  | .nan s => .nan s
  | .inf n => .inf !n
  | .zero n => .zero !n
  | .fin n m e => .fin (!n) m e

/-- Does a discarded part make the magnitude grow by one unit? `odd` is the last bit kept, `cmp` compares the part
with half a unit, and the part is not zero (R70). -/
def roundsUp (rm : Rm) (neg odd : Bool) (cmp : Ordering) : Bool :=
  match rm with
  | .rne => cmp == .gt || (cmp == .eq && odd)
  | .rmm => cmp != .lt
  | .rtz => false
  | .rdn => neg
  | .rup => !neg

/-- The magnitude m * 2^e, plus a part of (0, 1) * 2^e where `sticky`, rounded to a multiple of 2^q; the multiplier
and whether anything was discarded (R70). Where q <= e and `sticky`, q must equal e. -/
def roundAt (rm : Rm) (neg : Bool) (m : Nat) (e : Int) (sticky : Bool) (q : Int) : Nat × Bool :=
  let sh := (q - e).toNat
  let n := m * 2 ^ (e - q).toNat / 2 ^ sh
  let r := m * 2 ^ (e - q).toNat % 2 ^ sh
  let inexact := r != 0 || sticky
  let cmp := if 2 * r < 2 ^ sh then .lt else if 2 * r = 2 ^ sh then (if sticky then .gt else .eq) else .gt
  (if inexact && roundsUp rm neg (n % 2 == 1) cmp then n + 1 else n, inexact)

/-- The overflow result of R70. -/
def overflowResult (rm : Rm) (f : Fmt) (neg : Bool) : Word :=
  match rm, neg with
  | .rne, _ => f.inf neg
  | .rmm, _ => f.inf neg
  | .rtz, _ => f.largest neg
  | .rdn, false => f.largest false
  | .rdn, true => f.inf true
  | .rup, false => f.inf false
  | .rup, true => f.largest true

/-- `round` of R70 with the flags of R70 and R71, for a nonzero magnitude m * 2^e, plus a part of (0, 1) * 2^e where
`sticky`; `lost` says that the value rounded is already inexact (R87). A sticky m must have at least two bits more
than the precision. -/
def roundNum (rm : Rm) (f : Fmt) (neg : Bool) (m : Nat) (e : Int) (sticky : Bool) (lost : Bool := false) :
    Word × FlagSet :=
  let qu := e + Nat.log2 m - f.frac
  let q := max qu f.qmin
  let (n, inexact) := roundAt rm neg m e sticky q
  if f.qmax < q ∨ (q = f.qmax ∧ 2 ^ f.prec ≤ n) then
    (overflowResult rm f neg, flagOF ||| flagNX)
  else
    let tiny := decide (qu < f.qmin) &&
      (let nu := (roundAt rm neg m e sticky qu).1
       decide (nu * 2 ^ (qu - (f.qmin + f.frac)).toNat < 2 ^ ((f.qmin + f.frac) - qu).toNat))
    let nx := inexact || lost
    (f.sign neg ||| BitVec.ofNat 64 ((q - f.qmin).toNat * 2 ^ f.frac + n),
      flagIf nx flagNX ||| flagIf (nx && tiny) flagUF)

/-- An exact result delivered in a format: special values as they are, a NaN canonical (R68), a number rounded. -/
def deliver (rm : Rm) (f : Fmt) (x : Num) : Word × FlagSet :=
  match x with
  | .nan s => (f.nan, flagIf s flagNV)
  | .inf n => (f.inf n, 0#5)
  | .zero n => (f.sign n, 0#5)
  | .fin n m e => roundNum rm f n m e false

/-- The exact product; an invalid product is a NaN with the first component true (R68). -/
def mulExact (a b : Num) : Bool × Num :=
  match a, b with
  | .nan s, .nan t => (s || t, .nan false)
  | .nan s, _ => (s, .nan false)
  | _, .nan s => (s, .nan false)
  | .inf _, .zero _ => (true, .nan false)
  | .zero _, .inf _ => (true, .nan false)
  | .inf m, .inf n => (false, .inf (m != n))
  | .inf m, .fin n _ _ => (false, .inf (m != n))
  | .fin m _ _, .inf n => (false, .inf (m != n))
  | .zero m, .zero n => (false, .zero (m != n))
  | .zero m, .fin n _ _ => (false, .zero (m != n))
  | .fin m _ _, .zero n => (false, .zero (m != n))
  | .fin m x e, .fin n y g => (false, .fin (m != n) (x * y) (e + g))

/-- The least exponent among the finite numbers of a list, `d` if there is none. -/
def leastExp (d : Int) : List Num → Int
  | [] => d
  | .fin _ _ e :: ts => leastExp (min d e) ts
  | _ :: ts => leastExp d ts

/-- The finite numbers of a list added on the grid 2^q. -/
def sumOnGrid (q : Int) : List Num → Int
  | [] => 0
  | .fin n m e :: ts => (if n then -(m * 2 ^ (e - q).toNat : Int) else (m * 2 ^ (e - q).toNat : Int)) + sumOnGrid q ts
  | _ :: ts => sumOnGrid q ts

/-- The exact sum of some numbers, none of them reduced to a NaN by R68 before: NaN, infinity and zero signs as R68
and R69 say. A signalling NaN, or infinities of both signs, make it invalid. DESIGN CHOICE. R69 speaks of two operands: a
zero sum of three or more takes the sign that all its terms share if all are zeros of one sign, else -0 under RDN and +0
otherwise (log 57). -/
def sumExact (rm : Rm) (ts : List Num) : Bool × Num :=
  let snan := ts.any Num.isSnan
  let pinf := ts.contains (.inf false)
  let ninf := ts.contains (.inf true)
  if ts.any Num.isNan then (snan || (pinf && ninf), .nan false)
  else if pinf && ninf then (true, .nan false)
  else if pinf then (false, .inf false)
  else if ninf then (false, .inf true)
  else
    let q := leastExp 16384 ts
    let s := sumOnGrid q ts
    if s = 0 then
      if ts.all (· == .zero true) then (false, .zero true)
      else if ts.all (· == .zero false) then (false, .zero false)
      else (false, .zero (rm == .rdn))
    else (false, .fin (decide (s < 0)) s.natAbs q)

/-- An exact result with its invalid mark, delivered (R68, R70). -/
def deliverMarked (rm : Rm) (f : Fmt) (r : Bool × Num) : Word × FlagSet :=
  let (w, fl) := deliver rm f r.2
  (w, fl ||| flagIf r.1 flagNV)

/-- rs1 + rs2 (R111). -/
def fpAdd (f : Fmt) (rm : Rm) (a b : Word) : Word × FlagSet :=
  deliverMarked rm f (sumExact rm [unpack f a, unpack f b])

/-- rs1 - rs2 (R111). DEDUCED. R69's operands of a zero sum are the summands, rs1 and the negated rs2, as in IEEE 754: (-0) - (+0)
is -0, and (+0) - (+0) is -0 under RDN; FNMA's negated product is such a summand too (log 57). -/
def fpSub (f : Fmt) (rm : Rm) (a b : Word) : Word × FlagSet :=
  deliverMarked rm f (sumExact rm [unpack f a, (unpack f b).negate])

/-- rs1 * rs2 (R111). -/
def fpMul (f : Fmt) (rm : Rm) (a b : Word) : Word × FlagSet :=
  deliverMarked rm f (mulExact (unpack f a) (unpack f b))

/-- A product and an addend, summed exactly; the product's own invalid mark counts whatever the addend holds (R68). -/
def fmaExact (rm : Rm) (p : Bool × Num) (c : Num) : Bool × Num :=
  let s := sumExact rm [p.2, c]
  (p.1 || s.1, s.2)

/-- rs1 * rs2 + rs3, or -(rs1 * rs2) + rs3, rounded once (R112). -/
def fpFma (f : Fmt) (rm : Rm) (negProduct : Bool) (a b c : Word) : Word × FlagSet :=
  let p := mulExact (unpack f a) (unpack f b)
  deliverMarked rm f (fmaExact rm (if negProduct then (p.1, p.2.negate) else p) (unpack f c))

/-- The quotient of two magnitudes, rounded in a format: (x * 2^e) / (y * 2^g). -/
def roundQuotient (rm : Rm) (f : Fmt) (neg : Bool) (x : Nat) (e : Int) (y : Nat) (g : Int) : Word × FlagSet :=
  let k := f.prec + 4 + Nat.log2 y - Nat.log2 x
  roundNum rm f neg (x * 2 ^ k / y) (e - g - k) (x * 2 ^ k % y != 0)

/-- rs1 / rs2 (R111). -/
def fpDiv (f : Fmt) (rm : Rm) (a b : Word) : Word × FlagSet :=
  match unpack f a, unpack f b with
  | .nan s, .nan t => (f.nan, flagIf (s || t) flagNV)
  | .nan s, _ => (f.nan, flagIf s flagNV)
  | _, .nan s => (f.nan, flagIf s flagNV)
  | .inf _, .inf _ => (f.nan, flagNV)
  | .zero _, .zero _ => (f.nan, flagNV)
  | .inf m, .zero n => (f.inf (m != n), 0#5)
  | .inf m, .fin n _ _ => (f.inf (m != n), 0#5)
  | .zero m, .inf n => (f.sign (m != n), 0#5)
  | .fin m _ _, .inf n => (f.sign (m != n), 0#5)
  | .fin m _ _, .zero n => (f.inf (m != n), flagDZ)
  | .zero m, .fin n _ _ => (f.sign (m != n), 0#5)
  | .fin m x e, .fin n y g => roundQuotient rm f (m != n) x e y g

/-- The largest r below 2^k + `r` whose square is at most n: the integer square root, bit by bit. -/
def isqrtFrom (n : Nat) : Nat → Nat → Nat
  | 0, r => r
  | k + 1, r => if (r + 2 ^ k) * (r + 2 ^ k) ≤ n then isqrtFrom n k (r + 2 ^ k) else isqrtFrom n k r

/-- The integer square root. -/
def isqrt (n : Nat) : Nat := isqrtFrom n (Nat.log2 n / 2 + 1) 0

/-- The square root of rs1 (R111). -/
def fpSqrt (f : Fmt) (rm : Rm) (a : Word) : Word × FlagSet :=
  match unpack f a with
  | .nan s => (f.nan, flagIf s flagNV)
  | .inf false => (f.inf false, 0#5)
  | .inf true => (f.nan, flagNV)
  | .zero n => (f.sign n, 0#5)
  | .fin true _ _ => (f.nan, flagNV)
  | .fin false m e =>
    let k := 2 * f.prec + 8 - Nat.log2 m
    let k := if (e - k) % 2 = 0 then k else k + 1
    let n := m * 2 ^ k
    let r := isqrt n
    roundNum rm f false r ((e - k) / 2) (r * r != n)

/-- Compare two numbers that are no NaNs, -0 equal to +0. -/
def numCompare (a b : Num) : Ordering :=
  let key (x : Num) : Int × Num := match x with
    | .inf n => (if n then -2 else 2, x)
    | .zero _ => (0, x)
    | .fin n _ _ => (if n then -1 else 1, x)
    | .nan _ => (0, x)
  let ka := (key a).1
  let kb := (key b).1
  if ka < kb then .lt else if kb < ka then .gt else
  match a, b with
  | .fin n x e, .fin _ y g =>
    let q := min e g
    let o := compare (x * 2 ^ (e - q).toNat) (y * 2 ^ (g - q).toNat)
    if n then o.swap else o
  | _, _ => .eq

/-- minimum or maximum (R113): `wantMax`; `prop` is the propagating form. -/
def fpMinMax (f : Fmt) (wantMax prop : Bool) (a b : Word) : Word × FlagSet :=
  let x := unpack f a
  let y := unpack f b
  let nv := flagIf (x.isSnan || y.isSnan) flagNV
  let low (w : Word) : Word := BitVec.ofNat 64 (w.toNat % 2 ^ f.width)
  if x.isNan && y.isNan then (f.nan, nv)
  else if x.isNan then (if prop then f.nan else low b, nv)
  else if y.isNan then (if prop then f.nan else low a, nv)
  else
    let less := match x, y with
      | .zero m, .zero n => m && !n
      | _, _ => numCompare x y == .lt
    (if less != wantMax then low a else low b, nv)

/-- The conditions of FCMP and of VCMP (R114, R125). -/
inductive FpCond where
  | eq | ne | lt | le | un
  deriving DecidableEq, Repr

/-- A comparison and its flags (R114, R125): LT and LE raise NV on any NaN, the others on a signalling one. -/
def fpCompare (f : Fmt) (c : FpCond) (a b : Word) : Bool × FlagSet :=
  let x := unpack f a
  let y := unpack f b
  let nan := x.isNan || y.isNan
  let snan := x.isSnan || y.isSnan
  let o := numCompare x y
  match c with
  | .eq => (!nan && o == .eq, flagIf snan flagNV)
  | .ne => (nan || o != .eq, flagIf snan flagNV)
  | .lt => (!nan && o == .lt, flagIf nan flagNV)
  | .le => (!nan && o != .gt, flagIf nan flagNV)
  | .un => (nan, flagIf snan flagNV)

/-- The class code of FCLASS (R115). -/
def fpClass (f : Fmt) (a : Word) : Word :=
  let n := a.toNat % 2 ^ f.width
  let ex := n / 2 ^ f.frac % 2 ^ f.ebits
  let kind : Nat := match unpack f a with
    | .zero _ => 0
    | .fin _ _ _ => if ex = 0 then 1 else 2
    | .inf _ => 3
    | .nan s => if s then 5 else 4
  BitVec.ofNat 64 (kind + if 2 ^ (f.width - 1) ≤ n then 8 else 0)

/-- Conversion between formats (R116). -/
def fpConvert (src dst : Fmt) (rm : Rm) (a : Word) : Word × FlagSet := deliver rm dst (unpack src a)

/-- A finite number rounded to an integer, and whether anything was discarded (R76). -/
def roundToInt (rm : Rm) (neg : Bool) (m : Nat) (e : Int) : Int × Bool :=
  let (n, nx) := roundAt rm neg m e false (max e 0)
  let n := n * 2 ^ (max e 0).toNat
  (if neg then -(n : Int) else n, nx)

/-- Conversion to an integer of the range lo to hi, saturating (R76). -/
def fpToInt (f : Fmt) (rm : Rm) (lo hi : Int) (a : Word) : Int × FlagSet :=
  match unpack f a with
  | .nan _ => (0, flagNV)
  | .inf n => (if n then lo else hi, flagNV)
  | .zero _ => (0, 0#5)
  | .fin n m e =>
    let (v, nx) := roundToInt rm n m e
    if v < lo then (lo, flagNV) else if hi < v then (hi, flagNV) else (v, flagIf nx flagNX)

/-- An exact integer times a power of two, as a number; zero is +0 (R77, R116). -/
def numOfInt (v : Int) (e : Int) : Num := if v = 0 then .zero false else .fin (decide (v < 0)) v.natAbs e

/-- Conversion of an integer (R116). -/
def fpOfInt (f : Fmt) (rm : Rm) (v : Int) : Word × FlagSet := deliver rm f (numOfInt v 0)

/-- A number as a multiple of 2^q, rounded, and whether anything was discarded (R78); none for a NaN or an infinity. -/
def numOnGrid (rm : Rm) (q : Int) (x : Num) : Option (Int × Bool) :=
  match x with
  | .nan _ => none
  | .inf _ => none
  | .zero _ => some (0, false)
  | .fin n m e =>
    let (k, nx) := roundAt rm n m e false (max e q)
    let k := k * 2 ^ (max e q - q).toNat
    some (if n then -(k : Int) else k, nx)

/-- The sign of rs1 replaced (R117): 0 takes the sign of rs2, 1 its inverse, 2 the XOR of both. -/
def fpSignInject (f : Fmt) (op : BitVec 2) (a b : Word) : Word :=
  let x := a.toNat % 2 ^ f.width
  let s := decide (2 ^ (f.width - 1) ≤ b.toNat % 2 ^ f.width)
  let s := match op with
    | 0#2 => s
    | 1#2 => !s
    | _ => s != decide (2 ^ (f.width - 1) ≤ x)
  f.sign s ||| BitVec.ofNat 64 (x % 2 ^ (f.width - 1))

end Sys2Proof.Machine
end

