-- ==== Sys2Proof/Config.lean ====
section
/-! DEFINITION. What the manual leaves open: values that no proof can see. -/

namespace Sys2Proof.Config

/-- DESIGN CHOICE. The value of a result that the spec does not state, one for each reading of the counter `free` of
the state (log 4). -/
opaque freeWord : Nat → Word

/-- DESIGN CHOICE. A free integer, as `freeWord`: a size or an order that the spec leaves to the device (log 4). -/
opaque freeNat : Nat → Nat

/-- DESIGN CHOICE. The result bits and flags of a function of R85 or R87 whose rounding the model's bounded evaluation
does not decide: selector, format code, rounding code, operand (log 5). -/
opaque undecidedFunction : Nat → BitVec 2 → BitVec 3 → Word → Word × BitVec 5

/-- DESIGN CHOICE. The LMS public key that an image carries; the spec does not say where (log 39). -/
opaque imageKey : List Byte → List Byte

/-- DESIGN CHOICE. The LMS signature that an image carries; the spec does not say where (log 39). -/
opaque imageSignature : List Byte → List Byte

/-- DESIGN CHOICE. The bytes of an image that its signature covers; the spec does not say which (log 39). -/
opaque imageSigned : List Byte → List Byte

/-- DESIGN CHOICE. The security version that an image states; the spec does not say where (log 39). -/
opaque imageVersion : List Byte → BitVec 16

/-- DESIGN CHOICE. What root port r fixes of its own Type 1 configuration header, by register: identification, class,
capabilities (log 54). -/
opaque rootHeader : Nat → Nat → Byte

end Sys2Proof.Config
end

