-- ==== Sys2Proof/Machine/State.lean ====
section
/-! DEFINITION. The state of one QTD-8A module, its reset value, and the reasons a step can stop. -/

namespace Sys2Proof.Machine

/-- Why the machine stops. Every failure of a program is a trap, a completion status or a logged event, so the one
reason is the stop of the whole module. -/
inductive Fault where
  /-- Raised by `step` while the module is stopped by the management controller (R378) and no reset is next in the
  agenda: nothing runs (safe). -/
  | moduleStopped
  deriving DecidableEq, Repr

/-- Why an instruction has no meaning. -/
inductive Refusal where
  /-- Raised by an arm of `exec` whose meaning is not written yet (safe: the machine stops where the Denog goes on). -/
  | notModelled (mnemonic : String)
  deriving DecidableEq, Repr

/-- Privilege modes (R312). -/
inductive Mode where
  | u | s | m
  deriving DecidableEq, Repr

/-- The agents that perform accesses (R217, R319, R293): banks, slices, event units, channel units, privileged blocks
(8 is the hub die's), and the slices of peer modules. -/
inductive Home where
  | unit (core : Nat)
  | cluster (k : Nat)
  | die (d : Nat)
  | slice (n : Nat)
  | event (k : Nat)
  | chan (core : Nat)
  | priv (b : Nat)
  | peer (m slice : Nat)
  deriving DecidableEq, Repr

/-- A byte's place: its home and its offset there. -/
structure Loc where
  home : Home
  off  : Nat
  deriving DecidableEq, Repr

/-- Path classes (R52, R215). -/
inductive Path where
  | core | copy | gather | matrix | coll | reloc
  deriving DecidableEq, Repr

/-- What a 64-bit word of memory carries beside its value: full/empty bit, poison (R229, R356), the released mark of a
poisoned ghost word (R357), and the slip mark: its D and the size of the tile that was moved (R235, R238). -/
structure WordTag where
  full     : Bool := false
  poison   : Bool := false
  released : Bool := false
  slip     : Option (Word × Nat) := none
  deriving DecidableEq, Repr

/-- How an access sees the word: plainly, or through the decoded or the full/empty view (R82, R316). -/
inductive View where
  | plain | q4 | fe
  deriving DecidableEq, Repr

/-- A seam message in a queue or a delivery of the pour (R184). -/
structure SeamMsg where
  land  : Nat
  deg   : BitVec 2
  dual  : Bool
  fmt   : BitVec 2
  exp   : BitVec 16
  ghost : Nat
  word  : Word
  /-- The strand that sent it. -/
  sender : Nat
  deriving DecidableEq, Repr

/-- The kinds of synchronising access (R229). -/
inductive SyncKind where
  | readLeave | readTake | writeFill | setEmpty | setFull
  deriving DecidableEq, Repr

/-- What an access does at its home. -/
inductive AccKind where
  /-- A read; a stream-buffer refill is a read of 64 bytes that poison does not stop (R63). -/
  | load (view : View) (refill : Bool)
  /-- A write of the bytes; `fe` sets the full/empty bit as well (R256), `poison` marks the words (R263). -/
  | store (data : List Byte) (fe : Option Bool) (poison : Bool)
  /-- An atomic (R251). -/
  | amo (op : BitVec 4) (operand : Word)
  /-- A compare and swap (R252). -/
  | cas (expected new : Word)
  /-- A synchronising access (R229). -/
  | sync (k : SyncKind) (data : Word)
  /-- The read of MWATCH, which arms the watch (R287). -/
  | watch
  /-- The ghost release of CSEAM (R183). -/
  | release
  /-- A probe of MSWEEP: is there a slip mark, and with which D (R272)? -/
  | probe
  /-- The write of MSTORE (R341). -/
  | mstore (data : Word)
  /-- The arrival of BARRIVE at barrier object b (R292). -/
  | barrive (b : Nat)
  /-- A word of a moved tile written at the new place, with its tag (R235). -/
  | place (data : Word) (tag : WordTag)
  /-- A read of an engine, which poison does not stop (R222, R263). -/
  | fetch (view : View)
  /-- The read of a word that a relocation copies, which its own MOVING does not hold back (R235). -/
  | lift
  /-- A check that a write would go on to be performed here, which changes nothing: of a lane before any is stored, of a
  piece of an engine's row before any byte is written (R236, R247, R262; DEDUCED, log 7). -/
  | check
  /-- The write-when-empty of a seam message, for the core that receives it (R155, R184). -/
  | seam (m : SeamMsg)
  /-- A channel send: the entry's bytes; a seam send carries its message (R184, R293). -/
  | send (data : List Byte) (vec : Bool)
  deriving DecidableEq, Repr

/-- One hop of an access: the tile left and the move's D (R236, R238). -/
structure Hop where
  base  : Word
  size  : Nat
  delta : Word
  deriving DecidableEq, Repr

/-- A status and a position at which an engine operation ends (R205, R264). -/
structure Outcome where
  status : Nat
  word1  : Word
  flags  : BitVec 5
  deriving DecidableEq, Repr

/-- An access on its way (R215). -/
structure Access where
  /-- The strand that issued it, or whose engine operation it serves. -/
  strand : Nat
  /-- Does the strand wait for the answer? -/
  answers : Bool
  /-- The engine operation that it belongs to (R222). -/
  op   : Option Nat
  va   : Word
  loc  : Loc
  len  : Nat
  kind : AccKind
  /-- The window of its announcement, of an SC access, and its number in the core's order of announcements (R233). -/
  sc   : Option (Nat × Nat)
  hops : List Hop
  /-- Does it travel in TC1 to a peer module (R309)? -/
  bulk : Bool := false
  /-- A write that was checked before: no error of a peer module stops it, and a strand's takes any number of hops (log 7). -/
  sure : Bool := false
  /-- How the engine operation that the write belongs to ends where the write cannot be made (R213, R236, R262). -/
  ending : Option Outcome := none
  /-- The ASID that it was translated under (R346); of an access that a root port's device sent, its PTROOT (R24). -/
  asid : Nat := 0
  root : Option Word := none
  deriving DecidableEq, Repr

/-- An entry of a path queue, with its serial number within the core. -/
structure PathEntry where
  path : Path
  seq  : Nat
  acc  : Access
  /-- In a retry list: has the pass of retries under way gone by it (R231)? -/
  passed : Bool := false
  /-- Has the install of a move forwarded it to where it is (R235)? -/
  forwarded : Bool := false
  deriving DecidableEq, Repr

/-- A trap: its cause code and what trap entry writes to BADVA and TVAL2 (R350). -/
structure Trap where
  code  : Nat
  badva : Word
  tval2 : Word
  deriving DecidableEq, Repr

/-- What a read of an engine has come to: status 0 with the bytes, which of them are poisoned, whether its 64-byte line
is, and its words' tags; another status (R264); or the fault that its translation met after a slip mark. -/
structure Got where
  status : Nat
  fault  : Option Trap
  data   : List Byte
  poison : List Bool
  line   : Bool
  tags   : List WordTag
  deriving DecidableEq, Repr

/-- A read of an engine (R222): its serial number, once it is on its path, and what it has come to. -/
structure Fetch where
  seq : Option Nat
  got : Option Got
  deriving DecidableEq, Repr

/-- How far a cochain instruction is (R169): the CIPROG that its run started from, and the one that it would keep now;
has it begun: is what runs next a resumption? And the flags that its elements have raised (R166). -/
structure Prog where
  start : Word
  now   : Word
  began : Bool
  flags : BitVec 5
  deriving DecidableEq, Repr

/-- What a parked instruction has had so far: a value with the hops taken, a place that an address was resolved to
(is the page of movable class?), or a trap. -/
inductive Ans where
  | val (v : Vec) (hops : List Hop)
  | place (va : Word) (l : Loc) (view : View) (movable : Bool)
  | trap (t : Trap)
  /-- A block that a refill reads, with the poison of its words (R63). -/
  | block (v : Vec) (poison : List Bool)
  /-- What an engine's read brings back. -/
  | fetched (g : Got)
  /-- The progress of a cochain instruction, which stands before its answers (R169). -/
  | progress (p : Prog)
  deriving DecidableEq, Repr

/-- A wait (R278): its kind, the BADVA of its traps, the cycle it began, the LIMIT captured, and the t of a timed form
(R279, R285). -/
structure Wait where
  kind  : Nat
  badva : Word
  start : Nat
  limit : Nat
  timed : Option Nat
  /-- An enabled interrupt has been pending since an earlier cycle (R281, R282). -/
  leaving : Bool := false
  deriving DecidableEq, Repr

/-- What a parked strand is parked for (R219, R274, R278). -/
inductive Park where
  /-- An answer from a home, an acknowledgement, or a completion. -/
  | answer
  /-- A translation, by the walk that its lookup joined (R327). -/
  | walk (va : Word) (write : Bool) (fetch : Bool)
  /-- A free entry of the posted-store queue (R219). -/
  | postedFull
  /-- Its earlier stores performed (R224). -/
  | drain
  /-- Its writes from this serial number on performed (R268). -/
  | written (seq : Nat)
  /-- The XFENCE mark with this number (R227). -/
  | fence (mark : Nat)
  /-- Every access that the core placed before this serial number performed (R302). -/
  | drainAll (seq : Nat)
  /-- A free entry of the matrix command queue (R190). -/
  | matrixFull
  /-- One of the waits of R278. -/
  | wait (w : Wait)
  /-- The kernel's answer to a forward; false while the fault queue is full (R331). -/
  | forward (written : Bool)
  /-- An enabled interrupt pending (R344). -/
  | wfi
  /-- The end of the units that its CANCEL stopped, and the count that it returns (R300). -/
  | cancel (units : List Nat) (count : Nat)
  /-- The accesses that used a dropped translation: core and serial number, and strands that hold a place resolved with
  one, and moves under way by core and ID (R346). -/
  | ctuinv (waits strands moves : List (Nat × Nat))
  deriving DecidableEq, Repr

/-- A strand runs nothing, is ready, or is parked (R274). -/
inductive Status where
  | idle | ready
  | parked (p : Park)
  deriving DecidableEq, Repr

/-- The watch of a strand (R287). -/
inductive Watch where
  | off
  | armed (va : Word) (word : Loc)
  | fired (va : Word)
  deriving DecidableEq, Repr

/-- A cochain register (R151). -/
structure CochainReg where
  bound : Bool
  fmt   : BitVec 2
  dual  : Bool
  deg   : BitVec 2
  slot  : BitVec 2
  gen   : BitVec 32
  exp   : BitVec 16
  gcount : BitVec 21
  count : BitVec 21
  gbase : BitVec 57
  dbase : BitVec 57
  deriving DecidableEq, Repr

/-- The unbound register, every field at its reset value (R36, R151). -/
def CochainReg.unbound : CochainReg :=
  { bound := false, fmt := 0, dual := false, deg := 0, slot := 0, gen := 0, exp := 0, gcount := 0, count := 0,
    gbase := 0, dbase := 0 }

/-- A routine record, checked (R207). -/
structure Routine where
  assoc : Bool
  nin   : Nat
  nout  : Nat
  type  : BitVec 3
  ident : Word
  words : List Word32
  deriving DecidableEq, Repr

/-- A block in the stream buffer: its address, its 16 words, and which 8-byte words hold poison (R63). -/
structure StreamBuffer where
  base   : Word
  words  : List Word32
  poison : List Bool
  deriving DecidableEq, Repr

/-- The unit that a strand runs (R297, R298): a serial number of its own, job, launch ticket, unit index. -/
structure UnitRef where
  uid    : Nat
  job    : Nat
  launch : Nat
  index  : Nat
  deriving DecidableEq, Repr

/-- The M-mode CSRs of a control core (R347, R354). -/
structure MRegs where
  mstatus  : Word
  mtvec    : Word
  mepc     : Word
  mcause   : Word
  mbadva   : Word
  mtval2   : Word
  mscratch : Word
  mien     : Word
  mipend   : Word
  mdeleg   : Word
  deriving DecidableEq, Repr

/-- The matrix configuration of a strand (R194). -/
structure MatrixCfg where
  kblocks : Word
  sa   : Word
  sb   : Word
  sc   : Word
  spu  : Word
  mseq : Word
  deriving DecidableEq, Repr

/-- One strand: its register files (R36), its CSRs (R347), and the rest of its state. -/
structure Strand where
  x : Vector Word 32
  f : Vector Word 32
  v : Vector Vec 32
  p : Vector Word 8
  c : Vector CochainReg 16
  pc   : Word
  mode : Mode
  fflags : Word
  frm    : Word
  fte    : Word
  fnver  : Word
  wlim   : Word
  lcnt   : Word
  lbody  : Word
  ciprog : Word
  cpstat : Word
  sstatus  : Word
  stvec    : Word
  epc      : Word
  cause    : Word
  badva    : Word
  tval2    : Word
  sscratch : Word
  ien      : Word
  ipend    : Word
  timecmp  : Word
  ibp : Vector Word 4
  m   : MRegs
  /-- The copy shadow set, in the order of R255. -/
  shadow : Vector Word 13
  mcfg   : MatrixCfg
  /-- The pending flag set of R206. -/
  pendFlags : BitVec 5
  /-- The flags that the elements of interrupted cochain instructions have raised: by the instruction's address and the
  CIPROG that it left (R166). -/
  coHeld : List (Word × Word × BitVec 5)
  handles : Vector (Option Routine) 16
  watch  : Watch
  stream : Option StreamBuffer
  /-- The pinned loop body: each word and whether it is poisoned (R65). -/
  loopBuf : List (Word32 × Bool)
  /-- The next instruction is not matched against the breakpoints (R367). -/
  skipBreak : Bool
  /-- No instruction has been fetched since the last trap entry (R353). -/
  atEntry : Bool
  /-- Registers whose two copies both fail parity: file and number (R359). -/
  unusable : List (Nat × Nat)
  unit   : Option UnitRef
  status : Status
  /-- The instruction that is under way while the strand is parked, and the answers that it has had. -/
  inst : Option Word32
  log  : List Ans
  ansv : Word
  ansa : Word
  /-- The arrival at SSYNC: its record's address and the schedule returned once committed (R302). -/
  arrived : Option Word
  synced  : Option Nat
  deriving DecidableEq, Repr

/-- A mailbox message (R205, R284): the strand and the unit it is for; has it a shared entry (R283)? -/
structure Msg where
  strand : Nat
  uid    : Nat
  word0  : Word
  word1  : Word
  shared : Bool := false
  deriving DecidableEq, Repr

/-- A message that waits for room, with the operation whose ID it frees when placed (R259, R283). -/
structure Held where
  msg : Msg
  op  : Option Nat
  /-- Does it hold a matrix command's entry (R190)? -/
  cmd : Bool
  deriving DecidableEq, Repr

/-- States of a complex slot (R137). -/
inductive SlotState where
  | empty | loaded | busy
  deriving DecidableEq, Repr

/-- A complex slot: a mold (R137); `holder` is the strand whose CXLOAD or CXEDIT holds it. -/
structure ComplexSlot where
  state  : SlotState
  gen    : BitVec 32
  desc   : List Byte
  addr   : Word
  holder : Option Nat
  deriving DecidableEq, Repr

/-- A landing register (R183). -/
structure Landing where
  valid : Bool
  err   : Bool
  reg   : CochainReg
  deriving DecidableEq, Repr

/-- A channel queue's control words (R293). -/
structure ChanQueue where
  base : Word
  cfg  : Word
  head : BitVec 32
  tail : BitVec 32
  /-- The strands that wrote the entries, by the entries' numbers (R184). -/
  senders : List (BitVec 32 × Nat)
  deriving DecidableEq, Repr

/-- A gather record (R265). -/
structure GatherRec where
  base : Word
  idx  : Word
  dst  : Word
  nrow : Nat
  rowb : Nat
  stride  : Word
  dstride : Nat
  evt  : Option Nat
  mark : Bool
  msg  : Bool
  deriving DecidableEq, Repr

/-- The record of a higher-order operation (R210). -/
structure HotRec where
  ins  : List Word
  outs : List Word
  n : Nat
  m : Nat
  deriving DecidableEq, Repr

/-- Why an element of a higher-order operation cannot be accessed: a status, or a translation fault (R213). -/
inductive HotEnd where
  | status (n : Nat)
  | fault (t : Trap)
  deriving DecidableEq, Repr

/-- How far a higher-order operation is: not begun; its reads under way, up to the one that cannot be made, if one cannot
(output element and reason), and behind them the checks of its outputs at these addresses; or its writes, and it has come to
this end: status, element, word offset, flags (R211, R213). -/
inductive HotStage where
  | start
  | reading (checked : List Nat) (short : Option (Nat × HotEnd))
  | ended (status elem rtpc : Nat) (flags : BitVec 5)
  deriving DecidableEq, Repr

/-- What an engine operation does. -/
inductive OpKind where
  /-- A copy: the snapshot of the shadow set, the rounding code, the next row, the bytes taken (R260, R262). -/
  | copy (geom : Vector Word 13) (rm : BitVec 3) (row pos : Nat)
  /-- A gather, its next row, and the row's index once it has been read; `firstWord` is kept back under MARK (R267). -/
  | gather (rec : GatherRec) (row : Nat) (index : Option Int) (firstWord : Option Word)
  /-- A relocation: old and new address, tile size (R270). -/
  | reloc (old new : Word) (size : Nat)
  /-- A retirement (R271). -/
  | retire (old : Word) (size : Nat)
  /-- A higher-order operation on the copy engine (R210): opcode, handle, routine, record. -/
  | hot (opcode : Nat) (handle : Nat) (rt : Routine) (rec : HotRec) (stage : HotStage)
  deriving DecidableEq, Repr

/-- An engine operation of a core in flight (R259). -/
structure EngineOp where
  id     : Nat
  strand : Nat
  uid    : Nat
  mode   : Mode
  frm    : Word
  fte    : Word
  fnver  : Word
  kind   : OpKind
  flags  : BitVec 5
  /-- Parked on a translation fault, for the kernel (R334). -/
  parked : Bool
  /-- Its reads under way: of a row, an index, a tile, or the inputs (R222). -/
  reads  : List Fetch
  /-- Its accesses that are not on its path yet, in their order (R216, R222). -/
  todo   : List Access
  /-- The end that it has come to. -/
  done   : Option Outcome
  deriving DecidableEq, Repr

/-- What a matrix command does: its word's fields after the operands were read (R197, R203, R204, R210). -/
inductive MatrixKind where
  | mma (type src : BitVec 3) (a b : Word)
  | mconst (type : BitVec 3) (c : BitVec 2) (t : Bool) (x : Word) (perm : Word)
  | zero
  | load (fmt : BitVec 3) (a : Word)
  | store (fmt : BitVec 3) (a : Word)
  | add (fmt : BitVec 3) (j : Nat)
  | hot (opcode : Nat) (handle : Nat) (rt : Routine) (rec : HotRec) (stage : HotStage)
  deriving DecidableEq, Repr

/-- An entry of a core's matrix command queue (R190). -/
structure MatrixCmd where
  id     : Nat
  strand : Nat
  uid    : Nat
  /-- The launch of its unit, 0 where there is none (R202). -/
  launch : Nat
  mode   : Mode
  k      : Nat
  notify : Bool
  /-- The rounding code in effect (R197). -/
  rm     : BitVec 3
  cfg    : MatrixCfg
  frm    : Word
  fte    : Word
  fnver  : Word
  wlim   : Nat
  kind   : MatrixKind
  started : Bool
  seq     : Bool
  /-- Did an accumulator that it names hold poison when it started (R191, R202)? -/
  accBad  : Bool
  /-- The tile step under way: the k-block, and its reads (R192, R222). -/
  step    : Option Nat
  reads   : List Fetch
  /-- Its accesses that are not on its path yet, in their order (R216, R222). -/
  todo    : List Access
  /-- The cycle from which a command at the head waits on a block or a slot (R200, R201). -/
  waitFrom : Option Nat
  /-- The k-blocks taken so far: index, A rows and B rows as element bits (R198, R200). -/
  blocks : List (Nat × List Word × List Word)
  done   : Option Outcome
  deriving DecidableEq, Repr

/-- An XFENCE mark (R227): entries of `a` up to `upto` come before entries of `b` behind `after`. -/
structure FenceMark where
  num : Nat
  a   : Path
  b   : Path
  seq : Nat
  deriving DecidableEq, Repr

/-- A contribution at a router (R305, R307): port codes name where it came from; the leaves under it, each with its
core and its lanes, the mode carried, and the routine of OPER 6 with its FNVER. -/
structure Contribution where
  leaves  : List (Nat × List Word)
  mode    : BitVec 3
  routine : Option Routine
  fnver   : Nat
  /-- The lanes combined so far in a routine group, with their flags. -/
  lanes   : List Word
  flags   : BitVec 5
  agrees  : Bool
  deriving DecidableEq, Repr

/-- A round of a group at one core's router (R305, R306). -/
structure Round where
  group : Nat
  /-- Has the core contributed, and not collected yet? -/
  opened : Bool
  /-- Contributions that have arrived: the port and the contribution. -/
  ports  : List (Nat × Contribution)
  /-- Has the router combined the round and sent it on? -/
  sent   : Bool
  /-- The result on its way to the core, and once it has arrived: lanes and flags (R305, R308). -/
  coming : Option (List Word × BitVec 5)
  result : Option (List Word × BitVec 5)
  /-- In host-assisted mode, the contribution that waits for fault-queue records (R333). -/
  hosted : Option (List (List Word))
  deriving DecidableEq, Repr

/-- States of pre-emption (R335). -/
inductive PState where
  | running | saving | saved | restoring
  deriving DecidableEq, Repr

/-- A spilled entry (R337): kind, queue, size, sender, payload. -/
structure Spill where
  kind    : Nat
  queue   : Nat
  size    : Nat
  sender  : Nat
  payload : List Byte
  /-- The strand that sent a channel entry, and whom a mailbox message is for. -/
  strand  : Nat
  msg     : Option Msg
  deriving DecidableEq, Repr

/-- A delivery staged at its target, not yet visible (R304): bytes for unit or cluster scratch, or a seam message. -/
structure Staged where
  loc  : Option Loc
  data : List Byte
  /-- Which of the words are poisoned. -/
  poison : List Bool
  seam : Option SeamMsg
  deriving DecidableEq, Repr

/-- A line recorded for replay: its place, bytes and tags (R362), and its number in the order in which the cores of the job
recorded in the phase (R364). -/
structure LineRec where
  loc  : Loc
  data : List Byte
  tags : List WordTag
  order : Nat
  deriving DecidableEq, Repr

/-- A matrix accumulator (R187, R189). -/
structure Accumulator where
  bits   : AccBits
  poison : Bool
  deriving DecidableEq, Repr

/-- One core, compute or control, without its strands. -/
structure Core where
  /-- The strand that runs, or that gave up the core last; is it running (R274)? -/
  run : Nat
  active : Bool
  turnStart : Nat
  qmax     : Word
  maccmask : Word
  guards   : Vector Word 8
  asid     : Word
  ptroot   : Word
  job  : Option Nat
  part : Nat
  slots   : Vector ComplexSlot 4
  landing : Vector Landing 16
  mailbox : List Msg
  held    : List Held
  posted  : List Access
  path    : List PathEntry
  seq     : Nat
  fences  : List FenceMark
  /-- Answers on their way back to strands (R219), and accesses answered at a slip mark, with D (R236). -/
  answers : List (Nat × Ans)
  slipped : List (PathEntry × Hop)
  idCounter : Nat
  ops     : List EngineOp
  /-- Event lines that gathers signal once their writes are performed: operation, line, and the serial number below
  which the writes lie (R267). -/
  events  : List (Nat × Nat × Nat)
  cmds    : List MatrixCmd
  chan    : Vector ChanQueue 16
  groups  : Vector Word 64
  rounds  : List Round
  /-- Rounds opened since job start, by group (R333). -/
  roundCount : List (Nat × Nat)
  pstate  : PState
  saveAt  : Word
  spillAt : Word
  spillN  : Nat
  spill   : List Spill
  /-- Entries diverted so far, for their places in the ring (R337). -/
  spillTail : Nat
  /-- Superstep data: the measure's base (R303), the outbox of seam messages with their target (R184), deliveries
  staged here, and the record of R362. -/
  measureFrom : Nat
  lastArrival : Nat
  outbox  : List (Nat × SeamMsg)
  staged  : List Staged
  record  : List LineRec
  /-- Accumulators recorded before their first change in the phase (R362): number, order, value. -/
  accRecord : List (Nat × Nat × Accumulator)
  /-- The scratch words that the core has written in the phase (R363). -/
  wrote : List Loc
  recording : Bool
  /-- Values recorded per strand, and values to be returned during a replay: strand, opcode, values (R362, R364). -/
  returned : List (Nat × Nat × List Word)
  toReturn : List (Nat × Nat × List Word)
  /-- The strands' states and the mailbox at the commit (R362, R364). -/
  atCommit : List (Nat × Strand)
  mailboxAt : List Msg
  deriving DecidableEq, Repr

/-- A tile of the sprue (R201): its bytes, the numbers of its poisoned words, and the uses left. -/
structure Tile where
  data   : List Byte
  poison : List Nat
  uses   : Nat
  deriving DecidableEq, Repr

/-- A published tile on its way round its ring: from position `src`, next to enter position `src + hop` (R201). -/
structure Transit where
  src  : Nat
  hop  : Nat
  tile : Tile
  job  : Nat
  deriving DecidableEq, Repr

/-- A barrier object (R290) and the children that have arrived in this phase: cluster and object. -/
structure Barrier where
  cfg      : Word
  phase    : BitVec 32
  hold     : Bool
  arrived  : Nat
  children : List (Nat × Nat)
  /-- Its arrival is on the way to its parent; its parent's flip is on the way to it (R291). -/
  rising   : Bool
  falling  : Bool
  deriving DecidableEq, Repr

/-- An entry of a CTU, or of a walk's result (R327): ASID, page size code, page number at that size, leaf. -/
structure CtuEntry where
  asid : Nat
  size : BitVec 2
  page : Nat
  leaf : Word
  deriving DecidableEq, Repr

/-- A walk in flight or queued (R327): ASID, root, address; is the miss that started it a write, of U mode, and may it
set A? -/
structure Walk where
  asid   : Nat
  root   : Word
  va     : Word
  write  : Bool
  user   : Bool
  setsA  : Bool
  deriving DecidableEq, Repr

/-- One cluster. -/
structure Cluster where
  acc  : Vector Accumulator 16
  muwt : Word
  /-- The arbiter's place: the core being visited and the steps it has had in this turn (R192). -/
  arbCore  : Nat
  arbSteps : Nat
  sprue   : Vector (Option Tile) 8
  transit : List Transit
  barriers : Vector Barrier 32
  /-- Holders of the mutexes: a strand, or none. -/
  mutexes : Vector (Option Nat) 32
  lines   : Vector (BitVec 32) 32
  ctu   : List CtuEntry
  walks : List Walk
  iva   : Word
  iasid : Word
  idata : Word
  icmd  : Word
  deriving DecidableEq, Repr

/-- A ring log: the absolute count written, the entries overwritten, and the entries by their place (R330, R361). -/
structure RingLog where
  head : BitVec 32
  lost : BitVec 32
  ents : List (Nat × List Word)
  deriving DecidableEq, Repr

/-- States of a move of the barchan (R235). -/
inductive MovePhase where
  | moving | copied | installed | refused
  deriving DecidableEq, Repr

/-- A move or retirement that a die's barchan engine holds (R235, R270): the core and ID it was issued by, the tiles. -/
structure Barchan where
  core   : Nat
  id     : Nat
  old    : Loc
  new    : Loc
  oldVa  : Word
  newVa  : Word
  size   : Nat
  phase  : Option MovePhase
  retire : Bool
  /-- The ASID that its places were translated under (R346). -/
  asid   : Nat := 0
  deriving DecidableEq, Repr

/-- One die, compute or hub (8). -/
structure Die where
  mgmt  : Word
  vlog  : RingLog
  elog  : RingLog
  fqHead : BitVec 32
  fqTail : BitVec 32
  fqRecs : List (Nat × List Word)
  jobTable : List (Nat × Word × Word)
  /-- Collective result blocks: core, group, the nine words (R333). -/
  collRes : List (Nat × Nat × List Word)
  barchan : List Barchan
  deriving DecidableEq, Repr

/-- Handshake positions of an Aqrex link end (R371 to R373). -/
inductive Shake where
  | phy | hello | offered | answered | idle
  deriving DecidableEq, Repr

/-- A frame as the link carries it: sequence number, class, times sent (R368, R369). -/
structure Frame where
  seq  : BitVec 12
  tc   : BitVec 2
  kind : BitVec 2
  data : List Byte
  sent : Nat
  deriving DecidableEq, Repr

/-- A fabric port (R368 to R375). -/
structure Port where
  lstate : BitVec 2
  speed  : BitVec 2
  fails  : Nat
  resent : BitVec 32
  lrec   : Word
  prec   : Word
  seq    : BitVec 12
  ack    : BitVec 12
  nak    : Bool
  retry  : List Frame
  sent   : Vector (BitVec 16) 3
  freedByPeer : Vector (BitVec 16) 3
  freed  : Vector (BitVec 16) 3
  buf    : Vector Nat 3
  peerLid : Option (BitVec 32)
  shake  : Shake
  shakeFrom : Nat
  lastHello : Nat
  attempt : BitVec 16
  target : BitVec 2
  /-- Retraining waits for a STEP of the kernel (R340). -/
  stepWait : Bool
  /-- Data frames that wait to be sent: class, receiver, payload (R309). -/
  wait   : List (Nat × Nat × List Byte)
  /-- The classes of the last 63 frames sent, latest first (R309). -/
  recent : List (BitVec 2)
  /-- TC1 pacing as source (R310): for each receiver, bytes announced and not granted, and the grants held with the bytes
  that each still has to be sent. -/
  announced : List (Nat × Nat)
  granted   : List (Nat × List Nat)
  /-- As receiver: the sources in their order, with the bytes that each still waits to be granted. -/
  sources   : List (Nat × Nat)
  deriving DecidableEq, Repr

/-- A request that a root port has sent and that is not complete (R25). -/
structure PcieReq where
  strand : Nat
  /-- The address of the strand's access, and the address that goes out: the PCIe address or the ECAM offset. -/
  va     : Word
  addr   : Word
  len    : Nat
  write  : Bool
  start  : Nat
  deriving DecidableEq, Repr

/-- A PCIe root port (R24, R25). -/
structure RootPort where
  rpstat  : Word
  apbase  : Word
  msibase : Word
  /-- What has been written to the port's own Type 1 configuration header, by register (R25). -/
  header  : List (Nat × Byte)
  rtab    : List (Nat × Word × Word)
  pending : List PcieReq
  deriving DecidableEq, Repr

/-- A launch of a job (R294, R295). -/
structure Launch where
  ticket  : Nat
  entry   : Word
  image   : Option Word
  arg     : Word
  nunits  : Nat
  prio    : Nat
  notify  : Bool
  defer   : Bool
  waiting : Bool
  graph   : Nat
  csFirst : Nat
  csCount : Nat
  preds   : Nat
  succ    : List Nat
  /-- Who asked: strand and unit. -/
  strand  : Nat
  uid     : Nat
  placed  : Nat
  ended   : Nat
  doneOk  : Nat
  lost    : Nat
  faulted : Bool
  /-- Has a CANCEL covered it, and in which cycle (R300)? -/
  cancelled : Bool
  cancelAt  : Nat
  /-- In the phase's count (R295)? -/
  inPhase : Bool
  /-- Cores that hold its image (R294). -/
  loaded  : List Nat
  /-- Its turn within its priority queue (R298): the least goes next. -/
  turn    : Nat
  deriving DecidableEq, Repr

/-- What an uncorrectable error has struck (R363): a word, an accumulator of a cluster, a register of a strand. -/
inductive Struck where
  | word (l : Loc)
  | acc (cluster k : Nat)
  | reg (strand file number : Nat)
  deriving DecidableEq, Repr

/-- A job (R342, R295, R301 to R304). -/
structure Job where
  det   : Bool
  ord   : Bool
  chg   : Bool
  /-- The order that takes effect at the next phase (R91). -/
  nextOrd : Bool
  fnver : Nat
  key   : BitVec 24
  asid  : Word
  ptroot : Word
  stvec  : Word
  /-- The core table: core numbers by partition. -/
  cores : List Nat
  launches : List Launch
  /-- Launches entered, for the order of turns. -/
  entered : Nat
  started : Bool
  pouring : Bool
  curSched : Nat
  lastRow  : List Nat
  /-- The schedule chosen, and its row of weights (R303). -/
  chosen   : Option (Nat × List Nat)
  lastArrival : Nat
  pourFrom : Option Nat
  /-- Plan entries still to be sent: core, entry bytes (R304). -/
  toSend   : List (Nat × List Byte)
  /-- Deliveries sent and not staged: target core, delivery. -/
  flying   : List (Nat × Staged)
  /-- The launches at the last commit, and those begun since, as they began (R364). -/
  launchesAt : List Launch
  begun      : List Launch
  replays  : Nat
  /-- The error that the replay under way was begun for (R365). -/
  struck : Option Struck
  startCycle : Nat
  deriving DecidableEq, Repr

/-- The hub die's boot and management state (R376 to R378). -/
structure Hub where
  module : Nat
  ports : Vector Port 16
  roots : Vector RootPort 4
  vtab  : List (Nat × Word)
  vstat : List (Nat × Word)
  /-- Digest of the boot key and security floor, fused in OTP. -/
  otpKey   : List Byte
  otpFloor : Nat
  leaf     : Nat
  log      : List (List Byte)
  running  : List Byte
  /-- The last answer to an attestation request (R377): the digest that is signed, and the leaf index. -/
  attested : Option (List Byte × Nat)
  booted   : Bool
  recovery : Bool
  stopped  : Bool
  throttled : Bool
  /-- The slices that serve blocks of 512 bytes of peer modules, where input has named them (R217). -/
  peerSlices : List (Nat × Nat)
  /-- The cores, by their numbers, that are disabled and that management reports absent; of a disabled cluster all eight
  (R9). -/
  absent : List Nat
  deriving DecidableEq, Repr

/-- What comes next: the model's input, plain data. `event` lets the device take one of its own steps, for the strand
named; `issue` lets a core issue, a cochain instruction at most `slice` elements; the others are what happens to the
module from outside. -/
inductive Move where
  | event (strand : Nat) (i : Instr)
  | issue (core : Nat) (slice : Option Nat)
  | tick (cycles ns : Nat)
  | badRegister (strand file number : Nat)
  | badCopy (strand file number : Nat)
  | poisonWord (l : Loc)
  | correctable (l : Loc)
  | badAccumulator (cluster k : Nat)
  | evict (cluster n : Nat)
  /-- A part is disabled: a core, or a cluster (R9). -/
  | disableCore (core : Nat)
  | disableCluster (cluster : Nat)
  /-- A peer module's pages place a block of 512 bytes on a slice (R217). -/
  | peerSlice (block slice : Nat)
  | extContribution (core group : Nat) (c : Contribution)
  | extResult (core group : Nat) (lanes : List Word) (flags : BitVec 5)
  deriving DecidableEq, Repr

/-- The module. -/
structure State where
  /-- The strand whose turn it is: 8 times its core's number, plus its own number. Cores 0 to 4095 are the compute
  cores, by bits [11:0] of their endpoint ID; 4096 to 4127 the control cores; 4128 to 4131 stand for the root ports'
  translation stages, and the numbers from 4132 on for the path queues of other modules, with what comes in from them. -/
  cur     : Nat
  agenda  : List Move
  /-- How many elements the next cochain instruction may run before it pauses; none, no limit. -/
  slice   : Option Nat
  cycle   : Nat
  time    : Word
  /-- The place of the next free value (the model's own). -/
  free    : Nat
  /-- Serial number of the next unit (the model's own). -/
  nextUid : Nat
  strands  : List (Nat × Strand)
  cores    : List (Nat × Core)
  clusters : List (Nat × Cluster)
  dies     : List (Nat × Die)
  hub      : Hub
  jobs     : List (Nat × Job)
  mem  : List Host.Cell
  tags : List (Nat × WordTag)
  /-- Accesses waiting at a home, oldest first over the whole module: core, path, access (R230). -/
  retry : List (Nat × PathEntry)
  deriving DecidableEq, Repr

/-- An M-mode register set at reset (log 2). -/
def MRegs.reset : MRegs :=
  { mstatus := 0, mtvec := 0, mepc := 0, mcause := 0, mbadva := 0, mtval2 := 0, mscratch := 0, mien := 0,
    mipend := 0, mdeleg := 0 }

/-- The matrix configuration at unit start and at reset (R194). -/
def MatrixCfg.start : MatrixCfg := { kblocks := 1, sa := 64, sb := 64, sc := 128, spu := 1, mseq := 0 }

/-- The shadow set at unit start and at reset (R29, R255): N1, N2 and N3 are 1. -/
def shadowStart : Vector Word 13 := #v[0, 0, 0, 1, 1, 1, 0, 0, 0, 0, 0, 0, 0]

/-- A strand after module reset, in the mode given (R36, R406 and the maps of the CSRs; log 2). -/
def Strand.reset (mode : Mode) : Strand :=
  { x := Vector.replicate 32 0, f := Vector.replicate 32 0, v := Vector.replicate 32 0,
    p := #v[BitVec.allOnes 64, 0, 0, 0, 0, 0, 0, 0], c := Vector.replicate 16 CochainReg.unbound
    pc := 0, mode := mode
    fflags := 0, frm := 0, fte := 0, fnver := 3, wlim := 0x100000000#64, lcnt := 0, lbody := 0, ciprog := 0,
    cpstat := 0, sstatus := 0, stvec := 0, epc := 0, cause := 0, badva := 0, tval2 := 0, sscratch := 0, ien := 0,
    ipend := 0, timecmp := BitVec.allOnes 64, ibp := Vector.replicate 4 0, m := MRegs.reset
    shadow := shadowStart, mcfg := MatrixCfg.start, pendFlags := 0, coHeld := [], handles := Vector.replicate 16 none
    watch := .off, stream := none, loopBuf := [], skipBreak := false, atEntry := false, unusable := []
    unit := none, status := .idle, inst := none, log := [], ansv := 0, ansa := 0, arrived := none, synced := none }

/-- An empty slot (R137). -/
def ComplexSlot.reset : ComplexSlot := { state := .empty, gen := 0, desc := [], addr := 0, holder := none }

/-- A clear landing register (R183). -/
def Landing.reset : Landing := { valid := false, err := false, reg := CochainReg.unbound }

/-- A channel queue at reset, not enabled (R293; log 2). -/
def ChanQueue.reset : ChanQueue := { base := 0, cfg := 0, head := 0, tail := 0, senders := [] }

/-- A core after module reset (R137, R188, R259, R275, R283, R305, R320; log 2). -/
def Core.reset : Core :=
  { run := 0, active := false, turnStart := 0, qmax := 0x10000#64, maccmask := 0, guards := Vector.replicate 8 0, asid := 0,
    ptroot := 0, job := none, part := 0, slots := Vector.replicate 4 ComplexSlot.reset,
    landing := Vector.replicate 16 Landing.reset, mailbox := [], held := [], posted := [], path := [], seq := 0,
    fences := [], answers := [], slipped := [], idCounter := 0, ops := [], events := [], cmds := [],
    chan := Vector.replicate 16 ChanQueue.reset, groups := Vector.replicate 64 0, rounds := [], roundCount := [],
    pstate := .running, saveAt := 0, spillAt := 0, spillN := 0, spill := [], spillTail := 0, measureFrom := 0,
    lastArrival := 0, outbox := [], staged := [], record := [], accRecord := [], wrote := [], recording := true, returned := [], toReturn := [],
    atCommit := [], mailboxAt := [] }

/-- A barrier object at reset, unconfigured (R290). -/
def Barrier.reset : Barrier := { cfg := 0, phase := 0, hold := false, arrived := 0, children := [], rising := false, falling := false }

/-- A cluster after module reset (R36, R192, R201, R290; log 2). -/
def Cluster.reset : Cluster :=
  { acc := Vector.replicate 16 { bits := 0, poison := false }, muwt := 0x11111111#64, arbCore := 0, arbSteps := 0,
    sprue := Vector.replicate 8 none, transit := [], barriers := Vector.replicate 32 Barrier.reset,
    mutexes := Vector.replicate 32 none, lines := Vector.replicate 32 0, ctu := [], walks := [], iva := 0,
    iasid := 0, idata := 0, icmd := 0 }

/-- An empty log (log 2). -/
def RingLog.reset : RingLog := { head := 0, lost := 0, ents := [] }

/-- A die after module reset, every managed function in hardware (R340; log 2). -/
def Die.reset : Die :=
  { mgmt := 0x1F#64, vlog := RingLog.reset, elog := RingLog.reset, fqHead := 0, fqTail := 0, fqRecs := [],
    jobTable := [], collRes := [], barchan := [] }

/-- A fabric port at reset, down (log 2). -/
def Port.reset : Port :=
  { lstate := 0, speed := 0, fails := 0, resent := 0, lrec := 0, prec := 0, seq := 0, ack := 0, nak := false,
    retry := [], sent := Vector.replicate 3 0, freedByPeer := Vector.replicate 3 0, freed := Vector.replicate 3 0,
    buf := Vector.replicate 3 0, peerLid := none, shake := .idle, shakeFrom := 0, lastHello := 0, attempt := 0,
    target := 0, stepWait := false, wait := [], recent := [], announced := [], granted := [], sources := [] }

/-- A root port at reset, down (log 2). -/
def RootPort.reset : RootPort := { rpstat := 0, apbase := 0, msibase := 0, header := [], rtab := [], pending := [] }

/-- The hub at reset (R26, R377; log 2). -/
def Hub.reset : Hub :=
  { module := 0, ports := Vector.replicate 16 Port.reset, roots := Vector.replicate 4 RootPort.reset, vtab := [],
    vstat := [], otpKey := List.replicate 32 0, otpFloor := 0, leaf := 0, log := [],
    running := List.replicate 32 0, attested := none, booted := false, recovery := false, stopped := false, throttled := false,
    peerSlices := [], absent := [] }

/-- The module right after reset: every register at its reset value, no unit on any strand, memory with nothing
listed. -/
def State.reset : State :=
  { cur := 0, agenda := [], slice := none, cycle := 0, time := 0, free := 0, nextUid := 1, strands := [], cores := [],
    clusters := [], dies := [], hub := Hub.reset, jobs := [], mem := [], tags := [], retry := [] }

end Sys2Proof.Machine
end

