-- ==== Sys2Proof/Machine/Store.lean ====
section
/-! DEFINITION. Sparse tables by number, and memory: bytes and word tags by place. -/

namespace Sys2Proof.Machine

/-- The entry of a table at a key, `d` where none is listed. -/
def tableGet {α : Type} (d : α) : List (Nat × α) → Nat → α
  | [], _ => d
  | (k, v) :: r, a => if k = a then v else tableGet d r a

/-- A table with the entry at a key set, its keys kept rising. -/
def tableSet {α : Type} : List (Nat × α) → Nat → α → List (Nat × α)
  | [], a, x => [(a, x)]
  | (k, v) :: r, a, x =>
    if a < k then (a, x) :: (k, v) :: r else if a = k then (a, x) :: r else (k, v) :: tableSet r a x

/-- A table without the entries at a key. -/
def tableErase {α : Type} (t : List (Nat × α)) (a : Nat) : List (Nat × α) := t.filter fun e => e.1 != a

/-- A table with the entry at a key set, where a value of `d` is not listed. -/
def tablePut {α : Type} [DecidableEq α] (d : α) (t : List (Nat × α)) (a : Nat) (x : α) : List (Nat × α) :=
  if x = d then tableErase t a else tableSet t a x

/-- Keys rise strictly, and no entry is `d`: the canonical form of a table. -/
def tableCanon {α : Type} [DecidableEq α] (d : α) : List (Nat × α) → Bool
  | [] => true
  | (_, x) :: [] => x != d
  | (k, x) :: (k', x') :: r => x != d && decide (k < k') && tableCanon d ((k', x') :: r)

/-- The number of a home, for the keys of memory. -/
def Home.code : Home → Nat
  | .unit c => c
  | .cluster k => 0x10000 + k
  | .die d => 0x20000 + d
  | .slice n => 0x30000 + n
  | .event k => 0x40000 + k
  | .chan c => 0x50000 + c
  | .priv b => 0x60000 + b
  | .peer m n => 0x70000 + 256 * m + n

/-- The key of a byte: its home and its offset below 2^40. -/
def Loc.key (l : Loc) : Nat := l.home.code * 2 ^ 40 + l.off

/-- The place n bytes on. -/
def Loc.plus (l : Loc) (n : Nat) : Loc := { l with off := l.off + n }

/-- DESIGN CHOICE. What a byte reads as that nothing has written (log 1). -/
def Memory.blank : Byte := 0#8

/-- What a word carries that nothing has touched (log 1). -/
def WordTag.blank : WordTag := {}

/-- The canonical form of memory: addresses rise, and no byte listed is blank. -/
abbrev Memory.wf (m : List Host.Cell) : Bool := tableCanon Memory.blank m

/-- The byte at a place. -/
def State.byteAt (s : State) (l : Loc) : Byte := tableGet Memory.blank s.mem l.key

/-- The bytes of a list of cells put into memory from a key up. -/
def putBytes : List Host.Cell → Nat → List Byte → List Host.Cell
  | m, _, [] => m
  | m, k, b :: bs => putBytes (tablePut Memory.blank m k b) (k + 1) bs

/-- n bytes from a key up. -/
def getBytes (m : List Host.Cell) (k : Nat) : Nat → List Byte
  | 0 => []
  | n + 1 => tableGet Memory.blank m k :: getBytes m (k + 1) n

/-- n bytes at a place, lowest address first. -/
def State.bytesAt (s : State) (l : Loc) (n : Nat) : List Byte := getBytes s.mem l.key n

/-- The number that bytes hold, little-endian (R2). -/
def natOfBytes : List Byte → Nat
  | [] => 0
  | b :: bs => b.toNat + 256 * natOfBytes bs

/-- n bytes of a number, little-endian (R2). -/
def bytesOfNat : Nat → Nat → List Byte
  | 0, _ => []
  | n + 1, x => BitVec.ofNat 8 x :: bytesOfNat n (x / 256)

/-- The number in n bytes at a place. -/
def State.natAt (s : State) (l : Loc) (n : Nat) : Nat := natOfBytes (s.bytesAt l n)

/-- The 64-bit word at a place. -/
def State.wordAt (s : State) (l : Loc) : Word := BitVec.ofNat 64 (s.natAt l 8)

/-- The tag of the 64-bit word that holds a byte. -/
def State.tagAt (s : State) (l : Loc) : WordTag := tableGet WordTag.blank s.tags (l.key / 8)

/-- The tag of the word that holds a byte, replaced. -/
def State.setTag (s : State) (l : Loc) (t : WordTag) : State :=
  { s with tags := tablePut WordTag.blank s.tags (l.key / 8) t }

/-- Bytes written at a place, tags left alone. -/
def State.putRaw (s : State) (l : Loc) (bs : List Byte) : State := { s with mem := putBytes s.mem l.key bs }

/-- The places of the words that n bytes touch, each at its word's first byte. -/
def wordsOf (l : Loc) (n : Nat) : List Loc :=
  if n = 0 then [] else
  let first := l.off / 8
  let last := (l.off + n - 1) / 8
  (List.range (last - first + 1)).map fun i => { l with off := 8 * (first + i) }

/-- Does a word among the n bytes hold poison? -/
def State.anyPoison (s : State) (l : Loc) (n : Nat) : Bool := (wordsOf l n).any fun w => (s.tagAt w).poison

/-- How far into the n bytes the lowest poisoned byte lies (R242). -/
def State.firstPoison (s : State) (l : Loc) (n : Nat) : Option Nat :=
  ((wordsOf l n).find? fun w => (s.tagAt w).poison).map fun w => w.off - l.off

/-- One strand. -/
def State.strand (s : State) (h : Nat) : Strand :=
  tableGet (Strand.reset (if 4096 ≤ h / 8 then .m else .u)) s.strands h
/-- One strand, replaced. -/
def State.setStrand (s : State) (h : Nat) (t : Strand) : State := { s with strands := tableSet s.strands h t }
/-- One strand, changed. -/
def State.modStrand (s : State) (h : Nat) (f : Strand → Strand) : State := s.setStrand h (f (s.strand h))

/-- One core. -/
def State.core (s : State) (c : Nat) : Core := tableGet Core.reset s.cores c
/-- One core, replaced. -/
def State.setCore (s : State) (c : Nat) (t : Core) : State := { s with cores := tableSet s.cores c t }
/-- One core, changed. -/
def State.modCore (s : State) (c : Nat) (f : Core → Core) : State := s.setCore c (f (s.core c))

/-- One cluster, numbered over the module. -/
def State.cluster (s : State) (k : Nat) : Cluster := tableGet Cluster.reset s.clusters k
/-- One cluster, replaced. -/
def State.setCluster (s : State) (k : Nat) (t : Cluster) : State := { s with clusters := tableSet s.clusters k t }
/-- One cluster, changed. -/
def State.modCluster (s : State) (k : Nat) (f : Cluster → Cluster) : State := s.setCluster k (f (s.cluster k))

/-- One die; 8 is the hub die. -/
def State.die (s : State) (d : Nat) : Die := tableGet Die.reset s.dies d
/-- One die, replaced. -/
def State.setDie (s : State) (d : Nat) (t : Die) : State := { s with dies := tableSet s.dies d t }
/-- One die, changed. -/
def State.modDie (s : State) (d : Nat) (f : Die → Die) : State := s.setDie d (f (s.die d))

/-- A job, if there is one of that number. -/
def State.job? (s : State) (j : Nat) : Option Job := (s.jobs.find? fun e => e.1 == j).map Prod.snd
/-- A job, changed if it is there. -/
def State.modJob (s : State) (j : Nat) (f : Job → Job) : State :=
  { s with jobs := s.jobs.map fun e => if e.1 = j then (j, f e.2) else e }

/-- Is the core a control core (R11)? -/
def isControl (c : Nat) : Bool := decide (4096 ≤ c)
/-- The core of a strand. -/
def coreOf (h : Nat) : Nat := h / 8
/-- The cluster of a core, numbered over the module (R10). -/
def clusterOf (c : Nat) : Nat := c / 8
/-- The die of a core (R10); 8, the hub die, for a control core. -/
def dieOf (c : Nat) : Nat := if isControl c then 8 else c / 512
/-- The endpoint ID of a compute core, or the module number and hub agent number of a control core (R10, R11). -/
def State.endpoint (s : State) (c : Nat) : Nat := s.hub.module % 1024 * 4096 + (if isControl c then c - 4096 else c)

/-- The strand whose turn it is. -/
def State.me (s : State) : Strand := s.strand s.cur
/-- The strand whose turn it is, changed. -/
def State.modMe (s : State) (f : Strand → Strand) : State := s.modStrand s.cur f
/-- The core whose turn it is. -/
def State.here (s : State) : Nat := coreOf s.cur

/-- The job that a core serves (R342). -/
def State.jobOf (s : State) (c : Nat) : Option Job := (s.core c).job.bind s.job?

/-- DESIGN CHOICE. The place of an address of a peer module: which of its 256 slices holds it, the module's own pages
decide, so input names it for a block of 512 bytes; where none has, the block's number does (R217, R325; log 58). -/
def State.peerPlace (s : State) (m o : Nat) : Loc :=
  { home := .peer m (tableGet (o / 512) s.hub.peerSlices (m * 2 ^ 36 + o / 512) % 256), off := o }

/-- The next free value's place, and the counter moved on (log 4). -/
def State.nextFree (s : State) : Nat × State := (s.free, { s with free := s.free + 1 })

end Sys2Proof.Machine
end

