-- ==== Sys2Proof/Machine/Ops.lean ====
section
/-! DEFINITION. The named operations over registers and over the strands' and cores' common state: register reads and
writes, interrupts pending, taking a trap and returning from one, the end of an instruction, mailbox messages, logs. -/

namespace Sys2Proof.Machine

/-- An integer register; x0 reads 0 (R36). -/
def Strand.getX (t : Strand) (r : BitVec 5) : Word := if r = 0#5 then 0#64 else t.x[r.toNat]'(r.isLt)
/-- A register's mark of R359 taken away by a write. -/
def Strand.clearMark (t : Strand) (file n : Nat) : List (Nat × Nat) := t.unusable.filter fun e => e != (file, n)
/-- The marks of R359 taken away by writes of CSRs. -/
def Strand.clearCsrs (t : Strand) (ns : List Nat) : List (Nat × Nat) := t.unusable.filter fun e => !(e.1 == 5 && ns.contains e.2)
/-- An integer register written; x0 discards (R37). -/
def Strand.setX (t : Strand) (r : BitVec 5) (w : Word) : Strand :=
  if r = 0#5 then t else { t with x := t.x.set r.toNat w r.isLt, unusable := t.clearMark 0 r.toNat }
/-- A floating-point register (R36). -/
def Strand.getF (t : Strand) (r : BitVec 5) : Word := t.f[r.toNat]'(r.isLt)
/-- A floating-point register written; the value's upper bits are already 0 (R38). -/
def Strand.setF (t : Strand) (r : BitVec 5) (w : Word) : Strand :=
  { t with f := t.f.set r.toNat w r.isLt, unusable := t.clearMark 1 r.toNat }
/-- A vector register (R36). -/
def Strand.getV (t : Strand) (r : BitVec 5) : Vec := t.v[r.toNat]'(r.isLt)
/-- A vector register written. -/
def Strand.setV (t : Strand) (r : BitVec 5) (w : Vec) : Strand :=
  { t with v := t.v.set r.toNat w r.isLt, unusable := t.clearMark 2 r.toNat }
/-- A predicate register; p0 reads all ones (R34, R36). -/
def Strand.getP (t : Strand) (r : BitVec 3) : Word := if r = 0#3 then BitVec.allOnes 64 else t.p[r.toNat]'(r.isLt)
/-- A predicate register written; p0 discards (R37). -/
def Strand.setP (t : Strand) (r : BitVec 3) (w : Word) : Strand :=
  if r = 0#3 then t else { t with p := t.p.set r.toNat w r.isLt, unusable := t.clearMark 3 r.toNat }
/-- A cochain register (R151). -/
def Strand.getC (t : Strand) (r : BitVec 4) : CochainReg := t.c[r.toNat]'(r.isLt)
/-- A cochain register written. -/
def Strand.setC (t : Strand) (r : BitVec 4) (w : CochainReg) : Strand :=
  { t with c := t.c.set r.toNat w r.isLt, unusable := t.clearMark 4 r.toNat }

/-- The 256 bits of a cochain register (R151). -/
def CochainReg.bits (c : CochainReg) : BitVec 256 :=
  0#24 ++ BitVec.ofBool c.bound ++ c.fmt ++ BitVec.ofBool c.dual ++ c.deg ++ c.slot ++ c.gen ++ 0#6 ++ c.exp ++
    c.gcount ++ c.count ++ 0#7 ++ c.gbase ++ 0#7 ++ c.dbase

/-- The register that 256 bits describe (R151). -/
def CochainReg.ofBits (b : BitVec 256) : CochainReg :=
  { bound := b.getLsbD 231, fmt := b.extractLsb' 229 2, dual := b.getLsbD 228, deg := b.extractLsb' 226 2,
    slot := b.extractLsb' 224 2, gen := b.extractLsb' 192 32, exp := b.extractLsb' 170 16,
    gcount := b.extractLsb' 149 21, count := b.extractLsb' 128 21, gbase := b.extractLsb' 64 57,
    dbase := b.extractLsb' 0 57 }

/-- Bits of a word set to a value. -/
def setField (w : Word) (lo width : Nat) (v : Nat) : Word :=
  let m := BitVec.ofNat 64 ((2 ^ width - 1) * 2 ^ lo)
  (w &&& ~~~m) ||| (BitVec.ofNat 64 (v % 2 ^ width * 2 ^ lo))

/-- Bits of a word as a number. -/
def getField (w : Word) (lo width : Nat) : Nat := w.toNat / 2 ^ lo % 2 ^ width

/-! Interrupts pending. -/

/-- The messages held for a strand, oldest first (R283). -/
def State.messages (s : State) (h : Nat) : List Msg := (s.core (coreOf h)).mailbox.filter fun m => m.strand == h

/-- IPEND as it reads: TMR and MBX follow their conditions (R343). -/
def State.ipend (s : State) (h : Nat) : Word :=
  let t := s.strand h
  setField (setField t.ipend 2 1 (if t.timecmp.toNat ≤ s.time.toNat then 1 else 0)) 3 1
    (if (s.messages h).isEmpty then 0 else 1)

/-- MIPEND as it reads on a control core: TMR and MBX follow their conditions as in IPEND (R347). -/
def State.mipend (s : State) (h : Nat) : Word := (s.strand h).m.mipend ||| (s.ipend h &&& 0xC#64)

/-- The highest code from 5 down to 1 whose bit is set. -/
def highestCode (w : Word) : Option Nat := [5, 4, 3, 2, 1].find? fun c => w.getLsbD c

/-- Is an interrupt of this code taken in M mode (R354)? -/
def toMachine (h : Nat) (t : Strand) (c : Nat) : Bool := isControl (coreOf h) && !t.m.mdeleg.getLsbD (32 + c)

/-- Codes set in a word, highest first. -/
def codesOf (w : Word) : List Nat := [5, 4, 3, 2, 1].filter fun c => w.getLsbD c

/-- The interrupt that the strand takes at a boundary: the highest pending code that is enabled, in its IEN or MIEN,
and that the mode lets in (R343, R354). -/
def State.interruptDue (s : State) (h : Nat) : Option Nat :=
  let t := s.strand h
  [5, 4, 3, 2, 1].find? fun c =>
    if toMachine h t c then
      t.m.mien.getLsbD c && (s.mipend h).getLsbD c && (t.mode != .m || t.m.mstatus.getLsbD 0)
    else
      t.ien.getLsbD c && (s.ipend h).getLsbD c && (t.mode == .u || (t.mode == .s && t.sstatus.getLsbD 0))

/-! Becoming ready, parking, giving up the core. -/

/-- Is the strand ready? -/
def Strand.isReady (t : Strand) : Bool := t.status == .ready

/-- The first ready strand of a core in ring order from `r` + 1, `n` more to look at (R274). -/
def State.readyFrom (s : State) (c r : Nat) : Nat → Option Nat
  | 0 => none
  | n + 1 =>
    let k := (r + 1) % 6
    if (s.strand (8 * c + k)).isReady then some k else s.readyFrom c k n

/-- Does a core's running strand go on? -/
def State.runs (s : State) (c : Nat) : Bool := (s.core c).active && (s.strand (8 * c + (s.core c).run)).isReady

/-- A core takes the first ready strand in ring order from the one that gave it up, with a new budget; where none is ready
it has none (R274, R275). -/
def State.choose (s : State) (c : Nat) : State :=
  match s.readyFrom c (s.core c).run 6 with
  | some k => s.modCore c fun t => { t with run := k, active := true, turnStart := s.cycle }
  | none => s.modCore c fun t => { t with active := false }

/-- The running strand gives up the core (R274). -/
def State.giveUp (s : State) (c : Nat) : State := s.choose c

/-- A strand becomes ready. A core that has none running takes it, or another that is ready in the same cycle, when it
issues next or the cycle ends (R274). -/
def State.wake (s : State) (h : Nat) : State := s.modStrand h fun t => { t with status := .ready }

/-- A strand parks, and its core passes on (R274). -/
def State.park (s : State) (h : Nat) (p : Park) : State :=
  (s.modStrand h fun t => { t with status := .parked p }).giveUp (coreOf h)

/-- The answer to a parked strand's access: it becomes ready with it (R219). -/
def State.answer (s : State) (h : Nat) (a : Ans) : State :=
  (s.modStrand h fun t => { t with log := t.log ++ [a] }).wake h

/-- Does the strand wait (R278)? -/
def Strand.waiting? (t : Strand) : Option Wait :=
  match t.status with
  | .parked (.wait w) => some w
  | _ => none

/-! Logs. -/

/-- A violation log or error log with an entry written (R330, R361). -/
def RingLog.push (l : RingLog) (size : Nat) (ws : List Word) : RingLog :=
  { head := l.head + 1
    lost := if size ≤ l.ents.length then l.lost + 1 else l.lost
    ents := tableSet l.ents (l.head.toNat % size) ws }

/-- Is an interrupt pending that WFI waits for (R344)? On a control core MIEN and MIPEND count as well (DEDUCED,
log 26). -/
def State.wfiDone (s : State) (h : Nat) : Bool :=
  (s.strand h).ien &&& s.ipend h != 0 || (isControl (coreOf h) && (s.strand h).m.mien &&& s.mipend h != 0)

/-- A WFI that a pending interrupt ends, ends (R344). -/
def State.wakeWfi (s : State) (h : Nat) : State :=
  if (s.strand h).status == .parked .wfi && s.wfiDone h then s.wake h else s

/-- IPEND.EXT raised at a strand, MIPEND.EXT with it on a control core (R330, R343). -/
def State.raiseExt (s : State) (h : Nat) : State :=
  (s.modStrand h fun t =>
    { t with ipend := t.ipend ||| 0x20#64,
             m := if isControl (coreOf h) then { t.m with mipend := t.m.mipend ||| 0x20#64 } else t.m }).wakeWfi h

/-- The strand of the control core that a die's MGMTMODE names (R340); none if the agent is no control core. DESIGN
CHOICE for the hub die, whose block has no MGMTMODE (R404): its logs are signalled to control core 0 (log 50). -/
def State.manager (s : State) (d : Nat) : Option Nat :=
  let a := getField (s.die d).mgmt 16 12
  if a < 32 then some (8 * (4096 + a)) else none

/-- IPEND.EXT raised at the control core that manages a die. -/
def State.signalManager (s : State) (d : Nat) : State :=
  match s.manager d with
  | some h => s.raiseExt h
  | none => s

/-- A violation logged (R330): die, address, requester (with its HUB bit), strand or 7, path code, cause. -/
def State.logViolation (s : State) (d : Nat) (addr : Word) (req : Nat) (hub : Bool) (strand path cause : Nat) : State :=
  let who := req % 2 ^ 22 + (if hub then 2 ^ 22 else 0) + strand * 2 ^ 24 + path * 2 ^ 28
  let entry := [s.time, addr, BitVec.ofNat 64 who, BitVec.ofNat 64 cause]
  (s.modDie d fun t => { t with vlog := t.vlog.push 256 entry }).signalManager d

/-- Words 2 of an error-log entry (R361). -/
def errorWord (epid source event : Nat) : Word := BitVec.ofNat 64 (epid % 2 ^ 22 + source * 2 ^ 24 + event * 2 ^ 32)

/-- An error event logged, or counted in the entry before it if that repeats source, address and event within 1 ms
(R361). -/
def State.logError (s : State) (d : Nat) (addr : Word) (epid source event : Nat) : State :=
  let l := (s.die d).elog
  let w := errorWord epid source event
  let last := tableGet [] l.ents ((l.head.toNat + 511) % 512)
  match last with
  | [time, a, w', n] =>
    if l.head ≠ 0 ∧ a = addr ∧ getField w' 24 4 = source ∧ getField w' 32 8 = event ∧
        s.time.toNat ≤ time.toNat + 1000000 then
      s.modDie d fun t => { t with elog := { l with ents := tableSet l.ents ((l.head.toNat + 511) % 512) [time, a, w', n + 1] } }
    else (s.modDie d fun t => { t with elog := l.push 512 [s.time, addr, w, 1] }).signalManager d
  | _ => (s.modDie d fun t => { t with elog := l.push 512 [s.time, addr, w, 1] }).signalManager d

/-! The fault queue. -/

/-- Records free in a die's fault queue (R332). -/
def Die.faultRoom (d : Die) : Nat := 1024 - (d.fqTail - d.fqHead).toNat

/-- Records written to a die's fault queue together, if so many are free, and its manager told (R331 to R333). -/
def State.pushFault (s : State) (d : Nat) (recs : List (List Word)) : Option State :=
  let q := s.die d
  if q.faultRoom < recs.length then none
  else
    let put (a : Nat × List (Nat × List Word)) (r : List Word) : Nat × List (Nat × List Word) :=
      (a.1 + 1, tableSet a.2 (a.1 % 1024) r)
    let (n, ents) := recs.foldl put (q.fqTail.toNat, q.fqRecs)
    some ((s.modDie d fun t => { t with fqTail := BitVec.ofNat 32 n, fqRecs := ents }).signalManager d)

/-- Word 0 of a fault-queue record (R332). -/
def faultWord (epid strand kind : Nat) : Word := BitVec.ofNat 64 (epid % 2 ^ 22 + strand % 8 * 2 ^ 24 + kind * 2 ^ 28)

/-- The record of a strand's forward (R331, R332). -/
def State.forwardRecord (s : State) (h : Nat) : List Word :=
  let c := coreOf h
  let t := s.strand h
  [faultWord (s.endpoint c) (h % 8) 0, t.cause, t.epc, t.badva, t.tval2, t.getX 10#5,
    (s.core c).asid &&& 0xFFFF#64, 0]

/-- The record of an engine's translation fault written (R332, R334); none while the queue is full. Its EPC is not
stated: a free value (log 4). -/
def State.engineFault (s : State) (h id : Nat) (tr : Trap) : Option State :=
  let c := coreOf h
  let (n, s) := s.nextFree
  s.pushFault (dieOf c) [[faultWord (s.endpoint c) (h % 8) 1, BitVec.ofNat 64 tr.code, Config.freeWord n, tr.badva, tr.tval2, 0,
    BitVec.ofNat 64 ((s.core c).asid.toNat % 65536 + id % 65536 * 65536), 0]]

/-! Traps. -/

/-- The code of a mode in SSTATUS.PMODE and MSTATUS.PMODE (R343, R354). -/
def Mode.code : Mode → Nat
  | .u => 0 | .s => 1 | .m => 3

/-- CAUSE for a code (R349). -/
def causeWord (int : Bool) (code : Nat) : Word := BitVec.ofNat 64 (code + if int then 2 ^ 63 else 0)

/-- Trap entry into S mode (R352). -/
def enterS (t : Strand) (int : Bool) (tr : Trap) (epc : Word) : Strand :=
  { t with
    cause := causeWord int tr.code, epc := epc, badva := tr.badva, tval2 := tr.tval2
    sstatus := setField (setField (setField (setField t.sstatus 3 1 (if t.mode = .s then 1 else 0)) 2 1
      (if t.mode = .s then 1 else 0)) 1 1 (getField t.sstatus 0 1)) 0 1 0
    mode := .s, pc := t.stvec, stream := none, atEntry := true
    unusable := t.clearCsrs [0x300, 0x302, 0x303, 0x304, 0x305]
    status := .ready, inst := none, log := [] }

/-- Trap entry into M mode (R354). -/
def enterM (t : Strand) (int : Bool) (tr : Trap) (epc : Word) : Strand :=
  { t with
    m := { t.m with
      mcause := causeWord int tr.code, mepc := epc, mbadva := tr.badva, mtval2 := tr.tval2
      mstatus := setField (setField (setField (setField t.m.mstatus 4 1 (if t.mode = .m then 1 else 0)) 2 2
        t.mode.code) 1 1 (getField t.m.mstatus 0 1)) 0 1 0 }
    mode := .m, pc := t.m.mtvec, stream := none, atEntry := true
    unusable := t.clearCsrs [0x700, 0x702, 0x703, 0x704, 0x705]
    status := .ready, inst := none, log := [] }

/-- Does an exception or interrupt of this code go to M mode (R354)? -/
def goesToM (h : Nat) (t : Strand) (int : Bool) (code : Nat) : Bool :=
  isControl (coreOf h) && (t.mode == .m || !t.m.mdeleg.getLsbD (if int then 32 + code else code))

/-- TAKING A TRAP: the one operation by which a strand takes an exception or an interrupt (R352, R354). The counter of
free values moves on past what the trap reports (log 4). -/
def State.trapEntry (s : State) (h : Nat) (int : Bool) (tr : Trap) (epc : Word) : State :=
  ({ s with free := s.free + 1 } : State).modStrand h fun t => if goesToM h t int tr.code then enterM t int tr epc else enterS t int tr epc

/-- The exception `tr` of the instruction at PC (R6, R352). -/
def State.takeTrap (s : State) (h : Nat) (tr : Trap) : State := s.trapEntry h false tr (s.strand h).pc

/-- The body of the active loop: its first address and the address behind it (R106). -/
def Strand.loopBody (t : Strand) : Option (Word × Word) :=
  let len := getField t.lbody 18 7
  if t.lcnt = 0#64 ∨ len = 0 then none
  else
    let first := 0x0100000000000000#64 + BitVec.ofNat 64 (getField t.lbody 0 18)
    some (first, first + BitVec.ofNat 64 (4 * len))

/-- Does the address lie in the active loop body? -/
def Strand.inLoopBody (t : Strand) (a : Word) : Bool :=
  match t.loopBody with
  | some (f, l) => decide (f.toNat ≤ a.toNat ∧ a.toNat < l.toNat)
  | none => false

/-- No loop is active any more: LCNT and LBODY written, and whole again (R107, R108, R359). -/
def Strand.endLoop (t : Strand) : Strand := { t with lcnt := 0, lbody := 0, unusable := t.clearCsrs [8, 9] }

/-- THE RETURN FROM A TRAP, by ERET in S mode (R344): an active loop is abandoned if the target lies outside its body
(R108). DESIGN CHOICE. An ERET that is the last word of an active body goes to EPC and counts no iteration (log 51). -/
def returnS (t : Strand) : Strand :=
  let t' := { t with
    pc := t.epc, mode := if getField t.sstatus 2 1 = 1 then .s else .u
    sstatus := setField (setField (setField t.sstatus 0 1 (getField t.sstatus 1 1)) 2 1 0) 3 1 0
    stream := none, loopBuf := [], skipBreak := true, atEntry := false, unusable := t.clearCsrs [0x300]
    inst := none, log := [] }
  if t.loopBody.isNone || t.inLoopBody t.epc then t' else t'.endLoop

/-- The mode that MSTATUS.PMODE names (R354); 10 names none, and is read as U. -/
def modeOfCode (n : Nat) : Mode := if n = 1 then .s else if n = 3 then .m else .u

/-- The return by ERET in M mode (R344). -/
def returnM (t : Strand) : Strand :=
  let t' := { t with
    pc := t.m.mepc, mode := modeOfCode (getField t.m.mstatus 2 2)
    m := { t.m with
      mstatus := setField (setField (setField t.m.mstatus 0 1 (getField t.m.mstatus 1 1)) 2 2 0) 4 1 0 }
    stream := none, loopBuf := [], skipBreak := true, atEntry := false, unusable := t.clearCsrs [0x700]
    inst := none, log := [] }
  if t.loopBody.isNone || t.inLoopBody t.m.mepc then t' else t'.endLoop

/-! The end of an instruction. -/

/-- The strand goes on at `pc`; nothing of the instruction is left under way. -/
def Strand.goTo (t : Strand) (pc : Word) : Strand :=
  { t with pc := pc, inst := none, log := [], skipBreak := false, atEntry := false }

/-- LOOP_BODY_END (R107): where the strand goes after the word at PC, and the loop's state. The body is read again
before its next iteration (R65). -/
def Strand.advance (t : Strand) : Strand :=
  match t.loopBody with
  | some (first, behind) =>
    if t.pc + 4 = behind then
      if 1 < t.lcnt.toNat then { (t.goTo first) with lcnt := t.lcnt - 1, loopBuf := [], unusable := t.clearCsrs [8] }
      else { (t.goTo behind).endLoop with loopBuf := [] }
    else t.goTo (t.pc + 4)
  | none => t.goTo (t.pc + 4)

/-- The current strand's instruction is complete. -/
def State.retire (s : State) : State := s.modMe Strand.advance

/-- The current strand's instruction is complete and takes it to `pc`. -/
def State.jumpTo (s : State) (pc : Word) : State := s.modMe fun t => t.goTo pc

/-! Watches. -/

/-- Is it the retry-list entry of an armed watch, which waits for no answer (R287)? -/
def Access.armed (a : Access) : Bool := a.kind == .watch && !a.answers

/-- The retry-list entry of a strand's watch given up (R287). -/
def State.dropWatch (s : State) (h : Nat) : State :=
  { s with retry := s.retry.filter fun e => !(e.2.acc.armed && e.2.acc.strand == h) }

/-- The watch of a strand fires (R287): its entry leaves the retry list, and MWAIT ends (R288). -/
def State.fireWatch (s : State) (h : Nat) : State :=
  let t := s.strand h
  match t.watch with
  | .armed va _ =>
    let s := (s.modStrand h fun t => { t with watch := .fired va }).dropWatch h
    match t.waiting? with
    | some w => if w.kind = 2 then s.wake h else s
    | none => s
  | _ => s

/-- WATCH_FIRE (R287): every watch on one of the words fires. -/
def State.fireWatches (s : State) (ws : List Loc) : State :=
  let hit := s.retry.filter fun e =>
    e.2.acc.armed && ws.any fun w => w.key / 8 == e.2.acc.loc.key / 8
  hit.foldl (fun s e => s.fireWatch e.2.acc.strand) s

/-! Mailbox messages. -/

/-- Is one of the four entries reserved for a strand free (R283)? -/
def Core.reservedFree (c : Core) (h : Nat) : Bool :=
  decide ((c.mailbox.filter fun m => m.strand == h && !m.shared).length < 4)

/-- Is there a reserved or a shared entry for a message of this strand (R283)? -/
def Core.hasRoom (c : Core) (h : Nat) : Bool :=
  c.reservedFree h || decide ((c.mailbox.filter fun m => m.shared).length < 40)

/-- The operation's ID or the matrix command's entry that a message frees when it is placed (R190, R259, R283). -/
def Core.freeOp (c : Core) (m : Held) : Core :=
  let c := match m.op with
    | some id => { c with ops := c.ops.filter fun o => o.id != id }
    | none => c
  if m.cmd then { c with cmds := c.cmds.filter fun k =>
      !(k.strand == m.msg.strand && k.uid == m.msg.uid && k.id == getField m.msg.word0 0 16) }
  else c

/-- The strands that wait for a matrix queue entry are ready again (R190). -/
def State.wakeMatrix (s : State) (c : Nat) : State :=
  (List.range 6).foldl (fun s k => if (s.strand (8 * c + k)).status == .parked .matrixFull then s.wake (8 * c + k) else s) s

/-- What a message frees when it is placed or discarded. -/
def State.freeHeld (s : State) (m : Held) : State :=
  let s := s.modCore (coreOf m.msg.strand) fun t => t.freeOp m
  if m.cmd then s.wakeMatrix (coreOf m.msg.strand) else s

/-- Does the unit still run on its strand (R297)? Number 0 stands for what a strand does that runs no unit. -/
def State.unitLives (s : State) (h uid : Nat) : Bool :=
  match (s.strand h).unit with
  | some u => u.uid == uid
  | none => uid == 0

/-- A message placed in a reserved entry of its strand if one is free, else in a shared one, or discarded if its unit has
ended; MBXWAIT ends (R283, R285, R297). -/
def State.placeMessage (s : State) (m : Held) : State :=
  let c := coreOf m.msg.strand
  if s.unitLives m.msg.strand m.msg.uid then
    let s := (s.freeHeld m).modCore c fun t =>
      { t with mailbox := t.mailbox ++ [{ m.msg with shared := !t.reservedFree m.msg.strand }] }
    let t := s.strand m.msg.strand
    let waits := match t.status with
      | .parked (.wait w) => w.kind == 1
      | _ => false
    if waits then s.wake m.msg.strand else s.wakeWfi m.msg.strand
  else s.freeHeld m

/-- Word 0 of a message (R205). -/
def messageWord (opc path : Nat) (flags : BitVec 5) (handle acc status id : Nat) : Word :=
  BitVec.ofNat 64 (opc * 2 ^ 56 + path * 2 ^ 53 + flags.toNat * 2 ^ 48 + handle * 2 ^ 44 + acc * 2 ^ 40 +
    status * 2 ^ 32 + id % 2 ^ 16)

end Sys2Proof.Machine
end

