-- ==== Sys2Proof/Machine/Translate.lean ====
section
/-! DEFINITION. The window map, the region guards and translation (R314 to R327). -/

namespace Sys2Proof.Machine

/-- The windows (R314). For R317 each module's part of the peer region is a window of its own. -/
inductive Window where
  | global | peer (m : Nat) | unit | unitQ4 | unitFE | cluster | clusterQ4 | die | event | chan | priv
  | nowhere
  deriving DecidableEq, Repr

/-- The window of an address, and the offset in it. DEDUCED: a window reaches up to the next multiple of 2^40, the
privileged window 2^52 bytes (log 6). -/
def windowOf (a : Nat) : Window × Nat :=
  if a < 2 ^ 55 then (.global, a)
  else if a < 2 ^ 56 then (.peer (a / 2 ^ 45 % 1024), a % 2 ^ 45)
  else if 2 ^ 57 ≤ a then (.nowhere, 0)
  else
    let r := a - 2 ^ 56
    let o := r % 2 ^ 40
    match r / 2 ^ 40 with
    | 0 => (.unit, o)
    | 1 => (.unitQ4, o)
    | 3 => (.unitFE, o)
    | 0x100 => (.cluster, o)
    | 0x101 => (.clusterQ4, o)
    | 0x200 => (.die, o)
    | 0x300 => (.event, o)
    | 0x400 => (.chan, o)
    | n => if 0xF000 ≤ n then (.priv, r - 0xF0 * 2 ^ 48) else (.nowhere, 0)

/-- UNIT window base (R314). -/
def unitBase : Nat := 0x0100000000000000
/-- CLUSTER window base (R314). -/
def clusterBase : Nat := 0x0101000000000000

/-- The scratch place that a fetch address names on a compute core: unit instruction scratch, the own cluster's, the own
die's at offset 0 (R62). -/
def fetchPlace (c : Nat) (pc : Nat) : Option Loc :=
  let (w, o) := windowOf pc
  match w with
  | .unit => if 0x20000 ≤ o ∧ o < 0x28000 then some { home := .unit c, off := o } else none
  | .cluster => if o < 0x400000 then some { home := .cluster (clusterOf c), off := o } else none
  | .die => if o < 0x4000000 then some { home := .die (dieOf c), off := o } else none
  | _ => none

/-- What a strand's or engine's access needs of guards and pages (R321, R326). -/
inductive Need where
  | read | write | both | fetch
  deriving DecidableEq, Repr

/-- Does the need include a write, so that a failure is #PF.W (R326)? -/
def Need.writes : Need → Bool
  | .write => true | .both => true | _ => false

/-- The bytes that a guard covers: first and the one behind the last (R320). -/
def guardRange (g : Word) : Nat × Nat :=
  let addr := getField g 6 51
  let rec ones : Nat → Nat → Nat
    | 0, _ => 0
    | k + 1, x => if x % 2 = 1 then 1 + ones k (x / 2) else 0
  let t := ones 51 addr
  let b := addr / 2 ^ t * 2 ^ t * 64
  (b, b + 2 ^ (6 + t))

/-- Does a guard permit an access to n bytes at a (R320, R321)? -/
def guardPermits (g : Word) (a n : Nat) (need : Need) : Bool :=
  let r := guardRange g
  g.getLsbD 63 && decide (r.1 ≤ a ∧ a + n ≤ r.2) &&
    (match need with
      | .read => g.getLsbD 60
      | .write => g.getLsbD 61
      | .both => g.getLsbD 60 && g.getLsbD 61
      | .fetch => g.getLsbD 62)

/-- Do the guards of a core let the access pass: S and M mode, GLOBAL and the privileged window are not checked
(R321)? -/
def guardsPass (c : Core) (mode : Mode) (a n : Nat) (need : Need) : Bool :=
  if mode != .u then true
  else
    match (windowOf a).1 with
    | .global => true
    | .peer _ => true
    | .priv => true
    | _ => c.guards.toList.any fun g => guardPermits g a n need

/-! Page tables. -/

/-- The bits of a PTROOT that are not zero (R322). -/
def ptrootMask : Word := 0x1FFFFFFF000#64

/-- The place of a physical address under the placement and LOC of its page (R325). -/
def placePhysical (place loc pa : Nat) : Loc :=
  if place = 1 then { home := .slice (32 * (loc % 8) + pa / 2 ^ 9 % 32), off := pa / 2 ^ 14 % 2 ^ 24 * 512 + pa % 512 }
  else if place = 2 then { home := .slice loc, off := pa % 2 ^ 33 }
  else { home := .slice (pa / 2 ^ 9 % 256), off := pa / 2 ^ 17 % 2 ^ 24 * 512 + pa % 512 }

/-- PLACE of a page-table entry (R323). -/
def pteplace (e : Word) : Nat := getField e 59 2
/-- LOC of a page-table entry (R323). -/
def pteloc (e : Word) : Nat := getField e 51 8
/-- Physical base that a page-table entry names (R323). -/
def ptebase (e : Word) : Nat := getField e 12 29 * 4096

/-- Is a valid leaf of the page size 2^k malformed (R323, R325)? -/
def leafMalformed (e : Word) (k : Nat) : Bool :=
  getField e 61 3 != 0 || getField e 41 10 != 0 || getField e 6 2 != 0 ||
  (e.getLsbD 3 && !e.getLsbD 2) || pteplace e == 3 ||
  decide (ptebase e % 2 ^ k ≠ 0) ||
  (pteplace e == 1 && decide (2 ^ 38 ≤ ptebase e)) ||
  (pteplace e == 2 && decide (2 ^ 33 ≤ ptebase e)) ||
  (pteplace e == 0 && pteloc e != 0) || (pteplace e == 1 && decide (8 ≤ pteloc e)) ||
  (e.getLsbD 11 && decide (16 < k))

/-- Is a valid entry that is no leaf malformed (R323)? -/
def tableMalformed (e : Word) : Bool :=
  getField e 61 3 != 0 || getField e 41 10 != 0 || getField e 6 2 != 0 || getField e 51 10 != 0 ||
  getField e 2 10 != 0

/-- What a walk ends in: a leaf with its page size 2^k, its level and its place; or a level and a reason (R326). -/
inductive WalkResult where
  | leaf (e : Word) (k level : Nat) (at_ : Loc)
  | fail (level reason : Nat)
  deriving DecidableEq, Repr

/-- A table word that the walk reads; none if it holds poison (R322, R326). -/
def State.tableWord (s : State) (pa : Nat) : Loc × Option Word :=
  let l := placePhysical 0 0 pa
  (l, if (s.tagAt l).poison then none else some (s.wordAt l))

/-- The last level of a walk (R324). -/
def State.walkL3 (s : State) (table va : Nat) : WalkResult :=
  let n := va / 2 ^ 12 % 512
  let (lf, f) := s.tableWord (table + 8 * (16 * (n / 16)))
  match f with
  | none => .fail 3 6
  | some f =>
    if f.getLsbD 0 && f.getLsbD 1 && f.getLsbD 11 then
      if leafMalformed f 16 then .fail 3 2 else .leaf f 16 3 lf
    else
      let (ln, e) := s.tableWord (table + 8 * n)
      match e with
      | none => .fail 3 6
      | some e =>
        if !e.getLsbD 0 then .fail 3 1
        else if !e.getLsbD 1 || e.getLsbD 11 || leafMalformed e 12 then .fail 3 2
        else .leaf e 12 3 ln

/-- A walk from a level down: L2, L1 and L0 by what is left to go (R322, R323). -/
def State.walkFrom (s : State) (va : Nat) : Nat → Nat → WalkResult
  | 0, table => s.walkL3 table va
  | g + 1, table =>
    let level := 2 - g
    let (shift, bits, k) := if g = 0 then (21, 10, 21) else if g = 1 then (31, 13, 31) else (44, 13, 0)
    let (l, e) := s.tableWord (table + 8 * (va / 2 ^ shift % 2 ^ bits))
    match e with
    | none => .fail level 6
    | some e =>
      if !e.getLsbD 0 then .fail level 1
      else if e.getLsbD 1 then
        if g = 2 || leafMalformed e k then .fail level 2 else .leaf e k level l
      else if tableMalformed e then .fail level 2
      else s.walkFrom va g (ptebase e)

/-- The walk for an address under a PTROOT (R322). -/
def State.walk (s : State) (root : Word) (va : Nat) : WalkResult := s.walkFrom va 3 (ptebase root)

/-- Does a leaf grant the need, to the mode (R326)? `anyUser` ignores U (R24, R328). -/
def leafGrants (e : Word) (mode : Mode) (need : Need) (anyUser : Bool) : Bool :=
  (anyUser || mode != .u || e.getLsbD 5) &&
    (match need with
      | .read => e.getLsbD 2
      | .write => e.getLsbD 3
      | .both => e.getLsbD 2 && e.getLsbD 3
      | .fetch => e.getLsbD 4)

/-- The place of an address in the page of a leaf (R325). -/
def leafPlace (e : Word) (k va : Nat) : Loc := placePhysical (pteplace e) (pteloc e) (ptebase e + va % 2 ^ k)

/-- Is the page of movable class (R323)? -/
def leafMovable (e : Word) : Bool := pteplace e == 2

/-- The leaf with A set, and D too for a write (R326). -/
def leafTouched (e : Word) (write : Bool) : Word := e ||| 0x100#64 ||| (if write then 0x200#64 else 0#64)

/-- AD_UPDATE (R326): the leaf in memory gets its A and D bits in one step at its home, a write that fires watches
(R287). -/
def State.touchLeaf (s : State) (l : Loc) (e : Word) (write : Bool) : State :=
  (s.putRaw l (bytesOfNat 8 (leafTouched e write).toNat)).fireWatches [l]

/-- The page size code of a CTU entry, and the exponent of a code (R327, R341). -/
def sizeCode (k : Nat) : BitVec 2 := if k = 12 then 0#2 else if k = 16 then 1#2 else if k = 21 then 2#2 else 3#2
/-- The exponent of a page size code. -/
def sizeExp (b : BitVec 2) : Nat := if b = 0#2 then 12 else if b = 1#2 then 16 else if b = 2#2 then 21 else 31

/-- The CTU entry that covers an address (R327). -/
def ctuFind (ctu : List CtuEntry) (asid va : Nat) : Option CtuEntry :=
  ctu.find? fun e => e.asid == asid && e.page == va / 2 ^ sizeExp e.size

/-- A CTU with an entry, which replaces an entry of the same ASID and page, and the oldest beyond 4,096 (R327). -/
def ctuInsert (ctu : List CtuEntry) (e : CtuEntry) : List CtuEntry :=
  (e :: ctu.filter fun o => !(o.asid == e.asid && o.page == e.page && o.size == e.size)).take 4096

/-- TVAL2 of a translation fault (R326). -/
def pfValue (level reason : Nat) : Word := BitVec.ofNat 64 (level * 256 + reason)

/-- A translation fault (R326, R350): #PF.W for what writes, else #PF.R. -/
def pfTrap (need : Need) (va : Word) (level reason : Nat) : Trap :=
  { code := if need.writes then 7 else 6, badva := va, tval2 := pfValue level reason }

/-- The fault of a leaf that does not grant the need (R326, R350): #PF.X for a fetch where X = 0. -/
def permTrap (e : Word) (need : Need) (va : Word) (level : Nat) : Trap :=
  let t := pfTrap need va level 3
  if need = .fetch ∧ e.getLsbD 4 = false then { t with code := 8 } else t

/-- What translation of an address gives. -/
inductive Translation where
  | ok (l : Loc) (movable : Bool)
  | fault (t : Trap)
  | miss
  deriving DecidableEq, Repr

/-- The level of a leaf by its page size. -/
def levelOfSize (b : BitVec 2) : Nat := if b = 3#2 then 1 else if b = 2#2 then 2 else 3

/-- A lookup in a core's CTU (R326, R327, R340). The level that a miss in host-assisted mode reports is not stated:
a free value (log 4). -/
def State.lookup (s : State) (c : Nat) (mode : Mode) (va : Word) (need : Need) : Translation :=
  let core := s.core c
  let mg := (s.die (dieOf c)).mgmt
  match ctuFind (s.cluster (clusterOf c)).ctu (core.asid.toNat % 65536) va.toNat with
  | some e =>
    let level := levelOfSize e.size
    if !e.leaf.getLsbD 0 then .fault (pfTrap need va level 1)
    else if !leafGrants e.leaf mode need false then .fault (permTrap e.leaf need va level)
    else if e.leaf.getLsbD 8 && (!need.writes || e.leaf.getLsbD 9) then
      .ok (leafPlace e.leaf (sizeExp e.size) va.toNat) (leafMovable e.leaf)
    else if !mg.getLsbD 1 then .fault (pfTrap need va level 4)
    else .miss
  | none =>
    if mg.getLsbD 0 then .miss
    else .fault (pfTrap need va (Config.freeNat s.free % 4) 5)

/-- A walk carried out in one step (R322 to R327): the translation, A and D set where `setsA` asks for it, the entry put
into the cluster's CTU. -/
def State.walkNow (s : State) (k asid : Nat) (root : Word) (mode : Mode) (va : Word) (need : Need) (setsA : Bool) :
    Translation × State :=
  match s.walk root va.toNat with
  | .fail level reason => (.fault (pfTrap need va level reason), s)
  | .leaf e x level l =>
    if !leafGrants e mode need false then (.fault (permTrap e need va level), s)
    else
      let missing := !e.getLsbD 8 || (need.writes && !e.getLsbD 9)
      if setsA && missing && !(s.die (k / 64)).mgmt.getLsbD 1 then (.fault (pfTrap need va level 4), s)
      else
        let e' := if setsA then leafTouched e need.writes else e
        let s := if setsA && missing then s.touchLeaf l e need.writes else s
        let entry : CtuEntry := { asid := asid, size := sizeCode x, page := va.toNat / 2 ^ x, leaf := e' }
        (.ok (leafPlace e x va.toNat) (leafMovable e), s.modCluster k fun q => { q with ctu := ctuInsert q.ctu entry })

/-- A translation for an engine of a core: a lookup, and on a miss a walk at once. -/
def State.translate (s : State) (c : Nat) (mode : Mode) (va : Word) (need : Need) : Translation × State :=
  match s.lookup c mode va need with
  | .miss => s.walkNow (clusterOf c) ((s.core c).asid.toNat % 65536) (s.core c).ptroot mode va need true
  | .fault t => (.fault t, { s with free := s.free + 1 })
  | t => (t, s)

/-- The place of an address if it translates for a read without fault and without setting any bit (R272). -/
def State.peekPlace (s : State) (c : Nat) (mode : Mode) (va : Word) : Option (Loc × Bool) :=
  if 2 ^ 55 ≤ va.toNat then none
  else
    match s.lookup c mode va .read with
    | .ok l m => some (l, m)
    | .fault _ => none
    | .miss =>
      match s.walk (s.core c).ptroot va.toNat with
      | .leaf e k _ _ =>
        if leafGrants e mode .read false && (e.getLsbD 8 || (s.die (dieOf c)).mgmt.getLsbD 1) then
          some (leafPlace e k va.toNat, leafMovable e)
        else none
      | .fail _ _ => none

/-- The exponent of the leaf region that a walk for an address ends in; of the smallest page where it ends in a fault. -/
def State.leafRegion (s : State) (root va : Word) : Nat :=
  match s.walk root va.toNat with
  | .leaf _ k _ _ => k
  | .fail _ _ => 12

/-- Does a walk serve a miss of an ASID at an address: the same leaf region (R327)? -/
def State.walkCovers (s : State) (w : Walk) (asid : Nat) (va : Word) : Bool :=
  let k := s.leafRegion w.root w.va
  w.asid == asid && w.va.toNat / 2 ^ k == va.toNat / 2 ^ k

/-- A miss starts a walk, or joins one in flight for the same ASID and leaf region (R327). -/
def State.startWalk (s : State) (c : Nat) (mode : Mode) (va : Word) (write setsA : Bool) : State :=
  let core := s.core c
  let w : Walk := { asid := core.asid.toNat % 65536, root := core.ptroot, va := va, write := write,
                    user := mode == .u, setsA := setsA }
  s.modCluster (clusterOf c) fun k =>
    if k.walks.any fun o => s.walkCovers o w.asid va then k else { k with walks := k.walks ++ [w] }

end Sys2Proof.Machine
end

