-- ==== Sys2Proof/Machine/Perform.lean ====
section
/-! DEFINITION. What a home does with an access (R218, R225, R229 to R231, R236, R242, R287, R356, R357), and the
decoded views (R79 to R82, R316). -/

namespace Sys2Proof.Machine

/-! Q16N. -/

/-- The codebook as BF16 (R79). -/
def q16Level (m : Nat) : Word :=
  match m with
  | 0 => 0x3D2C | 1 => 0x3E02 | 2 => 0x3E5D | 3 => 0x3E9F | 4 => 0x3ED5 | 5 => 0x3F0B | 6 => 0x3F35 | _ => 0x3F80

/-- One decoded element (R81): its code, its block's scale code and the superblock's scale. -/
def q16Decode (code scale : Nat) (super : Word) : Word :=
  let l := (fpConvert .bf16 .f32 .rne (q16Level (code % 8))).1
  let t1 := (fpMul .f32 .rne l super).1
  let t2 := (fpMul .f32 .rne t1 (fpOfInt .f32 .rne scale).1).1
  let t3 := (fpDiv .f32 .rne t2 (fpOfInt .f32 .rne 255).1).1
  let v := (fpConvert .f32 .bf16 .rne t3).1
  if (unpack .bf16 v).isNan then 0x7FC0#64 else if 8 ≤ code % 16 then v ^^^ 0x8000#64 else v

/-- The scratch that a decoded view presents: the superblock and the element of a decoded-view offset (R82). -/
def q4Element (base : Home) (a : Nat) : Loc × Nat := ({ home := base, off := 144 * (a / 512) }, a / 2 % 256)

/-- The decoded element at a decoded-view offset (R80, R81). -/
def State.q4At (s : State) (base : Home) (a : Nat) : Word :=
  let (blk, j) := q4Element base a
  let byte := s.natAt (blk.plus (j / 2)) 1
  let code := if j % 2 = 0 then byte % 16 else byte / 16
  q16Decode code (s.natAt (blk.plus (128 + j / 64)) 1) (BitVec.ofNat 64 (s.natAt (blk.plus 132) 4))

/-- Is the element at a decoded-view offset poisoned: does a word that it is decoded from hold poison (R83)? -/
def State.q4Poison (s : State) (base : Home) (a : Nat) : Bool :=
  let (blk, j) := q4Element base a
  s.anyPoison (blk.plus (j / 2)) 1 || s.anyPoison (blk.plus (128 + j / 64)) 1 || s.anyPoison (blk.plus 132) 4

/-- The byte at an offset of the full/empty view: a poisoned word shows its poison only (R316, R357). -/
def State.feAt (s : State) (core a : Nat) : Byte :=
  let t := s.tagAt { home := .unit core, off := 8 * a }
  if t.poison then 0x80#8 else if t.full then 1#8 else 0#8

/-- n bytes of a view at a place. -/
def State.readView (s : State) (view : View) (l : Loc) (n : Nat) : List Byte :=
  match view with
  | .plain => s.bytesAt l n
  | .q4 => (((List.range ((l.off % 2 + n + 1) / 2)).flatMap fun i =>
      bytesOfNat 2 (s.q4At l.home (l.off / 2 * 2 + 2 * i)).toNat).drop (l.off % 2)).take n
  | .fe =>
    match l.home with
    | .unit c => (List.range n).map fun i => s.feAt c (l.off + i)
    | _ => []

/-- How far into n bytes of a view the lowest poisoned byte lies; the full/empty view has none (R83, R242, R316). -/
def State.viewPoison (s : State) (view : View) (l : Loc) (n : Nat) : Option Nat :=
  match view with
  | .plain => s.firstPoison l n
  | .q4 => (List.range n).find? fun i => s.q4Poison l.home (l.off + i)
  | .fe => none

/-- Is the byte at a place of a view poisoned (R83, R242, R316)? -/
def State.bytePoison (s : State) (view : View) (l : Loc) : Bool :=
  match view with
  | .plain => (s.tagAt l).poison
  | .q4 => s.q4Poison l.home l.off
  | .fe => false

/-- What an engine's read of n bytes of a view brings back (R222, R256, R263). DESIGN CHOICE. Through a
decoded view it brings back no full/empty bits, and a copy with FE = 1 leaves those of its destination unchanged (R83; log 60). -/
def State.gotAt (s : State) (view : View) (l : Loc) (n : Nat) : Got :=
  { status := 0, fault := none, data := s.readView view l n
    poison := (List.range n).map fun i => s.bytePoison view (l.plus i)
    line := (s.viewPoison view { l with off := l.off / 64 * 64 } 64).isSome
    tags := if view = .plain then (wordsOf l n).map s.tagAt else [] }

/-! Recording for replay (R362). -/

/-- Is the core's job in a compute phase of superstep mode (R301)? -/
def State.inCompute (s : State) (c : Nat) : Bool :=
  match s.jobOf c with
  | some j => j.det && !j.pouring
  | none => false

/-- How many lines and accumulators the cores of a core's job have recorded in the phase. -/
def State.recordCount (s : State) (c : Nat) : Nat :=
  match s.jobOf c with
  | some j => j.cores.foldl (fun n k => n + (s.core k).record.length + (s.core k).accRecord.length) 0
  | none => 0

/-- Is the place one of the scratch words that R363 speaks of, and is its line one that R362 records? -/
def Loc.recordClass (w : Loc) : Bool × Bool :=
  match w.home with
  | .unit _ => (true, decide (w.off < 0x20000))
  | .cluster _ => (true, true)
  | _ => (false, false)

/-- A word that a core writes in a compute phase noted (R363). -/
def Core.noteWrite (c : Core) (w : Loc) : Core := if w ∈ c.wrote then c else { c with wrote := w :: c.wrote }

/-- A word about to be written by core c: noted in a compute phase, with the record of its line, taken before the line's first
write of the phase; the 769th line stops the recording (R362, R363). -/
def State.recordLine (s : State) (c : Nat) (w : Loc) : State :=
  let line : Loc := { w with off := w.off / 64 * 64 }
  if !w.recordClass.1 || !s.inCompute c then s
  else
    let s := s.modCore c fun t => t.noteWrite w
    let core := s.core c
    if !w.recordClass.2 || !core.recording || (core.record.any fun r => r.loc == line) then s
    else if 768 ≤ core.record.length + 64 * core.accRecord.length then s.modCore c fun t => { t with recording := false }
    else
      let r : LineRec :=
        { loc := line, data := s.bytesAt line 64, tags := (wordsOf line 64).map s.tagAt, order := s.recordCount c }
      s.modCore c fun t => { t with record := t.record ++ [r] }

/-! Writes. -/

/-- The die that a home belongs to, for the error log. -/
def Home.dieOf : Home → Nat
  | .unit c => Machine.dieOf c
  | .cluster k => k / 64
  | .die d => d
  | .slice n => n / 32
  | .event k => k / 64
  | .chan c => Machine.dieOf c
  | .priv b => b
  | .peer _ _ => 8

/-- SOURCE of an error event at a home (R361). -/
def Home.source : Home → Nat
  | .unit _ => 0 | .cluster _ => 1 | .die _ => 2 | .slice _ => 3 | _ => 7

/-- ADDR of an error event at a place (R361): the address in the place's window, HBM as interleaved over the module
(DEDUCED, log 24). -/
def Loc.logged (l : Loc) : Word :=
  BitVec.ofNat 64 (match l.home with
    | .unit _ => unitBase + l.off
    | .cluster _ => clusterBase + l.off
    | .die d => 0x0102000000000000 + (d + 1) * 2 ^ 32 + l.off
    | .slice n => l.off / 512 * 2 ^ 17 + n * 512 + l.off % 512
    | .event _ => 0x0103000000000000 + l.off
    | .chan c => 0x0104000000000000 + c % 4096 * 2 ^ 16 + l.off
    | .priv b => 0x01F0000000000000 + b * 2 ^ 32 + l.off
    | .peer m _ => 2 ^ 55 + m * 2 ^ 45 + l.off)

/-- EPID of an error event at a place: the core of a unit scratch, else 0 (R361; DEDUCED, log 24). -/
def State.epidAt (s : State) (l : Loc) : Nat :=
  match l.home with
  | .unit c => s.endpoint c
  | _ => 0

/-- An error event at a place of memory (R361). -/
def State.logAt (s : State) (l : Loc) (event : Nat) : State :=
  s.logError l.home.dieOf l.logged (s.epidAt l) l.home.source event

/-- The part of a word that a write of `bs` at `l` covers, put in: a write of all eight bytes clears poison, a narrower
one to a poisoned word writes nothing and is logged (R242). -/
def State.writeWord (s : State) (w l : Loc) (bs : List Byte) (fe : Option Bool) : State :=
  let lo := max w.off l.off
  let hi := min (w.off + 8) (l.off + bs.length)
  let part := (bs.drop (lo - l.off)).take (hi - lo)
  let t := s.tagAt w
  if hi - lo = 8 then
    (s.putRaw { l with off := lo } part).setTag w
      { t with poison := false, released := false, full := fe.getD t.full }
  else if t.poison then
    s.logAt w 3
  else
    let s := s.putRaw { l with off := lo } part
    match fe with
    | some b => s.setTag w { t with full := b }
    | none => s

/-- Does a write of n bytes at `l` write into a word: all of it, or a part of a word without poison (R242)? -/
def State.writesWord (s : State) (w l : Loc) (n : Nat) : Bool :=
  decide (l.off ≤ w.off ∧ w.off + 8 ≤ l.off + n) || !(s.tagAt w).poison

/-- Bytes written at a place in one step by core c (R218): recorded, written, watches fired; a word that the write leaves
alone counts for nothing. -/
def State.write (s : State) (c : Nat) (l : Loc) (bs : List Byte) (fe : Option Bool := none) : State :=
  let ws := wordsOf l bs.length
  let hit := ws.filter fun w => s.writesWord w l bs.length
  let s := hit.foldl (fun s w => s.recordLine c w) s
  let s := ws.foldl (fun s w => s.writeWord w l bs fe) s
  s.fireWatches hit

/-- Every 64-byte line that n bytes touch marked poisoned (R263). -/
def State.poisonLines (s : State) (l : Loc) (n : Nat) : State :=
  if n = 0 then s else
  let first := l.off / 64 * 64
  let len := (l.off + n + 63) / 64 * 64 - first
  (wordsOf { l with off := first } len).foldl (fun s w => s.setTag w { s.tagAt w with poison := true }) s

/-! Atomics. -/

/-- The value that an AMO writes (R251). -/
def amoValue (op : BitVec 4) (old x : Word) : Word :=
  match op with
  | 0#4 => x
  | 1#4 => old + x
  | 2#4 => old &&& x
  | 3#4 => old ||| x
  | 4#4 => old ^^^ x
  | 5#4 => if x.slt old then x else old
  | 6#4 => if old.slt x then x else old
  | 7#4 => if x.ult old then x else old
  | _ => if old.ult x then x else old

/-- Does the full/empty test count the word as full (R357)? -/
def WordTag.countsFull (t : WordTag) : Bool := if t.poison then !t.released else t.full

/-- Does a synchronising access's test hold (R229)? -/
def SyncKind.holds (k : SyncKind) (t : WordTag) : Bool :=
  match k with
  | .readLeave => t.countsFull
  | .readTake => t.countsFull
  | .writeFill => !t.countsFull
  | .setEmpty => true
  | .setFull => true

/-! Performing at a home. -/

/-- What performing gives: the new state with a value, a poison trap's address offset, a wait in the retry list, or a
slip mark with its D and the tile's size. -/
inductive PerfResult where
  | done (s : State) (v : Vec)
  | poisoned (off : Nat)
  | waits
  | slip (d : Word) (size : Nat)

/-- The move that has marked the tile of a place MOVING, if one has (R235). -/
def State.movingAt (s : State) (l : Loc) : Option Barchan :=
  (s.dies.flatMap fun d => d.2.barchan).find? fun b =>
    !b.retire && (b.phase == some .moving || b.phase == some .copied) && b.old.home == l.home &&
      decide (b.old.off ≤ l.off ∧ l.off < b.old.off + b.size)

/-- A move or retirement of a die's engine. -/
def State.barchan? (s : State) (c id : Nat) : Option (Nat × Barchan) :=
  (s.dies.flatMap fun d => d.2.barchan.map fun b => (d.1, b)).find? fun b => b.2.core == c && b.2.id == id

/-- Has a move or retirement still to touch a place that it translated: it is not installed or refused (R235, R271)? -/
def Barchan.atWork (b : Barchan) : Bool := b.phase != some .installed && b.phase != some .refused

/-- Capacity of a home's retry list (R230). DESIGN CHOICE. Of homes that the rule gives none, event units, channels, privileged blocks and
peer slices, it is 1,024 (log 66). -/
def Home.retryCap : Home → Nat
  | .unit _ => 64 | .cluster _ => 512 | _ => 1024

/-- Entries in a home's retry list. -/
def State.retryCount (s : State) (h : Home) : Nat := (s.retry.filter fun e => e.2.acc.loc.home == h).length

/-- An access put at the end of a path queue of a core (R221). -/
def State.enterPath (s : State) (c : Nat) (p : Path) (a : Access) : State :=
  s.modCore c fun t => { t with path := t.path ++ [{ path := p, seq := t.seq, acc := a }], seq := t.seq + 1 }

/-- An access put at the end of the retry list of its home (R230). -/
def State.enterRetry (s : State) (c : Nat) (p : Path) (a : Access) : State :=
  let e : PathEntry := { path := p, seq := (s.core c).seq, acc := a }
  let s := s.modCore c fun t => { t with seq := t.seq + 1 }
  { s with retry := s.retry ++ [(c, e)] }

/-- Is there room in a home's retry list (R230)? -/
def State.retryRoom (s : State) (h : Home) : Bool := decide (s.retryCount h < h.retryCap)

/-- The accesses of a core that have been placed and not performed: in a path queue, in a retry list, answered at a slip
mark. An armed watch is none. -/
def State.outstanding (s : State) (c : Nat) : List PathEntry :=
  (s.core c).path ++ ((s.retry.filter fun e => e.1 == c && !e.2.acc.armed).map Prod.snd) ++ (s.core c).slipped.map Prod.fst

/-- A vector holding bytes, lowest first. -/
def vecOfBytes (bs : List Byte) : Vec := BitVec.ofNat 512 (natOfBytes bs)

/-- An access to memory performed at its home in one step, by core c for its strand or engine (R218, R225, R229, R242,
R272, R287, R341, R357). -/
def State.perform (s : State) (c : Nat) (a : Access) : PerfResult :=
  let t := s.tagAt a.loc
  let marked := match a.kind with
    | .load .q4 _ => none
    | .load .fe _ => none
    | .fetch .q4 => none
    | .fetch .fe => none
    | .lift => none
    | .probe => none
    | .mstore _ => none
    | .place _ _ => none
    | _ => t.slip
  match (if a.kind == .lift then none else s.movingAt a.loc), marked with
  | some _, _ => .waits
  | none, some d => .slip d.1 d.2
  | none, none =>
    match a.kind with
    | .load view refill =>
      let v := vecOfBytes (s.readView view a.loc a.len)
      if refill then .done s v
      else
        match s.viewPoison view a.loc a.len with
        | some k => .poisoned k
        | none => .done s v
    | .store data fe poison =>
      let s := s.write c a.loc data fe
      .done (if poison then s.poisonLines a.loc data.length else s) 0
    | .amo op x =>
      if t.poison then .poisoned 0
      else .done (s.write c a.loc (bytesOfNat 8 (amoValue op (s.wordAt a.loc) x).toNat)) ((s.wordAt a.loc).setWidth 512)
    | .cas e n =>
      if t.poison then .poisoned 0
      else
        let old := s.wordAt a.loc
        .done (if old = e then s.write c a.loc (bytesOfNat 8 n.toNat) else s) (old.setWidth 512)
    | .sync k data =>
      if !k.holds t then .waits
      else
        match k with
        | .readLeave => if t.poison then .poisoned 0 else .done s ((s.wordAt a.loc).setWidth 512)
        | .readTake =>
          if t.poison then .poisoned 0
          else
            .done (((s.recordLine c a.loc).setTag a.loc { t with full := false }).fireWatches [a.loc])
              ((s.wordAt a.loc).setWidth 512)
        | .writeFill => .done (s.write c a.loc (bytesOfNat 8 data.toNat) (some true)) 0
        | .setFull => .done (s.write c a.loc (bytesOfNat 8 data.toNat) (some true)) 0
        | .setEmpty => .done (s.write c a.loc (bytesOfNat 8 data.toNat) (some false)) 0
    | .seam m =>
      if t.countsFull then .waits else .done (s.write c a.loc (bytesOfNat 8 m.word.toNat) (some true)) 0
    | .watch =>
      if t.poison then .poisoned 0
      else if a.loc.home.retryCap ≤ s.retryCount a.loc.home then .waits
      else
        let s' := (s.dropWatch a.strand).modStrand a.strand fun q => { q with watch := .armed a.va a.loc }
        .done { s' with retry := s'.retry ++ [(c, { path := .core, seq := 0, acc := { a with answers := false } })] }
          ((s.wordAt a.loc).setWidth 512)
    | .release =>
      .done (((s.recordLine c a.loc).setTag a.loc
        { t with full := false, released := t.poison }).fireWatches [a.loc]) 0
    | .probe =>
      .done s (match t.slip with
        | some d => BitVec.ofNat 512 (2 ^ 64 + d.1.toNat)
        | none => 0)
    | .mstore data =>
      .done (((s.putRaw a.loc (bytesOfNat 8 data.toNat)).setTag a.loc WordTag.blank).fireWatches [a.loc]) 0
    | .place data tag => .done (((s.putRaw a.loc (bytesOfNat 8 data.toNat)).setTag a.loc tag).fireWatches [a.loc]) 0
    | .fetch view => .done s (vecOfBytes (s.readView view a.loc a.len))
    | .lift => .done s ((s.wordAt a.loc).setWidth 512)
    | .check => .done s 0
    | .barrive _ => .waits
    | .send _ _ => .waits

end Sys2Proof.Machine
end

