-- ==== Sys2Proof/Machine/Access.lean ====
section
/-! DEFINITION. The accesses of a strand: which window lets which access in (steps 6 to 9 of R59), and how an access is
issued, posted or sent, and answered (R219, R220, R224, R227, R233). An instruction that parks keeps the answers that
it has had and is run again from its start with them. -/

namespace Sys2Proof.Machine

/-- Trap causes by name (R350). -/
abbrev trapILL (w : Word32) : Trap := { code := 1, badva := 0, tval2 := w.setWidth 64 }
/-- #PRIV (R350). -/
abbrev trapPRIV (w : Word32) : Trap := { code := 2, badva := 0, tval2 := w.setWidth 64 }
/-- #ALIGN (R350). -/
abbrev trapALIGN (a : Word) : Trap := { code := 3, badva := a, tval2 := 0 }
/-- #XWIN (R350). -/
abbrev trapXWIN (a : Word) : Trap := { code := 4, badva := a, tval2 := 0 }
/-- #GUARD (R350). -/
abbrev trapGUARD (a : Word) : Trap := { code := 5, badva := a, tval2 := 0 }
/-- #ACCERR (R350). -/
abbrev trapACCERR (a v : Word) : Trap := { code := 9, badva := a, tval2 := v }
/-- #FPX (R73). -/
abbrev trapFPX (v : Word) : Trap := { code := 0xA, badva := 0, tval2 := v }
/-- #CTYPE (R350). -/
abbrev trapCTYPE (v : Word) : Trap := { code := 0xB, badva := 0, tval2 := v }
/-- #STALE (R154). -/
abbrev trapSTALE (a v : Word) : Trap := { code := 0xC, badva := a, tval2 := v }
/-- #COVF (R350). -/
abbrev trapCOVF (v : Word) : Trap := { code := 0xD, badva := 0, tval2 := v }
/-- #MCHAIN (R236). -/
abbrev trapMCHAIN (a : Word) : Trap := { code := 0xE, badva := a, tval2 := 5 }
/-- #NOWAKE (R280): kind and case. -/
abbrev trapNOWAKE (kind case : Nat) (a : Word) : Trap :=
  { code := 0xF, badva := a, tval2 := BitVec.ofNat 64 (case * 256 + kind) }
/-- #WAITTO (R279). -/
abbrev trapWAITTO (kind : Nat) (a : Word) : Trap := { code := 0x10, badva := a, tval2 := BitVec.ofNat 64 kind }
/-- #POISON of memory (R242, R350). -/
abbrev trapPOISON (a : Word) : Trap := { code := 0x11, badva := a, tval2 := 0 }
/-- #BRK (R344, R366). -/
abbrev trapBRK (a v : Word) : Trap := { code := 0x12, badva := a, tval2 := v }
/-- #CHAN (R355). -/
abbrev trapCHAN (a v : Word) : Trap := { code := 0x15, badva := a, tval2 := v }

/-- The forms of access whose windows differ. -/
inductive Form where
  /-- LD of a width code, FLD of a size, VLD, a lane of VLDX. -/
  | load (w : BitVec 3)
  | fload (n : Nat)
  | vload
  | xload
  /-- ST, FST, VST, a lane of VSTX. -/
  | store (n : Nat)
  | fstore
  | vstore
  | xstore
  | ordLoad (n : Nat) (sc : Bool)
  | ordStore (n : Nat) (sc : Bool)
  | syncLoad (take : Bool)
  | syncStore
  | atomic (sc : Bool)
  | watch
  | moveRead
  | moveWrite
  /-- A word of MSWEEP's range: read and written (R272). -/
  | sweep
  /-- Loads of a cochain instruction: elements, tables, descriptors. -/
  | cochainRead
  | cochainWrite
  deriving DecidableEq, Repr

/-- The need of a form (R321). -/
def Form.need : Form → Need
  | .load _ => .read | .fload _ => .read | .vload => .read | .xload => .read
  | .store _ => .write | .fstore => .write | .vstore => .write | .xstore => .write
  | .ordLoad _ _ => .read | .ordStore _ _ => .write
  | .syncLoad t => if t then .both else .read
  | .syncStore => .both
  | .atomic _ => .both
  | .watch => .read
  | .moveRead => .read
  | .moveWrite => .write
  | .sweep => .both
  | .cochainRead => .read
  | .cochainWrite => .write

/-- Is the form a write or an atomic, which the decoded views refuse with #GUARD (R83, R316)? -/
def Form.isWrite (f : Form) : Bool :=
  match f with
  | .syncLoad _ => false
  | .watch => false
  | f => f.need != .read

/-- May the form read the decoded views (R83)? -/
def Form.readsQ4 : Form → Bool
  | .load w => w != 0#3 && w != 4#3
  | .fload n => n == 2
  | .vload => true
  | .moveRead => true
  | _ => false

/-- May the form read the full/empty view (R316)? -/
def Form.readsFE : Form → Bool
  | .load _ => true | .fload _ => true | .vload => true | .xload => true
  | .moveRead => true
  | _ => false

/-- Is the form LD, ST, LDO or STO of 8 bytes, the accesses of the EVENT and privileged windows (R289, R318)? -/
def Form.isWord : Form → Bool
  | .load w => w == 3#3
  | .store n => n == 8
  | .ordLoad n _ => n == 8
  | .ordStore n _ => n == 8
  | _ => false

/-- Is the form an SC access (R233)? -/
def Form.isSC : Form → Bool
  | .ordLoad _ sc => sc | .ordStore _ sc => sc | .atomic sc => sc
  | _ => false

/-- Does the event unit list the offset for a load or a store (R289)? -/
def eventListed (o : Nat) (write : Bool) : Bool :=
  if o < 0x800 then o % 64 == 0 || (o % 64 == 8 && !write)
  else if o < 0xB00 then true
  else if 0x2000 ≤ o ∧ o < 0x2000 + 32 * 256 then decide (o % 256 < 256) && !write
  else false

/-- Does a channel queue list the offset for its owner's load or store (R293)? -/
def chanListed (o : Nat) (write : Bool) : Bool :=
  if write then o == 0 || o == 8 || o == 0x10 else o == 0 || o == 8 || o == 0x10 || o == 0x18 || o == 0x20

/-- Does a compute die's privileged block list the offset (R319)? -/
def privListed (o : Nat) : Bool :=
  o == 0 || decide (0x10000 ≤ o ∧ o < 0x10000 + 16 + 256 * 32) || decide (0x20000 ≤ o ∧ o < 0x20000 + 16 + 1024 * 64) ||
  decide (0x100000 ≤ o ∧ o < 0x100000 + 96 * 512) || decide (0x200000 ≤ o ∧ o < 0x200000 + 64 * 512) ||
  decide (0x300000 ≤ o ∧ o < 0x300000 + 512 * 512) || decide (0x400000 ≤ o ∧ o < 0x400000 + 16 * 1024) ||
  decide (0x500000 ≤ o ∧ o < 0x500000 + 32 * 64) || decide (0x600000 ≤ o ∧ o < 0x600000 + 0x2000 * 512)

/-- The root port and the offset in its configuration region or memory aperture (R25); true for the aperture. -/
def pcieRegion (o : Nat) : Option (Nat × Bool × Nat) :=
  if 0x10000000 ≤ o ∧ o < 0x50000000 then some ((o - 0x10000000) / 0x10000000, false, o % 0x10000000)
  else if 0x80000000 ≤ o ∧ o < 0x100000000 then some ((o - 0x80000000) / 0x20000000, true, o % 0x20000000)
  else none

/-- Does the hub die's block list the offset for a load or a store (R24, R375, R404)? -/
def hubListed (o : Nat) (write : Bool) : Bool :=
  if 0x100000 ≤ o ∧ o < 0x101000 then
    decide (o % 0x100 < 0x20) && (if write then o % 0x100 == 0x18 else o % 0x100 != 0x18)
  else if 0x1000000 ≤ o ∧ o < 0x1000000 + 9 * 0x10000 then decide (o % 0x10000 < 16 + 512 * 32)
  else if 0x2000000 ≤ o ∧ o < 0x2040000 then
    let q := o % 0x10000
    if write then q == 8 || q == 0x10 || q == 0x18 || decide (0x100 ≤ q ∧ q < 0x1100)
    else q == 0 || q == 0x10 || q == 0x18 || decide (0x100 ≤ q ∧ q < 0x1100)
  else decide (0x3000000 ≤ o ∧ o < 0x3000000 + 0x4000) || decide (0x3004000 ≤ o ∧ o < 0x3004000 + 0x4000)

/-- What an address resolves to. -/
inductive Resolved where
  | ok (l : Loc) (view : View) (movable : Bool)
  | trap (t : Trap)
  | miss
  deriving DecidableEq, Repr

/-- Step 8 of R59 for an access outside GLOBAL: the place, or #ACCERR or #GUARD. DESIGN CHOICE. An offset that an alias
window does not populate draws #ACCERR, a write there too (R82, R83, R317; log 52). -/
def State.windowPlace (s : State) (c : Nat) (mode : Mode) (f : Form) (a len : Nat) : Resolved :=
  let err : Resolved := .trap (trapACCERR (BitVec.ofNat 64 a) 0)
  let grd : Resolved := .trap (trapGUARD (BitVec.ofNat 64 a))
  let (w, o) := windowOf a
  match w with
  | .nowhere => err
  | .global => err
  | .peer m =>
    if f.isSC || f == .watch then err else .ok (s.peerPlace m o) .plain false
  | .unit =>
    if isControl c || 0x28000 < o + len || (f == .watch && 0x20000 ≤ o) || (f == .sweep && 0x20000 < o + len) then err
    else .ok { home := .unit c, off := o } .plain false
  | .unitQ4 =>
    if isControl c || f == .sweep || 0x71C00 < o + len then err else if f.isWrite then grd
    else if !f.readsQ4 then err else .ok { home := .unit c, off := o } .q4 false
  | .unitFE =>
    if isControl c || f == .sweep || 0x5000 < o + len then err else if f.isWrite then grd
    else if !f.readsFE then err else .ok { home := .unit c, off := o } .fe false
  | .cluster =>
    if isControl c || 0x400000 < o + len then err else .ok { home := .cluster (clusterOf c), off := o } .plain false
  | .clusterQ4 =>
    if isControl c || f == .sweep || 0xE38E00 < o + len then err else if f.isWrite then grd
    else if !f.readsQ4 then err else .ok { home := .cluster (clusterOf c), off := o } .q4 false
  | .die =>
    let (d, q) := if o < 2 ^ 32 then (dieOf c, o) else (o / 2 ^ 32 - 1, o % 2 ^ 32)
    if 8 ≤ d || 0x4000000 < q + len then err
    else if (s.jobOf c).any (·.det) && 0x800000 < q + len then .trap (trapACCERR (BitVec.ofNat 64 a) 6)
    else .ok { home := .die d, off := q } .plain false
  | .event =>
    if isControl c || !f.isWord || !eventListed o f.isWrite then err
    else .ok { home := .event (clusterOf c), off := o } .plain false
  | .chan =>
    let core := o / 2 ^ 16
    let q := o % 2 ^ 12
    if isControl c || 4096 ≤ core then err
    else if q = 0x800 then
      (match f with
        | .store n => if n = 8 then .ok { home := .chan core, off := o % 2 ^ 16 } .plain false else err
        | .vstore => .ok { home := .chan core, off := o % 2 ^ 16 } .plain false
        | _ => err)
    else if core = c && chanListed q f.isWrite && f.isWord then
      .ok { home := .chan core, off := o % 2 ^ 16 } .plain false
    else err
  | .priv =>
    let b := o / 2 ^ 32
    let q := o % 2 ^ 32
    if mode = .u then err
    else if b < 8 then
      if f.isWord && privListed q then .ok { home := .priv b, off := q } .plain false else err
    else if o / 2 ^ 48 = 1 ∧ o % 2 ^ 48 / 2 ^ 32 = 0 ∧ isControl c then
      match pcieRegion q with
      | some _ =>
        (match f with
          | .load _ => .ok { home := .priv 8, off := q } .plain false
          | .store _ => .ok { home := .priv 8, off := q } .plain false
          | _ => err)
      | none => if f.isWord && hubListed q f.isWrite then .ok { home := .priv 8, off := q } .plain false else err
    else err

/-- Does superstep mode refuse the window to a strand in a compute phase (R301)? -/
def Window.refusedInCompute : Window → Bool
  | .global => true | .peer _ => true | .die => true | .chan => true | _ => false

/-- Steps 6 to 9 of R59 for one access of a strand of core c: alignment unless `anyAlign`, windows, guards,
translation. -/
def State.resolve (s : State) (c : Nat) (mode : Mode) (f : Form) (a : Word) (len : Nat) (anyAlign : Bool := false) :
    Resolved :=
  let n := a.toNat
  if !anyAlign && n % len != 0 then .trap (trapALIGN a)
  else if 2 ^ 57 ≤ n then .trap (trapACCERR a 0)
  else if s.inCompute c && (windowOf n).1.refusedInCompute then .trap (trapACCERR a 6)
  else
    match (windowOf n).1 with
    | .global =>
      (match s.lookup c mode a f.need with
        | .ok l m => .ok l .plain m
        | .fault t => .trap t
        | .miss => .miss)
    | _ =>
      match s.windowPlace c mode f n len with
      | .ok l v m => if guardsPass (s.core c) mode n len f.need then .ok l v m else .trap (trapGUARD a)
      | r => r

/-! The run of an instruction. -/

/-- What a run of an instruction holds: the state, the answers had and not used yet, the answers had in this run, and
whether the strand gives up the core at the end (R274). -/
structure Run where
  s      : State
  past   : List Ans
  new    : List Ans
  leaves : Bool

/-- How a run ends before its instruction is complete. -/
inductive Stop where
  | trap (t : Trap)
  | park (p : Park)
  /-- At an element boundary of a cochain instruction, for an interrupt, a pre-emption or a CANCEL (R169). -/
  | pause
  /-- At an element boundary, where the strand's turn ends: the instruction goes on at its next turn (R275). -/
  | rest
  /-- The instruction's unit has ended. -/
  | gone

/-- A step of an instruction's meaning. -/
abbrev M := EStateM Stop Run

/-- What an action that may park gives. -/
inductive Act where
  | ok (a : Ans) (s : State)
  | trap (t : Trap) (s : State)
  | park (p : Park) (s : State)

/-- The state. -/
def getS : M State := do return (← get).s
/-- The state, changed. -/
def modS (f : State → State) : M Unit := modify fun r => { r with s := f r.s }
/-- The current strand. -/
def getMe : M Strand := do return (← get).s.me
/-- The current strand, changed. -/
def modT (f : Strand → Strand) : M Unit := modS fun s => s.modMe f
/-- The instruction traps. -/
def trap {α : Type} (t : Trap) : M α := throw (.trap t)
/-- The instruction traps unless the condition holds. -/
def require (c : Bool) (t : Trap) : M Unit := if c then pure () else trap t
/-- The strand gives up the core when the instruction is complete (R274). -/
def leaveCore : M Unit := modify fun r => { r with leaves := true }

/-- The same, of an instruction that parks at most once: one that has parked gave it up then (R274). -/
def leaveOnce : M Unit := do if (← getMe).inst.isNone then leaveCore

/-- An action whose answer is kept while the instruction is under way: taken from the answers had, or done now. -/
def act (f : State → Act) : M Ans := fun r =>
  match r.past with
  | .trap t :: p => .error (.trap t) { r with past := p }
  | a :: p => .ok a { r with past := p }
  | [] =>
    match f r.s with
    | .ok a s => .ok a { r with s := s, new := r.new ++ [a] }
    | .trap t s => .error (.trap t) { r with s := s }
    | .park p s => .error (.park p) { r with s := s }

/-- The answer to nothing in particular. -/
def Ans.unit : Ans := .val 0 []

/-- The answers used and kept so far are not needed any more: the instruction, run again, starts behind them (R169). -/
def forget : M Unit := modify fun r => { r with new := [], s := r.s.modMe fun t => { t with log := [] } }

/-- The word kept of the instruction that parks, for its next run. -/
def wordOf (i : Instr) : Word32 := (encode i).getD 0#32

/-- Runs the meaning of an instruction: complete, it retires; a trap is taken with EPC at the instruction; a park keeps
the answers. -/
def runInstr (i : Instr) (m : M Unit) (s : State) : Host.Outcome State Fault Refusal :=
  match m { s := s, past := s.me.log, new := [], leaves := false } with
  | .ok _ r => .next (if r.leaves then r.s.retire.giveUp s.here else r.s.retire)
  | .error (.trap t) r => .next (r.s.takeTrap s.cur t)
  | .error (.park p) r =>
    .next ((r.s.modMe fun t => { t with inst := some (wordOf i), log := t.log ++ r.new }).park s.cur p)
  | .error .pause r => .next (r.s.modMe fun t => { t with inst := none, log := [] })
  | .error .rest r => .next (r.s.modMe fun t => { t with inst := some (wordOf i), log := t.log ++ r.new })
  | .error .gone r => .next r.s

/-! Accesses. -/

/-- The answer of an access performed by the strand itself at issue. -/
def State.performNow (s : State) (c : Nat) (a : Access) : Act :=
  match s.perform c a with
  | .done s v => .ok (.val v []) s
  | .poisoned k => .trap (trapPOISON (a.va + BitVec.ofNat 64 k)) s
  | .waits => .park .answer { s with retry := s.retry ++ [(c, { path := .core, seq := 0, acc := a })] }
  | .slip _ _ => .ok Ans.unit s

/-- Steps 6 to 9 of R59 as an action: a miss parks the strand for its walk (R327). -/
def resolveAct (f : Form) (a : Word) (len : Nat) (anyAlign : Bool) (s : State) : Act :=
  let t := s.me
  match s.resolve s.here t.mode f a len anyAlign with
  | .ok l v m => .ok (.place a l v m) s
  | .trap t => .trap t s
  | .miss => .park (.walk a f.need.writes false) (s.startWalk s.here t.mode a f.need.writes true)

/-- The place of an access (steps 6 to 9 of R59). -/
def resolve (f : Form) (a : Word) (len : Nat) (anyAlign : Bool := false) : M (Loc × View × Bool) := do
  match ← act (resolveAct f a len anyAlign) with
  | .place _ l v m => return (l, v, m)
  | _ => return ({ home := .priv 9, off := 0 }, .plain, false)

/-- The stores of a strand that have not been performed (R224): posted, in the CORE path queue, waiting at a home or
answered at a slip mark. -/
def State.storesPending (s : State) (h : Nat) : Bool :=
  let c := s.core (coreOf h)
  let mine (a : Access) : Bool := a.strand == h && a.op.isNone &&
    (match a.kind with
      | .store _ _ _ => true
      | _ => false)
  c.posted.any mine || (c.path.any fun e => e.path == .core && mine e.acc) ||
    (s.retry.any fun e => e.1 == coreOf h && mine e.2.acc) || (c.slipped.any fun e => mine e.1.acc)

/-- Every posted store of a core that is bound for a home moves into the CORE path queue (R220). -/
def State.movePosted (s : State) (c : Nat) (h : Home → Bool) : State :=
  let go := (s.core c).posted.filter fun a => h a.loc.home
  let s := s.modCore c fun t => { t with posted := t.posted.filter fun a => !h a.loc.home }
  go.foldl (fun s a => s.enterPath c .core a) s

/-- An announcement made now by a core: the window of this cycle, and its number in the core's order (R233). -/
def State.announceNow (s : State) (c : Nat) : Nat × Nat := (s.cycle / 128, (s.core c).seq)

/-- An access of the current strand enters the CORE path queue and parks it (R219, R220); an SC access is announced in
the window of this cycle (R233). -/
def sendAct (a : Access) (sc : Bool) (s : State) : Act :=
  let s := s.movePosted s.here (· == a.loc.home)
  .park .answer (s.enterPath s.here .core { a with sc := if sc then some (s.announceNow s.here) else none })

/-- Waits until every earlier store of the strand has been performed (R224, R232, R233). -/
def drain : M Unit := do
  let _ ← act fun s => if s.storesPending s.cur then .park .drain s else .ok Ans.unit s

/-- REGISTER BASE REWRITE (R238): hops applied to a base register. -/
def rewriteBase (r : Word) : List Hop → Word
  | [] => r
  | h :: hs => rewriteBase (if h.base.toNat ≤ r.toNat ∧ r.toNat < h.base.toNat + h.size then r + h.delta else r) hs

/-- An access of the current strand, translated under its core's ASID. -/
def State.accessOf (s : State) (answers : Bool) (va : Word) (l : Loc) (len : Nat) (k : AccKind) : Access :=
  { strand := s.cur, answers := answers, op := none, va := va, loc := l, len := len, kind := k, sc := none, hops := [],
    asid := (s.core s.here).asid.toNat % 65536 }

/-- An access of the current strand to a place resolved before; the value and the hops. An access to the own unit
scratch that R219 performs at issue is performed now. `sure` is a store whose place was checked before. -/
def access (va : Word) (l : Loc) (len : Nat) (k : AccKind) (sc : Bool) (sure : Bool := false) : M (Vec × List Hop) := do
  let s ← getS
  let a : Access := { s.accessOf true va l len k with sure := sure }
  let own := l.home == .unit s.here && !sc &&
    (match k with
      | .load _ _ => true
      | .store _ _ _ => true
      | _ => false)
  match ← act (fun s => if own then s.performNow s.here a else sendAct a sc s) with
  | .val v hops => return (v, hops)
  | _ => return (0, [])

/-! The control words of a channel queue (R293, R355). -/

/-- A channel queue of a core. -/
def State.chanQueue (s : State) (c q : Nat) : ChanQueue := (s.core c).chan.toList.getD q ChanQueue.reset

/-- Entries of a queue (R293). -/
def ChanQueue.entries (q : ChanQueue) : Nat := getField q.cfg 0 20
/-- The size code s. -/
def ChanQueue.sizeCode (q : ChanQueue) : Nat := getField q.cfg 20 4

/-- May CFG hold the value (R293, R355)? -/
def chanCfgOk (k : ChanQueue) (v : Word) : Bool :=
  let n := getField v 0 20
  getField v 28 36 == 0 && decide (getField v 20 4 ≤ 3) && decide (getField v 24 4 ≤ 6) &&
    (n == 0 || (decide (n ≤ 1024) && (List.range 11).any fun i => n == 2 ^ i)) &&
    (k.head == k.tail || (n == k.entries && getField v 20 4 == k.sizeCode))

/-- May HEAD hold the value: does it lie not beyond the entries written (R355)? -/
def chanHeadOk (k : ChanQueue) (v : Word) : Bool :=
  let d := (v.setWidth 32 - k.tail).toNat
  !decide (1 ≤ d ∧ d ≤ 2 ^ 31)

/-- The word that an access stores; none for a load. -/
def Access.stored (a : Access) : Option Word :=
  match a.kind with
  | .store bs _ _ => some (BitVec.ofNat 64 (natOfBytes bs))
  | _ => none

/-- A control word of a queue as a store leaves it (R293). -/
def ChanQueue.put (k : ChanQueue) (o : Nat) (v : Word) : ChanQueue :=
  match o with
  | 0 => { k with base := v }
  | 8 => { k with cfg := v }
  | 0x10 => { k with head := v.setWidth 32 }
  | _ => k

/-- A queue's control words as they will be once the stores that its owner has issued are performed. -/
def State.chanAhead (s : State) (c q : Nat) : ChanQueue :=
  let mine := ((s.core c).path.map PathEntry.acc ++ (s.core c).posted).filter fun a =>
    a.loc.home == .chan c && a.loc.off / 4096 % 16 == q
  mine.foldl (fun k a => match a.stored with
    | some v => k.put (a.loc.off % 4096) v
    | none => k) (s.chanQueue c q)

/-- DEDUCED. The #CHAN of a posted store to a control word, at issue: R6 makes it precise, so the value is held against the
queue as the core's earlier stores to it will leave it (R219, R355; log 59). -/
def State.chanTrap (s : State) (va : Word) (l : Loc) (k : AccKind) : Option Trap :=
  match l.home, k with
  | .chan c, .store bs _ _ =>
    let q := s.chanAhead c (l.off / 4096 % 16)
    let v : Word := BitVec.ofNat 64 (natOfBytes bs)
    if (l.off % 4096 = 8 ∧ !chanCfgOk q v) ∨ (l.off % 4096 = 0x10 ∧ !chanHeadOk q v) then some (trapCHAN va v) else none
  | _, _ => none

/-- Is a store to the place posted (R219, R237)? Sends to a channel, ICMD, a result block's GO and PCIe configuration
space wait for their answer. -/
def storePosts (l : Loc) (movable : Bool) : Bool :=
  match l.home with
  | .peer _ _ => false
  | .chan _ => l.off % 4096 != 0x800
  | .priv b =>
    if b = 8 then (match pcieRegion l.off with
      | some (_, mem, _) => mem
      | none => true)
    else !(decide (0x500000 ≤ l.off ∧ l.off < 0x500000 + 32 * 64) && l.off % 32 == 0x18) &&
      !(decide (0x600000 ≤ l.off) && l.off % 0x80 == 0x40)
  | _ => !movable

/-- An action that the strand gives up the core with (R274): at its first try, where it parks then, else once it is done. -/
def actOnce (full : State → Bool) (p : Park) (f : State → Act) : M Unit := do
  let first ← act fun s => .ok (.val (if full s then 1 else 0) []) s
  match first with
  | .val 1 _ => pure ()
  | _ => leaveCore
  let _ ← act fun s => if full s then .park p s else f s

/-- A store of the current strand to a place resolved before (R219): at issue in the own unit scratch, else posted, else
sent and waited for; the hops taken. -/
def storeTo (va : Word) (l : Loc) (movable : Bool) (k : AccKind) (len : Nat) (sure : Bool := false) : M (List Hop) := do
  let s ← getS
  if l.home == .unit s.here then return (← access va l len k false).2
  else if storePosts l movable then
    actOnce (fun s => decide (16 ≤ (s.core s.here).posted.length)) .postedFull fun s =>
      match s.chanTrap va l k with
      | some t => .trap t s
      | none => .ok Ans.unit (s.modCore s.here fun t => { t with posted := t.posted ++ [s.accessOf false va l len k] })
    return []
  else return (← access va l len k false sure).2

end Sys2Proof.Machine
end

