-- ==== Sys2Proof/Machine/Funcs.lean ====
section
/-! DEFINITION. The functions of R85 (exp, log, erf, correctly rounded) and of R87 and R88 (tanh, sigmoid, gelu, recip,
rsqrt, truncated to the precision of FNVER and then rounded). A value is enclosed between two natural numbers over
one power of two; where both ends of the enclosure give one result, that is the result. -/

namespace Sys2Proof.Machine

/-- An enclosure: the value lies from `lo` to `hi`, in units of 2^-P for the P at hand. -/
structure Encl where
  lo : Nat
  hi : Nat
  deriving DecidableEq, Repr

/-- The sum of two enclosures. -/
def Encl.add (a b : Encl) : Encl := ⟨a.lo + b.lo, a.hi + b.hi⟩

/-- The difference, for a value known to be at least 0. -/
def Encl.sub (a b : Encl) : Encl := ⟨a.lo - b.hi, a.hi - b.lo⟩

/-- The product, in units of 2^-p. -/
def Encl.mul (p : Nat) (a b : Encl) : Encl := ⟨a.lo * b.lo / 2 ^ p, a.hi * b.hi / 2 ^ p + 1⟩

/-- The value times a / b. -/
def Encl.scale (x : Encl) (a b : Nat) : Encl := ⟨x.lo * a / b, x.hi * a / b + 1⟩

/-- The quotient, in units of 2^-p; 0 as the lower end of a divisor gives an enclosure of no use, not a wrong one. -/
def Encl.div (p : Nat) (a b : Encl) : Encl :=
  if b.lo = 0 then ⟨0, 2 ^ (4 * p + 4096)⟩ else ⟨a.lo * 2 ^ p / b.hi, a.hi * 2 ^ p / b.lo + 1⟩

/-- The square root, in units of 2^-p. -/
def Encl.sqrt (p : Nat) (a : Encl) : Encl := ⟨isqrt (a.lo * 2 ^ p), isqrt (a.hi * 2 ^ p) + 1⟩

/-- One, in units of 2^-p. -/
def Encl.one (p : Nat) : Encl := ⟨2 ^ p, 2 ^ p⟩

/-- m * 2^e, in units of 2^-p. -/
def Encl.ofNum (p : Nat) (m : Nat) (e : Int) : Encl :=
  let s := e + p
  if 0 ≤ s then ⟨m * 2 ^ s.toNat, m * 2 ^ s.toNat⟩
  else ⟨m / 2 ^ (-s).toNat, m / 2 ^ (-s).toNat + 1⟩

/-- The terms y^n / n! of the exponential, summed; the rest behind the last term is at most that term, y being at most
one half. -/
def expTerms (p : Nat) (y : Encl) : Nat → Nat → Encl → Encl → Encl
  | 0, _, t, acc => ⟨acc.lo, acc.hi + t.hi + 1⟩
  | k + 1, n, t, acc => expTerms p y k (n + 1) ((t.mul p y).scale 1 (n + 1)) (acc.add ((t.mul p y).scale 1 (n + 1)))

/-- An enclosure squared k times. -/
def squareTimes (p : Nat) : Nat → Encl → Encl
  | 0, x => x
  | k + 1, x => squareTimes p k (x.mul p x)

/-- e to an enclosed power below 2^16: the power is halved 17 times, then the result squared 17 times. -/
def expEncl (p : Nat) (x : Encl) : Encl :=
  squareTimes p 17 (expTerms p (x.scale 1 (2 ^ 17)) (p / 10 + 8) 0 (Encl.one p) (Encl.one p))

/-- The terms z^(2n+1) / (2n+1) of the inverse hyperbolic tangent, z at most 1/3. -/
def atanhTerms (p : Nat) (zz : Encl) : Nat → Nat → Encl → Encl → Encl
  | 0, _, t, acc => ⟨acc.lo, acc.hi + t.hi + 1⟩
  | k + 1, n, t, acc => atanhTerms p zz k (n + 1) (t.mul p zz) (acc.add ((t.mul p zz).scale 1 (2 * n + 3)))

/-- 2 artanh(z) for an enclosed z of at most 1/3. -/
def logSeries (p : Nat) (z : Encl) : Encl :=
  (atanhTerms p (z.mul p z) (p / 3 + 8) 0 z z).scale 2 1

/-- log(m / 2^k) for m / 2^k from 1 to 2. -/
def logOneTwo (p m k : Nat) : Encl :=
  logSeries p ⟨(m - 2 ^ k) * 2 ^ p / (m + 2 ^ k), (m - 2 ^ k) * 2 ^ p / (m + 2 ^ k) + 1⟩

/-- log 2. -/
def logTwo (p : Nat) : Encl := logSeries p ⟨2 ^ p / 3, 2 ^ p / 3 + 1⟩

/-- The terms of 3 arcsin(1/2) * 2 = pi, of ratio at most 1/4. -/
def piTerms (p : Nat) : Nat → Nat → Encl → Encl → Encl
  | 0, _, t, acc => ⟨acc.lo, acc.hi + t.hi + 1⟩
  | k + 1, n, t, acc =>
    piTerms p k (n + 1) (t.scale (2 * n + 1) (8 * (n + 1)))
      (acc.add ((t.scale (2 * n + 1) (8 * (n + 1))).scale 1 (2 * n + 3)))

/-- Pi. -/
def piEncl (p : Nat) : Encl := (piTerms p (p / 2 + 8) 0 (Encl.one p) (Encl.one p)).scale 3 1

/-- The terms (2 x^2)^n / (1 * 3 * ... * (2n+1)); behind the last, the ratio is at most one half. -/
def erfTerms (p : Nat) (xx : Encl) : Nat → Nat → Encl → Encl → Encl
  | 0, _, t, acc => ⟨acc.lo, acc.hi + t.hi + 1⟩
  | k + 1, n, t, acc =>
    erfTerms p xx k (n + 1) ((t.mul p xx).scale 2 (2 * n + 3)) (acc.add ((t.mul p xx).scale 2 (2 * n + 3)))

/-- erf(x) / x for an enclosed x^2, no more than `bound`: (2 / sqrt pi) * e^(-x^2) * sum of the terms. -/
def erfOverX (p bound : Nat) (xx : Encl) : Encl :=
  let s := erfTerms p xx (p + 5 * bound + 16) 0 (Encl.one p) (Encl.one p)
  let d := (expEncl p xx).mul p ((piEncl p).sqrt p)
  (s.scale 2 1).div p d

/-- The result where both ends of an enclosure of an irrational value give the same one: sign, enclosure in units of
2^e, and a function of a value just above m * 2^e (R70). -/
def decided {α : Type} [DecidableEq α] (x : Encl) (f : Nat → α) : Option α :=
  if x.lo = 0 then none else
  if f x.lo = f (x.hi - 1) then some (f x.lo) else none

/-- The first answer over a list of precisions. -/
def firstDecided {α : Type} (f : Nat → Option α) : List Nat → Option α
  | [] => none
  | p :: ps => match f p with
    | some a => some a
    | none => firstDecided f ps

/-- The precisions at which a function of R85 is tried. -/
def precisions : List Nat := [160, 320, 800]

/-- An irrational magnitude just above m * 2^e, rounded. -/
def roundAbove (rm : Rm) (f : Fmt) (neg : Bool) (e : Int) (m : Nat) : Word × FlagSet := roundNum rm f neg m e true

/-- A number whose square lies beyond a bound, or which is at least 2^k. -/
def atLeastTwoPow (m : Nat) (e k : Int) : Bool := decide (k ≤ e + Nat.log2 m)

/-- exp of a finite nonzero operand (R85): near 0 it lies beside 1; beyond 2^11 it overflows or vanishes. -/
def expFinite (rm : Rm) (f : Fmt) (neg : Bool) (m : Nat) (e : Int) : Option (Word × FlagSet) :=
  if !atLeastTwoPow m e (-100) then
    some (if neg then roundAbove rm f false (-100) (2 ^ 100 - 1) else roundAbove rm f false (-100) (2 ^ 100))
  else if atLeastTwoPow m e 11 then
    some (if neg then roundAbove rm f false (-8192) (2 ^ 64) else roundAbove rm f false 8192 (2 ^ 64))
  else
    firstDecided (fun p =>
      let x := expEncl p (Encl.ofNum p m e)
      if neg then decided ((Encl.one (p + 4096)).div p x) (roundAbove rm f false (-((p : Int) + 4096)))
      else decided x (roundAbove rm f false (-(p : Int)))) precisions

/-- log of a positive finite operand other than 1 (R85). -/
def logFinite (rm : Rm) (f : Fmt) (m : Nat) (e : Int) : Option (Word × FlagSet) :=
  let k := Nat.log2 m
  let g := e + k
  firstDecided (fun p =>
    if 0 ≤ g then
      decided (((logTwo p).scale g.toNat 1).add (logOneTwo p m k)) (roundAbove rm f false (-(p : Int)))
    else
      decided (((logTwo p).scale (-g).toNat 1).sub (logOneTwo p m k)) (roundAbove rm f true (-(p : Int)))) precisions

/-- erf of a finite nonzero operand (R85); from 8 on it lies beside 1. -/
def erfFinite (rm : Rm) (f : Fmt) (neg : Bool) (m : Nat) (e : Int) : Option (Word × FlagSet) :=
  if atLeastTwoPow m e 3 then some (roundAbove rm f neg (-100) (2 ^ 100 - 1))
  else
    firstDecided (fun p =>
      let r := erfOverX p 64 (Encl.ofNum p (m * m) (2 * e))
      decided ⟨r.lo * m, r.hi * m⟩ (roundAbove rm f neg (e - p))) precisions

/-- One, as a number. -/
def isOne (m : Nat) (e : Int) : Bool := decide (e ≤ 0 ∧ m = 2 ^ (-e).toNat)

/-- The correctly rounded functions (R85): 0 exp, 1 log, 2 erf. -/
def fpFunction (sel : Nat) (f : Fmt) (rm : Rm) (a : Word) : Option (Word × FlagSet) :=
  match unpack f a with
  | .nan s => some (f.nan, flagIf s flagNV)
  | .inf false => some (if sel = 2 then f.one false else f.inf false, 0#5)
  | .inf true => some (if sel = 0 then (f.sign false, 0#5) else if sel = 1 then (f.nan, flagNV) else (f.one true, 0#5))
  | .zero n => some (if sel = 0 then (f.one false, 0#5) else if sel = 1 then (f.inf true, flagDZ) else (f.sign n, 0#5))
  | .fin n m e =>
    if sel = 0 then expFinite rm f n m e
    else if sel = 1 then
      if n then some (f.nan, flagNV) else if isOne m e then some (f.sign false, 0#5) else logFinite rm f m e
    else erfFinite rm f n m e

/-- y of R87 and its rounding: the magnitude, just above m * 2^e where `sticky`, cut to p significant bits and rounded. -/
def truncateRound (rm : Rm) (f : Fmt) (p : Nat) (neg : Bool) (e : Int) (sticky : Bool) (m : Nat) : Word × FlagSet :=
  let k := Nat.log2 m + 1 - p
  roundNum rm f neg (m / 2 ^ k) (e + k) false (sticky || m % 2 ^ k != 0)

/-- The precision of a version of the approximate functions (R87): 3 recip, 4 rsqrt. -/
def approxPrec (ver sel : Nat) : Nat :=
  match ver with
  | 1 => 12
  | 2 => if sel = 3 ∨ sel = 4 then 12 else 14
  | _ => 16

/-- tanh of a finite nonzero magnitude (R87). -/
def tanhFinite (out : Int → Bool → Nat → Word × FlagSet) (m : Nat) (e : Int) : Option (Word × FlagSet) :=
  if !atLeastTwoPow m e (-60) then some (out (e - 100) true (m * 2 ^ 100 - 1))
  else if atLeastTwoPow m e 6 then some (out (-100) true (2 ^ 100 - 1))
  else
    firstDecided (fun p =>
      let x := expEncl p (Encl.ofNum p (2 * m) e)
      decided ((x.sub (Encl.one p)).div p (x.add (Encl.one p))) (out (-(p : Int)) true)) precisions

/-- 1 / (1 + e^-x) of a finite nonzero operand (R87); from 128 on it lies beside 1. -/
def sigmoidFinite (out : Int → Bool → Nat → Word × FlagSet) (neg : Bool) (m : Nat) (e : Int) : Option (Word × FlagSet) :=
  if !atLeastTwoPow m e (-60) then
    some (if neg then out (-101) true (2 ^ 100 - 1) else out (-101) true (2 ^ 100))
  else if !neg && atLeastTwoPow m e 7 then some (out (-100) true (2 ^ 100 - 1))
  else if atLeastTwoPow m e 11 then some (out (-8192) true (2 ^ 64))
  else
    firstDecided (fun p =>
      let x := expEncl p (Encl.ofNum p m e)
      let den := x.add (Encl.one p)
      if neg then decided ((Encl.one (p + 4096)).div p den) (out (-((p : Int) + 4096)) true)
      else decided (x.div p den) (out (-(p : Int)) true)) precisions

/-- x (1 + erf(x / sqrt 2)) / 2 of a finite nonzero operand (R87), delivered as a magnitude; below -64 it vanishes, from
16 on it lies beside x. -/
def geluFinite (out : Int → Bool → Nat → Word × FlagSet) (neg : Bool) (m : Nat) (e : Int) : Option (Word × FlagSet) :=
  if !atLeastTwoPow m e (-200) then
    some (if neg then out (e - 101) true (m * 2 ^ 100 - 1) else out (e - 101) true (m * 2 ^ 100))
  else if neg && atLeastTwoPow m e 6 then some (out (-8192) true (2 ^ 64))
  else if !neg && atLeastTwoPow m e 4 then some (out (e - 100) true (m * 2 ^ 100 - 1))
  else
    firstDecided (fun p =>
      let yy := Encl.ofNum p (m * m) (2 * e - 1)
      let bound := yy.hi / 2 ^ p + 1
      let x := (Encl.ofNum p m e)
      let erf := ((erfOverX p bound yy).mul p x).mul p ((Encl.ofNum p 1 (-1)).sqrt p)
      let s := if neg then (Encl.one p).sub erf else (Encl.one p).add erf
      decided ⟨s.lo * m, s.hi * m⟩ (out (e - p - 1) true)) [220, 900, 3600]

/-- The quotient 1 / (m * 2^e) (R87). -/
def recipFinite (out : Int → Bool → Nat → Word × FlagSet) (m : Nat) (e : Int) : Word × FlagSet :=
  let k := Nat.log2 m + 80
  out (-e - k) (2 ^ k % m != 0) (2 ^ k / m)

/-- 1 / sqrt(m * 2^e) (R87). -/
def rsqrtFinite (out : Int → Bool → Nat → Word × FlagSet) (m : Nat) (e : Int) : Word × FlagSet :=
  let k := Nat.log2 m + 160
  let k := if (e + k) % 2 = 0 then k else k + 1
  let r := isqrt (2 ^ k / m)
  out (-((e + k) / 2)) (r * r * m != 2 ^ k) r

/-- The approximate functions (R87, R88): 0 tanh, 1 sigmoid, 2 gelu, 3 recip, 4 rsqrt. -/
def fpApprox (ver sel : Nat) (f : Fmt) (rm : Rm) (a : Word) : Option (Word × FlagSet) :=
  let p := approxPrec ver sel
  match unpack f a with
  | .nan s => some (f.nan, flagIf s flagNV)
  | .inf n =>
    some (match sel, n with
      | 0, n => (f.one n, 0#5)
      | 1, false => (f.one false, 0#5)
      | 1, true => (f.sign false, 0#5)
      | 2, false => (f.inf false, 0#5)
      | 2, true => (f.sign true, 0#5)
      | 3, n => (f.sign n, 0#5)
      | _, false => (f.sign false, 0#5)
      | _, true => (f.nan, flagNV))
  | .zero n =>
    some (match sel with
      | 0 => (f.sign n, 0#5)
      | 1 => (f.half, 0#5)
      | 2 => (f.sign n, 0#5)
      | _ => (f.inf n, flagDZ))
  | .fin n m e =>
    match sel with
    | 0 => tanhFinite (truncateRound rm f p n) m e
    | 1 => sigmoidFinite (truncateRound rm f p false) n m e
    | 2 => geluFinite (truncateRound rm f p n) n m e
    | 3 => some (recipFinite (truncateRound rm f p n) m e)
    | _ => some (if n then (f.nan, flagNV) else rsqrtFinite (truncateRound rm f p false) m e)

/-- The code of a rounding mode (R45). -/
def Rm.code : Rm → BitVec 3
  | .rne => 0#3 | .rtz => 1#3 | .rdn => 2#3 | .rup => 3#3 | .rmm => 4#3

/-- The fmt code of a format (R46). -/
def Fmt.code : Fmt → BitVec 2
  | .f32 => 0#2 | .f64 => 1#2 | .bf16 => 2#2 | .f16 => 3#2

/-- A function of R85 by its selector, as FEXP, FLOG, FERF and VFUN deliver it; what the bounded evaluation leaves
undecided is a value of Config (log 5). -/
def fpFun (sel : Nat) (f : Fmt) (rm : Rm) (a : Word) : Word × FlagSet :=
  (fpFunction sel f rm a).getD (Config.undecidedFunction sel f.code rm.code a)

/-- A function of R87 by its selector, as FAPX and VFUN deliver it. -/
def fpApx (ver sel : Nat) (f : Fmt) (rm : Rm) (a : Word) : Word × FlagSet :=
  (fpApprox ver sel f rm a).getD (Config.undecidedFunction (16 * ver + sel + 16) f.code rm.code a)

end Sys2Proof.Machine
end

