-- ==== Sys2Proof/Machine/IntOps.lean ====
section
/-! DEFINITION. The arithmetic of the integer instructions (R98 to R102), on values alone. -/

namespace Sys2Proof.Machine

/-- An integer operation in 64 bits, or under W on bits [31:0] with the result sign-extended (R42, R98). -/
def underW (w : BitVec 1) (f : (n : Nat) → BitVec n → BitVec n → BitVec n) (a b : Word) : Word :=
  if w = 1#1 then (f 32 (a.setWidth 32) (b.setWidth 32)).signExtend 64 else f 64 a b

/-- Sum (R98). -/
def opAdd (n : Nat) (a b : BitVec n) : BitVec n := a + b
/-- Difference (R98). -/
def opSub (n : Nat) (a b : BitVec n) : BitVec n := a - b
/-- AND (R98). -/
def opAnd (n : Nat) (a b : BitVec n) : BitVec n := a &&& b
/-- OR (R98). -/
def opOr (n : Nat) (a b : BitVec n) : BitVec n := a ||| b
/-- XOR (R98). -/
def opXor (n : Nat) (a b : BitVec n) : BitVec n := a ^^^ b
/-- Left shift by the amount modulo the width (R98). -/
def opSll (n : Nat) (a b : BitVec n) : BitVec n := a <<< (b.toNat % n)
/-- Logical right shift by the amount modulo the width (R98). -/
def opSrl (n : Nat) (a b : BitVec n) : BitVec n := a >>> (b.toNat % n)
/-- Arithmetic right shift by the amount modulo the width (R98). -/
def opSra (n : Nat) (a b : BitVec n) : BitVec n := a.sshiftRight (b.toNat % n)

/-- rs1 < rs2, signed, or unsigned under U (R98). -/
def lessThan (u : BitVec 1) {n : Nat} (a b : BitVec n) : Bool := if u = 1#1 then a.ult b else a.slt b

/-- 1 where rs1 < rs2, else 0 (R98). -/
def opSlt (u : BitVec 1) (n : Nat) (a b : BitVec n) : BitVec n := if lessThan u a b then BitVec.ofNat n 1 else 0#n
/-- The lesser (R98). -/
def opMin (u : BitVec 1) (n : Nat) (a b : BitVec n) : BitVec n := if lessThan u a b then a else b
/-- The greater (R98). -/
def opMax (u : BitVec 1) (n : Nat) (a b : BitVec n) : BitVec n := if lessThan u a b then b else a
/-- The low half of the product (R98). -/
def opMul (n : Nat) (a b : BitVec n) : BitVec n := a * b
/-- The high half of the exact product, both sources signed, or unsigned under U (R98). -/
def opMulh (u : BitVec 1) (n : Nat) (a b : BitVec n) : BitVec n :=
  if u = 1#1 then BitVec.ofNat n (a.toNat * b.toNat / 2 ^ n)
  else BitVec.ofInt n (a.toInt * b.toInt / (2 ^ n : Nat))

/-- Quotient and remainder (R99). -/
def divRem (u : BitVec 1) (n : Nat) (a b : BitVec n) : BitVec n × BitVec n :=
  if b = 0#n then (BitVec.allOnes n, a)
  else if u = 1#1 then (a.udiv b, a.umod b)
  else if a = BitVec.intMin n ∧ b = BitVec.allOnes n then (BitVec.intMin n, 0#n)
  else (BitVec.ofInt n (a.toInt.tdiv b.toInt), BitVec.ofInt n (a.toInt - b.toInt * a.toInt.tdiv b.toInt))

/-- The quotient (R99). -/
def opDiv (u : BitVec 1) (n : Nat) (a b : BitVec n) : BitVec n := (divRem u n a b).1
/-- The remainder (R99). -/
def opRem (u : BitVec 1) (n : Nat) (a b : BitVec n) : BitVec n := (divRem u n a b).2

/-- Number of one bits among the low `k` bits. -/
def countOnes : Nat → Nat → Nat
  | 0, _ => 0
  | k + 1, x => x % 2 + countOnes k (x / 2)

/-- Number of zero bits below the lowest one bit, at most `k`. -/
def trailingZeros : Nat → Nat → Nat
  | 0, _ => 0
  | k + 1, x => if x % 2 = 1 then 0 else 1 + trailingZeros k (x / 2)

/-- Leading zeros (R98); the second source is not used. -/
def opClz (n : Nat) (a _b : BitVec n) : BitVec n :=
  BitVec.ofNat n (if a = 0#n then n else n - 1 - Nat.log2 a.toNat)
/-- Trailing zeros (R98). -/
def opCtz (n : Nat) (a _b : BitVec n) : BitVec n := BitVec.ofNat n (trailingZeros n a.toNat)
/-- One bits (R98). -/
def opPopc (n : Nat) (a _b : BitVec n) : BitVec n := BitVec.ofNat n (countOnes n a.toNat)

/-- The field of rs1 that rs2 chooses (R100). -/
def bitField (s w : BitVec 1) (a b : Word) : Word :=
  let p := (b.extractLsb' 0 6).toNat
  let l := (b.extractLsb' 6 7).toNat
  let width := if w = 1#1 then 32 else 64
  let v := a.toNat % 2 ^ width
  let f : Int :=
    if l = 0 ∨ width ≤ p then 0
    else
      let l := min l (width - p)
      let f := v / 2 ^ p % 2 ^ l
      if s = 1#1 ∧ f / 2 ^ (l - 1) % 2 = 1 then (f : Int) - 2 ^ l else f
  if w = 1#1 then (BitVec.ofInt 32 f).signExtend 64 else BitVec.ofInt 64 f

/-- The value of a U-format immediate (R102). -/
def upperImm (i : BitVec 19) : Word := (i ++ 0#13).signExtend 64

/-- The hash of R131. -/
def hash64 (idx k : Word) : Word :=
  let z := idx ^^^ k
  let z := (z ^^^ (z >>> 31)) * 0xB7E151634D2A9C6B#64
  let z := (z ^^^ (z >>> 29)) * 0x8F3D2E71A5C60B95#64
  z ^^^ (z >>> 32)

end Sys2Proof.Machine
end

