-- ==== Sys2Proof/Machine/VecOps.lean ====
section
/-! DEFINITION. What the vector instructions compute (R119 to R135), on values alone. A lane is held as a 64-bit word
whose bits above the lane's width are 0. -/

namespace Sys2Proof.Machine

/-- The lane width of a type code (R50). -/
def laneWidth (t : BitVec 3) : Nat :=
  match t with
  | 0#3 => 8 | 1#3 => 16 | 2#3 => 32 | 3#3 => 64 | 4#3 => 16 | 5#3 => 16 | 6#3 => 32 | _ => 64

/-- Is the type code one of a float type (R50)? -/
def isFloatType (t : BitVec 3) : Bool := 4 ≤ t.toNat

/-- The format of a float type code (R50). -/
def typeFmt (t : BitVec 3) : Fmt :=
  match t with
  | 4#3 => .bf16 | 5#3 => .f16 | 6#3 => .f32 | _ => .f64

/-- The lane count of a type code (R34, R50). -/
def laneCount (t : BitVec 3) : Nat := 512 / laneWidth t

/-- Lane i of width w (R34, R36). -/
def laneAt (w : Nat) (v : Vec) (i : Nat) : Word := BitVec.ofNat 64 (v.toNat / 2 ^ (w * i) % 2 ^ w)

/-- The lanes of a register, lane 0 first. -/
def lanesOf (w : Nat) (v : Vec) : List Word := (List.range (512 / w)).map (laneAt w v)

/-- Lanes packed, lane 0 in the low bits. -/
def packLanes (w : Nat) : List Word → Nat
  | [] => 0
  | x :: xs => x.toNat % 2 ^ w + 2 ^ w * packLanes w xs

/-- A register from its lanes. -/
def vecOfLanes (w : Nat) (xs : List Word) : Vec := BitVec.ofNat 512 (packLanes w xs)

/-- Is lane i active under the governing predicate (R34)? -/
def laneActive (p : Word) (i : Nat) : Bool := p.getLsbD i

/-- A lane read as a signed integer. -/
def laneInt (w : Nat) (x : Word) : Int := (BitVec.ofNat w x.toNat).toInt

/-- An integer as a lane, modulo 2^w. -/
def laneOfInt (w : Nat) (v : Int) : Word := BitVec.ofNat 64 (BitVec.ofInt w v).toNat

/-- The result of a vector operation: the lanes, and each lane's flags in lane order. -/
abbrev LaneResult := Word × FlagSet

/-- A lane that raises nothing. -/
def quiet (x : Word) : LaneResult := (x, 0#5)

/-- `f i` in every active lane i, the old lane elsewhere (R34, R122); the register and each lane's flags. -/
def mapLanes (w : Nat) (p : Word) (old : Vec) (f : Nat → LaneResult) : Vec × List FlagSet :=
  let rs := (List.range (512 / w)).map fun i => if laneActive p i then f i else quiet (laneAt w old i)
  (vecOfLanes w (rs.map Prod.fst), rs.map Prod.snd)

/-- A value clamped to a range (R123). -/
def clampInt (lo hi v : Int) : Int := if v < lo then lo else if hi < v then hi else v

/-- Sum or difference of integer lanes: var 0 wraps, 1 saturates signed, 2 saturates unsigned (R123). -/
def intAddSub (w : Nat) (sub : Bool) (var : BitVec 3) (a b : Word) : Word :=
  let op (x y : Int) : Int := if sub then x - y else x + y
  match var with
  | 1#3 => laneOfInt w (clampInt (-(2 ^ (w - 1))) (2 ^ (w - 1) - 1) (op (laneInt w a) (laneInt w b)))
  | 2#3 => laneOfInt w (clampInt 0 (2 ^ w - 1) (op a.toNat b.toNat))
  | _ => laneOfInt w (op a.toNat b.toNat)

/-- Product of integer lanes: var 0 low half, 1 high half signed, 2 high half unsigned (R123). -/
def intMul (w : Nat) (var : BitVec 3) (a b : Word) : Word :=
  match var with
  | 1#3 => laneOfInt w (laneInt w a * laneInt w b / (2 ^ w : Nat))
  | 2#3 => laneOfInt w ((a.toNat * b.toNat / 2 ^ w : Nat) : Int)
  | _ => laneOfInt w ((a.toNat * b.toNat : Nat) : Int)

/-- Integer lanes compared: unsigned by var 1, else signed (R123, R125). -/
def intLess (w : Nat) (var : BitVec 3) (a b : Word) : Bool :=
  if var = 1#3 then decide (a.toNat < b.toNat) else decide (laneInt w a < laneInt w b)

/-- VADD (R119, R123). -/
def laneAdd (t var : BitVec 3) (rm : Rm) (a b : Word) : LaneResult :=
  if isFloatType t then fpAdd (typeFmt t) rm a b else quiet (intAddSub (laneWidth t) false var a b)

/-- VSUB (R119, R123). -/
def laneSub (t var : BitVec 3) (rm : Rm) (a b : Word) : LaneResult :=
  if isFloatType t then fpSub (typeFmt t) rm a b else quiet (intAddSub (laneWidth t) true var a b)

/-- VMUL (R119, R123). -/
def laneMul (t var : BitVec 3) (rm : Rm) (a b : Word) : LaneResult :=
  if isFloatType t then fpMul (typeFmt t) rm a b else quiet (intMul (laneWidth t) var a b)

/-- VFMA (R119, R123): `c` is the lane of vd. -/
def laneFma (t : BitVec 3) (rm : Rm) (a b c : Word) : LaneResult :=
  if isFloatType t then fpFma (typeFmt t) rm false a b c
  else quiet (laneOfInt (laneWidth t) ((a.toNat * b.toNat + c.toNat : Nat) : Int))

/-- VMIN and VMAX (R119, R123). -/
def laneMinMax (t var : BitVec 3) (wantMax : Bool) (a b : Word) : LaneResult :=
  if isFloatType t then fpMinMax (typeFmt t) wantMax false a b
  else quiet (if intLess (laneWidth t) var a b != wantMax then a else b)

/-- VBIT (R124). -/
def laneBit (w : Nat) (var : BitVec 3) (a b : Word) : Word :=
  match var with
  | 0#3 => a &&& b
  | 1#3 => a ||| b
  | 2#3 => a ^^^ b
  | 3#3 => a &&& ~~~b
  | _ => BitVec.ofNat 64 (countOnes w a.toNat)

/-- VSH (R124). -/
def laneShift (w : Nat) (var : BitVec 3) (a b : Word) : Word :=
  let k := b.toNat % w
  match var with
  | 0#3 => BitVec.ofNat 64 (a.toNat * 2 ^ k % 2 ^ w)
  | 1#3 => BitVec.ofNat 64 (a.toNat / 2 ^ k)
  | _ => laneOfInt w (laneInt w a / (2 ^ k : Nat))

/-- The condition that vd [23:22] names (R125). -/
def cmpCond (c : BitVec 2) : FpCond :=
  match c with
  | 0#2 => .eq | 1#2 => .ne | 2#2 => .lt | _ => .le

/-- VCMP on one lane (R125). -/
def laneCompare (t var : BitVec 3) (c : BitVec 2) (a b : Word) : Bool × FlagSet :=
  if isFloatType t then fpCompare (typeFmt t) (cmpCond c) a b
  else
    let lt := intLess (laneWidth t) var a b
    (match cmpCond c with
      | .eq => a == b
      | .ne => a != b
      | .lt => lt
      | .le => lt || a == b
      | .un => false, 0#5)

/-- A predicate rewritten: active lanes below n take `f`, inactive ones keep their bit, the rest is cleared (R34). -/
def mapPredicate (n : Nat) (p old : Word) (f : Nat → Bool) : Word :=
  BitVec.ofNat 64 ((List.range n).foldr
    (fun i acc => (if (if laneActive p i then f i else old.getLsbD i) then 2 ^ i else 0) + acc) 0)

/-- The value of a converted lane (R127): source type, destination type, var or rm code, mode in effect. -/
def laneConvert (ts td var : BitVec 3) (rm : Rm) (x : Word) : LaneResult :=
  let ws := laneWidth ts
  let wd := laneWidth td
  if isFloatType ts then
    if isFloatType td then fpConvert (typeFmt ts) (typeFmt td) rm x
    else
      let (v, fl) := fpToInt (typeFmt ts) rm (-(2 ^ (wd - 1))) (2 ^ (wd - 1) - 1) x
      (laneOfInt wd v, fl)
  else if isFloatType td then fpOfInt (typeFmt td) rm (laneInt ws x)
  else if var = 1#3 then
    if wd ≤ ws then quiet (laneOfInt wd (clampInt (-(2 ^ (wd - 1))) (2 ^ (wd - 1) - 1) (laneInt ws x)))
    else quiet x
  else quiet (laneOfInt wd (laneInt ws x))

/-- VCVT's part limit (R127). -/
def cvtLimit (ts td : BitVec 3) : Nat := max (laneWidth ts / laneWidth td) (laneWidth td / laneWidth ts)

/-- VCVT (R127). -/
def vecConvert (ts td var : BitVec 3) (q : BitVec 2) (rm : Rm) (p : Word) (src old : Vec) : Vec × List FlagSet :=
  let ws := laneWidth ts
  let wd := laneWidth td
  mapLanes wd p old fun i =>
    if wd ≤ ws then
      let c := 512 / ws
      if q.toNat * c ≤ i ∧ i < q.toNat * c + c then laneConvert ts td var rm (laneAt ws src (i - q.toNat * c))
      else quiet (laneAt wd old i)
    else laneConvert ts td var rm (laneAt ws src (q.toNat * (512 / wd) + i))

/-- The function that a VFUN selector names (R128), at the version in FNVER. -/
def laneFunction (sel : BitVec 5) (t : BitVec 3) (rm : Rm) (ver : Nat) (a : Word) : LaneResult :=
  let s := sel.toNat
  if s < 3 then fpFun s (typeFmt t) rm a
  else if s < 8 then fpApx ver (s - 3) (typeFmt t) rm a
  else fpSqrt (typeFmt t) rm a

/-- One level of a pairwise reduction: neighbours combined, an odd last element kept. -/
def pairUp {α : Type} (op : α → α → α) : List α → List α
  | a :: b :: r => op a b :: pairUp op r
  | r => r

/-- `k` levels of a pairwise reduction (R129). -/
def reduceTree {α : Type} (op : α → α → α) : Nat → List α → List α
  | 0, xs => xs
  | k + 1, xs => reduceTree op k (pairUp op xs)

/-- The identity of a reduction (R129). -/
def reduceIdentity (o : BitVec 5) (t var : BitVec 3) (rm : Rm) : Word :=
  let w := laneWidth t
  if isFloatType t then
    match o.toNat with
    | 0 => (typeFmt t).sign (rm != .rdn)
    | 1 => (typeFmt t).inf false
    | _ => (typeFmt t).inf true
  else
    match o.toNat with
    | 1 => if var = 1#3 then laneOfInt w (-1) else laneOfInt w (2 ^ (w - 1) - 1)
    | 2 => if var = 1#3 then 0#64 else laneOfInt w (-(2 ^ (w - 1)))
    | 3 => laneOfInt w (-1)
    | _ => 0#64

/-- One node of a reduction (R129). -/
def reduceNode (o : BitVec 5) (t var : BitVec 3) (rm : Rm) (a b : LaneResult) : LaneResult :=
  let r : LaneResult :=
    match o.toNat with
    | 0 => laneAdd t 0#3 rm a.1 b.1
    | 1 => laneMinMax t var false a.1 b.1
    | 2 => laneMinMax t var true a.1 b.1
    | 3 => quiet (a.1 &&& b.1)
    | 4 => quiet (a.1 ||| b.1)
    | _ => quiet (a.1 ^^^ b.1)
  (r.1, r.2 ||| a.2 ||| b.2)

/-- VRED (R129): lane 0 of the result and the flags of all nodes. -/
def vecReduce (o : BitVec 5) (t var : BitVec 3) (rm : Rm) (p : Word) (src : Vec) : LaneResult :=
  let n := laneCount t
  let leaves := (List.range n).map fun i =>
    quiet (if laneActive p i then laneAt (laneWidth t) src i else reduceIdentity o t var rm)
  (reduceTree (reduceNode o t var rm) (Nat.log2 n) leaves).headD (quiet 0#64)

/-- VPERM (R130). -/
def lanePermute (w : Nat) (var : BitVec 3) (tab idx : Vec) (i : Nat) : Word :=
  let n := 512 / w
  let k := (laneAt w idx i).toNat
  if var = 1#3 ∧ n ≤ k then 0#64 else laneAt w tab (k % n)

/-- Population count of lanes 0 to k - 1 of 64 bits (R133). -/
def prefixOnes (src : Vec) (k : Nat) : Nat :=
  ((List.range k).map fun j => countOnes 64 (laneAt 64 src j).toNat).sum

/-- The position of the t-th set bit, counting set bits from bit `i` up; none if there is no such bit (R134). -/
def setBitPos (a : Word) : Nat → Nat → Nat → Option Nat
  | 0, _, _ => none
  | k + 1, i, t =>
    if a.getLsbD i then (if t = 0 then some i else setBitPos a k (i + 1) (t - 1)) else setBitPos a k (i + 1) t

/-- VISECT's lane i of quarter q (R134). -/
def laneIntersect (q : BitVec 2) (ma mb : Word) (i : Nat) : Word :=
  match setBitPos (ma &&& mb) 64 0 (16 * q.toNat + i % 16) with
  | some e => BitVec.ofNat 64 (countOnes 64 ((if i < 16 then ma else mb).toNat % 2 ^ e))
  | none => 0xFFFF#64

/-- VDOT's lane i (R135). -/
def laneDot (t var : BitVec 3) (rm : Rm) (a b old : Vec) (i : Nat) : LaneResult :=
  let w := laneWidth t
  let acc := laneAt 32 old i
  if isFloatType t then
    let prod (j : Nat) := mulExact (unpack (typeFmt t) (laneAt w a j)) (unpack (typeFmt t) (laneAt w b j))
    let p := prod (2 * i)
    let q := prod (2 * i + 1)
    let s := sumExact rm [unpack .f32 acc, p.2, q.2]
    deliverMarked rm .f32 (p.1 || q.1 || s.1, s.2)
  else
    let g := 32 / w
    let va (x : Word) : Int := if var = 0#3 then laneInt w x else x.toNat
    let vb (x : Word) : Int := if var = 1#3 then x.toNat else laneInt w x
    quiet (laneOfInt 32 ((acc.toNat : Int) +
      ((List.range g).map fun j => va (laneAt w a (g * i + j)) * vb (laneAt w b (g * i + j))).sum))

end Sys2Proof.Machine
end

