-- ==== Sys2Proof/Machine/Legal.lean ====
section
/-! DEFINITION. Step 1 of R59 behind the decoder: the field codes that trap #ILL (R42 to R54 and the instructions'
entries). And what steps 2 and 3 look at: the privileged encodings and the rounding field. -/

namespace Sys2Proof.Machine

/-- A scope code that exists (R49). -/
def scopeOk (s : BitVec 3) : Bool := decide (s.toNat ≤ 4)

/-- A path code that exists (R52). -/
def pathOk (p : BitVec 3) : Bool := decide (p.toNat ≤ 5)

/-- [2:0] of a vector instruction: a rounding code on a float type, a var up to `m` on an integer type (R50, R119). -/
def varOk (t v : BitVec 3) (m : Nat) : Bool := if isFloatType t then rmCodeOk v else decide (v.toNat ≤ m)

/-- The fields of VCVT (R127). -/
def vcvtOk (q : BitVec 2) (s t r : BitVec 3) : Bool :=
  s != t && !(laneWidth s == 8 && laneWidth t == 64) && !(laneWidth s == 64 && laneWidth t == 8) &&
    decide (q.toNat < cvtLimit s t) &&
    (if isFloatType s || isFloatType t then rmCodeOk r else decide (r.toNat ≤ 1))

/-- An accumulator that a command on FP64 may name (R187). -/
def pairOk (wide : Bool) (k : BitVec 4) : Bool := !wide || !k.getLsbD 0

/-- A format code that MACC LOAD and STORE list (R204). -/
def accFmtOk (f : BitVec 3) : Bool := f != 1#3 && f != 3#3

/-- The fields of CXINFO (R174). -/
def cxinfoOk (c : BitVec 4) (x s : BitVec 5) (g : BitVec 4) : Bool :=
  x == 0#5 &&
    (if s.toNat ≤ 7 then decide (c.toNat < 4) && (if 4 ≤ s.toNat ∧ s.toNat ≤ 6 then decide (g.toNat ≤ 3) else g == 0#4)
     else if s.toNat = 8 then c == 0#4
     else decide (16 ≤ s.toNat ∧ s.toNat ≤ 19) && g == 0#4)

/-- The CSR numbers of the map (R347). -/
def csrListed (n : Nat) : Bool :=
  decide (1 ≤ n ∧ n ≤ 5) || decide (8 ≤ n ∧ n ≤ 0xA) || decide (0x100 ≤ n ∧ n ≤ 0x103) ||
  decide (0x200 ≤ n ∧ n ≤ 0x203) || decide (0x300 ≤ n ∧ n ≤ 0x309) || decide (0x310 ≤ n ∧ n ≤ 0x313) ||
  decide (0x320 ≤ n ∧ n ≤ 0x327) || decide (0x330 ≤ n ∧ n ≤ 0x331) || decide (0x700 ≤ n ∧ n ≤ 0x709)

/-- THE FIELD CODES OF AN INSTRUCTION: false where step 1 of R59 traps #ILL on a word that the decoder reads. The
device's own steps have no word. -/
def legal (i : Instr) : Bool :=
  match i with
  | .slli _ _ i => decide (i.toNat ≤ 63)
  | .srli _ _ i => decide (i.toNat ≤ 63)
  | .srai _ _ i => decide (i.toNat ≤ 63)
  | .loop _ n => decide (1 ≤ n.toNat ∧ n.toNat ≤ 64)
  | .ld _ _ w _ => w != 7#3
  | .st _ _ w _ => decide (w.toNat ≤ 3)
  | .fld _ _ w _ => decide (1 ≤ w.toNat ∧ w.toNat ≤ 3)
  | .fst _ _ w _ => decide (1 ≤ w.toNat ∧ w.toNat ≤ 3)
  | .vldx _ _ _ _ _ h => decide (h.toNat ≤ 3)
  | .vstx _ _ _ _ _ h => decide (h.toNat ≤ 3)
  | .ldo _ _ w o s => w != 7#3 && o != 2#2 && scopeOk s && !(o == 3#2 && s == 4#3)
  | .sto _ _ w o s => decide (w.toNat ≤ 3) && o != 2#2 && scopeOk s && !(o == 3#2 && s == 4#3)
  | .lds _ _ m s => decide (m.toNat ≤ 1) && scopeOk s
  | .sts _ _ m s => decide (m.toNat ≤ 2) && scopeOk s
  | .amo _ _ _ s o f => scopeOk s && !(o == 3#2 && s == 4#3) && decide (f.toNat ≤ 8)
  | .fence s => scopeOk s
  | .xfence a b => pathOk a && pathOk b
  | .mbxpop d e => !(d == e && d != 0#5)
  | .barrive _ _ s => scopeOk s
  | .cpset _ b g => decide (g.toNat ≤ 12) && (b == 0#5 || decide (g.toNat ≤ 4) || decide (6 ≤ g.toNat ∧ g.toNat ≤ 10))
  | .reloc _ _ _ t => decide (t.toNat ≤ 4)
  | .relocRet _ _ t => decide (t.toNat ≤ 4)
  | .fadd _ _ _ r _ => rmCodeOk r
  | .fsub _ _ _ r _ => rmCodeOk r
  | .fmul _ _ _ r _ => rmCodeOk r
  | .fdiv _ _ _ r _ => rmCodeOk r
  | .fsqrt _ _ r _ => rmCodeOk r
  | .fma _ _ _ _ _ r => rmCodeOk r
  | .fnma _ _ _ _ _ r => rmCodeOk r
  | .fcvt _ _ r f s => rmCodeOk r && s != f
  | .fcvti _ _ r _ _ _ => rmCodeOk r
  | .fcvtf _ _ r _ _ _ => rmCodeOk r
  | .fmv _ _ _ s => s != 3#2
  | .fsgnj _ _ _ _ s => s != 3#2
  | .fexp _ _ r _ => rmCodeOk r
  | .flog _ _ r _ => rmCodeOk r
  | .ferf _ _ r _ => rmCodeOk r
  | .fapx _ _ r _ s => rmCodeOk r && decide (s.toNat ≤ 4)
  | .vadd _ _ _ _ t r => varOk t r 2
  | .vsub _ _ _ _ t r => varOk t r 2
  | .vmul _ _ _ _ t r => varOk t r 2
  | .vfma _ _ _ _ t r => varOk t r 0
  | .vmin _ _ _ _ t r => varOk t r 1
  | .vmax _ _ _ _ t r => varOk t r 1
  | .vbit _ _ b _ t v => !isFloatType t && decide (v.toNat ≤ 4) && (v != 4#3 || b == 0#5)
  | .vsh _ _ _ _ t v => !isFloatType t && decide (v.toNat ≤ 2)
  | .vcmp _ _ _ _ _ t v => varOk t v 1
  | .vsel _ _ _ _ t _ => !isFloatType t
  | .vcvt _ _ q s _ t r => vcvtOk q s t r
  | .vfun _ _ f _ t r =>
    isFloatType t && rmCodeOk r && decide (f.toNat ≤ 8) && !(decide (f.toNat ≤ 2) && decide (t.toNat ≤ 5))
  | .vred _ _ o _ t v => varOk t v 1 && decide (o.toNat ≤ (if isFloatType t then 2 else 5))
  | .vsplat _ _ _ t r => varOk t r 0
  | .vperm _ _ _ _ t v => !isFloatType t && decide (v.toNat ≤ 1)
  | .vextr _ _ _ t v => varOk t v 1
  | .vhash _ _ _ _ v => decide (v.toNat ≤ 1)
  | .vpfx _ _ _ v => decide (v.toNat ≤ 1)
  | .vdot _ _ _ _ t v => (t.toNat % 4 ≤ 1) && varOk t v 2
  | .cxinfo c x _ s g => cxinfoOk c x s g
  | .cbind _ _ _ f _ _ _ => f != 3#2
  | .cq _ _ r => rmCodeOk r
  | .cdq _ _ r => rmCodeOk r
  | .dext _ _ r => rmCodeOk r
  | .dcob _ _ r => rmCodeOk r
  | .hstar _ _ r => rmCodeOk r
  | .wedge _ _ _ r _ => rmCodeOk r
  | .interp _ _ r n => rmCodeOk r && n != 3#2
  | .clin _ _ _ r _ _ => rmCodeOk r
  | .cred _ _ _ r _ => rmCodeOk r
  | .mcfg _ _ s => decide (s.toNat ≤ 5)
  | .mma _ k _ _ t r _ => decide (t.toNat ≤ 5) && rmCodeOk r && pairOk (t == 3#3) k
  | .mconst _ k _ b t r c _ =>
    decide (t.toNat ≤ 5) && rmCodeOk r && pairOk (t == 3#3) k && (c == 1#2 || b == 0#5)
  | .maccLoad _ k _ f => accFmtOk f && pairOk (f == 7#3) k
  | .maccStore _ k _ r f =>
    accFmtOk f && pairOk (f == 7#3) k && (if f.toNat = 4 ∨ f.toNat = 5 ∨ f.toNat = 6 then rmCodeOk r else r == 0#3)
  | .maccAdd _ k j r f =>
    (f == 2#3 || f == 6#3 || f == 7#3) && pairOk (f == 7#3) k && pairOk (f == 7#3) j &&
      (if f = 2#3 then r == 0#3 else rmCodeOk r)
  | .hfold _ _ _ e => decide (e.toNat ≤ 1)
  | .hscan _ _ _ e => decide (e.toNat ≤ 1)
  | .hzip _ _ _ e => decide (e.toNat ≤ 1)
  | .houter _ _ _ e => decide (e.toNat ≤ 1)
  | .csrrw _ _ n => csrListed n.toNat
  | .csrrs _ _ n => csrListed n.toNat
  | .csrrc _ _ n => csrListed n.toNat
  | .ctuinv a b r k =>
    decide (r.toNat ≤ 2) && k != 3#2 && (k != 0#2 || (a == 0#5 && b == 0#5)) && (k != 1#2 || a == 0#5)
  | .reservedOpcode w => w.extractLsb' 24 8 == 0#8 || decide (0x91 ≤ (w.extractLsb' 24 8).toNat)
  | _ => true

/-- The encodings that step 2 of R59 lets pass in S and M mode only (R56); the CSR instructions have a rule of their
own (R313). -/
def privileged (i : Instr) : Bool :=
  match i with
  | .reloc _ _ _ _ => true
  | .relocRet _ _ _ => true
  | .launchJob _ _ => true
  | .eret => true
  | .ctuinv _ _ _ _ => true
  | .wfi => true
  | _ => false

/-- The rounding field that step 3 of R59 looks at: the one that an rm field holds, of a form that has one (R45, R53,
R119, R197, R204). -/
def rmField (i : Instr) : Option (BitVec 3) :=
  match i with
  | .fadd _ _ _ r _ => some r
  | .fsub _ _ _ r _ => some r
  | .fmul _ _ _ r _ => some r
  | .fdiv _ _ _ r _ => some r
  | .fsqrt _ _ r _ => some r
  | .fma _ _ _ _ _ r => some r
  | .fnma _ _ _ _ _ r => some r
  | .fcvt _ _ r _ _ => some r
  | .fcvti _ _ r _ _ _ => some r
  | .fcvtf _ _ r _ _ _ => some r
  | .fexp _ _ r _ => some r
  | .flog _ _ r _ => some r
  | .ferf _ _ r _ => some r
  | .fapx _ _ r _ _ => some r
  | .vadd _ _ _ _ t r => if isFloatType t then some r else none
  | .vsub _ _ _ _ t r => if isFloatType t then some r else none
  | .vmul _ _ _ _ t r => if isFloatType t then some r else none
  | .vfma _ _ _ _ t r => if isFloatType t then some r else none
  | .vmin _ _ _ _ t r => if isFloatType t then some r else none
  | .vmax _ _ _ _ t r => if isFloatType t then some r else none
  | .vcmp _ _ _ _ _ t v => if isFloatType t then some v else none
  | .vcvt _ _ _ s _ t r => if isFloatType s || isFloatType t then some r else none
  | .vfun _ _ _ _ _ r => some r
  | .vred _ _ _ _ t v => if isFloatType t then some v else none
  | .vsplat _ _ _ t r => if isFloatType t then some r else none
  | .vextr _ _ _ t v => if isFloatType t then some v else none
  | .vdot _ _ _ _ t v => if isFloatType t then some v else none
  | .cq _ _ r => some r
  | .cdq _ _ r => some r
  | .dext _ _ r => some r
  | .dcob _ _ r => some r
  | .hstar _ _ r => some r
  | .wedge _ _ _ r _ => some r
  | .interp _ _ r _ => some r
  | .clin _ _ _ r _ _ => some r
  | .cred _ _ _ r _ => some r
  | .mma _ _ _ _ _ r _ => some r
  | .mconst _ _ _ _ _ r _ _ => some r
  | .maccStore _ _ _ r _ => some r
  | .maccAdd _ _ _ r _ => some r
  | _ => none

/-- Is the instruction a conditional branch, JAL, JALR or LOOP, which may not stand in an active loop body (R108)? -/
def isControlFlow (i : Instr) : Bool :=
  match i with
  | .beq _ _ _ => true
  | .bne _ _ _ => true
  | .blt _ _ _ => true
  | .bge _ _ _ => true
  | .bltu _ _ _ => true
  | .bgeu _ _ _ => true
  | .jal _ _ => true
  | .jalr _ _ _ => true
  | .loop _ _ => true
  | _ => false

end Sys2Proof.Machine
end

