-- ==== Sys2Proof/Machine/Operands.lean ====
section
/-! DEFINITION. What every instruction shares: steps 1 to 3 of R59, immediates, the delivery of results with their flags
(R73), and the registers that it reads (R359). -/

namespace Sys2Proof.Machine

/-- What an instruction or a step of the device ends in. -/
abbrev Result := Host.Outcome State Fault Refusal

/-- Steps 1 to 3 of R59 behind the decoder, and the rule of a loop body (R108): the trap of an instruction that they
stop. -/
def refusal (i : Instr) (s : State) : Option Trap :=
  let t := s.me
  if !legal i || (isControlFlow i && t.inLoopBody t.pc) then some (trapILL (wordOf i))
  else if privileged i && t.mode == .u then some (trapPRIV (wordOf i))
  else
    match rmField i with
    | some r => if (effectiveRm r t.frm).isNone then some (trapILL (wordOf i)) else none
    | none => none

/-- An instruction that the current strand issues: the checks that all share, then its own effect. -/
def issue (i : Instr) (body : State → Result) (s : State) : Result :=
  match refusal i s with
  | some tr => .next (s.takeTrap s.cur tr)
  | none => body s

/-- An instruction with accesses, waits or traps of its own: the shared checks, then its run. -/
def issueRun (i : Instr) (m : M Unit) (s : State) : Result := issue i (runInstr i m) s

/-- The strand's state changed, and the instruction complete. -/
def complete (f : Strand → Strand) (s : State) : Result := .next (s.modMe f).retire

/-- The mode that an rm field names, FRM's under DYN (R45). -/
def Strand.rm (t : Strand) (r : BitVec 3) : Rm := (effectiveRm r t.frm).getD .rne

/-- R73: flags merged; #FPX where FTE enables one, else the results written and the instruction complete. `lane` is
what TVAL2 [13:8] gets. -/
def deliverFlags (fl : FlagSet) (lane : Nat) (put : Strand → Strand) (s : State) : Result :=
  let s' := s.modMe fun t => { t with fflags := mergeFlags t.fflags fl }
  if enabledFlags s.me.fte fl = 0#5 then .next (s'.modMe put).retire
  else .next (s'.takeTrap s.cur (trapFPX (BitVec.ofNat 64 (lane % 64 * 256 + fl.toNat))))

/-- The same for the lanes of a vector instruction (R73). -/
def deliverLanes (fls : List FlagSet) (put : Strand → Strand) (s : State) : Result :=
  deliverFlags (orFlags fls) ((firstEnabledLane s.me.fte 0 fls).getD 0) put s

/-- A sign-extended immediate (R41). -/
def immWord {n : Nat} (i : BitVec n) : Word := i.signExtend 64

/-- The FNVER version in effect (R86). -/
def Strand.version (t : Strand) : Nat := getField t.fnver 0 8

/-! Registers read. -/

/-- A register of file 0, x. -/
def rx (r : BitVec 5) : Nat × Nat := (0, r.toNat)
/-- A register of file 1, f. -/
def rf (r : BitVec 5) : Nat × Nat := (1, r.toNat)
/-- A register of file 2, v. -/
def rv (r : BitVec 5) : Nat × Nat := (2, r.toNat)
/-- A register of file 3, p. -/
def rp (r : BitVec 3) : Nat × Nat := (3, r.toNat)
/-- A register of file 4, c. -/
def rc (r : BitVec 4) : Nat × Nat := (4, r.toNat)

/-- The governing predicate, and the destination that keeps its inactive lanes (R122). DESIGN CHOICE. Keeping them counts
as reading the destination, exactly where the predicate is not p0 (log 49). -/
def rold (p : BitVec 3) (d : BitVec 5) : List (Nat × Nat) := rp p :: (if p = 0#3 then [] else [rv d])

/-- FRM, under a DYN rm. -/
def rdyn (r : BitVec 3) : List (Nat × Nat) := if r = 7#3 then [(5, 2)] else []

/-- FRM, under a DYN rm of a vector instruction on a float type (R119). -/
def rvec (t r : BitVec 3) : List (Nat × Nat) := if isFloatType t then rdyn r else []

/-- THE REGISTERS OF THE x, f, v, p AND c FILES THAT AN INSTRUCTION READS, and FRM, FNVER and the CSR that a CSR
instruction names: file and number in the codes of R359. -/
def readsOf (i : Instr) : List (Nat × Nat) :=
  match i with
  | .add _ a b _ => [rx a, rx b]
  | .sub _ a b _ => [rx a, rx b]
  | .and _ a b _ => [rx a, rx b]
  | .or _ a b _ => [rx a, rx b]
  | .xor _ a b _ => [rx a, rx b]
  | .sll _ a b _ => [rx a, rx b]
  | .srl _ a b _ => [rx a, rx b]
  | .sra _ a b _ => [rx a, rx b]
  | .slt _ a b _ _ => [rx a, rx b]
  | .min _ a b _ _ => [rx a, rx b]
  | .max _ a b _ _ => [rx a, rx b]
  | .mul _ a b _ => [rx a, rx b]
  | .mulh _ a b _ _ => [rx a, rx b]
  | .div _ a b _ _ => [rx a, rx b]
  | .rem _ a b _ _ => [rx a, rx b]
  | .clz _ a _ => [rx a]
  | .ctz _ a _ => [rx a]
  | .popc _ a _ => [rx a]
  | .bfx _ a b _ _ => [rx a, rx b]
  | .addi _ a _ => [rx a]
  | .andi _ a _ => [rx a]
  | .ori _ a _ => [rx a]
  | .xori _ a _ => [rx a]
  | .slli _ a _ => [rx a]
  | .srli _ a _ => [rx a]
  | .srai _ a _ => [rx a]
  | .slti _ a _ => [rx a]
  | .beq a b _ => [rx a, rx b]
  | .bne a b _ => [rx a, rx b]
  | .blt a b _ => [rx a, rx b]
  | .bge a b _ => [rx a, rx b]
  | .bltu a b _ => [rx a, rx b]
  | .bgeu a b _ => [rx a, rx b]
  | .jalr _ a _ => [rx a]
  | .loop a _ => [rx a]
  | .ld _ a _ _ => [rx a]
  | .st b a _ _ => [rx a, rx b]
  | .fld _ a _ _ => [rx a]
  | .fst b a _ _ => [rx a, rf b]
  | .vld _ a _ => [rx a]
  | .vst b a _ => [rx a, rv b]
  | .vldx d a b p _ _ => [rx a, rv b] ++ rold p d
  | .vstx d a b p _ _ => [rx a, rv b, rp p, rv d]
  | .ldo _ a _ _ _ => [rx a]
  | .sto b a _ _ _ => [rx a, rx b]
  | .lds _ a _ _ => [rx a]
  | .sts b a _ _ => [rx a, rx b]
  | .tpf a _ => [rx a]
  | .amo _ a b _ _ _ => [rx a, rx b]
  | .cas _ a b e _ _ => [rx a, rx b, rx e]
  | .mwatch _ a => [rx a]
  | .mwait _ t => [rx t]
  | .mbxwait _ t => [rx t]
  | .barrive _ a _ => [rx a]
  | .cpset a b _ => [rx a, rx b]
  | .gxpost _ a => [rx a]
  | .tmov d a b => [rx a, rx b, rx d]
  | .reloc _ a b _ => [rx a, rx b]
  | .relocRet _ a _ => [rx a]
  | .msweep _ a b => [rx a, rx b]
  | .fadd _ a b r _ => [rf a, rf b] ++ rdyn r
  | .fsub _ a b r _ => [rf a, rf b] ++ rdyn r
  | .fmul _ a b r _ => [rf a, rf b] ++ rdyn r
  | .fdiv _ a b r _ => [rf a, rf b] ++ rdyn r
  | .fsqrt _ a r _ => [rf a] ++ rdyn r
  | .fma _ a b c _ r => [rf a, rf b, rf c] ++ rdyn r
  | .fnma _ a b c _ r => [rf a, rf b, rf c] ++ rdyn r
  | .fmin _ a b _ _ => [rf a, rf b]
  | .fmax _ a b _ _ => [rf a, rf b]
  | .fcmp _ a b _ _ => [rf a, rf b]
  | .fclass _ a _ => [rf a]
  | .fcvt _ a r _ _ => [rf a] ++ rdyn r
  | .fcvti _ a r _ _ _ => [rf a] ++ rdyn r
  | .fcvtf _ a r _ _ _ => [rx a] ++ rdyn r
  | .fmv _ a _ s => [if s = 1#2 then rx a else rf a]
  | .fsgnj _ a b _ _ => [rf a, rf b]
  | .fexp _ a r _ => [rf a] ++ rdyn r
  | .flog _ a r _ => [rf a] ++ rdyn r
  | .ferf _ a r _ => [rf a] ++ rdyn r
  | .fapx _ a r _ _ => [rf a, (5, 4)] ++ rdyn r
  | .vadd d a b p t r => [rv a, rv b] ++ rold p d ++ rvec t r
  | .vsub d a b p t r => [rv a, rv b] ++ rold p d ++ rvec t r
  | .vmul d a b p t r => [rv a, rv b] ++ rold p d ++ rvec t r
  | .vfma d a b p t r => [rv a, rv b, rp p, rv d] ++ rvec t r
  | .vmin d a b p t r => [rv a, rv b] ++ rold p d ++ rvec t r
  | .vmax d a b p t r => [rv a, rv b] ++ rold p d ++ rvec t r
  | .vbit d a b p _ v => (if v = 4#3 then [rv a] else [rv a, rv b]) ++ rold p d
  | .vsh d a b p _ _ => [rv a, rv b] ++ rold p d
  | .vcmp _ q a b p t r => [rv a, rv b, rp p] ++ (if p = 0#3 then [] else [rp q]) ++ rvec t r
  | .vsel d a b p _ s => [rv a, rv b, rp s] ++ rold p d
  | .vcvt d a _ s p t r =>
    [rv a] ++ (if laneWidth s ≤ laneWidth t then rold p d else [rp p, rv d]) ++ (if isFloatType s then rdyn r else rvec t r)
  | .vfun d a f p t r => [rv a] ++ rold p d ++ rvec t r ++ (if 3 ≤ f.toNat ∧ f.toNat ≤ 7 then [(5, 4)] else [])
  | .vred _ a _ p t r => [rv a, rp p] ++ rvec t r
  | .vsplat d a p t r => [if isFloatType t then rf a else rx a] ++ rold p d ++ rvec t r
  | .vperm d a b p _ _ => [rv a, rv b] ++ rold p d
  | .vextr _ a b t r => [rv a, rx b] ++ rvec t r
  | .vhash d a b p v => [if v = 1#3 then rx a else rv a, rx b] ++ rold p d
  | .vbmand d a b p q => [rv a, rv b] ++ rold p d ++ (if p = 0#3 then [] else [rp q])
  | .vpfx d a p _ => [rv a] ++ rold p d
  | .visect d a b p _ => [rv a, rv b] ++ rold p d
  | .vdot d a b p t r => [rv a, rv b, rp p, rv d] ++ rvec t r
  | .cxload _ x _ => [rx x]
  | .cxedit _ x _ => [rx x]
  | .cxinfo c _ _ s _ => if 16 ≤ s.toNat then [rc c] else []
  | .cxinfoSetexp c x => [rc c, rx x]
  | .cbind _ x g _ _ _ _ => [rx x, rx g]
  | .cq c a r => [rc c, rc a] ++ rdyn r
  | .cdq c a r => [rc c, rc a] ++ rdyn r
  | .dext c a r => [rc c, rc a] ++ rdyn r
  | .dcob c a r => [rc c, rc a] ++ rdyn r
  | .hstar c a r => [rc c, rc a] ++ rdyn r
  | .wedge c a b r _ => [rc c, rc a, rc b] ++ rdyn r
  | .interp c a r _ => [rc c, rc a] ++ rdyn r
  | .clin c a b r _ _ => [rc c, rc a, rc b] ++ rdyn r
  | .cseamSend c _ => [rc c]
  | .cseamRelease c => [rc c]
  | .cseamLand c _ => [rc c]
  | .cred c x _ r _ => [rc c, rx x] ++ rdyn r
  | .mcfg _ a _ => [rx a]
  | .mma _ _ a b _ r _ => [rx a, rx b] ++ rdyn r
  | .mconst _ _ a b _ r _ _ => [rx a, rx b] ++ rdyn r
  | .maccLoad _ _ a _ => [rx a]
  | .maccStore _ _ a r _ => [rx a] ++ rdyn r
  | .maccAdd _ _ _ r _ => rdyn r
  | .rtdef _ a => [rx a]
  | .hfold _ a _ _ => [rx a]
  | .hscan _ a _ _ => [rx a]
  | .hzip _ a _ _ => [rx a]
  | .houter _ a _ _ => [rx a]
  | .colput _ v _ => [rv v]
  | .ssync _ a => [rx a]
  | .launch _ a => [rx a]
  | .launchQuery _ a l => if l.toNat ≤ 1 then [rx a] else []
  | .launchJob _ a => [rx a]
  | .cancel _ a l => if l.toNat ≤ 1 then [rx a] else []
  | .csrrw _ a n => [rx a, (5, n.toNat)]
  | .csrrs _ a n => [rx a, (5, n.toNat)]
  | .csrrc _ a n => [rx a, (5, n.toNat)]
  | .ctuinv a b _ _ => [rx a, rx b]
  | _ => []

/-- Does the instruction deliver flags under R73 or R74, and so read FTE and FFLAGS? -/
def deliversFlags (i : Instr) : Bool :=
  match i with
  | .fmin _ _ _ _ _ => true
  | .fmax _ _ _ _ _ => true
  | .fcmp _ _ _ _ _ => true
  | .vsplat _ _ _ _ _ => false
  | .vextr _ _ _ _ _ => false
  | .mma _ _ _ _ _ _ _ => false
  | .mconst _ _ _ _ _ _ _ _ => false
  | .maccStore _ _ _ _ _ => false
  | .maccAdd _ _ _ _ _ => false
  | .vcvt _ _ _ s _ t _ => isFloatType s || isFloatType t
  | i => (rmField i).isSome

/-- Is it one of the instructions whose progress CIPROG holds (R169)? -/
def keepsProgress (i : Instr) : Bool :=
  match i with
  | .cq _ _ _ => true
  | .cdq _ _ _ => true
  | .dext _ _ _ => true
  | .dcob _ _ _ => true
  | .hstar _ _ _ => true
  | .wedge _ _ _ _ _ => true
  | .interp _ _ _ _ => true
  | .clin _ _ _ _ _ _ => true
  | .cred _ _ _ _ _ => true
  | .cseamSend _ _ => true
  | .cseamRelease _ => true
  | .cseamLand _ _ => true
  | .cxload _ _ _ => true
  | .cxedit _ _ _ => true
  | _ => false

/-- Is it one of the instructions that look at CIPROG: those, CXINFO and CBIND (R169)? -/
def readsProgress (i : Instr) : Bool :=
  match i with
  | .cxinfo _ _ _ _ _ => true
  | .cxinfoSetexp _ _ => true
  | .cbind _ _ _ _ _ _ _ => true
  | i => keepsProgress i

/-- The #POISON of a register (R359). -/
def trapBadRegister (r : Nat × Nat) : Trap :=
  { code := 0x11, badva := 0, tval2 := BitVec.ofNat 64 (1 + r.1 * 256 + r.2 % 256 * 65536) }

end Sys2Proof.Machine
end

