-- ==== Sys2Proof/Machine/Record.lean ====
section
/-! DEFINITION. The values that some instructions return, recorded for a replay (R362, R364). -/

namespace Sys2Proof.Machine

/-- The first recorded value of a strand, and the recording without it. -/
def takeRecorded (h : Nat) : List (Nat × Nat × List Word) → Option ((Nat × List Word) × List (Nat × Nat × List Word))
  | [] => none
  | (k, r) :: rs => if k = h then some (r, rs) else (takeRecorded h rs).map fun p => (p.1, (k, r) :: p.2)

/-- The error event of a job's replay, on every die that the job uses through its first core (R364, R365; its source
is not stated: a free value, log 4). -/
def State.logReplay (s : State) (c event : Nat) : State :=
  let (n, s) := s.nextFree
  s.logError (dieOf c) (BitVec.ofNat 64 (s.endpoint c)) (s.endpoint c) (Config.freeNat n % 8) event

/-- The words of a place that an uncorrectable error poisons: the word, or in HBM the 64-byte line (R356). -/
def struckWords (l : Loc) : List Loc :=
  match l.home with
  | .slice _ => wordsOf { l with off := l.off / 64 * 64 } 64
  | _ => [{ l with off := l.off / 8 * 8 }]

/-- A register whose two copies both fail parity (R359); x0 and p0 hold nothing that could. -/
def Strand.markRegister (t : Strand) (file n : Nat) : Strand :=
  { t with unusable := if (file, n) ∈ (0, 0) :: (3, 0) :: t.unusable then t.unusable else t.unusable ++ [(file, n)] }

/-- What an uncorrectable error has struck does not hold its value any more (R356, R358, R359). -/
def State.strike (s : State) : Struck → State
  | .word l => (struckWords l).foldl (fun s w => s.setTag w { s.tagAt w with poison := true }) s
  | .acc k n =>
    s.modCluster k fun q => { q with acc := q.acc.mapFinIdx fun i a _ => if i = n then { a with poison := true } else a }
  | .reg h file n => s.modStrand h fun t => t.markRegister file n

/-- An uncorrectable error as it is reported outside replays (R356, R358, R361); a register's is when it is read (R359). -/
def State.reportStruck (s : State) (x : Struck) : State :=
  match x with
  | .word l => (s.strike x).logAt l 2
  | .acc k _ => (s.strike x).logError (k / 64) (BitVec.ofNat 64 (s.endpoint (8 * k))) (s.endpoint (8 * k)) 5 2
  | .reg _ _ _ => s.strike x

/-- A replay refused at an instruction that does not repeat the one recorded: logged, and the error that the replay was begun
for is reported (R365). -/
def State.refuseReplay (s : State) (c : Nat) : State :=
  let s := s.logReplay c 6
  match (s.jobOf c).bind Job.struck with
  | some x => (s.reportStruck x).modJob ((s.core c).job.getD 0) fun j => { j with struck := none }
  | none => s

/-- The values of an instruction that R362 lists: recorded in a compute phase, returned as recorded in a replay (R364,
R365). -/
def recorded (opc : Nat) (m : M (List Word)) : M (List Word) := do
  let s ← getS
  match takeRecorded s.cur (s.core s.here).toReturn with
  | some ((o, vs), rest) =>
    if o = opc then
      modS fun s => s.modCore s.here fun c =>
        { c with toReturn := rest, returned := c.returned ++ [(s.cur, opc, vs)] }
      return vs
    else
      modS fun s => (s.refuseReplay s.here).modCore s.here fun c => { c with toReturn := [] }
      m
  | none =>
    let vs ← m
    modS fun s =>
      if s.inCompute s.here && (s.core s.here).recording then
        s.modCore s.here fun c => { c with returned := c.returned ++ [(s.cur, opc, vs)] }
      else s
    return vs

end Sys2Proof.Machine
end

