-- ==== Sys2Proof/Machine/Memory.lean ====
section
/-! DEFINITION. Loads, stores, ordered and synchronising accesses, atomics and fences (R240 to R254). -/

namespace Sys2Proof.Machine

/-- The base register after the access's hops (R238). -/
def rebase (a : BitVec 5) (hops : List Hop) : M Unit :=
  modT fun t => if hops.isEmpty then t else t.setX a (rewriteBase (t.getX a) hops)

/-- The bytes of an access by a width code (R47). -/
def widthBytes (w : BitVec 3) : Nat := 2 ^ (w.toNat % 4)

/-- A loaded value extended to 64 bits: sign under codes 0 to 2, zero under 4 to 6 (R47). -/
def extendLoad (w : BitVec 3) (v : Vec) : Word :=
  let x := v.setWidth 64
  match w with
  | 0#3 => (x.setWidth 8).signExtend 64
  | 1#3 => (x.setWidth 16).signExtend 64
  | 2#3 => (x.setWidth 32).signExtend 64
  | 4#3 => (x.setWidth 8).setWidth 64
  | 5#3 => (x.setWidth 16).setWidth 64
  | 6#3 => (x.setWidth 32).setWidth 64
  | _ => x

/-- What a store does at the place: an entry of a channel at the SEND offset (R293), else the bytes. -/
def storeKind (l : Loc) (bs : List Byte) : AccKind :=
  match l.home with
  | .chan _ => if l.off % 4096 = 0x800 then .send bs (bs.length == 64) else .store bs none false
  | _ => .store bs none false

/-- A load of n bytes: the value, its base register brought up to date (R238, R245). -/
def loadFrom (f : Form) (a : BitVec 5) (va : Word) (n : Nat) (sc : Bool) : M Vec := do
  let (l, view, _) ← resolve f va n
  let (v, hops) ← access va l n (.load view false) sc
  rebase a hops
  return v

/-- A store of bytes (R245). -/
def storeBytes (f : Form) (a : BitVec 5) (va : Word) (bs : List Byte) : M Unit := do
  let (l, _, m) ← resolve f va bs.length
  let hops ← storeTo va l m (storeKind l bs) bs.length
  rebase a hops

/-- An address of the M format (R240). -/
def addrM (t : Strand) (a : BitVec 5) (i : BitVec 11) : Word := t.getX a + immWord i

/-- LD (R245). -/
def execLd (d a : BitVec 5) (w : BitVec 3) (i : BitVec 11) : State → Result :=
  issueRun (.ld d a w i) do
    let t ← getMe
    let v ← loadFrom (.load w) a (addrM t a i) (widthBytes w) false
    modT fun t => t.setX d (extendLoad w v)

/-- ST (R245). -/
def execSt (b a : BitVec 5) (w : BitVec 3) (i : BitVec 11) : State → Result :=
  issueRun (.st b a w i) do
    let t ← getMe
    storeBytes (.store (widthBytes w)) a (addrM t a i) (bytesOfNat (widthBytes w) (t.getX b).toNat)

/-- FLD (R245). -/
def execFld (d a : BitVec 5) (w : BitVec 3) (i : BitVec 11) : State → Result :=
  issueRun (.fld d a w i) do
    let t ← getMe
    let v ← loadFrom (.fload (widthBytes w)) a (addrM t a i) (widthBytes w) false
    modT fun t => t.setF d (v.setWidth 64)

/-- FST (R245). -/
def execFst (b a : BitVec 5) (w : BitVec 3) (i : BitVec 11) : State → Result :=
  issueRun (.fst b a w i) do
    let t ← getMe
    storeBytes .fstore a (addrM t a i) (bytesOfNat (widthBytes w) (t.getF b).toNat)

/-- An address of VLD and VST (R240). -/
def addrV (t : Strand) (a : BitVec 5) (i : BitVec 11) : Word := t.getX a + (immWord i <<< 6)

/-- VLD (R245). -/
def execVld (d a : BitVec 5) (i : BitVec 11) : State → Result :=
  issueRun (.vld d a i) do
    let t ← getMe
    let v ← loadFrom .vload a (addrV t a i) 64 false
    modT fun t => t.setV d v

/-- VST (R245). -/
def execVst (b a : BitVec 5) (i : BitVec 11) : State → Result :=
  issueRun (.vst b a i) do
    let t ← getMe
    storeBytes .vstore a (addrV t a i) (bytesOfNat 64 (t.getV b).toNat)

/-! Indexed accesses. -/

/-- The trap of lane i: the lane in TVAL2, beside what the cause places there for a single access (R236, R247). -/
def laneTrap (i : Nat) (t : Trap) : Trap :=
  { t with tval2 := BitVec.ofNat 64 (t.tval2.toNat % 65536 + i % 64 * 65536 + 2 ^ 22) }

/-- A step of lane i, whose trap carries the lane. -/
def tagLane {α : Type} (i : Nat) (m : M α) : M α := fun r =>
  match m r with
  | .error (.trap t) r => .error (.trap (laneTrap i t)) r
  | o => o

/-- A step whose trap is handed on: it is kept as an answer, so that a later run of the instruction has it again. -/
def orTrap {α : Type} (m : M α) : M (Except Trap α) := fun r =>
  match m r with
  | .ok a r' => .ok (.ok a) r'
  | .error (.trap t) r' => .ok (.error t) (if r.past.isEmpty then { r' with new := r'.new ++ [.trap t] } else r')
  | .error e r' => .error e r'

/-- The active lanes of an instruction of type t (R34). -/
def activeLanes (t : BitVec 3) (p : Word) : List Nat := (List.range (laneCount t)).filter fun i => laneActive p i

/-- The address of lane i (R240, R247). -/
def laneAddr (st : Strand) (a b : BitVec 5) (t h : BitVec 3) (i : Nat) : Word :=
  st.getX a + (BitVec.ofInt 64 (laneInt (laneWidth t) (laneAt (laneWidth t) (st.getV b) i)) <<< h.toNat)

/-- Steps 6 to 9 of R59 for every active lane, lowest first. -/
def resolveLanes (f : Form) (n : Nat) (addr : Nat → Word) : List Nat → M (List (Nat × Loc × View × Bool))
  | [] => return []
  | i :: is => do
    let r ← tagLane i (resolve f (addr i) n)
    let rs ← resolveLanes f n addr is
    return (i, r) :: rs

/-- What a lane that has been read brings: its value and hops, or its trap. -/
abbrev LaneRead := Nat × Except Trap (Vec × List Hop)

/-- The lanes read in order. -/
def readLanes (n : Nat) (addr : Nat → Word) : List (Nat × Loc × View × Bool) → M (List LaneRead)
  | [] => return []
  | (i, l, view, _) :: rs => do
    let r ← orTrap (tagLane i (access (addr i) l n (.load view false) false))
    let vs ← readLanes n addr rs
    return (i, r) :: vs

/-- The traps of the lanes read, in lane order. -/
def laneTraps (rs : List LaneRead) : List Trap := rs.filterMap fun r =>
  match r.2 with
  | .error t => some t
  | .ok _ => none

/-- The lower of two #POISON traps by its address, the first if they are equal. -/
def lowerPoison (a b : Trap) : Trap := if b.code = 0x11 ∧ b.badva.toNat < a.badva.toNat then b else a

/-- The trap of the lanes read: the first's in lane order; where that is a #POISON, the one at the lowest poisoned address
of all (R242, R247). -/
def lanesTrap (rs : List LaneRead) : Option Trap :=
  match laneTraps rs with
  | [] => none
  | t :: ts => some (if t.code = 0x11 then ts.foldl lowerPoison t else t)

/-- The lanes' values, and the hops of all, in lane order. -/
def laneValues (rs : List LaneRead) : List (Nat × Word) × List Hop :=
  (rs.filterMap fun r =>
    match r.2 with
    | .ok v => some (r.1, v.1.setWidth 64)
    | .error _ => none,
   rs.flatMap fun r =>
    match r.2 with
    | .ok v => v.2
    | .error _ => [])

/-- The lanes read, or the trap of those that draw one. -/
def loadLanes (n : Nat) (addr : Nat → Word) (ls : List (Nat × Loc × View × Bool)) : M (List (Nat × Word) × List Hop) := do
  let rs ← readLanes n addr ls
  match lanesTrap rs with
  | some t => trap t
  | none => return laneValues rs

/-- DEDUCED. The lanes checked in order before any is stored: where a lane's store could still draw a trap, at a page of
movable class or at a peer module, a check goes the way that the store will go (R236, R241, R247; log 7). -/
def checkLanes (n : Nat) (addr : Nat → Word) : List (Nat × Loc × View × Bool) → M Unit
  | [] => return ()
  | (i, l, _, m) :: rs => do
    let peer := match l.home with
      | .peer _ _ => true
      | _ => false
    if m || peer then
      let _ ← tagLane i (access (addr i) l n .check false)
    checkLanes n addr rs

/-- The lanes, checked before, stored in ascending order; the hops of all. -/
def storeLanes (n : Nat) (addr : Nat → Word) (data : Nat → Word) : List (Nat × Loc × View × Bool) → M (List Hop)
  | [] => return []
  | (i, l, _, m) :: rs => do
    let bs := bytesOfNat n (data i).toNat
    let hops ← storeTo (addr i) l m (storeKind l bs) n true
    let hs ← storeLanes n addr data rs
    return hops ++ hs

/-- VLDX (R247). -/
def execVldx (d a b : BitVec 5) (p t h : BitVec 3) : State → Result :=
  issueRun (.vldx d a b p t h) do
    let st ← getMe
    let n := laneWidth t / 8
    let addr := laneAddr st a b t h
    let rs ← resolveLanes .xload n addr (activeLanes t (st.getP p))
    let (vs, hops) ← loadLanes n addr rs
    rebase a hops
    modT fun q => q.setV d (mapLanes (laneWidth t) (q.getP p) (q.getV d) fun i => quiet (tableGet 0#64 vs i)).1

/-- VSTX (R247). -/
def execVstx (d a b : BitVec 5) (p t h : BitVec 3) : State → Result :=
  issueRun (.vstx d a b p t h) do
    let st ← getMe
    let n := laneWidth t / 8
    let addr := laneAddr st a b t h
    let rs ← resolveLanes .xstore n addr (activeLanes t (st.getP p))
    checkLanes n addr rs
    let hops ← storeLanes n addr (laneAt (laneWidth t) (st.getV d)) rs
    rebase a hops

/-! Ordered and synchronising accesses. -/

/-- Steps 6 to 9 of R59, then the drain of earlier stores where asked, then the place (R224, R232, R233). -/
def resolveDrained (f : Form) (va : Word) (n : Nat) (drains : Bool) : M (Loc × View × Bool) := do
  let r ← resolve f va n
  if drains then
    drain
    resolve f va n
  else return r

/-- LDO (R248). -/
def execLdo (d a : BitVec 5) (w : BitVec 3) (o : BitVec 2) (s : BitVec 3) : State → Result :=
  issueRun (.ldo d a w o s) do
    let t ← getMe
    let va := t.getX a
    let sc := o == 3#2
    let (l, view, _) ← resolveDrained (.ordLoad (widthBytes w) sc) va (widthBytes w) sc
    let (v, hops) ← access va l (widthBytes w) (.load view false) sc
    rebase a hops
    modT fun t => t.setX d (extendLoad w v)

/-- STO (R248). -/
def execSto (b a : BitVec 5) (w : BitVec 3) (o : BitVec 2) (s : BitVec 3) : State → Result :=
  issueRun (.sto b a w o s) do
    let t ← getMe
    let va := t.getX a
    let n := widthBytes w
    let bs := bytesOfNat n (t.getX b).toNat
    let sc := o == 3#2
    let (l, _, m) ← resolveDrained (.ordStore n sc) va n (sc || (o == 1#2 && s != 0#3))
    let hops ← if sc then Prod.snd <$> access va l n (storeKind l bs) true else storeTo va l m (storeKind l bs) n
    rebase a hops

/-- LDS (R229, R249). -/
def execLds (d a : BitVec 5) (m : BitVec 2) (s : BitVec 3) : State → Result :=
  issueRun (.lds d a m s) do
    let t ← getMe
    let va := t.getX a
    let take := m == 1#2
    let (l, _, _) ← resolve (.syncLoad take) va 8
    let (v, hops) ← access va l 8 (.sync (if take then .readTake else .readLeave) 0) false
    rebase a hops
    modT fun t => t.setX d (v.setWidth 64)

/-- The kind of an STS (R249). -/
def stsKind (m : BitVec 2) : SyncKind := if m = 0#2 then .writeFill else if m = 1#2 then .setFull else .setEmpty

/-- STS (R229, R232, R249). -/
def execSts (b a : BitVec 5) (m : BitVec 2) (s : BitVec 3) : State → Result :=
  issueRun (.sts b a m s) do
    let t ← getMe
    let va := t.getX a
    let (l, _, _) ← resolveDrained .syncStore va 8 true
    let (_, hops) ← access va l 8 (.sync (stsKind m) (t.getX b)) false
    rebase a hops

/-- TPF (R250). -/
def execTpf (a : BitVec 5) (i : BitVec 11) : State → Result :=
  issueRun (.tpf a i) do
    let t ← getMe
    let va := addrM t a i
    modS fun s =>
      if 2 ^ 55 ≤ va.toNat then s
      else
        match s.lookup s.here t.mode va .read with
        | .miss => s.startWalk s.here t.mode va false false
        | _ => s

/-! Atomics. -/

/-- An atomic of the current strand: the old word (R43, R224, R233, R253). -/
def atomicAt (a : BitVec 5) (k : AccKind) (scope : Nat) (o : BitVec 2) : M Word := do
  let t ← getMe
  let va := t.getX a
  let sc := o == 3#2
  let wide := scope != 0 || decide (2 ^ 55 ≤ va.toNat ∧ va.toNat < 2 ^ 56)
  let (l, _, _) ← resolveDrained (.atomic sc) va 8 (sc || (o == 2#2 && wide))
  let (v, hops) ← access va l 8 k sc
  rebase a hops
  return v.setWidth 64

/-- AMO (R251). -/
def execAmo (d a b : BitVec 5) (s : BitVec 3) (o : BitVec 2) (f : BitVec 4) : State → Result :=
  issueRun (.amo d a b s o f) do
    let t ← getMe
    let v ← atomicAt a (.amo f (t.getX b)) s.toNat o
    modT fun t => t.setX d v

/-- CAS (R252). -/
def execCas (d a b e : BitVec 5) (s o : BitVec 2) : State → Result :=
  issueRun (.cas d a b e s o) do
    let t ← getMe
    let v ← atomicAt a (.cas (t.getX e) (t.getX b)) s.toNat o
    modT fun t => t.setX d v

/-! Fences. -/

/-- FENCE (R224, R254): the stream buffer is filled anew by the next fetch (R63). -/
def execFence (s : BitVec 3) : State → Result :=
  issueRun (.fence s) do
    if s != 0#3 then drain
    modT fun t => { t with stream := none }

/-- The path that a code names (R52). -/
def pathOfCode (c : BitVec 3) : Path :=
  match c with
  | 0#3 => .core | 1#3 => .copy | 2#3 => .gather | 3#3 => .matrix | 4#3 => .coll | _ => .reloc

/-- Is an access that a core placed on the mark's path a before it still to be performed (R227)? -/
def State.fencePending (s : State) (c : Nat) (m : FenceMark) : Bool :=
  let before (e : PathEntry) : Bool := e.path == m.a && decide (e.seq < m.seq)
  (s.core c).path.any before || (s.retry.any fun e => e.1 == c && !e.2.acc.armed && before e.2) ||
    (s.core c).slipped.any fun e => before e.1

/-- A mark placed: the posted stores go before it where a is CORE (R227). -/
def State.placeMark (s : State) (c : Nat) (a b : Path) : State × Nat :=
  let s := if a = .core then s.movePosted c fun _ => true else s
  let n := (s.core c).seq
  let kept := (s.core c).fences.filter fun m => s.fencePending c m
  (s.modCore c fun t => { t with seq := n + 1, fences := kept ++ [{ num := n, a := a, b := b, seq := n }] }, n)

/-- XFENCE (R227, R254). -/
def execXfence (a b : BitVec 3) : State → Result :=
  issueRun (.xfence a b) do
    let n ← act fun s =>
      let (s, n) := s.placeMark s.here (pathOfCode a) (pathOfCode b)
      .ok (.val (BitVec.ofNat 512 n) []) s
    if pathOfCode b = .core then
      let num := match n with
        | .val v _ => v.toNat
        | _ => 0
      let _ ← act fun s =>
        let m : FenceMark := { num := num, a := pathOfCode a, b := .core, seq := num }
        if s.fencePending s.here m then .park (.fence num) s else .ok Ans.unit s

end Sys2Proof.Machine
end

