-- ==== Sys2Proof/Machine/Waits.lean ====
section
/-! DEFINITION. Waits: how one begins, when it can never end, how it is withdrawn (R278 to R282). -/

namespace Sys2Proof.Machine

/-- A wait that begins now: WLIM captured (R279). -/
def State.newWait (s : State) (h kind : Nat) (badva : Word) (timed : Option Nat) : Wait :=
  { kind := kind, badva := badva, start := s.cycle, limit := getField (s.strand h).wlim 0 48, timed := timed }

/-- Is anything in flight that posts a message for the strand (R280, case 1)? -/
def State.messageComing (s : State) (h : Nat) : Bool :=
  let c := s.core (coreOf h)
  (c.ops.any fun o => o.strand == h) || (c.cmds.any fun k => k.strand == h) ||
    (c.held.any fun m => m.msg.strand == h) ||
    (s.jobs.any fun e => e.2.launches.any fun l => l.strand == h && l.notify) ||
    c.chan.toList.any fun q => getField q.cfg 24 4 == h % 8 + 1

/-- Does a landing register of the core cover the ghost word (R280, case 8)? -/
def Core.landsOn (c : Core) (a : Word) : Bool :=
  c.landing.toList.any fun l =>
    l.valid && decide (l.reg.gbase.toNat ≤ a.toNat ∧ a.toNat < l.reg.gbase.toNat + 8 * l.reg.gcount.toNat)

/-- Does the test of the access that a strand waits with hold by now (R231)? -/
def State.waitHolds (s : State) (h : Nat) : Bool :=
  (s.outstanding (coreOf h)).any fun e => e.acc.strand == h && e.acc.answers &&
    (match e.acc.kind with
      | .sync k _ => k.holds (s.tagAt e.acc.loc)
      | _ => false)

/-- A round of a group that the core has opened and not collected (R306). -/
def Core.openRound (c : Core) (g : Nat) : Option Round := c.rounds.find? fun r => r.group == g && r.opened

/-- The entry of a group in a core's router (R305). -/
def Core.groupEntry (c : Core) (g : Nat) : Word := c.groups.toList.getD g 0

/-- The case of R280 in which a wait can never end, as things stand. -/
def State.noWake (s : State) (h : Nat) (w : Wait) : Option Nat :=
  let c := s.core (coreOf h)
  let k := s.cluster (clusterOf (coreOf h))
  let o := (windowOf w.badva.toNat).2
  match w.kind with
  | 1 => if (s.messages h).isEmpty && !s.messageComing h then some 1 else none
  | 2 => if (s.strand h).watch == .off then some 2 else none
  | 3 =>
    if 0x800 ≤ o ∧ o < 0x900 then (if (k.mutexes.toList.getD ((o - 0x800) / 8) none) == some h then some 4 else none)
    else if 0x900 ≤ o ∧ o < 0xB00 then none
    else
      let b := if o < 0x800 then o / 64 else (o - 0x2000) / 256
      if getField ((k.barriers.toList.getD b Barrier.reset).cfg) 0 16 = 0 then some 3 else none
  | 5 =>
    if (c.openRound w.badva.toNat).isNone || !(c.groupEntry w.badva.toNat).getLsbD 0 then some 5 else none
  | 6 => if (s.jobOf (coreOf h)).any (·.det) then none else some 6
  | 7 =>
    if s.waitHolds h then none
    else if s.inCompute (coreOf h) then some 7
    else if !(s.jobOf (coreOf h)).any (·.det) && !c.landsOn w.badva then some 8
    else none
  | 8 => if (c.slots.toList.getD w.badva.toNat ComplexSlot.reset).holder == some h then some 9 else none
  | 9 => if getField ((c.chan.toList.getD (o / 4096 % 16) ChanQueue.reset).cfg) 0 20 = 0 then some 10 else none
  | _ => none

/-- An action that waits: done when `test` gives a value, else #NOWAKE, else the wait begins. -/
def waitAct (kind : Nat) (badva : Word) (timed : Option Nat) (test : State → Option (Vec × State)) (s : State) : Act :=
  match test s with
  | some (v, s) => .ok (.val v []) s
  | none =>
    let w := s.newWait s.cur kind badva timed
    match s.noWake s.cur w with
    | some k => .trap (trapNOWAKE kind k badva) s
    | none => .park (.wait w) s

/-- A waiting strand's access withdrawn from its retry list or path queue (R231, R279, R282). -/
def State.withdraw (s : State) (h : Nat) : State :=
  let mine (a : Access) : Bool := a.strand == h && a.answers && a.op.isNone
  let s := { s with retry := s.retry.filter fun e => !mine e.2.acc }
  s.modCore (coreOf h) fun c =>
    { c with path := c.path.filter fun e => !mine e.acc, slipped := c.slipped.filter fun e => !mine e.1.acc }

/-- A wait ended by a trap, which the strand takes at its next turn (R279, R280). -/
def State.trapWait (s : State) (h : Nat) (t : Trap) : State := (s.withdraw h).answer h (.trap t)

/-- A strand's wait tested again (R280). -/
def State.recheck (s : State) (h : Nat) : State :=
  match (s.strand h).waiting? with
  | some w =>
    match s.noWake h w with
    | some k => s.trapWait h (trapNOWAKE w.kind k w.badva)
    | none => s
  | none => s

/-- The waits of a core's strands tested again (R280). -/
def State.recheckCore (s : State) (c : Nat) : State := (List.range 6).foldl (fun s k => s.recheck (8 * c + k)) s

/-- The waits of a cluster's strands tested again (R280). -/
def State.recheckCluster (s : State) (k : Nat) : State :=
  (List.range 8).foldl (fun s i => s.recheckCore (8 * k + i)) s

/-- The flags that a strand keeps for the resumption of the instruction at its pc with its CIPROG (R166; log 16). -/
def Strand.heldFlags (t : Strand) : FlagSet :=
  ((t.coHeld.find? fun e => e.1 == t.pc && e.2.1 == t.ciprog).map fun e => e.2.2).getD 0#5

/-- The strand without the flags kept for the instruction at its pc with this CIPROG. -/
def Strand.dropFlags (t : Strand) (w : Word) : Strand :=
  { t with coHeld := t.coHeld.filter fun e => !(e.1 == t.pc && e.2.1 == w) }

/-- What a cochain instruction that is stopped leaves: CIPROG, and beside it the flags that its elements have raised, for
its resumption at this address with this CIPROG (R166, R169; log 16). -/
def Strand.keep (t : Strand) (p : Prog) : Strand :=
  { (t.dropFlags t.ciprog).dropFlags p.now with
    ciprog := p.now
    coHeld := (if p.flags = 0#5 then [] else [(t.pc, p.now, p.flags)]) ++ ((t.dropFlags t.ciprog).dropFlags p.now).coHeld }

/-- A cochain instruction ends for good: CIPROG is 0, and nothing is kept for it (R166, R169). -/
def Strand.endProgress (t : Strand) : Strand := { t.dropFlags t.ciprog with ciprog := 0 }

/-- A strand that leaves the instruction under way: a cochain instruction that has begun keeps its progress (R169, R282). -/
def Strand.leave (t : Strand) : Strand :=
  let t := match t.log with
    | .progress p :: _ => if p.began then t.keep p else t
    | _ => t
  { t with inst := none, log := [] }

/-- A strand's wait withdrawn with no effect of its instruction, by an interrupt or pre-emption (R282): it is ready at
its instruction. -/
def State.leaveWait (s : State) (h : Nat) : State :=
  (s.withdraw h).modStrand h fun t => { t.leave with status := .ready }

end Sys2Proof.Machine
end

