-- ==== Sys2Proof/Machine/Mailbox.lean ====
section
/-! DEFINITION. Messages posted to a mailbox, and the spill queue of a pre-empted core (R205, R283, R337). -/

namespace Sys2Proof.Machine

/-- Is the core's context away, so that what comes for it is spilled (R336, R337)? -/
def Core.diverts (c : Core) : Bool := c.pstate == .saved || c.pstate == .restoring

/-- Is the spill ring full (R337)? -/
def Core.spillFull (c : Core) : Bool := decide (c.spillN ≤ c.spill.length)

/-- The 128 bytes of a spilled entry (R337). -/
def Spill.bytes (e : Spill) : List Byte :=
  bytesOfNat 1 e.kind ++ bytesOfNat 1 e.queue ++ bytesOfNat 1 e.size ++ bytesOfNat 5 0 ++ bytesOfNat 8 e.sender ++
    (e.payload ++ List.replicate 64 0#8).take 64 ++ bytesOfNat 48 0

/-- An entry diverted to a core's spill queue (R337): kept in order, and written to the ring in memory where its page
translates. -/
def State.spillEntry (s : State) (c : Nat) (e : Spill) : State :=
  let k := s.core c
  let va := k.spillAt + BitVec.ofNat 64 (128 * (k.spillTail % max k.spillN 1))
  let s := s.modCore c fun t => { t with spill := t.spill ++ [e], spillTail := t.spillTail + 1 }
  [va, va + 64].zipIdx.foldl (fun s p =>
    match s.translate c .s p.1 .write with
    | (.ok l _, s) => s.write c l ((e.bytes.drop (64 * p.2)).take 64)
    | (_, s) => s) s

/-- A message diverted (R337). -/
def State.divert (s : State) (m : Held) : State :=
  let c := coreOf m.msg.strand
  (s.freeHeld m).spillEntry c
    { kind := 2, queue := 0, size := 16, sender := s.endpoint c
      payload := bytesOfNat 8 m.msg.word0.toNat ++ bytesOfNat 8 m.msg.word1.toNat, strand := 0, msg := some m.msg }

/-- A message placed or discarded; what it frees may be what a wait counted on (R280). -/
def State.deliver (s : State) (m : Held) : State := (s.placeMessage m).recheck m.msg.strand

/-- A message posted: placed at once where there is room and none waits before it, else held (R205, R283); diverted
while the core's context is away, and held while the spill ring is full (R337). -/
def State.post (s : State) (m : Held) : State :=
  let c := coreOf m.msg.strand
  let t := s.core c
  if t.held.isEmpty && t.diverts && !t.spillFull then
    s.divert m
  else if t.held.isEmpty && !t.diverts && (t.hasRoom m.msg.strand || !s.unitLives m.msg.strand m.msg.uid) then s.deliver m
  else s.modCore c fun t => { t with held := t.held ++ [m] }

/-- The first held message of a core that can be placed now: of a strand with room, or of a unit that has ended. -/
def State.placeable (s : State) (c : Nat) : Option Held :=
  (s.core c).held.find? fun m => (s.core c).hasRoom m.msg.strand || !s.unitLives m.msg.strand m.msg.uid

/-- MAILBOX_PLACE (R205, R283, R337): a held message is placed, or diverted. -/
def execMailboxPlace (core : Nat) : State → Host.Outcome State Fault Refusal := fun s =>
  let t := s.core core
  let go (m : Held) (f : State → State) : Host.Outcome State Fault Refusal :=
    .next (f (s.modCore core fun t => { t with held := t.held.erase m }))
  if t.diverts then
    match t.held.head? with
    | some m => if t.spillFull then .next s else go m fun s => s.divert m
    | none => .next s
  else
    match s.placeable core with
    | some m => go m fun s => s.deliver m
    | none => .next s

end Sys2Proof.Machine
end

