-- ==== Sys2Proof/Machine/Units.lean ====
section
/-! DEFINITION. Units, launches and jobs: how a unit starts and ends, how launches complete, phases, the end of a job
(R294 to R300, R405, R406). -/

namespace Sys2Proof.Machine

/-- How a unit ends (R297). -/
inductive UnitEnd where
  | yielded | cancelled | faulted
  deriving DecidableEq, Repr

/-- Is the launch complete (R295)? -/
def Launch.isDone (l : Launch) : Bool := !l.waiting && decide (l.nunits ≤ l.ended)

/-- The message of a launch that completes (R284). OPC is that of CANCEL for a launch that a CANCEL covered
(DEDUCED, log 20). -/
def Launch.message (l : Launch) : Msg :=
  let status := if l.faulted then 0x0B else if l.lost ≠ 0 then 0x04 else 0
  { strand := l.strand, uid := l.uid
    word0 := messageWord (if l.cancelled then 0x88 else 0x87) 0 0#5 0 0 status l.ticket
    word1 := BitVec.ofNat 64 (l.doneOk * 2 ^ 32 + l.lost % 2 ^ 32) }

/-- A launch enters its priority queue and the current phase (R295, R298). -/
def Job.enter (j : Job) (ticket : Nat) : Job :=
  { j with
    launches := j.launches.map fun (l : Launch) =>
      if l.ticket = ticket then { l with waiting := false, inPhase := true, turn := j.entered } else l
    entered := j.entered + 1 }

/-- A predecessor of the launch with this ticket is complete; at the last one it enters its queue (R295). -/
def Job.predDone (j : Job) (ticket : Nat) : Job :=
  let j := { j with launches := j.launches.map fun (l : Launch) => if l.ticket = ticket then { l with preds := l.preds - 1 } else l }
  if j.launches.any fun l => l.ticket == ticket && l.waiting && l.preds == 0 then j.enter ticket else j

/-- A launch completes: counters, successors and message in one step (R295). -/
def State.completeLaunch (s : State) (j : Nat) (l : Launch) : State :=
  let s := s.modJob j fun q =>
    l.succ.foldl Job.predDone { q with launches := q.launches.filter fun k => k.ticket != l.ticket }
  if l.notify then (s.post { msg := l.message, op := none, cmd := false }).recheck l.strand else s

/-- Every launch of a job that is done completes. -/
def State.completeLaunches (s : State) (j : Nat) : State :=
  match s.job? j with
  | some q => (q.launches.filter Launch.isDone).foldl (fun s l => s.completeLaunch j l) s
  | none => s

/-- The strands that wait on a slot that has left BUSY are ready again (R140). -/
def State.slotFreed (s : State) (c slot : Nat) : State :=
  (List.range 6).foldl (fun s k =>
    match (s.strand (8 * c + k)).waiting? with
    | some w => if w.kind = 8 ∧ w.badva.toNat = slot then s.wake (8 * c + k) else s
    | none => s) s

/-- The slots of a core that a strand's CXLOAD or CXEDIT holds BUSY become EMPTY (R138). -/
def State.releaseSlots (s : State) (h : Nat) : State :=
  let c := coreOf h
  (List.range 4).foldl (fun s k =>
    let sl := (s.core c).slots.toList.getD k ComplexSlot.reset
    if sl.holder == some h && sl.state == .busy then
      (s.modCore c fun t => { t with slots := t.slots.setIfInBounds k { sl with state := .empty, holder := none } }).slotFreed c k
    else s) s

/-- The end of the unit on a strand (R297): the strand is free, its wait and watch are gone, its messages discarded. -/
def State.endUnit (s : State) (h : Nat) (how : UnitEnd) : State :=
  match (s.strand h).unit with
  | none => s
  | some u =>
    let c := coreOf h
    let s := ((s.withdraw h).dropWatch h).releaseSlots h
    let s := s.modCore c fun t =>
      { t with mailbox := t.mailbox.filter fun m => m.strand != h, answers := t.answers.filter fun a => a.1 != h }
    let s := s.modStrand h fun t =>
      { t with unit := none, status := .idle, inst := none, log := [], watch := .off, arrived := none, synced := none }
    let s := if (s.core c).run = h % 8 then s.giveUp c else s
    let s := s.modJob u.job fun q =>
      { q with launches := q.launches.map fun (l : Launch) =>
          if l.ticket = u.launch then
            { l with ended := l.ended + 1
                     doneOk := if how = .yielded then l.doneOk + 1 else l.doneOk
                     lost := if how = .yielded then l.lost else l.lost + 1
                     faulted := l.faulted || how == .faulted }
          else l }
    s.completeLaunches u.job

/-- A strand as a unit starts on it (R29, R36, R406). -/
def startOfUnit (j : Job) (l : Launch) (u : UnitRef) (entry : Word) : Strand :=
  let t := Strand.reset .u
  { (t.setX 10#5 (BitVec.ofNat 64 u.index)).setX 11#5 l.arg with
    pc := entry, stvec := j.stvec, fnver := BitVec.ofNat 64 j.fnver, unit := some u }

/-- The strands of a core that run a unit. -/
def State.busyStrands (s : State) (c : Nat) : Nat := ((List.range 6).filter fun k => (s.strand (8 * c + k)).unit.isSome).length

/-- The lowest-numbered free strand of a core (R298); none on a pre-empted core. -/
def State.freeStrand (s : State) (c : Nat) : Option Nat :=
  if (s.core c).pstate != .running then none
  else (List.range 6).find? fun k => (s.strand (8 * c + k)).unit.isNone && (s.strand (8 * c + k)).status == .idle

/-- Does a unit belong to a launch that names an image? -/
def State.hasImage (s : State) (u : UnitRef) : Bool :=
  (s.job? u.job).any fun j => j.launches.any fun l => l.ticket == u.launch && l.image.isSome

/-- May a unit of the launch start on a core: a launch with an image shares the core with no unit of another launch
(R294)? -/
def State.canHost (s : State) (l : Launch) (c : Nat) : Bool :=
  (s.freeStrand c).isSome &&
    (List.range 6).all fun k =>
      match (s.strand (8 * c + k)).unit with
      | some u => u.launch == l.ticket || (l.image.isNone && !s.hasImage u)
      | none => true

/-- Among cores in the order of their partition numbers, the first with the fewest units (R298). -/
def State.leastLoaded (s : State) : List Nat → Option Nat
  | [] => none
  | c :: cs =>
    match s.leastLoaded cs with
    | some d => if s.busyStrands d < s.busyStrands c then some d else some c
    | none => some c

/-- The cores of a launch's set that can take a unit of it. -/
def State.hosts (s : State) (j : Job) (l : Launch) : List Nat :=
  ((j.cores.drop l.csFirst).take l.csCount).filter (s.canHost l)

/-- The launch whose turn is first among those with the highest priority (R298). -/
def nextLaunch : List Launch → Option Launch
  | [] => none
  | l :: ls =>
    match nextLaunch ls with
    | some m => if l.prio > m.prio ∨ (l.prio = m.prio ∧ l.turn ≤ m.turn) then some l else some m
    | none => some l

/-- The launch that the dispatcher takes a unit from, and the core that takes it (R298). -/
def State.dispatchChoice (s : State) (j : Job) : Option (Launch × Nat) :=
  let open_ := j.launches.filter fun l => !l.waiting && !l.cancelled && decide (l.placed < l.nunits) && !(s.hosts j l).isEmpty
  match nextLaunch open_ with
  | some l => (s.leastLoaded (s.hosts j l)).map fun c => (l, c)
  | none => none

/-- Bytes at an address of module-local GLOBAL as a core sees it (R322); none where a page is missing or a word is
poisoned. -/
def State.globalBytes (s : State) (root : Word) (va : Nat) : Nat → Option (List Byte)
  | 0 => some []
  | n + 1 =>
    match s.walk root va with
    | .leaf e k _ _ =>
      if leafGrants e .s .read true && !s.anyPoison (leafPlace e k va) 1 then
        (s.globalBytes root (va + 1) n).map fun bs => s.byteAt (leafPlace e k va) :: bs
      else none
    | .fail _ _ => none

/-- DESIGN CHOICE. Bytes that the dispatcher reads at a GLOBAL address: those of a peer module are free values, from place k
on (R294, R314; log 4). -/
def State.dispatcherBytes (s : State) (root : Word) (va n k : Nat) : Option (List Byte) :=
  if 2 ^ 55 ≤ va then some ((List.range n).map fun i => (Config.freeWord (s.free + k + i)).setWidth 8)
  else s.globalBytes root va n

/-- The image of a launch copied to a core: text to UNIT offset 0x2_0000, data to offset 0 (R294). -/
def State.loadImage (s : State) (c : Nat) (a : Word) : Option State :=
  let root := (s.core c).ptroot
  match s.dispatcherBytes root a.toNat 32 0 with
  | some d =>
    let n (o k : Nat) : Nat := natOfBytes ((d.drop o).take k)
    match s.dispatcherBytes root (n 0 8) (min (n 8 4) 0x8000) 32,
        s.dispatcherBytes root (n 0x10 8) (min (n 0xC 4) 0x20000) (32 + 0x8000) with
    | some text, some data =>
      let s := { s with free := s.free + 32 + 0x28000 }
      some ((s.write c { home := .unit c, off := 0x20000 } text).write c { home := .unit c, off := 0 } data)
    | _, _ => none
  | none => none

/-- A unit of a launch placed on a core (R298): its turn goes behind the others of its priority. It starts with no message
held (R297, R406). -/
def State.placeUnit (s : State) (jn : Nat) (j : Job) (l : Launch) (c : Nat) : State :=
  match s.freeStrand c with
  | none => s
  | some k =>
    let h := 8 * c + k
    let u : UnitRef := { uid := s.nextUid, job := jn, launch := l.ticket, index := l.placed }
    let entry := if l.image.isSome then BitVec.ofNat 64 (unitBase + 0x20000) else l.entry
    let s := s.modJob jn fun q =>
      { q with
        launches := q.launches.map fun (m : Launch) =>
          if m.ticket = l.ticket then
            { m with placed := m.placed + 1, turn := q.entered, loaded := if c ∈ m.loaded then m.loaded else c :: m.loaded }
          else m
        entered := q.entered + 1, started := true }
    let s := s.modCore c fun t => { t with mailbox := t.mailbox.filter fun m => m.strand != h }
    let pre := (s.strand h).ipend &&& 0x10#64
    ({ s with nextUid := s.nextUid + 1 }.setStrand h { startOfUnit j l u entry with ipend := pre }).wake h

/-- UNIT_DISPATCH (R298): one unit of the job's next launch is placed; nothing where none can be, or where its image
cannot be read yet (log 21). -/
def State.dispatch (s : State) (jn : Nat) : State :=
  match s.job? jn with
  | none => s
  | some j =>
    match s.dispatchChoice j with
    | none => s
    | some (l, c) =>
      match l.image with
      | some a =>
        if c ∈ l.loaded then s.placeUnit jn j l c
        else
          match s.loadImage c a with
          | some s => s.placeUnit jn j l c
          | none => s
      | none => s.placeUnit jn j l c

/-- Is the strand's unit one that a CANCEL covered before a cycle (R300)? -/
def State.cancelledBy (s : State) (h cycle : Nat) : Bool :=
  match (s.strand h).unit with
  | some u => (s.job? u.job).any fun j => j.launches.any fun l => l.ticket == u.launch && l.cancelled && decide (l.cancelAt < cycle)
  | none => false

/-- Is the strand's unit one that a CANCEL has covered (R300)? -/
def State.covered (s : State) (h : Nat) : Bool := s.cancelledBy h (s.cycle + 1)

/-- Is the strand's unit one that a CANCEL stops: it was covered in an earlier cycle (R300)? -/
def State.cancelled (s : State) (h : Nat) : Bool := s.cancelledBy h s.cycle

/-! Phases and the end of a job. -/

/-- The phase closes and the next opens, with the order written for it, and CHG set where that is another one (R91, R295,
R296). -/
def State.closePhase (s : State) (j : Nat) : State :=
  s.modJob j fun q =>
    { q with
      ord := q.nextOrd, chg := q.chg || (q.started && q.nextOrd != q.ord), launches := q.launches.map fun (l : Launch) => { l with inPhase := false } }

/-- The jobs of which an object of a cluster's event unit is the root barrier (R296). -/
def State.rootBarrierOf (s : State) (k b : Nat) : List Nat :=
  if b = 31 then (s.jobs.filter fun e => !e.2.det && (e.2.cores.head?.map clusterOf) == some k).map Prod.fst else []

/-- Does a job end in this step (R405)? DEDUCED. The event of a gather is due once its writes are performed, and the job does
not end before it is made (R267; log 62). -/
def State.jobDone (s : State) (j : Job) : Bool :=
  j.launches.isEmpty &&
    j.cores.all fun c =>
      s.busyStrands c == 0 && (s.core c).cmds.isEmpty && (s.core c).events.isEmpty && (s.core c).ops.all fun o => o.parked

/-- One core as its job ends (R405); a write on which an operation was parked is discarded with it. -/
def Core.endJob (c : Core) : Core :=
  { c with
    job := none, part := 0
    slots := Vector.replicate 4 ComplexSlot.reset
    landing := Vector.replicate 16 Landing.reset
    chan := c.chan.map fun q => { q with cfg := 0 }
    slipped := c.slipped.filter fun e => e.1.acc.ending.isNone
    mailbox := [], held := [], ops := [], events := [], rounds := [], roundCount := [], outbox := [], staged := [], record := [],
    accRecord := [], wrote := []
    recording := true, returned := [], toReturn := [], atCommit := [], mailboxAt := [] }

/-- The accumulators that a mask names set to +0.0 (R405). -/
def Cluster.clearAcc (k : Cluster) (mask : Word) : Cluster :=
  { k with acc := k.acc.mapFinIdx fun i a _ => if mask.getLsbD i then { bits := 0, poison := false } else a }

/-- A job ends (R405). -/
def State.endJob (s : State) (jn : Nat) (j : Job) : State :=
  let s := j.cores.foldl (fun s c =>
    let mask := (s.core c).maccmask
    let s := s.modCore c Core.endJob
    s.modCluster (clusterOf c) fun k =>
      { k.clearAcc mask with sprue := Vector.replicate 8 none, transit := k.transit.filter fun t => t.job != jn }) s
  { s with jobs := s.jobs.filter fun e => e.1 != jn }

end Sys2Proof.Machine
end

