-- ==== Sys2Proof/Machine/Sync.lean ====
section
/-! DEFINITION. Watches, the mailbox, barriers and YIELD (R277, R283 to R292). -/

namespace Sys2Proof.Machine

/-- A result of the model's own as a value. -/
def natVal (n : Nat) : Vec := BitVec.ofNat 512 n

/-- The value of an answer; 0 of one that has none. -/
def Ans.value : Ans → Vec
  | .val v _ => v
  | _ => 0

/-- MWATCH (R287). -/
def execMwatch (d a : BitVec 5) : State → Result :=
  issueRun (.mwatch d a) do
    let t ← getMe
    let va := t.getX a
    let (l, _, _) ← resolve .watch va 8
    let (v, _) ← access va l 8 .watch false
    modT fun t => t.setX d (v.setWidth 64)

/-- The t of a timed form (R285). -/
def timedOf (t : Strand) (r : BitVec 5) : Option Nat := if r = 0#5 then none else some (t.getX r).toNat

/-- MWAIT (R288). -/
def execMwait (d x : BitVec 5) : State → Result :=
  issueRun (.mwait d x) do
    let t ← getMe
    let timed := timedOf t x
    let badva := match t.watch with
      | .armed va _ => va
      | _ => 0
    let r ← act (waitAct 2 badva timed fun s =>
      match s.me.watch with
      | .fired _ => some (0, s.modMe fun t => { t with watch := .off })
      | .armed _ _ => if timed = some 0 then some (1, s) else none
      | .off => none)
    modT fun t => t.setX d (r.value.setWidth 64)

/-- MBXWAIT (R285). -/
def execMbxwait (d x : BitVec 5) : State → Result :=
  issueRun (.mbxwait d x) do
    let t ← getMe
    let timed := timedOf t x
    let r ← act (waitAct 1 0 timed fun s =>
      let n := (s.messages s.cur).length
      if 1 ≤ n ∨ timed = some 0 then some (natVal n, s) else none)
    modT fun t => t.setX d (r.value.setWidth 64)

/-- A core's mailbox without the oldest message of a strand (R286). -/
def dropFirst (h : Nat) : List Msg → List Msg
  | [] => []
  | m :: ms => if m.strand = h then ms else m :: dropFirst h ms

/-- MBXPOP (R74, R206, R286, R362): in a replay, the words that it returned before. -/
def execMbxpop (d e : BitVec 5) : State → Result :=
  issueRun (.mbxpop d e) do
    let ws ← recorded 0x3B do
      let s ← getS
      match s.messages s.cur with
      | [] => return [0, 0, 0]
      | m :: _ =>
        modS fun s => s.modCore s.here fun c => { c with mailbox := dropFirst s.cur c.mailbox }
        return [m.word0, m.word1, 1]
    modT fun t =>
      let w := ws.getD 0 0
      let t := (t.setX d w).setX e (ws.getD 1 0)
      if ws.getD 2 0 = 0 then t else { t with fflags := mergeFlags t.fflags (w.extractLsb' 48 5) }

/-- The barrier object that BARRIVE names: the windows, then the guards, which must let it read and write (R292, R321;
DEDUCED, log 22). -/
def barrierPlace (va : Word) (s : State) : Act :=
  let (w, o) := windowOf va.toNat
  if w != .event || o % 64 != 0 || decide (0x800 ≤ o) || isControl s.here then .trap (trapACCERR va 0) s
  else if !guardsPass (s.core s.here) s.me.mode va.toNat 8 .both then .trap (trapGUARD va) s
  else .ok (.place va { home := .event (clusterOf s.here), off := o } .plain false) s

/-- BARRIVE (R291, R292). -/
def execBarrive (d a : BitVec 5) (c : BitVec 3) : State → Result :=
  issueRun (.barrive d a c) do
    let t ← getMe
    let va := t.getX a
    let p ← act (barrierPlace va)
    if c != 0#3 then drain
    match p with
    | .place _ l _ _ =>
      let (v, _) ← access va l 8 (.barrive (l.off / 64)) false
      modT fun t => t.setX d (v.setWidth 64)
    | _ => pure ()

/-- YIELD (R277): the strand's turn ends. -/
def execYield : State → Result := issue .yield fun s => .next (s.retire.giveUp s.here)

/-- YIELD_END (R277, R297). A strand that runs no unit only gives up the core (log 23). -/
def execYieldEnd : State → Result :=
  issue .yieldEnd fun s =>
    .next (if s.me.unit.isSome then s.endUnit s.cur .yielded else s.retire.giveUp s.here)

end Sys2Proof.Machine
end

