-- ==== Sys2Proof/Machine/Rows.lean ====
section
/-! DEFINITION. Rows of bytes that a TMOV or an engine moves: the checks of R262, the pieces of a row with their homes,
reads and writes put on a path queue (R222); records read at issue; engine IDs. -/

namespace Sys2Proof.Machine

/-- Does a range lie in two windows (R317)? -/
def twoWindows (a n : Nat) : Bool := decide (0 < n) && (windowOf a).1 != (windowOf (a + n - 1)).1

/-- The pieces of n bytes at a, none crossing a multiple of 64: address and length. -/
def pieces (a n : Nat) : List (Nat × Nat) :=
  if n = 0 then [] else
  let first := a / 64
  let last := (a + n - 1) / 64
  (List.range (last - first + 1)).map fun i =>
    let lo := max a (64 * (first + i))
    (lo, min (a + n) (64 * (first + i + 1)) - lo)

/-- Status codes of completions (R205, R264). -/
abbrev statOK : Nat := 0
/-- A poisoned word was read. -/
abbrev statPOISON : Nat := 1
/-- A routine's enabled exception (R205). -/
abbrev statRTFAULT : Nat := 2
/-- A matrix command waited too long (R200). -/
abbrev statWAITTO : Nat := 3
/-- Cancelled (R202). -/
abbrev statCANCELLED : Nat := 4
/-- A row in two windows. -/
abbrev statXWIN : Nat := 5
/-- A window that the engine may not use. -/
abbrev statACCERR : Nat := 6
/-- A guard or a decoded view refused. -/
abbrev statGUARD : Nat := 7
/-- The kernel ended it after a translation fault. -/
abbrev statPF : Nat := 8
/-- A fifth hop. -/
abbrev statMCHAIN : Nat := 9
/-- A peer module's error response. -/
abbrev statREMOTE : Nat := 0xA

/-- The place of an engine's row outside GLOBAL, by its first byte: home, offset, view; none where the window check of
R262 fails (R301, R315). -/
def State.rowPlace (s : State) (c a n : Nat) (write : Bool) : Option (Loc × View) :=
  let (w, o) := windowOf a
  if 2 ^ 57 ≤ a + n - 1 || (s.inCompute c && w.refusedInCompute) then none
  else
    match w with
    | .global => some ({ home := .slice 0, off := a }, .plain)
    | .peer m => some (s.peerPlace m o, .plain)
    | .unit => if isControl c || 0x28000 < o + n then none else some ({ home := .unit c, off := o }, .plain)
    | .unitQ4 => if isControl c || 0x71C00 < o + n then none else some ({ home := .unit c, off := o }, .q4)
    | .unitFE => if isControl c || 0x5000 < o + n then none else some ({ home := .unit c, off := o }, .fe)
    | .cluster =>
      if isControl c then none
      else if o + n ≤ 0x400000 then some ({ home := .cluster (clusterOf c), off := o }, .plain)
      else
        let k := o / 2 ^ 32 - 1
        let q := o % 2 ^ 32
        if write || o < 2 ^ 32 || 64 ≤ k || 0x400000 < q + n then none
        else some ({ home := .cluster (64 * dieOf c + k), off := q }, .plain)
    | .clusterQ4 =>
      if isControl c || 0xE38E00 < o + n then none else some ({ home := .cluster (clusterOf c), off := o }, .q4)
    | .die =>
      let (d, q) := if o < 2 ^ 32 then (dieOf c, o) else (o / 2 ^ 32 - 1, o % 2 ^ 32)
      if 8 ≤ d || 0x4000000 < q + n || ((s.jobOf c).any (·.det) && 0x800000 < q + n) then none
      else some ({ home := .die d, off := q }, .plain)
    | _ => none

/-- Is the window a decoded view, which nothing writes (R83, R316)? -/
def isAlias (a : Nat) : Bool :=
  match (windowOf a).1 with
  | .unitQ4 => true | .unitFE => true | .clusterQ4 => true
  | _ => false

/-- Do the n bytes at an address lie in the populated part of a decoded view (R82, R316)? -/
def inAlias (a n : Nat) : Bool :=
  let (w, o) := windowOf a
  match w with
  | .unitQ4 => decide (o + n ≤ 0x71C00)
  | .unitFE => decide (o + n ≤ 0x5000)
  | .clusterQ4 => decide (o + n ≤ 0xE38E00)
  | _ => false

/-- TVAL2 of an #ACCERR that refuses n bytes at an address to a stream or an access of the core: 6 in a compute phase, and in
a replay area (R301, R362). -/
def State.refusedValue (s : State) (c a n : Nat) : Word :=
  let (w, o) := windowOf a
  let q := if o < 2 ^ 32 then o else o % 2 ^ 32
  if (s.inCompute c && w.refusedInCompute) ||
      ((s.jobOf c).any (·.det) && w == .die && decide (o < 9 * 2 ^ 32 ∧ 0x800000 < q + n ∧ q + n ≤ 0x4000000)) then 6
  else 0

/-- The checks of R262 on a source row and a destination row but for translation, in the order of its table: none if
they pass. -/
def State.rowStatus (s : State) (c : Nat) (mode : Mode) (src ns dst nd : Nat) : Option Nat :=
  if twoWindows src ns || twoWindows dst nd then some statXWIN
  else if (s.rowPlace c src ns false).isNone || (s.rowPlace c dst nd true).isNone then some statACCERR
  else if isAlias dst || !guardsPass (s.core c) mode src ns .read || !guardsPass (s.core c) mode dst nd .write then
    some statGUARD
  else none

/-- The hop that an access to va takes at a slip mark: a tile is aligned to its size (R238, R270). -/
def hopAt (va d : Word) (size : Nat) : Hop :=
  { base := BitVec.ofNat 64 (va.toNat / size * size), size := size, delta := d }

/-- Where a piece of an engine's row is: its address, its place and the view it is seen through; is its page of movable
class? -/
structure Place where
  va   : Word
  loc  : Loc
  view : View
  movable : Bool := false
  deriving DecidableEq, Repr

/-- Where a piece of an engine's row is, or the trap that keeps it: a translation fault in GLOBAL. -/
def State.piecePlace (s : State) (c : Nat) (mode : Mode) (need : Need) (a n : Nat) : Except Trap Place × State :=
  let va : Word := BitVec.ofNat 64 a
  match (windowOf a).1 with
  | .global =>
    (match s.translate c mode va need with
      | (.ok l m, s) => (.ok { va := va, loc := l, view := .plain, movable := m }, s)
      | (.fault t, s) => (.error t, s)
      | (.miss, s) => (.error (pfTrap need va 0 0), s))
  | _ =>
    match s.rowPlace c a n need.writes with
    | some (l, v) => (.ok { va := va, loc := l, view := v }, s)
    | none => (.error { code := 9, badva := va, tval2 := 0 }, s)

/-- Where the pieces of a row are, with their lengths: the first that fails decides. -/
def State.placePieces (s : State) (c : Nat) (mode : Mode) (need : Need) :
    List (Nat × Nat) → Except Trap (List (Place × Nat)) × State
  | [] => (.ok [], s)
  | (a, n) :: ps =>
    match s.piecePlace c mode need a n with
    | (.error t, s) => (.error t, s)
    | (.ok p, s) =>
      match s.placePieces c mode need ps with
      | (.ok r, s) => (.ok ((p, n) :: r), s)
      | (.error t, s) => (.error t, s)

/-! Accesses of engines (R222). -/

/-- Who puts an engine's accesses on a path: the core, the path, the strand and the operation served, and whether what goes
to a peer module travels in TC1 (R222, R309). -/
structure Sender where
  core   : Nat
  path   : Path
  strand : Nat
  op     : Nat
  bulk   : Bool
  deriving DecidableEq, Repr

/-- An access of an engine operation, translated under its core's ASID; a write was checked before (log 7). -/
def State.engineAccess (s : State) (q : Sender) (va : Word) (l : Loc) (k : AccKind) (n : Nat) : Access :=
  { strand := q.strand, answers := false, op := some q.op, va := va, loc := l, len := n, kind := k, sc := none, hops := []
    bulk := q.bulk, sure := true, asid := (s.core q.core).asid.toNat % 65536 }

/-- An access of an engine put on its path. -/
def State.send (s : State) (q : Sender) (va : Word) (l : Loc) (k : AccKind) (n : Nat) : State :=
  s.enterPath q.core q.path (s.engineAccess q va l k n)

/-- A write of an operation that ends so where the write would need a fifth hop (R236, R262). -/
def Access.orEnds (a : Access) (o : Outcome) : Access := { a with ending := some o }

/-- The reads of placed pieces, in order. -/
def State.readsFor (s : State) (q : Sender) (ps : List (Place × Nat)) : List Access :=
  ps.map fun p => { s.engineAccess q p.1.va p.1.loc (.fetch p.1.view) p.2 with sure := false }

/-- Could a slip mark turn an access to the place away: is its page of movable class, or at a peer module (R236)? -/
def Place.chased (p : Place) : Bool :=
  p.movable || match p.loc.home with
    | .peer _ _ => true
    | _ => false

/-- The checks of those pieces to be written that a slip mark could turn away (R236, R262; log 7). -/
def State.checksFor (s : State) (q : Sender) (ps : List (Place × Nat)) : List Access :=
  (ps.filter fun p => p.1.chased).map fun p => { s.engineAccess q p.1.va p.1.loc .check p.2 with sure := false }

/-- Does an engine wait for what the access brings back: a read, or a check? -/
def Access.isFetch (a : Access) : Bool :=
  match a.kind with
  | .fetch _ => true | .lift => true
  | .check => a.op.isSome
  | _ => false

/-- What an engine that has such accesses to make waits for. -/
def fetchesOf (as : List Access) : List Fetch := (as.filter Access.isFetch).map fun _ => { seq := none, got := none }

/-- The first read that is not on its path yet is now, with its serial number. -/
def numberRead (seq : Nat) : List Fetch → List Fetch
  | [] => []
  | f :: fs => if f.seq.isNone then { f with seq := some seq } :: fs else f :: numberRead seq fs

/-- What all the reads have come to; none while one is still under way. -/
def readsDone (fs : List Fetch) : Option (List Got) :=
  if fs.all fun f => f.got.isSome then some (fs.filterMap Fetch.got) else none

/-- The first read that failed (R236, R241). -/
def firstFailed (gs : List Got) : Option Got := gs.find? fun g => g.status != 0 || g.fault.isSome

/-- The bytes read, and for each whether its 64-byte source line is poisoned (R263). -/
def gotBytes (gs : List Got) : List (Byte × Bool) := gs.flatMap fun g => g.data.map (·, g.line)

/-- The full/empty bits of the words read, in order (R256). -/
def gotFull (gs : List Got) : List Bool := gs.flatMap fun g => g.tags.map WordTag.full

/-- A read noted among the reads of an operation. -/
def noteGot (seq : Nat) (g : Got) (fs : List Fetch) : List Fetch :=
  fs.map fun f => if f.seq = some seq then { f with got := some g } else f

/-- What a read of an engine has come to, noted where it is awaited: with an operation or a matrix command. -/
def State.noteFetch (s : State) (c seq : Nat) (g : Got) : State :=
  s.modCore c fun q =>
    { q with ops := q.ops.map fun o => { o with reads := noteGot seq g o.reads }
             cmds := q.cmds.map fun k => { k with reads := noteGot seq g k.reads } }

/-- A read that has failed: its status, or its fault. -/
def Got.failed (status : Nat) (fault : Option Trap) : Got :=
  { status := status, fault := fault, data := [], poison := [], line := false, tags := [] }

/-- An operation in flight. -/
def Core.op? (c : Core) (id : Nat) : Option EngineOp := c.ops.find? fun o => o.id == id

/-- An operation in flight, changed. -/
def State.modOp (s : State) (c id : Nat) (f : EngineOp → EngineOp) : State :=
  s.modCore c fun t => { t with ops := t.ops.map fun o => if o.id = id then f o else o }

/-- The path of an operation's accesses (R222). -/
def OpKind.path : OpKind → Path
  | .copy _ _ _ _ => .copy | .hot _ _ _ _ _ => .copy
  | .gather _ _ _ _ => .gather
  | .reloc _ _ _ => .reloc | .retire _ _ => .reloc

/-- The next access that an engine operation has planned, put on its path; none where there is none left. -/
def State.putOp (s : State) (c id : Nat) : Option State :=
  match (s.core c).op? id with
  | none => none
  | some o =>
    match o.todo with
    | [] => none
    | a :: r =>
      some ((s.enterPath c o.kind.path a).modOp c id fun o =>
        { o with todo := r, reads := if a.isFetch then numberRead (s.core c).seq o.reads else o.reads })

/-- What an engine operation has to do next, of which the accesses are known, as one step (R216, R222); none while it is parked
(R334). -/
def State.stepOp (s : State) (c id : Nat) : Option State :=
  if ((s.core c).op? id).any (·.parked) then none else s.putOp c id

/-- All the accesses that a core's operations have planned put on their paths. -/
def State.flushOps (s : State) (c : Nat) : State :=
  (s.core c).ops.foldl (fun s o => o.todo.foldl (fun s _ => (s.putOp c o.id).getD s) s) s

/-- The accesses that an operation makes next, and waits for where they are reads (R222). -/
def State.planOp (s : State) (c id : Nat) (as : List Access) : State :=
  s.modOp c id fun o => { o with todo := as, reads := fetchesOf as }

/-- An answer set on its way to the strand of an access (R219); its wait, if it is in one, is over. -/
def State.respond (s : State) (c : Nat) (a : Access) (x : Ans) : State :=
  if !a.answers then s
  else
    let s := s.modCore c fun q => { q with answers := q.answers ++ [(a.strand, x)] }
    match (s.strand a.strand).waiting? with
    | some _ => s.modStrand a.strand fun t => { t with status := .parked .answer }
    | none => s

/-- The operation in flight that a write belongs to, if it can still come to another end: its message is not posted yet. -/
def Core.openOp (c : Core) (a : Access) : Option EngineOp :=
  match a.op, a.ending with
  | some id, some _ => if c.held.any fun m => m.op == some id then none else c.op? id
  | _, _ => none

/-- The accesses of a core that are not to be kept are dropped, wherever they are: they are not performed any more. -/
def State.keepAccesses (s : State) (c : Nat) (keep : PathEntry → Bool) : State :=
  ({ s with retry := s.retry.filter fun e => e.1 != c || keep e.2 } : State).modCore c fun q =>
    { q with path := q.path.filter keep, slipped := q.slipped.filter fun e => keep e.1 }

/-- Is an entry a write of the operation at this position or behind it? -/
def PathEntry.writesFrom (id : Nat) (word1 : Word) (e : PathEntry) : Bool :=
  e.acc.op == some id && e.acc.ending.any fun o => decide (word1.toNat ≤ o.word1.toNat)

/-- AN ENGINE'S WRITE THAT CANNOT BE MADE ends its operation as it says, with the status given; of its writes, what stands at
that position or behind it is not made any more, and no event of it is signalled (R213, R236, R262, R267). DESIGN CHOICE. Where
the operation's message has been posted, nothing more is reported (log 7). -/
def State.failWrite (s : State) (c id : Nat) (out : Outcome) (a : Access) : State :=
  let t := (s.keepAccesses c fun e => !e.writesFrom id out.word1).modCore c fun q =>
    { q with events := q.events.filter fun v => v.1 != id }
  match (s.core c).openOp a with
  | some _ => t.modOp c id fun o => { o with reads := [], todo := [], parked := false, done := some out }
  | none => t

/-- AN ACCESS THAT CANNOT BE PERFORMED: its strand traps; a read of an engine, or the check of what it is to write, comes to
the status, or to the fault where translation failed; an engine's write ends its operation (R236, R241, R262). -/
def State.failAccess (s : State) (c : Nat) (e : PathEntry) (t : Trap) (status : Nat) : State :=
  if e.acc.isFetch then s.noteFetch c e.seq (Got.failed status (if status = statPF then some t else none))
  else
    match e.acc.op, e.acc.ending with
    | some id, some out => s.failWrite c id { out with status := status } e.acc
    | _, _ => s.respond c e.acc (.trap t)

/-- The writes of a row's bytes, piece by piece; the bytes from `clean` on mark their lines poisoned (R263). `full`, where
it is given, holds the words' full/empty bits; the pieces are then written word by word (R256). -/
def State.writesFor (s : State) (q : Sender) (data : List Byte) (clean : Nat) (full : Option (List Bool)) :
    List (Place × Nat) → Nat → List Access
  | [], _ => []
  | (p, n) :: ps, done =>
    let bs := (data.drop done).take n
    let put (o k : Nat) (fe : Option Bool) (poison : Bool) : List Access :=
      if k = 0 then []
      else [s.engineAccess q (p.va + BitVec.ofNat 64 o) (p.loc.plus o) (.store ((bs.drop o).take k) fe poison) k]
    let good := min bs.length (clean - done)
    let here :=
      match full with
      | none => put 0 good none false ++ put good (bs.length - good) none true
      | some fs => (List.range (bs.length / 8)).flatMap fun i =>
          put (8 * i) 8 (fs[(done / 8) + i]?) (decide (clean ≤ done + 8 * i))
    here ++ s.writesFor q data clean full ps (done + n)

/-! Records read at issue. -/

/-- Do n bytes lie wholly in UNIT data scratch (R27)? -/
def inUnitData (a n : Nat) : Bool := decide (unitBase ≤ a ∧ a + n ≤ unitBase + 0x20000)

/-- Bytes of UNIT data scratch read as loads of the current strand (R242). -/
def unitRead (va : Word) (n : Nat) : M (List Byte) := do
  let s ← getS
  let l : Loc := { home := .unit s.here, off := va.toNat - unitBase }
  require (!isControl s.here && inUnitData va.toNat n) (trapACCERR va 0)
  require (guardsPass (s.core s.here) s.me.mode va.toNat n .read) (trapGUARD va)
  match s.firstPoison l n with
  | some k => trap (trapPOISON (va + BitVec.ofNat 64 k))
  | none => return s.bytesAt l n

/-- A 64-byte record at a 64-byte boundary of UNIT data scratch (R265, R299, R302). -/
def recordRead (va : Word) (n : Nat) : M (List Byte) := do
  require (va.toNat % 64 == 0) (trapALIGN va)
  unitRead va n

/-- A field of a record: k bytes at offset o. -/
def fieldOf (bs : List Byte) (o k : Nat) : Nat := natOfBytes ((bs.drop o).take k)

/-- Is every byte from o on, n of them, zero? -/
def zeroField (bs : List Byte) (o n : Nat) : Bool := ((bs.drop o).take n).all (· == 0#8)

/-! Engine IDs. -/

/-- The first ID after `k` that is neither 0 nor held (R259). -/
def nextId (held : List Nat) : Nat → Nat → Nat
  | 0, k => k
  | fuel + 1, k =>
    let n := (k + 1) % 65536
    if n = 0 ∨ n ∈ held then nextId held fuel n else n

/-- The ID that the core's next operation takes (R259). -/
def Core.newId (c : Core) : Nat := nextId (c.ops.map EngineOp.id) 65536 c.idCounter

/-- An operation of the current strand started: its ID in the counter, the operation in flight (R259). -/
def State.startOp (s : State) (kind : OpKind) : State × Nat :=
  let id := (s.core s.here).newId
  let t := s.me
  let o : EngineOp :=
    { id := id, strand := s.cur, uid := (t.unit.map UnitRef.uid).getD 0, mode := t.mode, frm := t.frm, fte := t.fte,
      fnver := t.fnver, kind := kind, flags := 0#5, parked := false, reads := [], todo := [], done := none }
  (s.modCore s.here fun c => { c with idCounter := id, ops := c.ops ++ [o] }, id)

/-- Has the core as many operations in flight as it may (R259)? -/
def Core.opsFull (c : Core) : Bool := decide (256 ≤ c.ops.length)

/-- CPSTAT written (R258), and whole again (R359). -/
def Strand.putCpstat (t : Strand) (v : Word) : Strand := { t with cpstat := v, unusable := t.clearMark 5 0x103 }

/-- CPSTAT and x[rd] written, and the instruction complete (R258). -/
def completeStart (d : BitVec 5) (stat id : Nat) (s : State) : Result :=
  complete (fun t => (t.setX d (BitVec.ofNat 64 id)).putCpstat (BitVec.ofNat 64 stat)) s

end Sys2Proof.Machine
end

