-- ==== Sys2Proof/Machine/Complex.lean ====
section
/-! DEFINITION. Complexes: descriptors, slots, the progress of a cochain instruction, CXLOAD, CXEDIT, CXINFO and CBIND
(R137 to R154, R165 to R175). -/

namespace Sys2Proof.Machine

/-! Descriptors. -/

/-- DIM (R142). -/
def cxDim (d : List Byte) : Nat := fieldOf d 0 1
/-- PART. -/
def cxPart (d : List Byte) : Nat := fieldOf d 8 2
/-- NPART. -/
def cxNpart (d : List Byte) : Nat := fieldOf d 0xA 2
/-- NOWN[k]. -/
def cxNown (d : List Byte) (k : Nat) : Nat := fieldOf d (0x10 + 4 * k) 4
/-- NGHOST[k]. -/
def cxNghost (d : List Byte) (k : Nat) : Nat := fieldOf d (0x20 + 4 * k) 4
/-- The local count of degree k. -/
def cxLocal (d : List Byte) (k : Nat) : Nat := cxNown d k + cxNghost d k
/-- BND[k], for k from 1 to 3; 0 for degree 0. -/
def cxBnd (d : List Byte) (k : Nat) : Nat := if k = 0 then 0 else fieldOf d (0x28 + 8 * k) 8
/-- GVN. -/
def cxGvn (d : List Byte) : Nat := fieldOf d 0x48 8
/-- METRIC[k]. -/
def cxMetric (d : List Byte) (k : Nat) : Nat := fieldOf d (0x50 + 8 * k) 8
/-- COORD. -/
def cxCoord (d : List Byte) : Nat := fieldOf d 0x70 8
/-- OWNER[k]. -/
def cxOwner (d : List Byte) (k : Nat) : Nat := fieldOf d (0x78 + 8 * k) 8
/-- SEAM[k]. -/
def cxSeam (d : List Byte) (k : Nat) : Nat := fieldOf d (0x98 + 8 * k) 8
/-- NSEAM[k]. -/
def cxNseam (d : List Byte) (k : Nat) : Nat := fieldOf d (0xB8 + 4 * k) 4

/-- A slot of the current strand's core. -/
def State.slotAt (s : State) (n : Nat) : ComplexSlot := (s.core s.here).slots.toList.getD n ComplexSlot.reset

/-- A slot changed. -/
def State.setSlot (s : State) (n : Nat) (f : ComplexSlot → ComplexSlot) : State :=
  s.modCore s.here fun c => { c with slots := c.slots.mapFinIdx fun i x _ => if i = n then f x else x }

/-! Table words: loads and stores of the strand, in pieces that no 64-byte line boundary cuts (R141, R167). -/

/-- The bytes of the pieces of a range, lowest first. -/
def peekPieces : List (Nat × Nat) → M (List Byte)
  | [] => return []
  | (a, n) :: ps => do
    let va := BitVec.ofNat 64 a
    let (l, view, _) ← resolve .cochainRead va n true
    let (v, _) ← access va l n (.load view false) false
    let rest ← peekPieces ps
    return bytesOfNat n v.toNat ++ rest

/-- n bytes of a table or record. -/
def peek (va n : Nat) : M (List Byte) := do
  require (!twoWindows va n) (trapXWIN (BitVec.ofNat 64 va))
  peekPieces (pieces va n)

/-- DEDUCED. A store of a cochain instruction to a place resolved before: in the own unit scratch at issue, else it parks the
strand, as a load does, until it is performed (R167; log 61). -/
def cochainStore (va : Word) (l : Loc) (k : AccKind) (len : Nat) : M Unit := do
  let _ ← access va l len k false

/-- Bytes written from `start` on, piece by piece. -/
def pokePieces (bs : List Byte) (start : Nat) : List (Nat × Nat) → M Unit
  | [] => return ()
  | (a, n) :: ps => do
    let va := BitVec.ofNat 64 a
    let (l, _, _) ← resolve .cochainWrite va n true
    cochainStore va l (.store ((bs.drop (a - start)).take n) none false) n
    pokePieces bs start ps

/-- Bytes written at a table. -/
def poke (va : Nat) (bs : List Byte) : M Unit := do
  require (!twoWindows va bs.length) (trapXWIN (BitVec.ofNat 64 va))
  pokePieces bs va (pieces va bs.length)

/-- A number of n bytes of a table. -/
def peekNat (va n : Nat) : M Nat := return natOfBytes (← peek va n)

/-! Progress (R169), kept before the answers of an instruction under way. -/

/-- CIPROG of an instruction stopped in a pass, at a degree and an element. -/
def progWord (op pass deg next : Nat) : Word := BitVec.ofNat 64 (2 ^ 63 + pass * 2 ^ 61 + op * 2 ^ 53 + deg % 4 * 2 ^ 22 + next % 2 ^ 21)
/-- PASS. -/
def progPass (w : Word) : Nat := getField w 61 2
/-- DEG. -/
def progDeg (w : Word) : Nat := getField w 22 2
/-- NEXT. -/
def progNext (w : Word) : Nat := getField w 0 21

/-- How a run of a cochain instruction begins. -/
inductive Begin where
  /-- The instruction issues: no progress is held. -/
  | fresh
  /-- It issues and continues from CIPROG. -/
  | again
  /-- It goes on after a park or a rest. -/
  | goesOn
  deriving DecidableEq, Repr

/-- The progress that a run starts from. `first` is the word of an instruction that starts. -/
def progress (op : Nat) (first : Word) : M (Prog × Begin) := fun r =>
  match r.past with
  | .progress g :: p =>
    (match p.getLast? with
      | some (.trap t) => .error (.trap t) { r with past := [] }
      | _ => .ok (g, .goesOn) { r with past := p })
  | _ =>
    let c := r.s.me.ciprog
    if !c.getLsbD 63 then
      let g : Prog := { start := first, now := first, began := false, flags := 0#5 }
      .ok (g, .fresh) { r with new := [.progress g] }
    else if getField c 53 8 != op then .error (.trap (trapCTYPE c)) r
    else
      let g : Prog := { start := c, now := c, began := true, flags := r.s.me.heldFlags }
      .ok (g, .again) { r with new := [.progress g] }

/-- The progress of a run. -/
def Run.prog (r : Run) : Option Prog :=
  match r.s.me.log ++ r.new with
  | .progress g :: _ => some g
  | _ => none

/-- The progress of a run changed, its answers kept. -/
def Run.modProg (r : Run) (f : Prog → Prog) : Run :=
  match r.s.me.log, r.new with
  | .progress g :: l, _ => { r with s := r.s.modMe fun t => { t with log := .progress (f g) :: l } }
  | [], .progress g :: n => { r with new := .progress (f g) :: n }
  | _, _ => r

/-- The word that CIPROG would keep, from here on; the answers had so far are kept. -/
def mark (w : Word) : M Unit := modify fun r => r.modProg fun g => { g with now := w }

/-- From here on the instruction has begun: what runs after an interruption is a resumption. -/
def begun : M Unit := modify fun r => r.modProg fun g => { g with began := true }

/-- The flags of the elements complete so far (R166). -/
def raised : M FlagSet := return ((← get).prog.map Prog.flags).getD 0#5

/-- An element is complete, with flags: the instruction goes on from a new progress word, and needs no earlier answer. -/
def checkpoint (w : Word) (fl : FlagSet := 0#5) : M Unit := do
  let old ← raised
  modify fun r =>
    { r with new := [.progress { start := w, now := w, began := true, flags := old ||| fl }]
             s := r.s.modMe fun t => { t with log := [] } }

/-- Where an element would begin: an interrupt, a pre-emption or a CANCEL stops the instruction, and so does the end of
the strand's turn (R169, R275, R300, R336). -/
def gate : M Unit := fun r =>
  if !r.past.isEmpty then .ok () r
  else if (r.s.interruptDue r.s.cur).isSome || (r.s.core r.s.here).pstate == .saving || r.s.covered r.s.cur then .error .pause r
  else
    match r.s.slice with
    | some 0 => .error .rest r
    | some (n + 1) => .ok () { r with s := { r.s with slice := some n } }
    | none => .ok () r

/-- What a trap of a cochain instruction leaves in CIPROG: what it held, with the flags kept beside it, after #ILL or #CTYPE; 0
after #STALE, #COVF and #FPX; else its progress, whether or not it had begun (R166, R186). -/
def keepAfter (tr : Trap) (g : Option Prog) (t : Strand) : Strand :=
  if tr.code = 1 ∨ tr.code = 0xB then t
  else if tr.code = 0xA ∨ tr.code = 0xC ∨ tr.code = 0xD then t.endProgress
  else match g with
    | some g => t.keep g
    | none => t

/-- A cochain instruction: CIPROG is 0 when it is complete, and as R169 and R186 say where it is stopped. -/
def withProgress (m : M Unit) : M Unit := fun r =>
  match m r with
  | .ok _ r => .ok () { r with s := r.s.modMe Strand.endProgress }
  | .error (.trap t) r => .error (.trap t) { r with s := r.s.modMe (keepAfter t r.prog) }
  | .error .pause r =>
    .error .pause (match r.prog with
      | some g => if g.began then { r with s := r.s.modMe fun t => t.keep g } else r
      | none => r)
  | .error e r => .error e r

/-! BUSY slots and generations. -/

/-- Waits while a slot is BUSY (R140). -/
def busyWait (n : Nat) : M Unit := fun r =>
  if (r.s.slotAt n).state = .busy then
    let w := r.s.newWait r.s.cur 8 (BitVec.ofNat 64 n) none
    match r.s.noWake r.s.cur w with
    | some k => .error (.trap (trapNOWAKE 8 k (BitVec.ofNat 64 n))) r
    | none => .error (.park (.wait w)) r
  else .ok () r

/-- The #STALE of a register (R154). -/
def staleTrap (r : BitVec 4) (c : CochainReg) (gen : BitVec 32) (resumed : Bool) : Trap :=
  trapSTALE (BitVec.ofNat 64 (r.toNat + c.slot.toNat * 16 + if resumed then 64 else 0))
    (BitVec.ofNat 64 (gen.toNat * 2 ^ 32 + c.gen.toNat))

/-- Step 5 of R59 for the registers named, in the order cd, ca, cb (R140, R153, R167). -/
def genCheck (resumed : Bool) : List (BitVec 4) → M Unit
  | [] => return ()
  | r :: rs => do
    let c := (← getMe).getC r
    busyWait c.slot.toNat
    let s ← getS
    let g := (s.slotAt c.slot.toNat).gen
    require (g == c.gen) (staleTrap r c g resumed)
    genCheck resumed rs

/-- Step 5 for several registers: the BUSY slots are waited for first (R153). Once it is passed the instruction has
begun. -/
def generations (resumed : Bool) (rs : List (BitVec 4)) : M Unit := do
  let t ← getMe
  rs.forM fun r => busyWait (t.getC r).slot.toNat
  genCheck resumed rs
  begun

/-- The #CTYPE of a progress word beyond the instruction's range (R169). -/
def inRange (g : Prog) (b : Begin) (n : Nat) : M Unit :=
  require (b == .fresh || decide (progNext g.start ≤ n)) (trapCTYPE g.start)

/-! Checks of a descriptor (R141 to R150, R170, R171). -/

/-- A status word (R171). -/
def statusWord (code deg idx : Nat) : Word := BitVec.ofNat 64 (idx % 2 ^ 32 * 2 ^ 16 + deg % 256 * 256 + code)

/-- May a table of n bytes lie there (R141)? -/
def tableOk (a n : Nat) : Bool :=
  n == 0 || (a % 8 == 0 && !twoWindows a n &&
    (let (w, o) := windowOf a
     match w with
     | .global => true
     | .peer _ => true
     | .unit => decide (o + n ≤ 0x20000)
     | .cluster => decide (o + n ≤ 0x400000)
     | .die => decide (o / 2 ^ 32 ≤ 8) && decide (o % 2 ^ 32 + n ≤ 0x4000000)
     | _ => false))

/-- Code 0x03: counts (R142, R143). -/
def countsBad (d : List Byte) : Bool :=
  ((List.range 4).any fun k =>
    if cxDim d < k then
      cxLocal d k != 0 || cxNseam d k != 0 || cxMetric d k != 0 || cxOwner d k != 0 || cxSeam d k != 0 || cxBnd d k != 0
    else decide (2 ^ 20 < cxLocal d k) || decide (2 ^ 20 < cxNseam d k)) || cxNown d (cxDim d) == 0

/-- The tables of a descriptor: address, bytes, degree. -/
def tablesOf (d : List Byte) : List (Nat × Nat × Nat) :=
  [(cxGvn d, 4 * cxLocal d 0, 0), (cxCoord d, 24 * cxLocal d 0, 0)] ++
    (List.range (cxDim d + 1)).flatMap fun k =>
      [(cxBnd d k, if k = 0 then 0 else 4 * (k + 1) * cxLocal d k, k), (cxMetric d k, 8 * cxLocal d k, k),
       (cxOwner d k, 4 * cxLocal d k, k), (cxSeam d k, 8 * cxNseam d k, k)]

/-- Code 0x04: the degree of the first table that is misplaced. -/
def tableBad (d : List Byte) : Option Nat := ((tablesOf d).find? fun t => !tableOk t.1 t.2.1).map fun t => t.2.2

/-- The status of a header that is refused; none where it passes. -/
def headerStatus (d : List Byte) : Option Word :=
  if cxDim d = 0 || 3 < cxDim d || cxNpart d == 0 || decide (cxNpart d ≤ cxPart d) then some (statusWord 1 0 0)
  else if !zeroField d 1 3 || !zeroField d 0xC 4 || !zeroField d 0xC8 56 then some (statusWord 2 0 0)
  else if countsBad d then some (statusWord 3 0 0)
  else (tableBad d).map fun k => statusWord 4 k 0

/-- What a check reads of cells: boundary words, vertex number, weight, owner word. -/
structure CellWords where
  bnd    : Nat → Nat → M (List Nat)
  gvn    : Nat → M Nat
  metric : Nat → Nat → M Nat
  owner  : Nat → Nat → M Nat

/-- n 32-bit words from an address. -/
def peekWords (va : Nat) : Nat → M (List Nat)
  | 0 => return []
  | n + 1 => do
    let w ← peekNat va 4
    let ws ← peekWords (va + 4) n
    return w :: ws

/-- The tables of a descriptor as they stand in memory. -/
def tableWords (d : List Byte) : CellWords :=
  { bnd := fun k j => peekWords (cxBnd d k + 4 * (k + 1) * j) (k + 1)
    gvn := fun i => peekNat (cxGvn d + 4 * i) 4
    metric := fun k j => peekNat (cxMetric d k + 8 * j) 8
    owner := fun k j => peekNat (cxOwner d k + 4 * j) 4 }

/-- The index of an incidence entry. -/
def entryIndex (w : Nat) : Nat := w % 2 ^ 31
/-- Is the sign of an incidence entry −1? -/
def entryNeg (w : Nat) : Bool := decide (2 ^ 31 ≤ w)

/-- The vertex list of a cell (R144); none where an entry on the way names no cell. -/
def verts (d : List Byte) (t : CellWords) : Nat → Nat → M (Option (List Nat))
  | 0, j => return some [j]
  | k + 1, j => do
    if cxLocal d (k + 1) ≤ j then return none
    else
      let es := (← t.bnd (k + 1) j).map entryIndex
      if es.any fun e => decide (cxLocal d k ≤ e) then return none
      else if k = 0 then return some [es.getD 1 0, es.getD 0 0]
      else
        let a ← verts d t k (es.getD (k + 1) 0)
        let b ← verts d t k (es.getD 0 0)
        match a, b with
        | some a, some b => return some (a ++ [b.getLastD 0])
        | _, _ => return none

/-- Is the list strictly rising? -/
def rising : List Nat → Bool
  | a :: b :: r => decide (a < b) && rising (b :: r)
  | _ => true

/-- Values of a list of actions, in order. -/
def eachM {α β : Type} (f : α → M β) : List α → M (List β)
  | [] => return []
  | x :: xs => do
    let y ← f x
    let ys ← eachM f xs
    return y :: ys

/-- The incidence checks of a cell of degree at least 1 (R144). -/
def incidenceCode (d : List Byte) (t : CellWords) (k j : Nat) : M Nat := do
  let es ← t.bnd k j
  if es.any fun e => decide (cxLocal d (k - 1) ≤ entryIndex e) then return 5
  else if es.zipIdx.any fun e => entryNeg e.1 != (e.2 % 2 == 1) then return 6
  else
    match ← verts d t k j with
    | none => return 8
    | some w =>
      let gs ← eachM t.gvn w
      if !rising gs then return 7
      else
        let fs ← eachM (fun e => verts d t (k - 1) (entryIndex e)) es
        if fs.zipIdx.all fun f => f.1 == some (w.eraseIdx f.2) then return 0 else return 8

/-- The first check of R144, R146 and R147 that a cell fails, by its code; 0 if none. -/
def cellCode (d : List Byte) (t : CellWords) (k j : Nat) : M Nat := do
  let c ← if k = 0 then pure 0 else incidenceCode d t k j
  if c ≠ 0 then return c
  else
    let m ← t.metric k j
    if m / 2 ^ 52 % 2048 = 2047 then return 9
    else
      let o ← t.owner k j
      let ghost := decide (2 ^ 31 ≤ o)
      let p := o % 65536
      if o / 65536 % 2 ^ 15 ≠ 0 ∨ ghost ≠ decide (cxNown d k ≤ j) ∨
          (if ghost then p = cxPart d ∨ cxNpart d ≤ p else p ≠ cxPart d) then return 0xA
      else return 0

/-- DPART of a seam word (R150). -/
def seamPart (v : Nat) : Nat := v / 2 ^ 40 % 65536
/-- DGHOST of a seam word. -/
def seamGhost (v : Nat) : Nat := v / 2 ^ 20 % 2 ^ 20
/-- SRC of a seam word. -/
def seamSrc (v : Nat) : Nat := v % 2 ^ 20

/-- Does a seam entry break R150? -/
def seamBad (d : List Byte) (k e : Nat) : M Bool := do
  let v ← peekNat (cxSeam d k + 8 * e) 8
  return v / 2 ^ 56 != 0 || seamPart v == cxPart d || decide (cxNpart d ≤ seamPart v) || decide (cxNown d k ≤ seamSrc v)

/-- Cells j, j + 1, … of a degree, n of them; the status of the first refused. -/
def checkCells (d : List Byte) (op k : Nat) : Nat → Nat → M (Option Word)
  | 0, _ => return none
  | n + 1, j => do
    gate
    match ← cellCode d (tableWords d) k j with
    | 0 =>
      checkpoint (progWord op 0 k (j + 1))
      checkCells d op k n (j + 1)
    | c => return some (statusWord c k j)

/-- Seam entries e, e + 1, … of a degree. -/
def checkSeams (d : List Byte) (op k : Nat) : Nat → Nat → M (Option Word)
  | 0, _ => return none
  | n + 1, e => do
    gate
    if ← seamBad d k e then return some (statusWord 0xB k e)
    else
      checkpoint (progWord op 1 k (e + 1))
      checkSeams d op k n (e + 1)

/-- A check of degrees from `k` on, `n` of them, the first from element `from_` on. -/
def checkDegrees (f : Nat → Nat → M (Option Word)) (start : Nat → M Unit) : Nat → Nat → Nat → M (Option Word)
  | 0, _, _ => return none
  | n + 1, k, from_ => do
    match ← f k from_ with
    | some st => return some st
    | none =>
      start (k + 1)
      checkDegrees f start n (k + 1) 0

/-! CXLOAD. -/

/-- A slot settles: LOADED, or EMPTY where the load is refused; those that wait for it are ready (R138, R140). -/
def settleSlot (n : Nat) (st : SlotState) : M Unit :=
  modS fun s => (s.setSlot n fun x => { x with state := st, holder := none }).slotFreed s.here n

/-- A resumed CXLOAD or CXEDIT holds its slot (R169). -/
def holderCheck (n : Nat) (w : Word) : M Unit := do
  let x := (← getS).slotAt n
  require (x.state == .busy && x.holder == some (← getS).cur) (trapCTYPE w)

/-- The slot of a CXLOAD or CXEDIT that begins held BUSY, its generation raised by 1 (R138, R139). -/
def holdSlot (n : Nat) (w : Word) : M Unit := do
  modS fun s => s.setSlot n fun x => { x with state := .busy, gen := x.gen + 1, holder := some s.cur }
  checkpoint w

/-- Step 5 of a CXLOAD or CXEDIT: a BUSY slot is waited for, and its generation must not be exhausted (R139, R140). -/
def slotFree (n : Nat) : M ComplexSlot := do
  busyWait n
  return (← getS).slotAt n

/-- The #STALE of an exhausted generation (R139). -/
def notExhausted (n : Nat) (x : ComplexSlot) : M Unit :=
  require (x.gen != 0xFFFFFFFF#32) (trapSTALE (BitVec.ofNat 64 (n + n * 16)) (BitVec.ofNat 64 (2 ^ 64 - 1)))

/-- A CXLOAD that begins (R138, R139, R170). -/
def cxloadBegin (n : Nat) (va : Word) : M Unit := do
  let x ← slotFree n
  notExhausted n x
  require (va.toNat % 64 == 0) (trapALIGN va)
  holdSlot n (progWord 0x6D 0 0 0)

/-- The descriptor copied into a slot held BUSY, and the generation of R139 (R170). DESIGN CHOICE. One in UNIT instruction
scratch, which R141's list of places leaves out, is read like any other (log 16). -/
def copyDescriptor (n : Nat) (va : Word) : M Unit := do
  let d ← peek va.toNat 256
  modS fun s => s.setSlot n fun x => { x with gen := BitVec.ofNat 32 (max (fieldOf d 4 4) x.gen.toNat), desc := d, addr := va }

/-- The checks of CXLOAD from its progress on: the status. -/
def cxloadChecks (d : List Byte) (w : Word) : M Word := do
  let atStart := progPass w = 0 ∧ progDeg w = 0 ∧ progNext w = 0
  match if atStart then headerStatus d else none with
  | some st => return st
  | none =>
    let dim := cxDim d
    let cells : M (Option Word) :=
      if progPass w = 0 then
        checkDegrees (fun k j => checkCells d 0x6D k (cxLocal d k - j) j)
          (fun k => checkpoint (if k ≤ dim then progWord 0x6D 0 k 0 else progWord 0x6D 1 0 0)) (dim + 1 - progDeg w) (progDeg w) (progNext w)
      else return none
    match ← cells with
    | some st => return st
    | none =>
      let (k, e) := if progPass w = 0 then (0, 0) else (progDeg w, progNext w)
      match ← checkDegrees (fun k e => checkSeams d 0x6D k (cxNseam d k - e) e)
          (fun k => checkpoint (progWord 0x6D 1 (min k dim) (if k ≤ dim then 0 else cxNseam d dim))) (dim + 1 - k) k e with
      | some st => return st
      | none => return 0

/-- CXLOAD (R138 to R150, R169 to R171). DEDUCED. The slot is BUSY before the descriptor is read, and one that has passed
no cell yet reads it (again) when it resumes (log 16). -/
def execCxload (n : BitVec 2) (x d : BitVec 5) : State → Result :=
  issueRun (.cxload n x d) (withProgress do
    let va := (← getMe).getX x
    let first := progWord 0x6D 0 0 0
    let (g, b) ← progress 0x6D first
    if b == .again then holderCheck n.toNat g.start else if !g.began then cxloadBegin n.toNat va
    if g.start = first then copyDescriptor n.toNat va
    let ds := ((← getS).slotAt n.toNat).desc
    require (decide (progDeg g.start ≤ cxDim ds)) (trapCTYPE g.start)
    inRange g b (if progPass g.start = 0 then cxLocal ds (progDeg g.start) else cxNseam ds (progDeg g.start))
    let st ← cxloadChecks ds g.start
    settleSlot n.toNat (if st = 0 then .loaded else .empty)
    modT fun t => t.setX d st)

/-! CXEDIT. -/

/-- Bytes of a descriptor replaced. -/
def putField (d : List Byte) (o : Nat) (bs : List Byte) : List Byte := d.take o ++ bs ++ d.drop (o + bs.length)

/-- The seam table addresses after an edit: a word of 0 keeps the old one (R172). -/
def editSeams (d h : List Byte) : List Byte :=
  (List.range 4).flatMap fun k => bytesOfNat 8 (if fieldOf h (0x40 + 8 * k) 8 = 0 then cxSeam d k else fieldOf h (0x40 + 8 * k) 8)

/-- The descriptor as it will stand after the edit (R172, R173). -/
def editedDesc (d h : List Byte) : List Byte :=
  putField (putField (putField (putField d 0x10 ((h.drop 0x10).take 16)) 0x20 ((h.drop 0x20).take 16)) 0xB8 ((h.drop 0x30).take 16))
    0x98 (editSeams d h)

/-- An entry of an edit record (R172). -/
abbrev EditEntry := List Byte
/-- DEG of an entry. -/
def EditEntry.deg (e : EditEntry) : Nat := fieldOf e 0 1
/-- INDEX of an entry. -/
def EditEntry.index (e : EditEntry) : Nat := fieldOf e 4 4

/-- The entry that supplies the words of a cell: the last in entry order. -/
def editOf (es : List EditEntry) (k j : Nat) : Option EditEntry := es.reverse.find? fun e => e.deg == k && e.index == j

/-- The tables as they will stand after the edit. -/
def editWords (d : List Byte) (es : List EditEntry) : CellWords :=
  let t := tableWords d
  { bnd := fun k j => match editOf es k j with
      | some e => return (List.range (k + 1)).map fun i => fieldOf e (0x10 + 4 * i) 4
      | none => t.bnd k j
    gvn := fun i => match editOf es 0 i with
      | some e => return fieldOf e 0x24 4
      | none => t.gvn i
    metric := fun k j => match editOf es k j with
      | some e => return fieldOf e 8 8
      | none => t.metric k j
    owner := fun k j => match editOf es k j with
      | some e => return fieldOf e 0x20 4
      | none => t.owner k j }

/-- The code of an entry by its own bytes (R171). DESIGN CHOICE. GVN and x, y, z of an entry of degree 1 or above count as
reserved, since R172 gives them to degree 0 only, and a nonzero BND word beyond k + 1, which R172 has 0, draws the same code 0x02
(log 16). -/
def entryCode (d : List Byte) (e : EditEntry) : Nat :=
  let k := e.deg
  if cxDim d < k then 0xC
  else if !zeroField e 1 3 || (k != 0 && (!zeroField e (0x10 + 4 * (k + 1)) (4 * (3 - k)) || !zeroField e 0x24 28)) then 2
  else if k = 0 && !zeroField e 0x10 16 then 0x10
  else if cxLocal d k ≤ e.index then 0xD
  else 0

/-- n entries of a record, from entry e on: one that cannot be read is the element that CIPROG holds (R169, R186). -/
def readEntries (va pass e : Nat) : Nat → M (List EditEntry)
  | 0 => return []
  | n + 1 => do
    mark (progWord 0x6E pass 0 e)
    let x ← peek (va + 128 + 64 * e) 64
    let xs ← readEntries va pass (e + 1) n
    return x :: xs

/-- The DEG that CIPROG holds for the first of a list of entries. -/
def degOf (es : List EditEntry) : Nat := (es.head?.map EditEntry.deg).getD 0

/-- Entries checked in order, from number e on (R173). Those before `next` are checked again by a resumption, which may be
interrupted from `next` on. -/
def checkEntries (d : List Byte) (all : List EditEntry) (next : Nat) : List EditEntry → Nat → M (Option Word)
  | [], e => do
    mark (progWord 0x6E 0 0 e)
    return none
  | x :: xs, e => do
    mark (progWord 0x6E 0 x.deg e)
    if next ≤ e then gate
    match entryCode d x with
    | 0 =>
      match ← cellCode d (editWords d all) x.deg x.index with
      | 0 => checkEntries d all next xs (e + 1)
      | c => return some (statusWord c x.deg x.index)
    | c => return some (statusWord c x.deg e)

/-- Code 0x0F: the first new cell without an entry. -/
def newCell (old new : List Byte) (es : List EditEntry) : Option Word :=
  ((List.range (cxDim new + 1)).flatMap fun k =>
    ((List.range (cxLocal new k - cxLocal old k)).map fun i => (k, cxLocal old k + i))).findSome? fun c =>
      if (editOf es c.1 c.2).isSome then none else some (statusWord 0xF c.1 c.2)

/-- The first seam entry of the edited tables that breaks R150. -/
def seamStatus (d : List Byte) : List (Nat × Nat) → M (Option Word)
  | [] => return none
  | (k, e) :: r => do
    if ← seamBad d k e then return some (statusWord 0xB k e) else seamStatus d r

/-- The words of an entry written into the tables (R173). -/
def writeEntry (d : List Byte) (e : EditEntry) : M Unit := do
  let k := e.deg
  let j := e.index
  if k ≠ 0 then poke (cxBnd d k + 4 * (k + 1) * j) ((e.drop 0x10).take (4 * (k + 1)))
  poke (cxMetric d k + 8 * j) ((e.drop 8).take 8)
  poke (cxOwner d k + 4 * j) ((e.drop 0x20).take 4)
  if k = 0 then
    poke (cxGvn d + 4 * j) ((e.drop 0x24).take 4)
    poke (cxCoord d + 24 * j) ((e.drop 0x28).take 24)

/-- Pass 2 of CXEDIT, from entry e on. -/
def writeEntries (d : List Byte) : List EditEntry → Nat → M Unit
  | [], _ => return ()
  | x :: xs, e => do
    gate
    writeEntry d x
    mark (progWord 0x6E 1 (degOf xs) (e + 1))
    writeEntries d xs (e + 1)

/-- Pass 1 of CXEDIT, interrupted before entry `next` if at all: the status. DESIGN CHOICE. The seam entries of the edited tables are checked too,
after the entries and code 0x0F: R173 gives no order, and names the header and the entries as what is checked (log 16). -/
def cxeditChecks (old new h : List Byte) (es : List EditEntry) (next : Nat) : M Word := do
  if !zeroField h 4 12 || !zeroField h 0x60 32 then return statusWord 2 0 0
  else if countsBad new then return statusWord 3 0 0
  else
    match tableBad new with
    | some k => return statusWord 4 k 0
    | none =>
      match ← checkEntries new es next es 0 with
      | some st => return st
      | none =>
        match newCell old new es with
        | some st => return st
        | none =>
          let seams := (List.range (cxDim new + 1)).flatMap fun k => (List.range (cxNseam new k)).map fun e => (k, e)
          match ← seamStatus new seams with
          | some st => return st
          | none => return 0

/-- CXEDIT behind its beginning: its status, and the descriptor as it then stands (R172, R173). DESIGN CHOICE. Code 0x0E is
decided, and the entries are read, before the header's reserved bytes and counts are checked: R173 gives no order
(log 16). -/
def cxeditRun (old : List Byte) (va : Word) (w : Word) : M (Word × List Byte) := do
  let h ← peek va.toNat 128
  let nent := fieldOf h 0 4
  let new := editedDesc old h
  if 65536 < nent then return (statusWord 0xE 0 0, old)
  else
    require (decide (progNext w ≤ nent)) (trapCTYPE w)
    let e := if progPass w = 0 then 0 else progNext w
    let es ← readEntries va.toNat (progPass w) e (nent - e)
    let st ← if progPass w = 0 then cxeditChecks old new h es (progNext w) else pure 0
    if st ≠ 0 then return (st, old)
    else
      mark (progWord 0x6E 1 (degOf es) e)
      writeEntries new es e
      return (0, new)

/-- CXEDIT (R138, R139, R169, R171 to R173). What it has read stays with it until it is complete or stopped; one that
resumes reads its record again, and checks or writes from entry NEXT on. -/
def execCxedit (n : BitVec 2) (x d : BitVec 5) : State → Result :=
  issueRun (.cxedit n x d) (withProgress do
    let va := (← getMe).getX x
    let first := progWord 0x6E 0 0 0
    let (g, b) ← progress 0x6E first
    if b == .again then holderCheck n.toNat g.start
    else if !g.began then
      let sl ← slotFree n.toNat
      require (sl.state == .loaded) (trapCTYPE 0)
      notExhausted n.toNat sl
      require (va.toNat % 64 == 0) (trapALIGN va)
      holdSlot n.toNat first
    let sl := (← getS).slotAt n.toNat
    let (st, new) ← cxeditRun sl.desc va g.start
    let a := sl.addr.toNat
    if st = 0 then
      poke (a + 0x10) ((new.drop 0x10).take 16)
      poke (a + 0x20) ((new.drop 0x20).take 16)
      poke (a + 0x98) ((new.drop 0x98).take 48)
    poke (a + 4) (bytesOfNat 4 sl.gen.toNat)
    modS fun s => s.setSlot n.toNat fun q => { q with desc := new }
    settleSlot n.toNat .loaded
    modT fun t => t.setX d st)

/-! CXINFO and CBIND. -/

/-- The value of a slot selector (R174). -/
def slotInfo (sl : ComplexSlot) (sel arg : Nat) : Word :=
  if sel = 0 then sl.gen.setWidth 64
  else if sl.state ≠ .loaded then 0
  else
    match sel with
    | 1 => 1
    | 2 => BitVec.ofNat 64 (cxDim sl.desc)
    | 3 => sl.addr
    | 4 => BitVec.ofNat 64 (cxNown sl.desc arg)
    | 5 => BitVec.ofNat 64 (cxNghost sl.desc arg)
    | 6 => BitVec.ofNat 64 (cxNseam sl.desc arg)
    | _ => BitVec.ofNat 64 (cxNpart sl.desc * 65536 + cxPart sl.desc)

/-- Step 4 for a register that must be bound (R39). -/
def bound (r : BitVec 4) : M Unit := do
  require ((← getMe).getC r).bound (trapCTYPE 0)

/-- A cochain instruction that keeps no progress of its own: what CIPROG holds must be its own first element (R169). -/
def single (op : Nat) : M Prog := do
  let (g, b) ← progress op (progWord op 0 0 0)
  inRange g b 0
  return g

/-- CXINFO (R174), but for SETEXP. -/
def execCxinfo (c : BitVec 4) (x d sel : BitVec 5) (g : BitVec 4) : State → Result :=
  issueRun (.cxinfo c x d sel g) (withProgress do
    let p ← single 0x6F
    if sel.toNat ≤ 7 then
      busyWait c.toNat
      let s ← getS
      modT fun t => t.setX d (slotInfo (s.slotAt c.toNat) sel.toNat g.toNat)
    else if sel.toNat = 8 then
      let s ← getS
      let l := (s.core s.here).landing.toList.getD g.toNat Landing.reset
      modT fun t => t.setX d (BitVec.ofNat 64 ((if l.valid then 1 else 0) + if l.err then 2 else 0))
    else
      bound c
      generations p.began [c]
      modT fun t => t.setX d ((t.getC c).bits.extractLsb' (64 * (sel.toNat % 4)) 64))

/-- CXINFO, SETEXP (R174). -/
def execCxinfoSetexp (c : BitVec 4) (x : BitVec 5) : State → Result :=
  issueRun (.cxinfoSetexp c x) (withProgress do
    let p ← single 0x6F
    bound c
    require (((← getMe).getC c).fmt == 0#2) (trapCTYPE 0)
    generations p.began [c]
    modT fun t => t.setC c { (t.getC c) with exp := (t.getX x).setWidth 16 })

/-- A base address that CBIND takes (R175). -/
def baseAlign (v : Word) : M Unit := require (v.toNat % 8 == 0) (trapALIGN v)
/-- The window check of a base address. -/
def baseWindow (v : Word) : M Unit := require (v.toNat / 2 ^ 57 == 0) (trapACCERR v 0)

/-- CBIND (R140, R151, R175). -/
def execCbind (c : BitVec 4) (x g : BitVec 5) (f : BitVec 2) (u : BitVec 1) (e n : BitVec 2) : State → Result :=
  issueRun (.cbind c x g f u e n) (withProgress do
    let _ ← single 0x70
    busyWait n.toNat
    let s ← getS
    let t := s.me
    let sl := s.slotAt n.toNat
    let k := if u = 1#1 then cxDim sl.desc - e.toNat else e.toNat
    require (sl.state == .loaded && decide (e.toNat ≤ cxDim sl.desc) && (g != 0#5 || cxNghost sl.desc k == 0)) (trapCTYPE 0)
    let gb := if g = 0#5 then 0 else t.getX g
    baseAlign (t.getX x)
    baseAlign gb
    baseWindow (t.getX x)
    baseWindow gb
    modT fun t => t.setC c
      { bound := true, fmt := f, dual := u == 1#1, deg := e, slot := n, gen := sl.gen, exp := 0
        gcount := BitVec.ofNat 21 (cxNghost sl.desc k), count := BitVec.ofNat 21 (cxNown sl.desc k)
        gbase := gb.setWidth 57, dbase := (t.getX x).setWidth 57 })

end Sys2Proof.Machine
end

