-- ==== Sys2Proof/Machine/Cochain.lean ====
section
/-! DEFINITION. The cochain instructions on elements (R151 to R169, R176 to R179, R181 to R185). -/

namespace Sys2Proof.Machine

/-! Elements. -/

/-- Is the register CI64? -/
def CochainReg.isInt (c : CochainReg) : Bool := c.fmt == 0#2

/-- The float format of a register that is not CI64. -/
def CochainReg.flt (c : CochainReg) : Fmt := if c.fmt = 1#2 then .f32 else .f64

/-- Bytes of an owned element (R152). -/
def CochainReg.size (c : CochainReg) : Nat := if c.fmt = 1#2 then 4 else 8

/-- The exponent of a CI64 register, signed. -/
def CochainReg.expo (c : CochainReg) : Int := c.exp.toInt

/-- The bits of an element (R152, R168): a ghost is read wait-full (R156). `cell` is what #CTYPE reports. -/
def elementBits (c : CochainReg) (i cell : Nat) : M Word := do
  if i < c.count.toNat then
    let va := BitVec.ofNat 64 (c.dbase.toNat + c.size * i)
    let (l, view, _) ← resolve .cochainRead va c.size
    let (v, _) ← access va l c.size (.load view false) false
    return v.setWidth 64
  else if i < c.count.toNat + c.gcount.toNat then
    let va := BitVec.ofNat 64 (c.gbase.toNat + 8 * (i - c.count.toNat))
    let (l, _, _) ← resolve .cochainRead va 8
    let (v, _) ← access va l 8 (.sync .readLeave 0) false
    return v.setWidth 64
  else trap (trapCTYPE (BitVec.ofNat 64 cell))

/-- The number that the bits of an element stand for; of CI64, in units of 2^EXP where `scaled` is false (R77, R152). -/
def elementNum (c : CochainReg) (scaled : Bool) (w : Word) : Num :=
  if c.isInt then numOfInt w.toInt (if scaled then c.expo else 0) else unpack c.flt w

/-- val(c, i) of R168. -/
def val (c : CochainReg) (i cell : Nat) : M Num := return elementNum c true (← elementBits c i cell)

/-- val(c, i), in units of 2^EXP for CI64. -/
def valUnits (c : CochainReg) (i cell : Nat) : M Num := return elementNum c false (← elementBits c i cell)

/-- The result of an element: its bits and flags; none where it leaves the range of CI64 (R168). -/
abbrev Elem := Option (Word × FlagSet)

/-- Is a number in the range of CI64? -/
def inCI64 (n : Int) : Bool := decide (-(2 ^ 63) ≤ n ∧ n < 2 ^ 63)

/-- An integer in the range of CI64, or none. -/
def ci64 (n : Int) (fl : FlagSet) : Elem := if inCI64 n then some (BitVec.ofInt 64 n, fl) else none

/-- qround(x, e, rm) as an element (R168). -/
def qround (rm : Rm) (e : Int) (x : Num) : Elem :=
  match numOnGrid rm e x with
  | some (n, nx) => ci64 n (flagIf nx flagNX)
  | none => none

/-- put(c, i, x) of R168, for an exact x with its invalid mark. -/
def putNum (c : CochainReg) (rm : Rm) (x : Bool × Num) : Elem :=
  if c.isInt then qround rm c.expo x.2 else some (deliverMarked rm c.flt x)

/-- The address of owned element i. -/
def CochainReg.elemAddr (c : CochainReg) (i : Nat) : Word := BitVec.ofNat 64 (c.dbase.toNat + c.size * i)

/-- An owned element written (R152, R166, R167). -/
def writeElem (c : CochainReg) (i : Nat) (w : Word) : M Unit := do
  let va := c.elemAddr i
  let (l, _, _) ← resolve .cochainWrite va c.size
  cochainStore va l (.store (bytesOfNat c.size w.toNat) none false) c.size

/-! The two passes (R166). -/

/-- Pass 1 from element i on, n elements. -/
def pass1 (op : Nat) (elem : Nat → M Elem) : Nat → Nat → M Unit
  | 0, _ => return ()
  | n + 1, i => do
    gate
    match ← elem i with
    | none => trap (trapCOVF (BitVec.ofNat 64 i))
    | some (_, fl) =>
      modT fun t => { t with fflags := mergeFlags t.fflags fl }
      checkpoint (progWord op 0 0 (i + 1)) fl
      pass1 op elem n (i + 1)

/-- The result that pass 2 writes. Where memory has changed since pass 1 so that the result leaves the range, no rule
states it: a free value (log 4). -/
def pass2Word (r : Elem) : M Word := do
  match r with
  | some (w, _) => return w
  | none =>
    let s ← getS
    modS fun s => { s with free := s.free + 1 }
    return Config.freeWord s.free

/-- Pass 2 from element i on, n elements. -/
def pass2 (op : Nat) (c : CochainReg) (elem : Nat → M Elem) : Nat → Nat → M Unit
  | 0, _ => return ()
  | n + 1, i => do
    gate
    let w ← pass2Word (← elem i)
    writeElem c i w
    checkpoint (progWord op 1 0 (i + 1))
    pass2 op c elem n (i + 1)

/-- Both passes over the owned elements of a destination, from a progress word on (R166, R169). DESIGN CHOICE. A PASS of 2 or 3,
which only software writes, counts as pass 2 (log 16). -/
def passes (op : Nat) (w : Word) (c : CochainReg) (elem : Nat → M Elem) : M Unit := do
  let n := c.count.toNat
  let i := progNext w
  if progPass w = 0 then
    pass1 op elem (n - i) i
    let fl ← raised
    require (enabledFlags (← getMe).fte fl == 0#5) (trapFPX (fl.setWidth 64))
    checkpoint (progWord op 1 0 0)
    pass2 op c elem n 0
  else pass2 op c elem (n - i) i

/-- The descriptor of the slot of a register. -/
def descOf (c : CochainReg) : M (List Byte) := return ((← getS).slotAt c.slot.toNat).desc

/-- A cochain instruction on registers, cd first: step 4 as it issues, step 5 as it issues and after each park, then its
body from the progress held (R39, R153, R167, R169, R176). DESIGN CHOICE. Step 4 takes DIM from the descriptor that the slot
last copied, on an EMPTY or BUSY slot too (log 16). -/
def cochain (i : Instr) (op : Nat) (rs : List (BitVec 4)) (types : List Byte → Bool) (range : List Byte → Nat)
    (body : Word → List Byte → M Unit) : State → Result :=
  issueRun i (withProgress do
    let (g, b) ← progress op (progWord op 0 0 0)
    let t ← getMe
    let cd := t.getC (rs.headD 0)
    if b != .goesOn then
      require (rs.all fun r => (t.getC r).bound) (trapCTYPE 0)
      let d ← descOf cd
      require (types d && rs.all fun r => (t.getC r).slot == cd.slot) (trapCTYPE 0)
      inRange g b (range d)
    generations g.began rs
    let d ← descOf cd
    body g.start d)

/-- The rounding mode of a cochain instruction. -/
def rmOf (r : BitVec 3) : M Rm := return (← getMe).rm r

/-! CQ, CDQ, HSTAR, CLIN. -/

/-- Same DEG and DUAL (R176). -/
def sameCells (a b : CochainReg) : Bool := a.deg == b.deg && a.dual == b.dual

/-- The registers of an instruction. -/
def reg (r : BitVec 4) : M CochainReg := return (← getMe).getC r

/-- CQ (R177). -/
def execCq (c a : BitVec 4) (r : BitVec 3) : State → Result := fun s =>
  let d := s.me.getC c
  let x := s.me.getC a
  cochain (.cq c a r) 0x71 [c, a] (fun _ => sameCells d x && d.isInt && !x.isInt) (fun _ => d.count.toNat)
    (fun w _ => do
      let rm ← rmOf r
      passes 0x71 w d fun i => do
        let v ← val x i i
        return qround rm d.expo v) s

/-- CDQ (R177). -/
def execCdq (c a : BitVec 4) (r : BitVec 3) : State → Result := fun s =>
  let d := s.me.getC c
  let x := s.me.getC a
  cochain (.cdq c a r) 0x72 [c, a] (fun _ => sameCells d x && !d.isInt && x.isInt) (fun _ => d.count.toNat)
    (fun w _ => do
      let rm ← rmOf r
      passes 0x72 w d fun i => do
        let v ← val x i i
        return putNum d rm (false, v)) s

/-- A weight of METRIC[k] (R146). -/
def weight (d : List Byte) (k i : Nat) : M Num := return unpack .f64 (BitVec.ofNat 64 (← peekNat (cxMetric d k + 8 * i) 8))

/-- A finite number as a rational. -/
def Num.toRat : Num → Rat
  | .fin n m e =>
    let v : Rat := if 0 ≤ e then ((m * 2 ^ e.toNat : Nat) : Rat) else ((m : Nat) : Rat) / ((2 ^ (-e).toNat : Nat) : Rat)
    if n then -v else v
  | _ => 0

/-- A rational rounded to an integer, and whether anything was discarded (R70). -/
def ratRound (rm : Rm) (q : Rat) : Int × Bool :=
  let n := q.num.natAbs
  let k := n / q.den
  let r := n % q.den
  let neg := decide (q.num < 0)
  let cmp := if 2 * r < q.den then .lt else if 2 * r = q.den then .eq else .gt
  let k := if r ≠ 0 && roundsUp rm neg (k % 2 == 1) cmp then k + 1 else k
  (if neg then -(k : Int) else k, r != 0)

/-- 2^e as a rational. -/
def ratPow (e : Int) : Rat := if 0 ≤ e then ((2 ^ e.toNat : Nat) : Rat) else 1 / ((2 ^ (-e).toNat : Nat) : Rat)

/-- A quotient of numbers: what division makes of special operands (R68, R111, R179); the quotient of finite nonzero
numbers is rational. -/
inductive Quot where
  | special (x : Num) (flags : FlagSet)
  | rational (q : Rat)

/-- x / y. -/
def quotient (x y : Num) : Quot :=
  let sgn : Num → Bool
    | .inf n => n | .zero n => n | .fin n _ _ => n | .nan _ => false
  let neg := sgn x != sgn y
  match x, y with
  | .nan s, .nan t => .special (.nan (s || t)) 0#5
  | .nan s, _ => .special (.nan s) 0#5
  | _, .nan s => .special (.nan s) 0#5
  | .inf _, .inf _ => .special (.nan false) flagNV
  | .zero _, .zero _ => .special (.nan false) flagNV
  | .inf _, _ => .special (.inf neg) 0#5
  | .zero _, _ => .special (.zero neg) 0#5
  | _, .inf _ => .special (.zero neg) 0#5
  | .fin _ _ _, .zero _ => .special (.inf neg) flagDZ
  | .fin a b c, .fin d e f => .rational ((Num.fin a b c).toRat / (Num.fin d e f).toRat)

/-- A rational delivered in a float format, rounded once; a zero takes the sign given. -/
def deliverRat (rm : Rm) (f : Fmt) (zeroNeg : Bool) (q : Rat) : Word × FlagSet :=
  if q = 0 then (f.sign zeroNeg, 0#5) else roundQuotient rm f (decide (q.num < 0)) q.num.natAbs 0 q.den 0

/-- put of a quotient (R168, R179). -/
def putQuot (c : CochainReg) (rm : Rm) (q : Quot) : Elem :=
  match q with
  | .special x fl =>
    if c.isInt then (qround rm c.expo x).map fun r => (r.1, r.2 ||| fl)
    else
      let (w, g) := deliver rm c.flt x
      some (w, g ||| fl)
  | .rational q =>
    if c.isInt then
      let (n, nx) := ratRound rm (q / ratPow c.expo)
      ci64 n (flagIf nx flagNX)
    else some (deliverRat rm c.flt (decide (q < 0)) q)

/-- HSTAR (R179). -/
def execHstar (c a : BitVec 4) (r : BitVec 3) : State → Result := fun s =>
  let d := s.me.getC c
  let x := s.me.getC a
  let k := if d.dual then x.deg.toNat else d.deg.toNat
  cochain (.hstar c a r) 0x75 [c, a]
    (fun ds => d.dual != x.dual && d.deg.toNat + x.deg.toNat == cxDim ds) (fun _ => d.count.toNat)
    (fun w ds => do
      let rm ← rmOf r
      passes 0x75 w d fun i => do
        let v ← val x i i
        let m ← weight ds k i
        if d.dual then return putNum d rm (mulExact m v)
        else return putQuot d rm (quotient (if k * (cxDim ds - k) % 2 = 1 then v.negate else v) m)) s

/-- CLIN (R182). -/
def execClin (c a b : BitVec 4) (r : BitVec 3) (p q : BitVec 4) : State → Result := fun s =>
  let d := s.me.getC c
  let x := s.me.getC a
  let y := s.me.getC b
  cochain (.clin c a b r p q) 0x78 [c, a, b]
    (fun _ => sameCells d x && sameCells d y && d.fmt == x.fmt && d.fmt == y.fmt) (fun _ => d.count.toNat)
    (fun w _ => do
      let rm ← rmOf r
      passes 0x78 w d fun i => do
        let u ← val x i i
        let v ← val y i i
        let m := mulExact (numOfInt p.toInt 0) u
        let n := mulExact (numOfInt q.toInt 0) v
        let z := sumExact rm [m.2, n.2]
        return putNum d rm (m.1 || n.1 || z.1, z.2)) s

/-! DEXT and DCOB. -/

/-- The entries of a cell's boundary list: sign −1, index (R144). An index at or above the count of its degree traps
#CTYPE with the cell (R141). -/
def bndEntries (d : List Byte) (m j : Nat) : M (List (Bool × Nat)) := do
  let es ← peekWords (cxBnd d m + 4 * (m + 1) * j) (m + 1)
  require (es.all fun e => decide (entryIndex e < cxLocal d (m - 1))) (trapCTYPE (BitVec.ofNat 64 j))
  return es.map fun e => (entryNeg e, entryIndex e)

/-- The m-cells j, j + 1, … with an entry that names i: sign and cell, ascending (R178). -/
def cofaces (d : List Byte) (m i : Nat) : Nat → Nat → M (List (Bool × Nat))
  | 0, _ => return []
  | n + 1, j => do
    let es ← bndEntries d m j
    let rest ← cofaces d m i n (j + 1)
    return ((es.filter fun e => e.2 == i).map fun e => (e.1, j)) ++ rest

/-- The values of listed elements, with their signs. -/
def signedVals (c : CochainReg) (cell : Nat) (sigma : Bool) : List (Bool × Nat) → M (List Num)
  | [] => return []
  | (n, l) :: r => do
    let v ← valUnits c l cell
    let vs ← signedVals c cell sigma r
    return (if n != sigma then v.negate else v) :: vs

/-- The integer of a CI64 element. -/
def Num.toInt : Num → Int
  | .fin n m e => (if n then -1 else 1) * (m * 2 ^ e.toNat : Nat)
  | _ => 0

/-- The exact sum of an element of DEXT or DCOB, delivered (R164, R178). -/
def sumElem (c : CochainReg) (rm : Rm) (vs : List Num) : Elem :=
  if c.isInt then ci64 ((vs.map Num.toInt).sum) 0#5
  else some (deliverMarked rm c.flt (sumExact rm (if vs.isEmpty then [.zero false] else vs)))

/-- DEXT and DCOB (R178): `up` for DEXT. DESIGN CHOICE. The boundary entries of a cell, in the coface form those of all cells,
are read and checked before its first element is (log 16). -/
def derivative (i : Instr) (op : Nat) (up : Bool) (c a : BitVec 4) (r : BitVec 3) : State → Result := fun s =>
  let d := s.me.getC c
  let x := s.me.getC a
  let face := up != d.dual
  cochain i op [c, a]
    (fun _ => d.dual == x.dual && d.fmt == x.fmt &&
      (if up then d.deg.toNat == x.deg.toNat + 1 else x.deg.toNat == d.deg.toNat + 1)) (fun _ => d.count.toNat)
    (fun w ds => do
      let rm ← rmOf r
      let k := if face then d.deg.toNat else x.deg.toNat
      let m := if d.dual then cxDim ds - k else k
      let sigma := d.dual && x.deg.toNat % 2 == 1
      passes op w d fun i => do
        let es ← if face then bndEntries ds m i else cofaces ds m i (cxLocal ds m) 0
        let vs ← signedVals x i sigma es
        return sumElem d rm vs
      if d.isInt then modT fun t => t.setC c { (t.getC c) with exp := x.exp }) s

/-- DEXT (R178). -/
def execDext (c a : BitVec 4) (r : BitVec 3) : State → Result := derivative (.dext c a r) 0x73 true c a r

/-- DCOB (R178). -/
def execDcob (c a : BitVec 4) (r : BitVec 3) : State → Result := derivative (.dcob c a r) 0x74 false c a r

/-! WEDGE. -/

/-- From a cell of degree `k`, `n` steps down: by the last entry at each (the front face), or by entry 0 (R144,
R181). -/
def walkDown (d : List Byte) (front : Bool) : Nat → Nat → Nat → M Nat
  | 0, _, j => return j
  | n + 1, k, j => do
    let es ← bndEntries d k j
    walkDown d front n (k - 1) ((es.getD (if front then k else 0) (false, 0)).2)

/-- WEDGE (R181). DESIGN CHOICE. The #COVF of its exponent comes before any access of element 0 (log 16). -/
def execWedge (c a b : BitVec 4) (r : BitVec 3) (sh : BitVec 7) : State → Result := fun s =>
  let d := s.me.getC c
  let x := s.me.getC a
  let y := s.me.getC b
  let k := d.deg.toNat
  let e : Int := x.expo + y.expo + sh.toNat
  cochain (.wedge c a b r sh) 0x76 [c, a, b]
    (fun _ => d.fmt == x.fmt && d.fmt == y.fmt && !d.dual && !x.dual && !y.dual &&
      k == x.deg.toNat + y.deg.toNat && (sh == 0#7 || d.isInt)) (fun _ => d.count.toNat)
    (fun w ds => do
      let rm ← rmOf r
      require (!(d.isInt && progPass w == 0 && (decide (e < -32768) || decide (32767 < e)))) (trapCOVF 0)
      passes 0x76 w d fun i => do
        let f ← walkDown ds true (k - x.deg.toNat) k i
        let g ← walkDown ds false (k - y.deg.toNat) k i
        let u ← valUnits x f i
        let v ← valUnits y g i
        let z := mulExact u v
        return if d.isInt then qround rm sh.toNat z.2 else some (deliverMarked rm d.flt z)
      if d.isInt then modT fun t => t.setC c { (t.getC c) with exp := BitVec.ofInt 16 e }) s

/-! CSEAM. -/

/-- RELEASE of the ghost words from number i on, n of them (R183). -/
def releaseGhosts (c : CochainReg) : Nat → Nat → M Unit
  | 0, _ => return ()
  | n + 1, i => do
    gate
    let va := BitVec.ofNat 64 (c.gbase.toNat + 8 * i)
    let (l, _, _) ← resolve .cochainWrite va 8
    let _ ← access va l 8 .release false
    checkpoint (progWord 0x79 0 0 (i + 1))
    releaseGhosts c n (i + 1)

/-- CSEAM, RELEASE (R183). -/
def execCseamRelease (c : BitVec 4) : State → Result := fun s =>
  let d := s.me.getC c
  cochain (.cseamRelease c) 0x79 [c] (fun _ => true) (fun _ => d.gcount.toNat)
    (fun w _ => releaseGhosts d (d.gcount.toNat - progNext w) (progNext w)) s

/-- CSEAM, LAND (R183). -/
def execCseamLand (c l : BitVec 4) : State → Result := fun s =>
  let d := s.me.getC c
  cochain (.cseamLand c l) 0x79 [c] (fun _ => true) (fun _ => 0)
    (fun _ _ => modS fun s => (s.modCore s.here fun q =>
      { q with landing := q.landing.setIfInBounds l.toNat { valid := true, err := false, reg := d } }).recheckCore s.here) s

/-- The 16 bytes of a seam message in a channel entry: the element word, then its other fields (R184, R393; DESIGN
CHOICE, log 32). -/
def SeamMsg.bytes (m : SeamMsg) : List Byte :=
  bytesOfNat 8 m.word.toNat ++ bytesOfNat 8 (m.land % 16 + m.deg.toNat * 2 ^ 4 + (if m.dual then 2 ^ 6 else 0) + m.fmt.toNat * 2 ^ 7 +
    m.exp.toNat * 2 ^ 16 + m.ghost % 2 ^ 20 * 2 ^ 32)

/-- The message that 16 bytes of a sender carry. -/
def seamOfBytes (sender : Nat) (bs : List Byte) : SeamMsg :=
  let h := fieldOf bs 8 8
  { land := h % 16, deg := BitVec.ofNat 2 (h / 2 ^ 4), dual := h / 2 ^ 6 % 2 == 1, fmt := BitVec.ofNat 2 (h / 2 ^ 7)
    exp := BitVec.ofNat 16 (h / 2 ^ 16), ghost := h / 2 ^ 32 % 2 ^ 20, word := BitVec.ofNat 64 (fieldOf bs 0 8)
    sender := sender }

/-- The SEND address of queue 15 of a core (R293). -/
def sendAddress (core : Nat) : Word := BitVec.ofNat 64 (0x0104000000000000 + core % 4096 * 2 ^ 16 + 15 * 2 ^ 12 + 0x800)

/-- A seam message on its way: to the pour outbox under DET, else to the target's seam queue, parked until it has an
entry (R184, R393). A partition beyond the core table has no queue (DEDUCED, log 32). -/
def sendSeam (part : Nat) (m : SeamMsg) : M Unit := do
  let s ← getS
  match s.jobOf s.here with
  | none => trap (trapACCERR 0 5)
  | some j =>
    match j.cores[part]? with
    | none => trap (trapACCERR 0 5)
    | some t =>
      if j.det then modS fun s => s.modCore s.here fun q => { q with outbox := q.outbox ++ [(t, m)] }
      else
        let va := sendAddress t
        let (l, _, _) ← resolve .vstore va 64
        let _ ← access va l 16 (.send m.bytes false) false

/-- SEND of the seam entries from number e on, n of them (R184). -/
def sendSeams (c : CochainReg) (land base : Nat) : Nat → Nat → M Unit
  | 0, _ => return ()
  | n + 1, e => do
    gate
    let v ← peekNat (base + 8 * e) 8
    let w ← elementBits c (seamSrc v) (seamSrc v)
    sendSeam (seamPart v)
      { land := land, deg := c.deg, dual := c.dual, fmt := c.fmt, exp := c.exp, ghost := seamGhost v
        word := if c.fmt = 1#2 then (w.setWidth 32).setWidth 64 else w, sender := (← getS).cur }
    checkpoint (progWord 0x79 0 0 (e + 1))
    sendSeams c land base n (e + 1)

/-- CSEAM, SEND (R184). -/
def execCseamSend (c l : BitVec 4) : State → Result := fun s =>
  let d := s.me.getC c
  let k (ds : List Byte) : Nat := if d.dual then cxDim ds - d.deg.toNat else d.deg.toNat
  cochain (.cseamSend c l) 0x79 [c] (fun _ => true) (fun ds => cxNseam ds (k ds))
    (fun w ds => sendSeams d l.toNat (cxSeam ds (k ds)) (cxNseam ds (k ds) - progNext w) (progNext w)) s

/-! CRED. -/

/-- The weighted elements from number i on, n of them, with their invalid marks: a NaN element has one (R185). An interruption starts the sum
over (R169). -/
def weighted (c : CochainReg) (base : Option Word) : Nat → Nat → M (List (Bool × Num))
  | 0, _ => return []
  | n + 1, i => do
    gate
    mark (progWord 0x7A 0 0 i)
    let w ← match base with
      | none => pure 1
      | some a => do
        let va := a + BitVec.ofNat 64 (8 * i)
        let (l, view, _) ← resolve .cochainRead va 8
        let (x, _) ← access va l 8 (.load view false) false
        pure (x.setWidth 64).toInt
    let v ← valUnits c i i
    let rest ← weighted c base n (i + 1)
    let p := mulExact (numOfInt w 0) v
    return (p.1 || v.isNan, p.2) :: rest

/-- CRED (R185). -/
def execCred (c : BitVec 4) (x d : BitVec 5) (r : BitVec 3) (w : BitVec 1) : State → Result := fun s =>
  let a := s.me.getC c
  cochain (.cred c x d r w) 0x7A [c] (fun _ => w == 1#1 || x == 0#5) (fun _ => a.count.toNat)
    (fun _ _ => do
      let rm ← rmOf r
      let t ← getMe
      let ts ← weighted a (if w = 1#1 then some (t.getX x) else none) a.count.toNat 0
      if a.isInt then
        let acc := (ts.map fun p => p.2.toInt).sum
        require (inCI64 acc) (trapCOVF 0)
        modT fun t => t.setX d (BitVec.ofInt 64 acc)
      else
        let z := sumExact rm (if ts.isEmpty then [.zero false] else ts.map Prod.snd)
        let (v, fl) := deliverMarked rm a.flt (ts.any Prod.fst || z.1, z.2)
        modT fun t => { t with fflags := mergeFlags t.fflags fl }
        require (enabledFlags t.fte fl == 0#5) (trapFPX (fl.setWidth 64))
        modT fun t => t.setF d v) s

end Sys2Proof.Machine
end

