-- ==== Sys2Proof/Machine/Routine.lean ====
section
/-! DEFINITION. Routines: their records, and their application to elements (R207 to R213). -/

namespace Sys2Proof.Machine

/-! The record. -/

/-- The instruction of a word that is well-formed; none where R58 or its entry refuses it. -/
def legalWord (w : Word32) : Option Instr :=
  match decode w with
  | .ok i => if legal i then some i else none
  | .error _ => none

/-- The vector registers that a word of a routine names (R208, reason 4), and the types that its lanes have (reason 5);
none of an instruction that a routine may not hold. -/
def routineFields : Instr → Option (List (BitVec 5) × List (BitVec 3))
  | .vadd d a b _ t _ => some ([d, a, b], [t])
  | .vsub d a b _ t _ => some ([d, a, b], [t])
  | .vmul d a b _ t _ => some ([d, a, b], [t])
  | .vfma d a b _ t _ => some ([d, a, b], [t])
  | .vmin d a b _ t _ => some ([d, a, b], [t])
  | .vmax d a b _ t _ => some ([d, a, b], [t])
  | .vbit d a b _ t _ => some ([d, a, b], [t])
  | .vsh d a b _ t _ => some ([d, a, b], [t])
  | .vcmp _ _ a b _ t _ => some ([a, b], [t])
  | .vsel d a b _ t _ => some ([d, a, b], [t])
  | .vcvt d a _ _ _ t _ => some ([d, a], [t])
  | .vfun d a _ _ t _ => some ([d, a], [t])
  | _ => none

/-- Is the word a VCVT that changes the lane width or names a part (R208, reason 7)? -/
def changesWidth : Instr → Bool
  | .vcvt _ _ q s _ t _ => q != 0#2 || laneWidth s != laneWidth t
  | _ => false

/-- The first check of R208 that a word fails, by its reason. The words that fail no check of the decoder are looked at
by their fields; a word that no row has is reason 6. -/
def wordReason (type : BitVec 3) (w : Word32) : Option Nat :=
  let op := (w.extractLsb' 24 8).toNat
  if op < 0x58 ∨ 0x63 < op then some 3
  else
    match decode w with
    | .error _ => some 6
    | .ok i =>
      match routineFields i with
      | none => some 3
      | some (rs, ts) =>
        if rs.any fun r => decide (8 ≤ r.toNat) then some 4
        else if ts.any fun t => laneWidth t != laneWidth type then some 5
        else if !legal i then some 6
        else if changesWidth i then some 7
        else none

/-- The first word of a routine that fails a check: reason and index. -/
def wordsReason (type : BitVec 3) : Nat → List Word32 → Option (Nat × Nat)
  | _, [] => none
  | k, w :: ws =>
    match wordReason type w with
    | some r => some (r, k)
    | none => wordsReason type (k + 1) ws

/-- The reason for which a header is refused (R207, R208). -/
def headerReason (h : List Byte) : Option Nat :=
  let len := fieldOf h 0 1
  let nin := fieldOf h 1 1 % 16
  let nout := fieldOf h 1 1 / 16
  let w := laneWidth (BitVec.ofNat 3 (fieldOf h 3 1))
  if !decide (1 ≤ len ∧ len ≤ 24) || !decide (1 ≤ nin ∧ nin ≤ 4) || !decide (1 ≤ nout ∧ nout ≤ 2) then some 1
  else if fieldOf h 2 1 / 2 != 0 || fieldOf h 3 1 / 8 != 0 || fieldOf h 4 4 != 0 || fieldOf h 8 8 / 2 ^ w != 0 then some 2
  else none

/-- TVAL2 of a routine's check (R208). -/
def reasonValue (r k : Nat) : Word := BitVec.ofNat 64 (r * 2 ^ 32 + k)

/-- The routine of a record (R207). -/
def routineOf (h : List Byte) (ws : List Word32) : Routine :=
  { assoc := fieldOf h 2 1 % 2 == 1, nin := fieldOf h 1 1 % 16, nout := fieldOf h 1 1 / 16
    type := BitVec.ofNat 3 (fieldOf h 3 1), ident := BitVec.ofNat 64 (fieldOf h 8 8), words := ws }

/-- The words of a string of bytes (R2). -/
def wordsOfBytes : List Byte → List Word32
  | b0 :: b1 :: b2 :: b3 :: r => wordOfBytes b0 b1 b2 b3 :: wordsOfBytes r
  | _ => []

/-- RTDEF (R208). -/
def execRtdef (h : BitVec 4) (a : BitVec 5) : State → Result :=
  issueRun (.rtdef h a) do
    let t ← getMe
    let va := t.getX a
    require (va.toNat % 16 == 0) (trapALIGN va)
    let hd ← unitRead va 16
    match headerReason hd with
    | some r => trap (trapCTYPE (reasonValue r 0))
    | none =>
      let bs ← unitRead va (16 + 4 * fieldOf hd 0 1)
      let ws := wordsOfBytes (bs.drop 16)
      match wordsReason (BitVec.ofNat 3 (fieldOf hd 3 1)) 0 ws with
      | some (r, k) => trap (trapCTYPE (reasonValue r k))
      | none => modT fun t => { t with handles := t.handles.setIfInBounds h.toNat (some (routineOf hd ws)) }

/-! Application. -/

/-- The private registers of an application, lane 0 of each (R209). -/
structure Private where
  v : List Word
  p : List Bool
  deriving DecidableEq, Repr

/-- A private vector register. -/
def Private.getV (q : Private) (r : BitVec 5) : Word := q.v.getD r.toNat 0
/-- A private predicate register; p0 is true. -/
def Private.getP (q : Private) (r : BitVec 3) : Bool := r == 0#3 || q.p.getD r.toNat false

/-- Lane 0 of a word of a routine (R209): what it gives, for an active lane; the registers after it and its flags. -/
def Private.lane (q : Private) (d : BitVec 5) (p : BitVec 3) (r : LaneResult) : Private × FlagSet :=
  if q.getP p then ({ q with v := q.v.set d.toNat r.1 }, r.2) else (q, 0#5)

/-- One word of a routine under the CSRs captured (R209). -/
def Private.word (q : Private) (frm : Word) (ver : Nat) : Instr → Private × FlagSet
  | .vadd d a b p t r => q.lane d p (laneAdd t r ((effectiveRm r frm).getD .rne) (q.getV a) (q.getV b))
  | .vsub d a b p t r => q.lane d p (laneSub t r ((effectiveRm r frm).getD .rne) (q.getV a) (q.getV b))
  | .vmul d a b p t r => q.lane d p (laneMul t r ((effectiveRm r frm).getD .rne) (q.getV a) (q.getV b))
  | .vfma d a b p t r => q.lane d p (laneFma t ((effectiveRm r frm).getD .rne) (q.getV a) (q.getV b) (q.getV d))
  | .vmin d a b p t r => q.lane d p (laneMinMax t r false (q.getV a) (q.getV b))
  | .vmax d a b p t r => q.lane d p (laneMinMax t r true (q.getV a) (q.getV b))
  | .vbit d a b p t r => q.lane d p (quiet (laneBit (laneWidth t) r (q.getV a) (q.getV b)))
  | .vsh d a b p t r => q.lane d p (quiet (laneShift (laneWidth t) r (q.getV a) (q.getV b)))
  | .vcmp c e a b p t r =>
    if q.getP p then
      let (x, fl) := laneCompare t r c (q.getV a) (q.getV b)
      ({ q with p := q.p.set e.toNat x }, fl)
    else (q, 0#5)
  | .vsel d a b p _ e => q.lane d p (quiet (if q.getP e then q.getV a else q.getV b))
  | .vcvt d a _ s p t r => q.lane d p (laneConvert s t r ((effectiveRm r frm).getD .rne) (q.getV a))
  | .vfun d a f p t r => q.lane d p (laneFunction f t ((effectiveRm r frm).getD .rne) ver (q.getV a))
  | _ => (q, 0#5)

/-- What an application gives: its outputs, its flags, and the offset of the first word that raised an enabled flag,
at which it stops (R213). -/
structure Applied where
  outs  : List Word
  flags : FlagSet
  fault : Option Nat
  deriving DecidableEq, Repr

/-- The CSRs that an engine has captured (R209). -/
structure Captured where
  frm   : Word
  fte   : Word
  fnver : Nat
  deriving DecidableEq, Repr

/-- The words of a routine run from the k-th. -/
def runWords (c : Captured) (nout : Nat) : List Word32 → Nat → Private → FlagSet → Applied
  | [], _, q, fl => { outs := q.v.take nout, flags := fl, fault := none }
  | w :: ws, k, q, fl =>
    match decode w with
    | .error _ => { outs := q.v.take nout, flags := fl, fault := none }
    | .ok i =>
      let (q, f) := q.word c.frm c.fnver i
      if enabledFlags c.fte f = 0#5 then runWords c nout ws (k + 1) q (fl ||| f)
      else { outs := q.v.take nout, flags := fl ||| f, fault := some k }

/-- One application (R209). -/
def Routine.apply (rt : Routine) (c : Captured) (ins : List Word) : Applied :=
  runWords c rt.nout rt.words 0 { v := (ins ++ List.replicate 8 0#64).take 8, p := List.replicate 8 false } 0#5

/-- Does a word use DYN (R209)? -/
def Routine.usesDyn (rt : Routine) : Bool :=
  rt.words.any fun w => match decode w with
    | .ok i => rmField i == some 7#3
    | .error _ => false

/-- The identity tuple (R212). -/
def Routine.identity (rt : Routine) : List Word := rt.ident :: List.replicate (rt.nout - 1) 0#64

/-! The higher-order computations. A result is built element by element: outputs so far, flags so far, and where it
stopped. -/

/-- A fault: the element index and the word offset, with the flags of R213. -/
structure Stopped where
  elem  : Nat
  rtpc  : Nat
  flags : FlagSet
  deriving DecidableEq, Repr

/-- Values at nodes of a tree: none where an application below has faulted. An application is listed with its element
index, its height and what it gave. -/
structure Tree where
  value : Option (List Word)
  apps  : List (Nat × Nat × Applied)
  deriving DecidableEq, Repr

/-- An application to two nodes. -/
def Routine.join (rt : Routine) (c : Captured) (elem height : Nat) (l r : Tree) : Tree :=
  match l.value, r.value with
  | some x, some y =>
    let a := rt.apply c (x ++ y)
    { value := if a.fault.isNone then some a.outs else none, apps := l.apps ++ r.apps ++ [(elem, height, a)] }
  | _, _ => { value := none, apps := l.apps ++ r.apps }

/-- node(a, j) of R212, with the index that its application takes under HFOLD: the lowest leaf of its right operand. -/
def Routine.node (rt : Routine) (c : Captured) (x : Nat → List Word) : Nat → Nat → Tree
  | 0, a => { value := some (x a), apps := [] }
  | j + 1, a => rt.join c (a + 2 ^ j) j (rt.node c x j a) (rt.node c x j (a + 2 ^ j))

/-- The fault to report: the lowest element index, then the lowest height (R213). -/
def firstFault : List (Nat × Nat × Applied) → Option (Nat × Nat × Applied)
  | [] => none
  | (e, h, a) :: r =>
    match firstFault r with
    | some (e', h', a') => if a.fault.isSome ∧ (e < e' ∨ (e = e' ∧ h ≤ h')) then some (e, h, a) else some (e', h', a')
    | none => if a.fault.isSome then some (e, h, a) else none

/-- The flags of the applications whose index is below a bound. -/
def flagsBelow (n : Nat) (as : List (Nat × Nat × Applied)) : FlagSet :=
  as.foldl (fun fl a => if a.1 < n then fl ||| a.2.2.flags else fl) 0#5

/-- The flags of all applications. -/
def flagsAll (as : List (Nat × Nat × Applied)) : FlagSet := as.foldl (fun fl a => fl ||| a.2.2.flags) 0#5

/-- The stop of a fault among applications. -/
def stopOf (as : List (Nat × Nat × Applied)) : Option Stopped :=
  (firstFault as).map fun f => { elem := f.1, rtpc := f.2.2.fault.getD 0, flags := flagsBelow f.1 as ||| f.2.2.flags }

/-- The least k with n ≤ 2^k, at most `fuel`. -/
def ceilLog : Nat → Nat → Nat
  | 0, _ => 0
  | fuel + 1, n => if n ≤ 1 then 0 else ceilLog fuel ((n + 1) / 2) + 1

/-- What a higher-order computation gives: the outputs of each element in order, flags, and the stop. -/
structure Computed where
  outs  : List (List Word)
  flags : FlagSet
  stop  : Option Stopped
  deriving DecidableEq, Repr

/-- F applied along a list from the left, each result an output: the sequential forms (R212). -/
def Routine.chain (rt : Routine) (c : Captured) : List (List Word) → Nat → List Word → FlagSet → List (List Word) → Computed
  | [], _, _, fl, outs => { outs := outs, flags := fl, stop := none }
  | x :: xs, e, acc, fl, outs =>
    let a := rt.apply c (acc ++ x)
    match a.fault with
    | some k => { outs := outs, flags := fl ||| a.flags, stop := some { elem := e, rtpc := k, flags := fl ||| a.flags } }
    | none => rt.chain c xs (e + 1) a.outs (fl ||| a.flags) (outs ++ [a.outs])

/-- HFOLD (R212): one element of output. -/
def Routine.fold (rt : Routine) (c : Captured) (x : List (List Word)) : Computed :=
  match x with
  | [] => { outs := [rt.identity], flags := 0#5, stop := none }
  | first :: rest =>
    if rt.assoc then
      let t := rt.node c (fun i => x.getD i rt.identity) (ceilLog 64 x.length) 0
      match stopOf t.apps with
      | some st => { outs := [], flags := st.flags, stop := some st }
      | none => { outs := [t.value.getD rt.identity], flags := flagsAll t.apps, stop := none }
    else
      let r := rt.chain c rest 1 first 0#5 []
      { r with outs := if r.stop.isSome then [] else [r.outs.getLastD first] }

/-- The powers of two that a number is the sum of, as exponents, highest first. -/
def bitsDown (n : Nat) : Nat → List Nat
  | 0 => []
  | k + 1 => if n / 2 ^ k % 2 = 1 then k :: bitsDown n k else bitsDown n k

/-- out[e] of an ASSOC HSCAN: F from the left over the nodes that make up e + 1 elements (R212). Every application takes
the index e, and the nodes lie nearer the leaves than the joins. -/
def Routine.prefixTree (rt : Routine) (c : Captured) (x : Nat → List Word) (e : Nat) :
    List Nat → Nat → Nat → Option Tree → Tree
  | [], _, _, acc => acc.getD { value := none, apps := [] }
  | j :: js, at_, n, acc =>
    let t := rt.node c x j at_
    let t := { t with apps := t.apps.map fun a => (e, a.2.1, a.2.2) }
    rt.prefixTree c x e js (at_ + 2 ^ j) (n + 1) (some (match acc with
      | none => t
      | some l => rt.join c e (64 + n) l t))

/-- The elements of an ASSOC HSCAN in ascending order, up to the first that faults (R213). -/
def Routine.scanTree (rt : Routine) (c : Captured) (x : List (List Word)) : List Nat → FlagSet → List (List Word) → Computed
  | [], fl, outs => { outs := outs, flags := fl, stop := none }
  | e :: es, fl, outs =>
    let t := rt.prefixTree c (fun i => x.getD i rt.identity) e (bitsDown (e + 1) 32) 0 0 none
    match firstFault t.apps with
    | some f =>
      { outs := outs, flags := fl ||| f.2.2.flags
        stop := some { elem := e, rtpc := f.2.2.fault.getD 0, flags := fl ||| f.2.2.flags } }
    | none => rt.scanTree c x es (fl ||| flagsAll t.apps) (outs ++ [t.value.getD rt.identity])

/-- HSCAN (R212). -/
def Routine.scan (rt : Routine) (c : Captured) (x : List (List Word)) : Computed :=
  match x with
  | [] => { outs := [], flags := 0#5, stop := none }
  | first :: rest =>
    if rt.assoc then rt.scanTree c x (List.range x.length) 0#5 []
    else rt.chain c rest 1 first 0#5 [first]

/-- HZIP and HOUTER: one application per element (R212). -/
def Routine.map (rt : Routine) (c : Captured) : List (List Word) → Nat → FlagSet → List (List Word) → Computed
  | [], _, fl, outs => { outs := outs, flags := fl, stop := none }
  | x :: xs, e, fl, outs =>
    let a := rt.apply c x
    match a.fault with
    | some k => { outs := outs, flags := fl ||| a.flags, stop := some { elem := e, rtpc := k, flags := fl ||| a.flags } }
    | none => rt.map c xs (e + 1) (fl ||| a.flags) (outs ++ [a.outs])

/-- A higher-order computation by its opcode, 0x80 to 0x83, on its input elements, one tuple each (R212). -/
def Routine.compute (rt : Routine) (c : Captured) (opcode : Nat) (xs : List (List Word)) : Computed :=
  match opcode with
  | 0x80 => rt.fold c xs
  | 0x81 => rt.scan c xs
  | _ => rt.map c xs 0 0#5 []

end Sys2Proof.Machine
end

