-- ==== Sys2Proof/Machine/Matrix.lean ====
section
/-! DEFINITION. The matrix commands at issue, and the end of a command (R187 to R206). -/

namespace Sys2Proof.Machine

/-! The queue and the end of a command. -/

/-- The first command of a core that has not come to its end: the only one that may start or go on (R190). -/
def Core.headCmd (c : Core) : Option MatrixCmd := c.cmds.find? fun k => k.done.isNone

/-- A command in a core's queue changed: the one of its strand, unit and ID. -/
def Core.modCmd (c : Core) (k : MatrixCmd) (f : MatrixCmd → MatrixCmd) : Core :=
  { c with cmds := c.cmds.map fun q => if q.strand = k.strand ∧ q.uid = k.uid ∧ q.id = k.id then f q else q }

/-- The head command of a core begins to wait for what its steps need (R200, R201). DESIGN CHOICE. The wait of every block counts
from this cycle, in which its command became the head; a block that comes does not begin it anew (log 15). -/
def State.headWaits (s : State) (c : Nat) : State :=
  match (s.core c).headCmd with
  | some k =>
    if k.waitFrom.isNone then s.modCore c fun q => q.modCmd k fun k => { k with waitFrom := some s.cycle } else s
  | none => s

/-- The primary opcode of a command (R205). -/
def MatrixKind.opcode : MatrixKind → Nat
  | .mma _ _ _ _ => 0x7C
  | .mconst _ _ _ _ _ => 0x7D
  | .zero => 0x7E | .load _ _ => 0x7E | .store _ _ => 0x7E | .add _ _ => 0x7E
  | .hot o _ _ _ _ => o

/-- HANDLE of a command's message, and whether it is a higher-order operation (R205). -/
def MatrixKind.handle : MatrixKind → Option Nat
  | .hot _ h _ _ _ => some h
  | _ => none

/-- A command ends (R190, R205, R206): it posts its message, with the strand's pending flags, or leaves its flags in
the pending set and frees its entry. -/
def State.finishCmd (s : State) (c : Nat) (k : MatrixCmd) (status : Nat) (elem rtpc : Nat) (flags : FlagSet) : State :=
  let lives := s.unitLives k.strand k.uid
  let out : Outcome := { status := status, word1 := BitVec.ofNat 64 (elem % 2 ^ 32 * 2 ^ 32 + rtpc % 32), flags := flags }
  let s :=
    if k.notify || status != 0 || k.kind.handle.isSome then
      let fl := flags ||| (if lives then (s.strand k.strand).pendFlags else 0#5)
      let s := if lives then s.modStrand k.strand fun t => { t with pendFlags := 0#5 } else s
      let s := s.modCore c fun q => q.modCmd k fun k => { k with step := none, reads := [], done := some out }
      let acc := if k.kind.handle.isSome then 0 else k.k
      s.post
        { msg := { strand := k.strand, uid := k.uid
                   word0 := messageWord k.kind.opcode 3 fl (k.kind.handle.getD 0) acc status k.id, word1 := out.word1 }
          op := none, cmd := true }
    else
      let s := if lives then s.modStrand k.strand fun t => { t with pendFlags := t.pendFlags ||| flags } else s
      (s.modCore c fun q => { q with cmds := q.cmds.filter fun o =>
        !(o.strand == k.strand && o.uid == k.uid && o.id == k.id) }).wakeMatrix c
  (s.headWaits c).recheck k.strand

/-! Issue. -/

/-- The element bytes of a matrix type (R197). -/
def matrixWidth (t : BitVec 3) : Nat :=
  match t with
  | 0#3 => 2 | 1#3 => 2 | 2#3 => 4 | 3#3 => 8 | _ => 1

/-- The element bytes of a MACC format (R204). -/
def accWidth (f : BitVec 3) : Nat := laneWidth f / 8

/-- A signed configuration stride. -/
def strideOf (w : Word) : Int := w.toInt

/-- The address of row i. -/
def rowAddr (base stride : Word) (i : Nat) : Word := base + BitVec.ofNat 64 i * stride

/-- What a row of a matrix operand may be (R199, R204). -/
structure RowRule where
  /-- Bytes of a row. -/
  n       : Nat
  cluster : Bool
  q4      : Bool
  write   : Bool

/-- The window check of one row (R199, R204). -/
def State.rowTrap (s : State) (r : RowRule) (a : Word) : Option Trap :=
  let (w, o) := windowOf a.toNat
  let err : Option Trap := some (trapACCERR a 0)
  let inside : Bool :=
    match w with
    | .unit => decide (o + r.n ≤ 0x20000)
    | .unitQ4 => r.q4 && decide (o + r.n ≤ 0x71C00)
    | .cluster => r.cluster && decide (o + r.n ≤ 0x400000)
    | .clusterQ4 => r.q4 && r.cluster && decide (o + r.n ≤ 0xE38E00)
    | _ => false
  if twoWindows a.toNat r.n then some (trapXWIN a)
  else if isControl s.here then err
  else if r.write && inAlias a.toNat r.n then some (trapGUARD a)
  else if !inside then err
  else if guardsPass (s.core s.here) s.me.mode a.toNat r.n (if r.write then .write else .read) then none
  else some (trapGUARD a)

/-- The first row that fails its check. -/
def State.rowsTrap (s : State) (r : RowRule) (base stride : Word) (n : Nat) : Option Trap :=
  (List.range n).findSome? fun i => s.rowTrap r (rowAddr base stride i)

/-- The alignment of a base and a stride (R199): the first row that is misaligned. -/
def alignTrap (base stride : Word) (w : Nat) : Option Trap :=
  if base.toNat % w != 0 then some (trapALIGN base)
  else if stride.toNat % w != 0 then some (trapALIGN (rowAddr base stride 1))
  else none

/-- The first trap of a list. -/
def firstTrap (ts : List (Option Trap)) : Option Trap := ts.findSome? id

/-- Accumulator ownership (R40, R187): the pair of an FP64 command. -/
def State.accTrap (s : State) (k : Nat) (wide : Bool) : Option Trap :=
  let m := (s.core s.here).maccmask
  if m.getLsbD k && (!wide || m.getLsbD (k + 1)) then none else some (trapACCERR 0 0)

/-- The next MSEQ (R196). -/
def nextSeq (w : Word) : Nat :=
  let n := (w.toNat + 1) % 65536
  if n = 0 then 1 else n

/-- Room in the core's matrix queue (R190). -/
def Core.cmdsFull (c : Core) : Bool := decide (4 ≤ c.cmds.length)

/-- A command entered in the queue of the current strand's core (R190, R196, R197). -/
def State.enterCmd (s : State) (kind : MatrixKind) (k : Nat) (n : Bool) (r : BitVec 3) : State :=
  let t := s.me
  let id := nextSeq t.mcfg.mseq
  let q : MatrixCmd :=
    { id := id, strand := s.cur, uid := (t.unit.map UnitRef.uid).getD 0
      launch := (t.unit.map UnitRef.launch).getD 0, mode := t.mode, k := k, notify := n
      rm := if r = 7#3 then t.frm.extractLsb' 0 3 else r, cfg := t.mcfg, frm := t.frm, fte := t.fte, fnver := t.fnver
      wlim := getField t.wlim 0 48, kind := kind, started := false, seq := false, accBad := false
      step := none, reads := [], todo := [], waitFrom := none, blocks := [], done := none }
  let s := s.modMe fun t => { t with mcfg := { t.mcfg with mseq := BitVec.ofNat 64 id } }
  (s.modCore s.here fun c => { c with cmds := c.cmds ++ [q] }).headWaits s.here

/-- A matrix command issued: its checks, then a free entry, then the entry (R190, R199). -/
def execMatrix (i : Instr) (check : State → Option Trap) (kind : State → MatrixKind) (k : BitVec 4) (n : BitVec 1)
    (r : BitVec 3) : State → Result :=
  issueRun i do
    let s ← getS
    match check s with
    | some t => trap t
    | none =>
      leaveOnce
      let _ ← act fun s => if (s.core s.here).cmdsFull then .park .matrixFull s else .ok Ans.unit s
      modS fun s => s.enterCmd (kind s) k.toNat (n == 1#1) r

/-- The legal values of a configuration field (R194). -/
def mcfgLegal (sel : Nat) (v : Word) : Bool :=
  match sel with
  | 0 => decide (1 ≤ v.toInt ∧ v.toInt ≤ 256)
  | 4 => decide (1 ≤ v.toInt ∧ v.toInt ≤ 8)
  | 5 => false
  | _ => decide (-(2 ^ 31) ≤ v.toInt ∧ v.toInt < 2 ^ 31)

/-- A configuration field (R194). -/
def MatrixCfg.get (m : MatrixCfg) (sel : Nat) : Word :=
  match sel with
  | 0 => m.kblocks | 1 => m.sa | 2 => m.sb | 3 => m.sc | 4 => m.spu | _ => m.mseq

/-- A configuration field written. -/
def MatrixCfg.put (m : MatrixCfg) (sel : Nat) (v : Word) : MatrixCfg :=
  match sel with
  | 0 => { m with kblocks := v } | 1 => { m with sa := v } | 2 => { m with sb := v } | 3 => { m with sc := v }
  | 4 => { m with spu := v } | _ => m

/-- MCFG (R195). -/
def execMcfg (d a : BitVec 5) (c : BitVec 3) : State → Result :=
  issue (.mcfg d a c) fun s =>
    let t := s.me
    let old := t.mcfg.get c.toNat
    let v := t.getX a
    if a = 0#5 then complete (fun t => t.setX d old) s
    else if mcfgLegal c.toNat v then complete (fun t => { t with mcfg := t.mcfg.put c.toNat v }.setX d old) s
    else .next (s.takeTrap s.cur (trapILL (wordOf (.mcfg d a c))))

/-- The checks of MMA at issue (R40, R197, R199, R201). DESIGN CHOICE. With src .ring, where x[xb] is a slot number and no row
of B is addressed, SB and x[xb] need not be multiples of the element size (log 60). -/
def State.mmaTrap (s : State) (i : Instr) (k : Nat) (x y : Word) (t : BitVec 3) (src : BitVec 2) : Option Trap :=
  let m := s.me.mcfg
  let w := matrixWidth t
  let al := t == 0#3
  let kb := m.kblocks.toNat
  if (src = 1#2 ∨ src = 2#2) ∧ kb ≠ 1 then some (trapILL (wordOf i))
  else if src = 2#2 then
    firstTrap [s.accTrap k (t == 3#3), alignTrap x m.sa w,
      s.rowsTrap { n := 32 * kb * w, cluster := false, q4 := al, write := false } x m.sa 32,
      if 7 < y.toNat ∨ y.toNat = clusterOf s.here % 8 then some (trapACCERR y 0) else none]
  else
    firstTrap [s.accTrap k (t == 3#3), alignTrap x m.sa w, alignTrap y m.sb w,
      s.rowsTrap { n := 32 * kb * w, cluster := false, q4 := al, write := false } x m.sa 32,
      s.rowsTrap { n := 32 * w, cluster := true, q4 := al, write := false } y m.sb (32 * kb)]

/-- MMA (R197). -/
def execMma (n : BitVec 1) (k : BitVec 4) (a b : BitVec 5) (t r : BitVec 3) (c : BitVec 2) : State → Result :=
  let i : Instr := .mma n k a b t r c
  execMatrix i (fun s => s.mmaTrap i k.toNat (s.me.getX a) (s.me.getX b) t c)
    (fun s => .mma t (c.setWidth 3) (s.me.getX a) (s.me.getX b)) k n r

/-- MCONST (R203). -/
def execMconst (n : BitVec 1) (k : BitVec 4) (a b : BitVec 5) (t r : BitVec 3) (c : BitVec 2) (e : BitVec 1) :
    State → Result :=
  let w := matrixWidth t
  execMatrix (.mconst n k a b t r c e)
    (fun s =>
      let x := s.me.getX a
      let p := s.me.getX b
      firstTrap [s.accTrap k.toNat (t == 3#3), alignTrap x s.me.mcfg.sb w,
        s.rowsTrap { n := 32 * w, cluster := true, q4 := t == 0#3, write := false } x s.me.mcfg.sb 32,
        if c = 1#2 then s.rowTrap { n := 32, cluster := false, q4 := false, write := false } p else none])
    (fun s => .mconst t c (e == 1#1) (s.me.getX a) (s.me.getX b)) k n r

/-- MACC ZERO (R204). -/
def execMaccZero (n : BitVec 1) (k : BitVec 4) : State → Result :=
  execMatrix (.maccZero n k) (fun s => s.accTrap k.toNat false) (fun _ => .zero) k n 0#3

/-- The checks of MACC LOAD and STORE (R204). -/
def State.maccTrap (s : State) (k : Nat) (f : BitVec 3) (x : Word) (write : Bool) : Option Trap :=
  firstTrap [s.accTrap k (f == 7#3), alignTrap x s.me.mcfg.sc (accWidth f),
    s.rowsTrap { n := 32 * accWidth f, cluster := true, q4 := f == 4#3 && !write, write := write } x s.me.mcfg.sc 32]

/-- MACC LOAD (R204). -/
def execMaccLoad (n : BitVec 1) (k : BitVec 4) (a : BitVec 5) (f : BitVec 3) : State → Result :=
  execMatrix (.maccLoad n k a f) (fun s => s.maccTrap k.toNat f (s.me.getX a) false) (fun s => .load f (s.me.getX a)) k n 0#3

/-- MACC STORE (R204). -/
def execMaccStore (n : BitVec 1) (k : BitVec 4) (a : BitVec 5) (r f : BitVec 3) : State → Result :=
  execMatrix (.maccStore n k a r f) (fun s => s.maccTrap k.toNat f (s.me.getX a) true) (fun s => .store f (s.me.getX a)) k n r

/-- MACC ADD (R204). -/
def execMaccAdd (n : BitVec 1) (k j : BitVec 4) (r f : BitVec 3) : State → Result :=
  execMatrix (.maccAdd n k j r f)
    (fun s => firstTrap [s.accTrap k.toNat (f == 7#3), s.accTrap j.toNat (f == 7#3)]) (fun _ => .add f j.toNat) k n r

end Sys2Proof.Machine
end

