-- ==== Sys2Proof/Machine/System.lean ====
section
/-! DEFINITION. ECALL, EBREAK, ERET, WFI, the CSR instructions, CTUINV and the reserved opcodes (R57, R331, R343 to
R347). -/

namespace Sys2Proof.Machine

/-- ECALL (R331, R344): a trap, or the forward of the fault to the kernel. -/
def execEcall : State → Result :=
  issue .ecall fun s =>
    match s.me.mode with
    | .u => .next (s.takeTrap s.cur { code := 0x13, badva := 0, tval2 := 0 })
    | .m => .next (s.takeTrap s.cur (trapILL (wordOf .ecall)))
    | .s =>
      if isControl s.here then .next (s.takeTrap s.cur { code := 0x14, badva := 0, tval2 := 0 })
      else
        let put (t : Strand) : Strand := { t with inst := some (wordOf .ecall), log := [] }
        match s.pushFault (dieOf s.here) [s.forwardRecord s.cur] with
        | some s => .next ((s.modMe put).park s.cur (.forward true))
        | none => .next ((s.modMe put).park s.cur (.forward false))

/-- EBREAK (R344). -/
def execEbreak : State → Result := issue .ebreak fun s => .next (s.takeTrap s.cur (trapBRK 0 0))

/-- ERET (R344). -/
def execEret : State → Result :=
  issue .eret (fun s => .next (s.modMe fun t => if t.mode = .m then returnM t else returnS t))

/-- WFI (R344). -/
def execWfi : State → Result :=
  issueRun .wfi do
    let _ ← act fun s => if s.wfiDone s.cur then .ok Ans.unit s else .park .wfi s

/-- A word of a reserved opcode traps #ILL (R57). -/
def execReservedOpcode (w : Word32) : State → Result :=
  fun s => .next (s.takeTrap s.cur (trapILL w))

/-! CSRs. -/

/-- COREID (R10, R11). -/
def State.coreId (s : State) (c : Nat) : Word :=
  BitVec.ofNat 64 (s.endpoint c + if isControl c then 2 ^ 22 else 0)

/-- MORD of a core's job (R91): the order in effect (DEDUCED, log 40); 0 on a core that serves no job (log 25). -/
def State.mord (s : State) : Word :=
  match s.jobOf s.here with
  | some j => BitVec.ofNat 64 ((if j.ord then 1 else 0) + if j.chg then 2 else 0)
  | none => 0

/-- A CSR as the current strand reads it (R347). -/
def State.csrRead (s : State) (n : Nat) : Word :=
  let t := s.me
  let c := s.core s.here
  match n with
  | 0x001 => t.fflags | 0x002 => t.frm | 0x003 => t.fte | 0x004 => t.fnver | 0x005 => t.wlim
  | 0x008 => t.lcnt | 0x009 => t.lbody | 0x00A => t.ciprog
  | 0x100 => BitVec.ofNat 64 (s.cur % 8) | 0x101 => s.coreId s.here | 0x102 => s.time | 0x103 => t.cpstat
  | 0x200 => s.mord | 0x201 => c.qmax | 0x202 => (s.cluster (clusterOf s.here)).muwt | 0x203 => c.maccmask
  | 0x300 => t.sstatus | 0x301 => t.stvec | 0x302 => t.epc | 0x303 => t.cause | 0x304 => t.badva | 0x305 => t.tval2
  | 0x306 => t.sscratch | 0x307 => t.ien | 0x308 => s.ipend s.cur | 0x309 => t.timecmp
  | 0x310 => t.ibp[0] | 0x311 => t.ibp[1] | 0x312 => t.ibp[2] | 0x313 => t.ibp[3]
  | 0x320 => c.guards[0] | 0x321 => c.guards[1] | 0x322 => c.guards[2] | 0x323 => c.guards[3]
  | 0x324 => c.guards[4] | 0x325 => c.guards[5] | 0x326 => c.guards[6] | 0x327 => c.guards[7]
  | 0x330 => c.asid | 0x331 => c.ptroot
  | 0x700 => t.m.mstatus | 0x701 => t.m.mtvec | 0x702 => t.m.mepc | 0x703 => t.m.mcause | 0x704 => t.m.mbadva
  | 0x705 => t.m.mtval2 | 0x706 => t.m.mscratch | 0x707 => t.m.mien | 0x708 => s.mipend s.cur | 0x709 => t.m.mdeleg
  | _ => 0

/-- Which bits of a CSR are not reserved (R10 to R347, the maps). -/
def csrMask (n : Nat) : Word :=
  match n with
  | 0x001 => 0x1F | 0x002 => 7 | 0x003 => 0x1F
  | 0x009 => 0x1FFFFFF
  | 0x00A => 0xFFE0000000DFFFFF
  | 0x200 => 1 | 0x202 => 0xFFFFFFFF | 0x203 => 0xFFFF
  | 0x300 => 0xF
  | 0x301 => ~~~3#64 | 0x302 => ~~~3#64
  | 0x303 => 0x80000000000000FF
  | 0x307 => 0x3E | 0x308 => 0x22
  | 0x310 => 0xC1FFFFFFFFFFFFFC | 0x311 => 0xC1FFFFFFFFFFFFFC | 0x312 => 0xC1FFFFFFFFFFFFFC | 0x313 => 0xC1FFFFFFFFFFFFFC
  | 0x320 => 0xF1FFFFFFFFFFFFC0 | 0x321 => 0xF1FFFFFFFFFFFFC0 | 0x322 => 0xF1FFFFFFFFFFFFC0
  | 0x323 => 0xF1FFFFFFFFFFFFC0 | 0x324 => 0xF1FFFFFFFFFFFFC0 | 0x325 => 0xF1FFFFFFFFFFFFC0
  | 0x326 => 0xF1FFFFFFFFFFFFC0 | 0x327 => 0xF1FFFFFFFFFFFFC0
  | 0x330 => 0xFFFF | 0x331 => 0x1FFFFFFF000
  | 0x700 => 0x1F
  | 0x701 => ~~~3#64 | 0x702 => ~~~3#64
  | 0x703 => 0x80000000000000FF
  | 0x707 => 0x3E | 0x708 => 0x22
  | _ => BitVec.allOnes 64

/-- Does a CSR's own rule refuse a value (R86, R106, R275, R279)? -/
def csrRefuses (n : Nat) (v : Word) : Bool :=
  match n with
  | 0x004 => v.toNat != 1 && v.toNat != 2 && v.toNat != 3
  | 0x005 => getField v 0 48 == 0 || getField v 48 16 != 0
  | 0x009 =>
    let w := v &&& csrMask 9
    w != 0 && !(decide (1 ≤ getField w 18 7 ∧ getField w 18 7 ≤ 64) &&
      decide (0x20000 ≤ getField w 0 18 ∧ getField w 0 18 < 0x28000) && getField w 0 2 == 0)
  | 0x201 => decide (v.toNat < 256) || getField v 24 40 != 0
  | _ => false

/-- A write of MORD (R91): the order of the job's next phase. -/
def Job.writeMord (j : Job) (v : Word) : Job :=
  { j with nextOrd := v.getLsbD 0 }

/-- IPEND or MIPEND after a write by its mode (R343, R347): SW takes the value, EXT can only be cleared. -/
def writePending (old w : Word) : Word := (old &&& ~~~0x22#64) ||| (w &&& 0x02#64) ||| (old &&& w &&& 0x20#64)

/-- A CSR's write rule applied (R345, R347). DESIGN CHOICE. A write of LCNT or LBODY empties the loop buffer, and the body
is read again (R109; log 51). -/
def State.csrWrite (s : State) (n : Nat) (v : Word) : State :=
  let w := v &&& csrMask n
  let c := s.here
  let guard (k : Nat) : State := s.modCore c fun t => { t with guards := t.guards.setIfInBounds k w }
  let ibp (k : Nat) : State := s.modMe fun t => { t with ibp := t.ibp.setIfInBounds k w }
  let mreg (f : MRegs → MRegs) : State := s.modMe fun t => { t with m := f t.m }
  match n with
  | 0x001 => s.modMe fun t => { t with fflags := w }
  | 0x002 => s.modMe fun t => { t with frm := w }
  | 0x003 => s.modMe fun t => { t with fte := w }
  | 0x004 => s.modMe fun t => { t with fnver := w }
  | 0x005 => s.modMe fun t => { t with wlim := w }
  | 0x008 => s.modMe fun t => { t with lcnt := w, loopBuf := [] }
  | 0x009 => s.modMe fun t => { t with lbody := w, loopBuf := [] }
  | 0x00A => s.modMe fun t => { t with ciprog := w }
  | 0x200 =>
    (match (s.core c).job with
      | some j => s.modJob j fun q => q.writeMord w
      | none => s)
  | 0x201 => s.modCore c fun t => { t with qmax := w }
  | 0x202 => s.modCluster (clusterOf c) fun t => { t with muwt := w }
  | 0x203 => s.modCore c fun t => { t with maccmask := w }
  | 0x300 => s.modMe fun t => { t with sstatus := w }
  | 0x301 => s.modMe fun t => { t with stvec := w }
  | 0x302 => s.modMe fun t => { t with epc := w }
  | 0x303 => s.modMe fun t => { t with cause := w }
  | 0x304 => s.modMe fun t => { t with badva := w }
  | 0x305 => s.modMe fun t => { t with tval2 := w }
  | 0x306 => s.modMe fun t => { t with sscratch := w }
  | 0x307 => s.modMe fun t => { t with ien := w }
  | 0x308 => s.modMe fun t => { t with ipend := writePending t.ipend w }
  | 0x309 => s.modMe fun t => { t with timecmp := w }
  | 0x310 => ibp 0 | 0x311 => ibp 1 | 0x312 => ibp 2 | 0x313 => ibp 3
  | 0x320 => guard 0 | 0x321 => guard 1 | 0x322 => guard 2 | 0x323 => guard 3
  | 0x324 => guard 4 | 0x325 => guard 5 | 0x326 => guard 6 | 0x327 => guard 7
  | 0x330 => s.modCore c fun t => { t with asid := w }
  | 0x331 => s.modCore c fun t => { t with ptroot := w }
  | 0x700 => mreg fun m => { m with mstatus := w }
  | 0x701 => mreg fun m => { m with mtvec := w }
  | 0x702 => mreg fun m => { m with mepc := w }
  | 0x703 => mreg fun m => { m with mcause := w }
  | 0x704 => mreg fun m => { m with mbadva := w }
  | 0x705 => mreg fun m => { m with mtval2 := w }
  | 0x706 => mreg fun m => { m with mscratch := w }
  | 0x707 => mreg fun m => { m with mien := w }
  | 0x708 => mreg fun m => { m with mipend := writePending m.mipend w }
  | 0x709 => mreg fun m => { m with mdeleg := w }
  | _ => s

/-- May the mode access the CSR (R313)? -/
def csrAllowed (mode : Mode) (n : Nat) (write : Bool) : Bool :=
  if 0x700 ≤ n then mode == .m
  else if 0x300 ≤ n then mode != .u
  else if 0x200 ≤ n then mode != .u || !write
  else true

/-- A CSR access (R313, R345): `new` is what it writes, none for a pure read. -/
def csrAccess (i : Instr) (d : BitVec 5) (n : BitVec 14) (new : Strand → Word → Option Word) : State → Result :=
  issue i fun s =>
    let k := n.toNat
    let old := s.csrRead k
    let put := new s.me old
    let ill : Result := .next (s.takeTrap s.cur (trapILL (wordOf i)))
    if (0x700 ≤ k ∧ isControl s.here = false) ∨ (put.isSome ∧ 0x100 ≤ k ∧ k < 0x200) then ill
    else if !csrAllowed s.me.mode k put.isSome then .next (s.takeTrap s.cur (trapPRIV (wordOf i)))
    else
      match put with
      | none => complete (fun t => t.setX d old) s
      | some v =>
        if csrRefuses k v then ill
        else complete (fun t => { (t.setX d old) with unusable := (t.setX d old).clearMark 5 k }) (s.csrWrite k v)

/-- CSRRW (R345). -/
def execCsrrw (d a : BitVec 5) (i : BitVec 14) : State → Result :=
  csrAccess (.csrrw d a i) d i fun t _ => some (t.getX a)

/-- CSRRS (R345). -/
def execCsrrs (d a : BitVec 5) (i : BitVec 14) : State → Result :=
  csrAccess (.csrrs d a i) d i fun t old => if a = 0#5 then none else some (old ||| t.getX a)

/-- CSRRC (R345). -/
def execCsrrc (d a : BitVec 5) (i : BitVec 14) : State → Result :=
  csrAccess (.csrrc d a i) d i fun t old => if a = 0#5 then none else some (old &&& ~~~t.getX a)

/-! CTUINV. -/

/-- Does CTUINV drop the entry (R346)? -/
def ctuDrops (k : BitVec 2) (va : Word) (asid : Nat) (e : CtuEntry) : Bool :=
  k == 0#2 || (e.asid == asid && (k == 1#2 || e.page == va.toNat / 2 ^ sizeExp e.size))

/-- Is the cluster in reach of a core's CTUINV (R346)? -/
def ctuReach (c : Nat) (r : BitVec 3) (k : Nat) : Bool :=
  if r = 0#3 then k == clusterOf c else if r = 1#3 then k / 64 == dieOf c else true

/-- Could a translation of the address under this ASID have come from a dropped entry? The pages of entries that are no
longer held count as 4 KiB (log 28). -/
def usedDropped (k : BitVec 2) (va : Word) (asid : Nat) (dropped : List CtuEntry) (under : Nat) (a : Word) : Bool :=
  decide (a.toNat < 2 ^ 55) &&
    (k == 0#2 || (under == asid && (k == 1#2 || a.toNat / 4096 == va.toNat / 4096 ||
      dropped.any fun e => e.page == a.toNat / 2 ^ sizeExp e.size)))

/-- Has the strand's instruction a place in hand that it resolved with a dropped entry? -/
def Strand.holdsPlace (t : Strand) (used : Word → Bool) : Bool :=
  t.log.any fun a => match a with
    | .place va _ _ _ => used va
    | _ => false

/-- Has a move or retirement of a core a place in hand, in any 4 KiB of its tiles, that was translated with a dropped entry? -/
def Barchan.uses (b : Barchan) (used : Nat → Word → Bool) : Bool :=
  b.atWork && (List.range ((b.size + 4095) / 4096)).any fun i =>
    used b.asid (b.oldVa + BitVec.ofNat 64 (4096 * i)) || used b.asid (b.newVa + BitVec.ofNat 64 (4096 * i))

/-- The drop of CTUINV, and what it then waits for (R346): the accesses of the cores in reach, of MOD those of gateways and
I/O stages too, each under the ASID that it was translated with, their strands' accesses in hand, and their moves. Posted stores, and accesses that an engine has planned, move
into the path queues first (R220, R222). -/
def State.ctuDrop (s : State) (k : BitVec 2) (va : Word) (asid : Nat) (r : BitVec 3) :
    State × List (Nat × Nat) × List (Nat × Nat) × List (Nat × Nat) :=
  let me := s.here
  let ks := (s.clusters.map Prod.fst).filter (ctuReach me r)
  let dropped := ks.flatMap fun n => (s.cluster n).ctu.filter (ctuDrops k va asid)
  let s := ks.foldl (fun s n => s.modCluster n fun q => { q with ctu := q.ctu.filter fun e => !ctuDrops k va asid e }) s
  let cs := (s.cores.map Prod.fst).filter fun c => ctuReach me r (clusterOf c) && (decide (c < 4128) || r == 2#3)
  let s := cs.foldl (fun s c => (s.movePosted c fun _ => true).flushOps c) s
  let used : Nat → Word → Bool := usedDropped k va asid dropped
  let waits := cs.flatMap fun c => ((s.outstanding c).filter fun e => used e.acc.asid e.acc.va).map fun e => (c, e.seq)
  let strands := cs.flatMap fun c => ((List.range 6).filter fun n =>
    8 * c + n != s.cur && (s.strand (8 * c + n)).holdsPlace (used ((s.core c).asid.toNat % 65536))).map fun n => (c, n)
  let moves := ((s.dies.flatMap fun d => d.2.barchan).filter fun b => cs.contains b.core && b.uses used).map fun b => (b.core, b.id)
  (s, waits, strands, moves)

/-- Are the accesses that a CTUINV waits for performed, and the moves and retirements done (R346)? -/
def State.ctuinvDone (s : State) (waits strands moves : List (Nat × Nat)) : Bool :=
  (waits.all fun w => !(s.outstanding w.1).any fun e => e.seq == w.2) &&
    (strands.all fun w => !(s.strand (8 * w.1 + w.2)).holdsPlace fun _ => true) &&
    moves.all fun m => !(s.barchan? m.1 m.2).any fun b => b.2.atWork

/-- CTUINV (R346). -/
def execCtuinv (a b : BitVec 5) (r : BitVec 3) (k : BitVec 2) : State → Result :=
  issueRun (.ctuinv a b r k) do
    drain
    modT fun t => { t with stream := none }
    let t ← getMe
    let va := t.getX a
    let asid := (t.getX b).toNat % 65536
    let _ ← act fun s =>
      let (s, waits, strands, moves) := s.ctuDrop k va asid r
      if waits.isEmpty && strands.isEmpty && moves.isEmpty then .ok Ans.unit s else .park (.ctuinv waits strands moves) s

end Sys2Proof.Machine
end

