-- ==== Sys2Proof/Machine/Launch.lean ====
section
/-! DEFINITION. LAUNCH, its query and job forms, and CANCEL (R294, R295, R299, R300, R342); the dispatcher's steps and the end
of a job (R298, R300, R405). -/

namespace Sys2Proof.Machine

/-! Records. -/

/-- The offset of the first field that is out of range, of fields listed with what is wrong of them. -/
def badField (fs : List (Nat × Bool)) : Option Nat := (fs.find? Prod.snd).map Prod.fst

/-- The #CTYPE of a field of a record (R299). -/
def trapField (o : Nat) : Trap := trapCTYPE (BitVec.ofNat 64 (0x100 + o))

/-- May a unit start at the address (R62, R294)? -/
def startOk (a : Nat) : Bool := (fetchPlace 0 a).isSome && a % 4 == 0

/-- Does a number name nothing in GLOBAL, which the peer region belongs to (R314)? -/
def offGlobal (a : Nat) : Bool := decide (2 ^ 56 ≤ a)

/-- The fields of a launch record and what is wrong of them, for a job of n cores (R294). -/
def launchFields (n : Nat) (bs : List Byte) : List (Nat × Bool) :=
  let f := fieldOf bs
  [ (0x00, f 8 8 == 0 && !startOk (f 0 8)),
    (0x08, offGlobal (f 8 8)),
    (0x18, f 0x18 4 == 0 || decide (2 ^ 20 < f 0x18 4)),
    (0x1C, f 0x1C 1 / 4 != 0),
    (0x1D, f 0x1D 1 / 4 != 0),
    (0x1E, decide (255 < f 0x1E 2)),
    (0x24, f 0x24 4 == 0 || decide (n < f 0x20 4 + f 0x24 4)),
    (0x28, f 0x28 2 != 0 && f 0x1D 1 / 2 % 2 == 0),
    (0x2A, decide (16 < f 0x2A 2)),
    (0x2C, f 0x2C 4 != 0),
    (0x38, f 0x38 8 != 0) ]

/-- The launch that a record describes, asked for by the current strand. -/
def State.launchOf (s : State) (bs : List Byte) (succ : List Nat) (ticket : Nat) : Launch :=
  let f := fieldOf bs
  let defer := f 0x1D 1 / 2 % 2 == 1
  { ticket := ticket, entry := BitVec.ofNat 64 (f 0 8)
    image := if f 8 8 = 0 then none else some (BitVec.ofNat 64 (f 8 8))
    arg := BitVec.ofNat 64 (f 0x10 8), nunits := f 0x18 4, prio := f 0x1C 1, notify := f 0x1D 1 % 2 == 1
    defer := defer, waiting := defer && f 0x28 2 != 0, graph := f 0x1E 2, csFirst := f 0x20 4, csCount := f 0x24 4
    preds := f 0x28 2, succ := succ, strand := s.cur, uid := (s.me.unit.map UnitRef.uid).getD 0
    placed := 0, ended := 0, doneOk := 0, lost := 0, faulted := false, cancelled := false, cancelAt := 0, inPhase := false
    loaded := [], turn := 0 }

/-- The 16-bit numbers in bytes. -/
def halves : List Byte → List Nat
  | a :: b :: r => natOfBytes [a, b] :: halves r
  | _ => []

/-- The tickets at SUCC (R294). -/
def succTickets (bs : List Byte) : M (List Nat) := do
  let n := fieldOf bs 0x2A 2
  let a := fieldOf bs 0x30 8
  if n = 0 then return []
  else
    require (inUnitData a (2 * n)) (trapField 0x30)
    return halves (← unitRead (BitVec.ofNat 64 a) (2 * n))

/-- A launch added to its job; it enters its queue unless it waits for predecessors (R299). -/
def Job.add (j : Job) (l : Launch) : Job :=
  let j := { j with launches := j.launches ++ [l], begun := j.begun ++ [l] }
  if l.waiting then j else j.enter l.ticket

/-- A ticket that no launch of the job holds (R299): which one is the device's own choice (log 4). -/
def freeTicket (held : List Nat) (n : Nat) : Nat := nextId held 65536 (Config.freeNat n % 65536)

/-- START (R294, R299): the ticket, or 0 where the job has 4,096 launches outstanding. -/
def startLaunch (va : Word) : M (List Word) := do
  let bs ← recordRead va 64
  let s ← getS
  let ls : List Launch := match s.jobOf s.here with
    | some j => j.launches
    | none => []
  let n := match s.jobOf s.here with
    | some j => j.cores.length
    | none => 0
  match badField (launchFields n bs) with
  | some o => trap (trapField o)
  | none =>
    let succ ← succTickets bs
    require (succ.all fun t => ls.any fun l => l.ticket == t && l.defer) (trapField 0x30)
    if 4096 ≤ ls.length then return [0]
    else
      let t := freeTicket (ls.map Launch.ticket) s.free
      modS fun s =>
        let l := s.launchOf bs succ t
        match (s.core s.here).job with
        | some jn => { (s.modJob jn fun j => j.add l) with free := s.free + 1 }
        | none => s
      return [BitVec.ofNat 64 t]

/-- LAUNCH (R299, R362). -/
def execLaunch (d a : BitVec 5) : State → Result :=
  issueRun (.launch d a) do
    let t ← getMe
    let ws ← recorded 0x87 (startLaunch (t.getX a))
    leaveCore
    modT fun t => t.setX d (ws.headD 0)

/-- The counter of a level (R295, R299). -/
def Job.counter (j : Job) (level : BitVec 2) (x : Nat) : Nat :=
  match level with
  | 0#2 => ((j.launches.find? fun l => l.ticket == x).map fun (l : Launch) => l.nunits - l.ended).getD 0
  | 1#2 => if x = 0 then 0 else (j.launches.filter fun l => l.graph == x).length
  | 2#2 => (j.launches.filter Launch.inPhase).length
  | _ => j.launches.length

/-- LAUNCH, QUERY (R299). -/
def execLaunchQuery (d a : BitVec 5) (l : BitVec 2) : State → Result :=
  issueRun (.launchQuery d a l) do
    let t ← getMe
    let ws ← recorded 0x87 do
      let s ← getS
      return [BitVec.ofNat 64 (match s.jobOf s.here with
        | some j => j.counter l (t.getX a).toNat
        | none => 0)]
    leaveCore
    modT fun t => t.setX d (ws.headD 0)

/-! Jobs. -/

/-- The fields of a job record beyond its launch record, and what is wrong of them (R342). -/
def jobFields (bs : List Byte) : List (Nat × Bool) :=
  let f := fieldOf bs
  let root := f 0x40 8
  [ (0x40, root / 2 ^ 41 != 0 || root % 4096 != 0),
    (0x48, f 0x48 2 == 0),
    (0x4A, f 0x4A 1 / 4 != 0),
    (0x4B, f 0x4B 1 == 0 || decide (3 < f 0x4B 1)),
    (0x4C, f 0x4F 1 != 0),
    (0x50, offGlobal (f 0x50 8)),
    (0x58, f 0x58 4 == 0 || decide (4096 < f 0x58 4)),
    (0x5C, f 0x5C 4 != 0),
    (0x68, !startOk (f 0x68 8)),
    (0x70, !zeroField bs 0x70 16) ]

/-- An 8-byte word that the current strand loads. -/
def loadWord (va : Word) : M Word := do
  let (l, view, _) ← resolve (.load 3#3) va 8
  let (v, _) ← access va l 8 (.load view false) false
  return v.setWidth 64

/-- Words that the current strand loads, from an address up. -/
def loadWords : Nat → Word → M (List Word)
  | 0, _ => return []
  | n + 1, va => do
    let w ← loadWord va
    let ws ← loadWords n (va + 8)
    return w :: ws

/-- An entry of the core table (R342). -/
structure CoreEntry where
  core : Nat
  save : Word
  spill : Word
  spillN : Nat
  mask : Word
  good : Bool
  deriving DecidableEq, Repr

/-- The entry of the core table in four words; `good` if each field is in range, the endpoint a core of this module. -/
def coreEntry (module : Nat) (w0 w1 w2 w3 : Word) : CoreEntry :=
  let e := getField w0 0 32
  let n := getField w3 0 32
  { core := e % 4096, save := w1, spill := w2, spillN := n, mask := BitVec.ofNat 64 (getField w3 32 16)
    good := e / 4096 == module && getField w0 32 32 == 0 && w1.toNat % 2 ^ 18 == 0 && !offGlobal w1.toNat &&
      w2.toNat % 64 == 0 && decide (1 ≤ n ∧ n ≤ 65536) && getField w3 48 16 == 0 }

/-- The entries of the core table. -/
def coreEntries (module : Nat) : List Word → List CoreEntry
  | a :: b :: c :: d :: r => coreEntry module a b c d :: coreEntries module r
  | _ => []

/-- A core as a job starts on it (R137, R183, R342): partition p of job jn. -/
def Core.startJob (c : Core) (bs : List Byte) (guards : List Word) (jn p cycle : Nat) (e : CoreEntry) : Core :=
  { c with
    job := some jn, part := p, asid := BitVec.ofNat 64 (fieldOf bs 0x48 2), ptroot := BitVec.ofNat 64 (fieldOf bs 0x40 8)
    spill := [], spillTail := 0
    guards := Vector.ofFn fun i => guards.getD i.val 0 &&& csrMask 0x320
    maccmask := e.mask, saveAt := e.save, spillAt := e.spill, spillN := e.spillN
    slots := Vector.replicate 4 ComplexSlot.reset, landing := Vector.replicate 16 Landing.reset
    rounds := [], roundCount := [], measureFrom := cycle, lastArrival := cycle, recording := true, record := [], accRecord := [], wrote := []
    returned := [], toReturn := [], atCommit := [], mailboxAt := [] }

/-- The event unit and the sprue of a cluster cleared at job start (R201, R289). -/
def Cluster.startJob (k : Cluster) : Cluster :=
  { k with barriers := Vector.replicate 32 Barrier.reset, mutexes := Vector.replicate 32 none, lines := Vector.replicate 32 0
           sprue := Vector.replicate 8 none }

/-- A job that its record describes, before its first launch (R342). -/
def State.jobFrom (s : State) (bs : List Byte) (cores : List Nat) : Job :=
  let fl := fieldOf bs 0x4A 1
  let ord := fl / 2 % 2 == 1
  { det := fl % 2 == 1, ord := ord, chg := false, nextOrd := ord, fnver := fieldOf bs 0x4B 1
    key := BitVec.ofNat 24 (fieldOf bs 0x4C 4), asid := BitVec.ofNat 64 (fieldOf bs 0x48 2)
    ptroot := BitVec.ofNat 64 (fieldOf bs 0x40 8), stvec := BitVec.ofNat 64 (fieldOf bs 0x68 8), cores := cores
    launches := [], entered := 0, started := false, pouring := false, curSched := 0, lastRow := [], chosen := none
    lastArrival := s.cycle, pourFrom := none, toSend := [], flying := [], launchesAt := [], begun := [], replays := 0
    struck := none, startCycle := s.cycle }

/-- The job started on the cores of its table (R342): its ticket, or 0 where a core serves another job. -/
def State.startJob (s : State) (bs : List Byte) (es : List CoreEntry) (guards : List Word) : Word × State :=
  if es.any fun e => (s.core e.core).job.isSome then (0, s)
  else
    let jn := (s.jobs.map Prod.fst).foldl max 0 + 1
    let t := freeTicket [] s.free
    let j := (s.jobFrom bs (es.map CoreEntry.core)).add (s.launchOf bs [] t)
    let s := es.zipIdx.foldl (fun (s : State) (e : CoreEntry × Nat) =>
      (s.modCore e.1.core fun c => c.startJob bs guards jn e.2 s.cycle e.1).modCluster (clusterOf e.1.core) Cluster.startJob) s
    (BitVec.ofNat 64 t, { s with jobs := s.jobs ++ [(jn, j)], free := s.free + 1 })

/-- LAUNCH, JOB form (R299, R342). -/
def execLaunchJob (d a : BitVec 5) : State → Result :=
  issueRun (.launchJob d a) do
    let t ← getMe
    let ws ← recorded 0x87 do
      let bs ← recordRead (t.getX a) 128
      match badField (launchFields (fieldOf bs 0x58 4) bs ++ jobFields bs) with
      | some o => trap (trapField o)
      | none =>
        require (fieldOf bs 0x2A 2 == 0) (trapField 0x30)
        let s ← getS
        let table ← loadWords (4 * fieldOf bs 0x58 4) (BitVec.ofNat 64 (fieldOf bs 0x50 8))
        let es := coreEntries (s.hub.module % 1024) table
        require (es.all CoreEntry.good) (trapField 0x50)
        let guards ← loadWords 8 (BitVec.ofNat 64 (fieldOf bs 0x60 8))
        let s ← getS
        let (x, s') := s.startJob bs es guards
        modS fun _ => s'
        return [x]
    leaveCore
    modT fun t => t.setX d (ws.headD 0)

/-! CANCEL. -/

/-- The tickets of the DEFER launches that succeed launches, directly or through others (R300). -/
def closeOver (ls : List Launch) : Nat → List Nat → List Nat
  | 0, ts => ts
  | n + 1, ts =>
    let more := (ls.filter fun l => l.ticket ∈ ts).flatMap Launch.succ
    let new := (more.filter fun t => t ∉ ts && ls.any fun l => l.ticket == t).eraseDups
    if new.isEmpty then ts else closeOver ls n (ts ++ new)

/-- The tickets of the launches that a level covers, with their successors (R300). -/
def Job.covered (j : Job) (level : BitVec 2) (x : Nat) : List Nat :=
  let direct := j.launches.filter fun l =>
    match level with
    | 0#2 => l.ticket == x
    | 1#2 => x != 0 && l.graph == x
    | 2#2 => l.inPhase
    | _ => true
  closeOver j.launches 4096 (direct.map Launch.ticket)

/-- A launch as a CANCEL covers it: its units not yet placed are lost (R300). -/
def Launch.cancel (cycle : Nat) (l : Launch) : Launch :=
  { l with cancelled := true, cancelAt := if l.cancelled then l.cancelAt else cycle, lost := l.lost + (l.nunits - l.placed), nunits := l.placed, waiting := false }

/-- The strands that run a unit of the launches of a job with these tickets. -/
def State.runners (s : State) (jn : Nat) (j : Job) (ts : List Nat) : List Nat :=
  j.cores.flatMap fun c => (List.range 6).filterMap fun k =>
    match (s.strand (8 * c + k)).unit with
    | some u => if u.job = jn ∧ u.launch ∈ ts then some (8 * c + k) else none
    | none => none

/-- A strand whose unit a CANCEL stops: in a saved context it ends at once; else its wait is withdrawn as the cycle ends,
and it stops at its next boundary (R281, R300, R339). -/
def State.stopStrand (s : State) (h : Nat) : State :=
  if (s.core (coreOf h)).pstate == .saved then s.endUnit h .cancelled else s

/-- Matrix commands of the launches' units that have not started complete with CANCELLED (R202, R300). -/
def State.cancelCmds (s : State) (c : Nat) (ts : List Nat) : State :=
  ((s.core c).cmds.filter fun k => k.done.isNone && !k.started && k.launch ∈ ts).foldl
    (fun s k => s.finishCmd c k statCANCELLED 0 0 0#5) s

/-- CANCEL of the launches with these tickets: units discarded, and the units that it stopped (R300). -/
def State.cancelLaunches (s : State) (jn : Nat) (j : Job) (ts : List Nat) : Nat × List Nat × State :=
  let count := ((j.launches.filter fun l => l.ticket ∈ ts).map fun (l : Launch) => l.nunits - l.placed).sum
  let hs := s.runners jn j ts
  let uids := hs.filterMap fun h => (s.strand h).unit.map UnitRef.uid
  let s := s.modJob jn fun q =>
    { q with launches := q.launches.map fun l => if l.ticket ∈ ts then l.cancel s.cycle else l }
  let s := j.cores.foldl (fun s c => s.cancelCmds c ts) s
  let s := hs.foldl (fun s h => if h = s.cur then s else s.stopStrand h) s
  (count, uids, s.completeLaunches jn)

/-- Does some strand of a job run one of the units? -/
def State.anyLives (s : State) (uids : List Nat) : Bool :=
  s.strands.any fun e => match e.2.unit with
    | some u => u.uid ∈ uids
    | none => false

/-- CANCEL (R300, R362): the units discarded, and it waits for the units of other strands that it stopped; a unit of its own
that it covers ends when it returns. -/
def execCancel (d a : BitVec 5) (l : BitVec 2) : State → Result :=
  issueRun (.cancel d a l) do
    let t ← getMe
    let ws ← recorded 0x88 do
      let r ← act fun s =>
        match (s.core s.here).job, s.jobOf s.here with
        | some jn, some j =>
          let (n, uids, s) := s.cancelLaunches jn j (j.covered l (t.getX a).toNat)
          let own := (s.me.unit.map UnitRef.uid).getD 0
          let others := uids.filter (· != own)
          if others.isEmpty then .ok (.val (natVal n) []) s else .park (.cancel others n) s
        | _, _ => .ok Ans.unit s
      return [r.value.setWidth 64]
    let s ← getS
    if s.covered s.cur then
      modS fun s => s.endUnit s.cur .cancelled
      throw .gone
    leaveOnce
    modT fun t => t.setX d (ws.headD 0)

/-- UNIT_DISPATCH (R298). -/
def execUnitDispatch (job : Nat) : State → Result := fun s => .next (s.dispatch job)

/-- JOB_END (R405): the job is over, once all that it names is done. -/
def execJobEnd (job : Nat) : State → Result := fun s =>
  match s.job? job with
  | some j => if s.jobDone j then .next (s.endJob job j) else .next s
  | none => .next s

/-- CANCEL_RETURN (R300): the current strand's CANCEL returns, once every unit that it stopped has ended. -/
def execCancelReturn : State → Result := fun s =>
  match s.me.status with
  | .parked (.cancel us n) => if s.anyLives us then .next s else .next (s.answer s.cur (.val (natVal n) []))
  | _ => .next s

end Sys2Proof.Machine
end

