-- ==== Sys2Proof/Machine/Order.lean ====
section
/-! DEFINITION. Which of the accesses that reach a home goes first: the order S of SC accesses, entries forwarded with a moved
tile, seam messages of one sender, passes of retries (R184, R223, R228, R231, R233 to R235). -/

namespace Sys2Proof.Machine

/-- Do two accesses touch a word in common? -/
def sameWords (a b : Access) : Bool :=
  a.loc.home == b.loc.home && decide (a.loc.off / 8 ≤ (b.loc.off + max b.len 1 - 1) / 8) &&
    decide (b.loc.off / 8 ≤ (a.loc.off + max a.len 1 - 1) / 8)

/-- The order S of SC accesses: window, endpoint ID, order of announcement (R233). -/
def State.scKey (s : State) (c : Nat) (w : Nat × Nat) (seq : Nat) : List Nat := [w.1, s.endpoint c, c, w.2, seq]

/-- Is one list of numbers before another, first number first? -/
def before : List Nat → List Nat → Bool
  | a :: as, b :: bs => decide (a < b) || (a == b && before as bs)
  | _, _ => false

/-- The SC accesses announced and not performed: core and entry. -/
def State.announced (s : State) : List (Nat × PathEntry) :=
  (s.cores.flatMap fun k => k.2.path.map fun e => (k.1, e)) ++ s.retry

/-- May an SC access be performed: from the third window after its announcement on, and in S order (R233, R234)? -/
def State.scOpen (s : State) (c : Nat) (e : PathEntry) : Bool :=
  match e.acc.sc with
  | none => true
  | some w =>
    decide (w.1 + 3 ≤ s.cycle / 128) &&
      s.announced.all fun o =>
        match o.2.acc.sc with
        | some v => o.2.acc.loc.home != e.acc.loc.home || !before (s.scKey o.1 v o.2.seq) (s.scKey c w e.seq)
        | none => true

/-- The access announced again in the window of this cycle, behind what the core announced before (R233, R236). -/
def State.announceAgain (s : State) (c : Nat) (a : Access) : Access := { a with sc := a.sc.map fun _ => s.announceNow c }

/-- Do two writes of seam messages come from one sender? -/
def sameSender : AccKind → AccKind → Bool
  | .seam m, .seam n => m.sender == n.sender
  | _, _ => false

/-- Is the write of a seam message held back: by an earlier message of the same sender to the same receiver that is not
written yet (R184, R223), or while the receiver's context stands in its save area (R336)? -/
def State.seamHeld (s : State) (c : Nat) (a : Access) (bound : Nat) : Bool :=
  ((s.outstanding c).any fun o => decide (o.seq < bound) && sameSender o.acc.kind a.kind) ||
    (sameSender a.kind a.kind && (s.core c).pstate == .saved)

/-- Is an access to one of the words that was forwarded with a moved tile ready to be performed: the new home places it
ahead of what reached it later (R235)? -/
def State.forwardedFirst (s : State) (a : Access) : Bool :=
  s.retry.any fun o => o.2.forwarded && !o.2.acc.armed && sameWords o.2.acc a && s.scOpen o.1 o.2 &&
    !s.seamHeld o.1 o.2.acc o.2.seq &&
    (match s.perform o.1 o.2.acc with
      | .waits => false
      | _ => true)

/-- An access that is performed begins a new pass of retries at its words (R231). -/
def State.newPass (s : State) (a : Access) : State :=
  { s with retry := s.retry.map fun o => if sameWords o.2.acc a then (o.1, { o.2 with passed := false }) else o }

end Sys2Proof.Machine
end

