-- ==== Sys2Proof/Machine/Replay.lean ====
section
/-! DEFINITION. Superstep replay (R362 to R365): a replay restores the state of the commit. -/

namespace Sys2Proof.Machine

/-- The replay area of a core in its die's scratch (R362): its place and its bytes. DEDUCED. The areas lie in the order of the
cores' numbers (log 12). -/
def replayArea (c : Nat) : Loc := { home := .die (c / 512), off := 0x800000 + 0x1C000 * (c % 512) }

/-- Does a core's replay area hold an uncorrectable error (R365)? -/
def State.areaBad (s : State) (c : Nat) : Bool :=
  let k := (replayArea c).key / 8
  s.tags.any fun e => e.2.poison && decide (k ≤ e.1 ∧ e.1 < k + 0x3800)

/-- A core's replay area without errors. -/
def State.clearReplayArea (s : State) (c : Nat) : State :=
  let k := (replayArea c).key / 8
  { s with tags := s.tags.filter fun e => !(e.2.poison && decide (k ≤ e.1 ∧ e.1 < k + 0x3800)) }

/-- May the job's compute phase be replayed (R365)? The phase before the first commit has no state to go back to. -/
def State.canReplay (s : State) (j : Job) : Bool :=
  j.det && !j.pouring && decide (j.replays < 2) &&
    j.cores.all fun c => (s.core c).recording && !(s.core c).atCommit.isEmpty && !s.areaBad c

/-- A recorded line put back: bytes and tags (R364). -/
def State.restoreLine (s : State) (r : LineRec) : State :=
  ((wordsOf r.loc 64).zip r.tags).foldl (fun s e => s.setTag e.1 e.2) (s.putRaw r.loc r.data)

/-- An element put into a list that falls by a number. -/
def insertDown {α : Type} (key : α → Nat) (x : α) : List α → List α
  | [] => [x]
  | y :: ys => if key y ≤ key x then x :: y :: ys else y :: insertDown key x ys

/-- A list ordered so that a number falls. -/
def sortDown {α : Type} (key : α → Nat) (xs : List α) : List α := xs.foldr (insertDown key) []

/-- The lines that the cores of a job have recorded put back, the latest first (R364). -/
def State.restoreLines (s : State) (cs : List Nat) : State :=
  (sortDown LineRec.order (cs.flatMap fun c => (s.core c).record)).foldl State.restoreLine s

/-- The accumulators that they have recorded put back, the latest first (R364). -/
def State.restoreAccs (s : State) (cs : List Nat) : State :=
  (sortDown (fun e => e.2.2.1) (cs.flatMap fun c => (s.core c).accRecord.map fun e => (clusterOf c, e))).foldl (fun s e =>
    s.modCluster e.1 fun q => { q with acc := q.acc.setIfInBounds e.2.1 e.2.2.2 }) s

/-- The retry-list entry of a strand's armed watch (R287), put back. -/
def State.rearm (s : State) (h : Nat) : State :=
  match (s.strand h).watch with
  | .armed va w =>
    let a : Access :=
      { strand := h, answers := false, op := none, va := va, loc := w, len := 8, kind := .watch, sc := none, hops := [] }
    { s with retry := s.retry ++ [(coreOf h, { path := .core, seq := 0, acc := a })] }
  | _ => s

/-- One core taken back to the commit (R364): its accesses, engine operations and commands are gone, its strands and mailbox
as recorded; the values that it had recorded are returned again, before those that a replay under way still holds. -/
def State.replayCore (s : State) (c : Nat) : State :=
  let s := { s with retry := s.retry.filter fun e => e.1 != c }
  let k := s.core c
  let s := k.atCommit.foldl (fun s e => (s.setStrand (8 * c + e.1) e.2).rearm (8 * c + e.1)) s
  s.modCore c fun t =>
    { t with posted := [], path := [], fences := [], answers := [], slipped := [], ops := [], events := [], cmds := [], held := []
             staged := [], outbox := [], record := [], accRecord := [], wrote := [], toReturn := t.returned ++ t.toReturn
             returned := [], mailbox := t.mailboxAt, measureFrom := s.cycle }

/-- SUPERSTEP_REPLAY (R363 to R365): the phase runs again, or the replay is refused. -/
def State.replay (s : State) (jn : Nat) (why : Option Struck) : State :=
  match s.job? jn with
  | none => s
  | some j =>
    let first := j.cores.headD 0
    if s.canReplay j then
      let s := j.cores.foldl State.replayCore ((s.restoreLines j.cores).restoreAccs j.cores)
      let s := s.modJob jn fun q =>
        { q with replays := q.replays + 1, struck := why, launches := q.launchesAt ++ q.begun, chosen := none
                 pourFrom := none }
      s.logReplay first 5
    else s.logReplay first 6

/-- An uncorrectable error in what a job wrote in its compute phase: the phase is replayed, or the error reported (R363,
R365). -/
def State.strikeJob (s : State) (jn : Option Nat) (x : Struck) : State :=
  match jn.bind fun n => (s.job? n).map fun j => (n, j) with
  | some (n, j) => if s.canReplay j then (s.strike x).replay n (some x) else (s.replay n none).reportStruck x
  | none => s.reportStruck x

end Sys2Proof.Machine
end

