-- ==== Sys2Proof/Machine/Superstep.lean ====
section
/-! DEFINITION. Superstep mode: SSYNC, the choice of a schedule, the pour and the commit (R301 to R304), and the landing
of seam messages (R184). -/

namespace Sys2Proof.Machine

/-! Seam messages at their target. -/

/-- Does a message agree with a landing register (R184)? -/
def Landing.agrees (l : Landing) (m : SeamMsg) : Bool :=
  l.reg.deg == m.deg && l.reg.dual == m.dual && l.reg.fmt == m.fmt && l.reg.exp == m.exp && decide (m.ghost < l.reg.gcount.toNat)

/-- The landing register that a message names. -/
def State.landing (s : State) (c : Nat) (m : SeamMsg) : Landing := (s.core c).landing.toList.getD (m.land % 16) Landing.reset

/-- The address of the ghost word of a message (R184). -/
def Landing.ghostAddr (l : Landing) (m : SeamMsg) : Word := BitVec.ofNat 64 (l.reg.gbase.toNat + 8 * m.ghost)

/-- Where a seam message is written: its address and place, by the comparisons and checks at the core that receives it, as
a U-mode write (R184); none where it disagrees or a check fails. -/
def State.seamPlace (s : State) (c : Nat) (m : SeamMsg) : Option (Word × Loc) × State :=
  let l := s.landing c m
  let va := l.ghostAddr m
  if !l.valid || !l.agrees m || twoWindows va.toNat 8 then (none, s)
  else
    match (windowOf va.toNat).1 with
    | .global =>
      (match s.translate c .u va .write with
        | (.ok l _, s) => (some (va, l), s)
        | (_, s) => (none, s))
    | _ =>
      match s.windowPlace c .u .syncStore va.toNat 8 with
      | .ok l _ _ => (if guardsPass (s.core c) .u va.toNat 8 .write then some (va, l) else none, s)
      | _ => (none, s)

/-- The write-when-empty of a seam message, placed under its receiver's ASID. -/
def State.seamAccess (s : State) (c : Nat) (m : SeamMsg) (va : Word) (l : Loc) : Access :=
  { strand := 8 * c, answers := false, op := none, va := va, loc := l, len := 8, kind := .seam m, sc := none, hops := []
    asid := (s.core c).asid.toNat % 65536 }

/-- A seam message refused (R184): LAND[L].ERR, and an entry in the violation log with cause 5. The requester is the
core that receives it (DEDUCED, log 18). -/
def State.refuseSeam (s : State) (c : Nat) (m : SeamMsg) : State :=
  let va := (s.landing c m).ghostAddr m
  let s := s.modCore c fun q =>
    { q with landing := q.landing.mapFinIdx fun i l _ => if i = m.land % 16 then { l with err := true } else l }
  s.logViolation (dieOf c) va (s.endpoint c) false 7 0 5

/-! SSYNC. -/

/-- The fields of a schedule-set record and what is wrong of them (R302). -/
def syncFields (bs : List Byte) : List (Nat × Bool) :=
  let f := fieldOf bs
  [ (0x00, f 0 1 == 0 || decide (4 < f 0 1)),
    (0x01, f 1 7 != 0),
    (0x08, offGlobal (f 8 8)),
    (0x30, f 0x30 16 != 0) ]

/-- The entry number i of a plan. -/
def planEntry (plan : List Byte) (i : Nat) : List Byte := (plan.drop (16 + 32 * i)).take 32

/-- The fields of a plan entry and what is wrong of them (R304), for a job of n cores. -/
def entryFields (n : Nat) (e : List Byte) : List (Nat × Bool) :=
  let f := fieldOf e
  let src := f 0 8
  let off := f 0xC 4 % 2 ^ 31
  let len := f 0x10 4
  let limit := if 2 ^ 31 ≤ f 0xC 4 then 0x400000 else 0x20000
  let srcOk := src % 8 == 0 &&
    (inUnitData src len || decide (clusterBase ≤ src ∧ src + len ≤ clusterBase + 0x400000))
  [ (0x00, !srcOk),
    (0x08, decide (n ≤ f 8 4)),
    (0x0C, off % 8 != 0 || decide (limit < off + len)),
    (0x10, len % 8 != 0 || decide (len < 8) || decide (4096 < len)),
    (0x18, f 0x18 8 != 0) ]

/-- The offset of the first field of a plan that is wrong (R304). -/
def planFault (n : Nat) (plan : List Byte) : Option Nat :=
  if 4096 < fieldOf plan 0 4 then some 0
  else if fieldOf plan 4 12 != 0 then some 4
  else (List.range (fieldOf plan 0 4)).findSome? fun i =>
    (badField (entryFields n (planEntry plan i))).map fun o => 16 + 32 * i + o

/-- A plan read as loads, with its entries where its header allows them (R304). -/
def readPlan (va : Word) : M (List Byte) := do
  require (va.toNat % 16 == 0) (trapALIGN va)
  let h ← unitRead va 16
  let n := fieldOf h 0 4
  if 4096 < n then return h else unitRead va (16 + 32 * n)

/-- The plans of a record, from schedule k on. -/
def readPlans (bs : List Byte) : Nat → Nat → M (List (List Byte))
  | 0, _ => return []
  | n + 1, k => do
    let p ← readPlan (BitVec.ofNat 64 (fieldOf bs (0x10 + 8 * k) 8))
    let ps ← readPlans bs n (k + 1)
    return p :: ps

/-- The check of the plans before the strand arrives (R304). -/
def checkPlans (n : Nat) (plans : List (List Byte)) : M Unit :=
  match plans.zipIdx.findSome? fun p => (planFault n p.1).map fun o => 0x10000 * (p.2 + 1) + o with
  | some v => trap (trapCTYPE (BitVec.ofNat 64 v))
  | none => return ()

/-- Every path of the core drained (R227, R302). -/
def drainPaths : M Unit := do
  let _ ← act fun s =>
    let s := s.movePosted s.here fun _ => true
    if (s.outstanding s.here).isEmpty then .ok Ans.unit s else .park (.drainAll (s.core s.here).seq) s

/-- The strand arrives, once (R302): its core's and its job's last arrival are now. -/
def State.arrive (s : State) (rec : Word) : State :=
  if s.me.arrived.isSome then s
  else
    let s := s.modMe fun t => { t with arrived := some rec }
    let s := s.modCore s.here fun c => { c with lastArrival := s.cycle }
    match (s.core s.here).job with
    | some j => s.modJob j fun q => { q with lastArrival := s.cycle }
    | none => s

/-- SSYNC (R302, R304). -/
def execSsync (d a : BitVec 5) : State → Result :=
  issueRun (.ssync d a) do
    let t ← getMe
    match t.synced with
    | some k =>
      modT fun t => { (t.setX d (BitVec.ofNat 64 k)) with synced := none }
    | none =>
      let va := t.getX a
      if t.arrived.isNone then
        let bs ← recordRead va 64
        match badField (syncFields bs) with
        | some o => trap (trapField o)
        | none =>
          drainPaths
          let plans ← readPlans bs (fieldOf bs 0 1) 0
          let s ← getS
          checkPlans (((s.jobOf s.here).map fun j => j.cores.length).getD 0) plans
          modS fun s => s.arrive va
      else
        drainPaths
      let _ ← act (waitAct 6 0 none fun _ => none)
      return ()

/-! The schedule. -/

/-- The strands of a job's cores that run its units: partition, core, strand. -/
def State.jobStrands (s : State) (jn : Nat) (j : Job) : List (Nat × Nat × Strand) :=
  j.cores.zipIdx.flatMap fun e => (List.range 6).filterMap fun k =>
    let t := s.strand (8 * e.1 + k)
    if t.unit.any fun u => u.job == jn then some (e.2, e.1, t) else none

/-- Are the arrivals of a superstep complete: every strand that runs a unit of the job has arrived, and the dispatcher has no
unit left that it can place (R298, R302)? -/
def State.allArrived (s : State) (jn : Nat) (j : Job) : Bool :=
  let ts := s.jobStrands jn j
  !ts.isEmpty && ts.all (fun t => t.2.2.arrived.isSome) && (s.dispatchChoice j).isNone

/-- The record of the lowest-numbered arrived strand of a core (R303). -/
def State.recordOf (s : State) (c : Nat) : Option (List Byte) :=
  ((List.range 6).findSome? fun k => (s.strand (8 * c + k)).arrived).map fun a =>
    s.bytesAt { home := .unit c, off := a.toNat - unitBase } 64

/-- m[c] (R303). -/
def State.measure (s : State) (c : Nat) : Nat := if (s.recordOf c).isNone then 0 else (s.core c).lastArrival - (s.core c).measureFrom

/-- A weight of a table of 16-bit numbers, schedule-major. -/
def weightAt (tab : List Nat) (n s c : Nat) : Nat := tab.getD (s * n + c) 0

/-- The time predicted for one core (R303); none is infinite. -/
def predicted (m w cur : Nat) : Option Rat :=
  if w = 0 ∨ m = 0 then some 0
  else if cur = 0 then none
  else some (((m * w : Nat) : Rat) / ((cur : Nat) : Rat))

/-- The greater of two times. -/
def later : Option Rat → Option Rat → Option Rat
  | some x, some y => some (if x < y then y else x)
  | _, _ => none

/-- Is a time less than another? -/
def earlier : Option Rat → Option Rat → Bool
  | some x, some y => decide (x < y)
  | some _, none => true
  | none, _ => false

/-- The first schedule of least time (R303), from number k on. -/
def leastTime : List (Option Rat) → Nat → Nat × Option Rat
  | [], k => (k, none)
  | [t], k => (k, t)
  | t :: ts, k =>
    let r := leastTime ts (k + 1)
    if earlier r.2 t then r else (k, t)

/-- The weights of the choosing record (R303). Words that cannot be read are free values (log 4). -/
def State.weightTable (s : State) (j : Job) (rec : List Byte) (n : Nat) : List Nat :=
  match if fieldOf rec 8 8 < 2 ^ 55 then s.globalBytes j.ptroot (fieldOf rec 8 8) (2 * n) else none with
  | some bs => halves bs
  | none => (List.range n).map fun i => Config.freeNat (s.free + i) % 65536

/-- SCHEDULE_CHOICE (R303). -/
def execScheduleChoice (job : Nat) : State → Result := fun s =>
  match s.job? job with
  | none => .next s
  | some j =>
    if !j.det || j.pouring || j.chosen.isSome || !s.allArrived job j then .next s
    else
      match j.cores.findSome? s.recordOf with
      | none => .next s
      | some rec =>
        let np := j.cores.length
        let ns := fieldOf rec 0 1
        let tab := s.weightTable j rec (ns * np)
        let cur (c : Nat) : Nat := if j.curSched < ns then weightAt tab np j.curSched c else j.lastRow.getD c 0
        let time (k : Nat) : Option Rat :=
          (j.cores.zipIdx.map fun e => predicted (s.measure e.1) (weightAt tab np k e.2) (cur e.2)).foldl later (some 0)
        let pick := (leastTime ((List.range ns).map time) 0).1
        let row := (List.range np).map (weightAt tab np pick)
        .next ({ s with free := s.free + ns * np }.modJob job fun q =>
          { q with chosen := some (pick, row), pourFrom := some ((q.lastArrival / 128 + 3) * 128) })

/-! The pour. -/

/-- DESIGN CHOICE. The offset at which n bytes of a scratch of `size` bytes are taken: the one given, brought inside where a
record or plan that was changed after its check gives one outside (R7, R304; log 63). -/
def confined (size n o : Nat) : Nat := o % (size + 1 - n)

/-- The place of n bytes at an offset of a core's unit data scratch. -/
def unitPlace (c n o : Nat) : Loc := { home := .unit c, off := confined 0x20000 n o }

/-- The place of n bytes at an offset of a core's cluster scratch. -/
def clusterPlace (c n o : Nat) : Loc := { home := .cluster (clusterOf c), off := confined 0x400000 n o }

/-- The entries of the plan that a core pours under (R303, R304). -/
def State.planOf (s : State) (c pick : Nat) : List (List Byte) :=
  match s.recordOf c with
  | none => []
  | some rec =>
    let o := fieldOf rec (0x10 + 8 * pick) 8 - unitBase
    (List.range (min (s.natAt (unitPlace c 16 o) 4) 4096)).map fun i => s.bytesAt (unitPlace c 32 (o + 16 + 32 * i)) 32

/-- POUR_BEGIN (R304): the plans' entries and the outboxes are to be sent. -/
def execPourBegin (job : Nat) : State → Result := fun s =>
  match s.job? job with
  | none => .next s
  | some j =>
    match j.chosen, j.pourFrom with
    | some (pick, _), some at_ =>
      if j.pouring || s.cycle < at_ then .next s
      else
        let send := j.cores.flatMap fun c => (s.planOf c pick).map fun e => (c, e)
        let seams := j.cores.flatMap fun c => (s.core c).outbox.map fun m =>
          (m.1, ({ loc := none, data := [], poison := [], seam := some m.2 } : Staged))
        let s := j.cores.foldl (fun s c => s.modCore c fun q => { q with outbox := [] }) s
        .next (s.modJob job fun q => { q with pouring := true, toSend := send, flying := q.flying ++ seams })
    | _, _ => .next s

/-- The place of n bytes at an address in the own unit data scratch or cluster scratch. -/
def ownPlace (c n a : Nat) : Loc :=
  let (w, o) := windowOf a
  match w with
  | .cluster => clusterPlace c n o
  | _ => unitPlace c n o

/-- The delivery of a plan entry of core c: its target core, and the words with their poison (R304). -/
def State.delivery (s : State) (j : Job) (c : Nat) (e : List Byte) : Option (Nat × Staged) :=
  let f := fieldOf e
  let len := min (f 0x10 4) 4096
  match j.cores[f 8 4]? with
  | none => none
  | some t =>
    let src := ownPlace c len (f 0 8)
    let off := f 0xC 4 % 2 ^ 31
    let dst := if 2 ^ 31 ≤ f 0xC 4 then clusterPlace t len off else unitPlace t len off
    some (t, { loc := some dst, data := s.bytesAt src len, poison := (wordsOf src len).map fun w => (s.tagAt w).poison
               seam := none })

/-- May an entry of core c be sent now (R304): an entry for the own die from its slot on? -/
def Job.slotOpen (j : Job) (c now : Nat) (e : List Byte) : Bool :=
  match j.cores[fieldOf e 8 4]?, j.pourFrom with
  | some t, some at_ => dieOf t != dieOf c || decide (at_ + fieldOf e 0x14 4 ≤ now)
  | _, _ => true

/-- POUR_ENTRY_SEND (R304): entry k of those still to be sent. One whose target the plan does not name is dropped. -/
def execPourEntrySend (job k : Nat) : State → Result := fun s =>
  match s.job? job with
  | none => .next s
  | some j =>
    match j.toSend[k]? with
    | none => .next s
    | some (c, e) =>
      if j.pouring && j.slotOpen c s.cycle e then
        .next (s.modJob job fun q =>
          { q with toSend := q.toSend.eraseIdx k, flying := q.flying ++ (s.delivery j c e).toList })
      else .next s

/-- Do two deliveries carry messages of one sender? -/
def Staged.sameSender (d e : Staged) : Bool :=
  match d.seam, e.seam with
  | some m, some n => m.sender == n.sender
  | _, _ => false

/-- POUR_DELIVERY_STAGE (R184, R304): a delivery on its way is staged at its target, the messages of one sender in their
order. -/
def execPourDeliveryStage (job k : Nat) : State → Result := fun s =>
  match s.job? job with
  | none => .next s
  | some j =>
    match j.flying[k]? with
    | none => .next s
    | some (t, d) =>
      if (j.flying.take k).any fun o => o.1 == t && o.2.sameSender d then .next s
      else .next ((s.modCore t fun q => { q with staged := q.staged ++ [d] }).modJob job fun q => { q with flying := q.flying.eraseIdx k })

/-! The commit. -/

/-- A staged delivery written into its target (R304); poisoned words stay poisoned. -/
def State.commitWords (s : State) (c : Nat) (d : Staged) (l : Loc) : State :=
  let s := s.write c l d.data
  ((wordsOf l d.data.length).zip d.poison).foldl
    (fun s e => if e.2 then s.setTag e.1 { s.tagAt e.1 with poison := true } else s) s

/-- A seam message written at the commit (R184, R304). Where its word is still full, or an earlier message of its sender
is not written yet, or an access forwarded to the word comes first, it waits at the word's home and overwrites nothing (R150,
R155, R157, R235). -/
def State.commitSeam (s : State) (c : Nat) (m : SeamMsg) : State :=
  match s.seamPlace c m with
  | (none, s) => s.refuseSeam c m
  | (some (va, l), s) =>
    let a := s.seamAccess c m va l
    let wait (s : State) : State := if s.retryRoom l.home then s.enterRetry c .core a else s.enterPath c .core a
    if s.seamHeld c a (s.core c).seq || s.forwardedFirst a then wait s
    else
      match s.perform c a with
      | .done s _ => s.newPass a
      | .waits => wait s
      | _ => s.enterPath c .core a

/-- A staged delivery committed. -/
def State.commitOne (s : State) (c : Nat) (d : Staged) : State :=
  match d.loc, d.seam with
  | some l, _ => s.commitWords c d l
  | none, some m => s.commitSeam c m
  | none, none => s

/-- The staged deliveries of a core committed in order. -/
def State.commitAll (s : State) (c : Nat) : State := (s.core c).staged.foldl (fun s d => s.commitOne c d) s

/-- SSYNC returned to an arrived strand (R302); it goes on if it waits for the commit. -/
def State.syncStrand (s : State) (h pick : Nat) : State :=
  let t := s.strand h
  if t.arrived.isNone then s
  else
    let s := s.modStrand h fun t => { t with arrived := none, synced := some pick }
    if (t.waiting?).any fun w => w.kind == 6 then (s.modStrand h fun t => { t with log := [] }).wake h else s

/-- A core's record starts anew at the commit (R362). DEDUCED. An error that its replay area held is gone with what the area
held (log 12). -/
def State.openRecord (s : State) (c : Nat) : State :=
  let s := s.clearReplayArea c
  let strands := (List.range 6).map fun k => (k, s.strand (8 * c + k))
  s.modCore c fun q =>
    { q with staged := [], record := [], accRecord := [], wrote := [], recording := true, returned := [], toReturn := []
             atCommit := strands, mailboxAt := q.mailbox, measureFrom := s.cycle }

/-- SSYNC_COMMIT (R302, R304): every delivery is staged; the staged words and ghosts are written, SSYNC returns on every
arrived strand, and the next compute phase opens. -/
def execSsyncCommit (job : Nat) : State → Result := fun s =>
  match s.job? job with
  | none => .next s
  | some j =>
    match j.chosen with
    | none => .next s
    | some (pick, row) =>
      if !j.pouring || !j.toSend.isEmpty || !j.flying.isEmpty then .next s
      else
        let s := j.cores.foldl State.commitAll s
        let hs := j.cores.flatMap fun c => (List.range 6).map fun k => 8 * c + k
        let s := hs.foldl (fun s h => s.syncStrand h pick) s
        let s := j.cores.foldl State.openRecord s
        let s := (s.closePhase job).modJob job fun q =>
          { q with pouring := false, chosen := none, pourFrom := none, curSched := pick, lastRow := row
                   replays := 0, struck := none, launchesAt := q.launches, begun := [] }
        .next (j.cores.foldl State.recheckCore s)

/-- SUPERSTEP_REPLAY (R363 to R365). -/
def execSuperstepReplay (job : Nat) : State → Result := fun s => .next (s.replay job none)

end Sys2Proof.Machine
end

