-- ==== Sys2Proof/Machine/Transfer.lean ====
section
/-! DEFINITION. The instructions that start copies, gathers and relocations, TMOV and MSWEEP (R255 to R272). -/

namespace Sys2Proof.Machine

/-- CPSET (R257). -/
def execCpset (a b : BitVec 5) (g : BitVec 4) : State → Result :=
  issue (.cpset a b g) (complete fun t =>
    let sh := t.shadow.setIfInBounds g.toNat (t.getX a)
    { t with shadow := if b = 0#5 then sh else sh.setIfInBounds (g.toNat + 1) (t.getX b) })

/-- A register of the shadow set. -/
def geomReg (g : Vector Word 13) (k : Nat) : Word := g.toList.getD k 0
/-- CTL's CONV bit (R256). -/
def ctlConv (c : Word) : Bool := c.getLsbD 15
/-- CTL's STYPE (R256). -/
def ctlSrc (c : Word) : BitVec 3 := c.extractLsb' 12 3
/-- CTL's DTYPE (R256). -/
def ctlDst (c : Word) : BitVec 3 := c.extractLsb' 9 3

/-- Does CTL fail the CTL check (R260)? -/
def ctlBad (g : Vector Word 13) (frm : Word) : Bool :=
  let r := geomReg g
  let c := r 12
  let rm := c.extractLsb' 6 3
  let off (k : Nat) (xs : List Nat) : Bool := xs.any fun i => (r i).toNat % k != 0
  c.extractLsb' 16 48 != 0 || c.extractLsb' 0 4 != 0 ||
  (ctlConv c && (!isFloatType (ctlSrc c) || !isFloatType (ctlDst c) || ctlSrc c == ctlDst c)) ||
  (effectiveRm rm frm).isNone ||
  (c.getLsbD 4 && (ctlConv c || off 8 [0, 1, 2, 6, 7, 8, 9, 10, 11])) ||
  (ctlConv c && (off (laneWidth (ctlSrc c) / 8) [0, 2, 6, 7, 8] || off (laneWidth (ctlDst c) / 8) [1, 9, 10, 11]))

/-- Destination bytes per row (R261). -/
def destRow (g : Vector Word 13) : Nat :=
  let c := geomReg g 12
  let n := (geomReg g 2).toNat
  if ctlConv c then n * laneWidth (ctlDst c) / laneWidth (ctlSrc c) else n

/-- Is the transfer empty (R261)? -/
def geomEmpty (g : Vector Word 13) : Bool := [2, 3, 4, 5].any fun k => geomReg g k == 0

/-- Does the geometry fail its check (R261)? -/
def geomBad (g : Vector Word 13) : Bool :=
  let r := geomReg g
  let ext (k : Nat) : Int := (r (3 + k)).toNat - 1
  let side (base first : Nat) (n : Nat) : Bool :=
    let out64 (v : Int) : Bool := decide (v < -(2 ^ 63) ∨ 2 ^ 63 ≤ v)
    let out57 (v : Int) : Bool := decide (v < 0 ∨ 2 ^ 57 ≤ v)
    let prod (k : Nat) : Int := ext k * (r (first + k)).toInt
    ((List.range 3).any fun k => out64 (prod k)) ||
      (List.range 8).any fun corner =>
        let term (k : Nat) : Int := if corner / 2 ^ k % 2 = 1 then prod k else 0
        let s1 := ((r base).toNat : Int) + term 0
        let s2 := s1 + term 1
        let s3 := s2 + term 2
        out64 (r base).toNat || out64 s1 || out64 s2 || out64 s3 || out64 (s3 + n - 1) || out57 s3 || out57 (s3 + n - 1)
  !geomEmpty g && (side 0 6 (r 2).toNat || side 1 9 (destRow g))

/-- CPGO (R260). -/
def execCpgo (d : BitVec 5) : State → Result :=
  issue (.cpgo d) fun s =>
    let t := s.me
    let c := geomReg t.shadow 12
    if (s.core s.here).opsFull then completeStart d 1 0 s
    else if ctlBad t.shadow t.frm then completeStart d 3 0 s
    else if geomBad t.shadow then completeStart d 2 0 s
    else
      let rm := c.extractLsb' 6 3
      let (s, id) := s.startOp (.copy t.shadow (if rm = 7#3 then t.frm.extractLsb' 0 3 else rm) 0 0)
      completeStart d 0 id s

/-- The record of a gather (R265). -/
def gatherOf (bs : List Byte) : GatherRec :=
  let evt := fieldOf bs 0x2C 2
  let fl := fieldOf bs 0x2E 1
  { base := BitVec.ofNat 64 (fieldOf bs 0 8), idx := BitVec.ofNat 64 (fieldOf bs 8 8)
    dst := BitVec.ofNat 64 (fieldOf bs 0x10 8), nrow := fieldOf bs 0x18 4, rowb := fieldOf bs 0x1C 4
    stride := BitVec.ofNat 64 (fieldOf bs 0x20 8), dstride := fieldOf bs 0x28 4
    evt := if 2 ^ 15 ≤ evt then some (evt % 32) else none, mark := fl % 2 == 1, msg := fl / 2 % 2 == 1 }

/-- Is the range wholly in the own CLUSTER window (R314)? -/
def inOwnCluster (a n : Nat) : Bool := decide (clusterBase ≤ a ∧ a + n ≤ clusterBase + 0x400000)

/-- The requests that a cluster's gather engine holds (R266). -/
def State.gathersHeld (s : State) (k : Nat) : Nat :=
  ((List.range 8).map fun i => ((s.core (8 * k + i)).ops.filter fun o =>
    match o.kind with
    | .gather _ _ _ _ => o.done.isNone
    | _ => false).length).sum

/-- Why a gather record is rejected: the CPSTAT code, in the order of R266. -/
def gatherReject (full : Bool) (bs : List Byte) : Option Nat :=
  let g := gatherOf bs
  let table := 4 * g.nrow
  if full then some 1
  else if !decide (1 ≤ g.nrow ∧ g.nrow ≤ 65536) || !decide (1 ≤ g.rowb ∧ g.rowb ≤ 16384) ||
      !decide (g.rowb ≤ g.dstride ∧ g.dstride ≤ 2 ^ 24) || fieldOf bs 0x2C 2 / 32 % 1024 != 0 ||
      fieldOf bs 0x2E 1 / 4 != 0 || !zeroField bs 0x2F 17 then some 3
  else if g.idx.toNat % 4 != 0 || !(inUnitData g.idx.toNat table || inOwnCluster g.idx.toNat table) then some 3
  else if g.mark && (g.dst.toNat % 8 != 0 || g.rowb < 8) then some 3
  else if !inOwnCluster g.dst.toNat ((g.nrow - 1) * g.dstride + g.rowb) then some 2
  else none

/-- GXPOST (R265, R266). -/
def execGxpost (d a : BitVec 5) : State → Result :=
  issueRun (.gxpost d a) do
    let t ← getMe
    let bs ← recordRead (t.getX a) 64
    let s ← getS
    let full := (s.core s.here).opsFull || decide (32 ≤ s.gathersHeld (clusterOf s.here))
    match gatherReject full bs with
    | some st => modT fun t => (t.setX d 0).putCpstat (BitVec.ofNat 64 st)
    | none =>
      let (s', id) := s.startOp (.gather (gatherOf bs) 0 none none)
      modS fun _ => s'
      modT fun t => (t.setX d (BitVec.ofNat 64 id)).putCpstat 0

/-! TMOV. -/

/-- The window and guard checks of a TMOV range (R268). -/
def State.moveCheck (s : State) (f : Form) (a : Word) (n : Nat) : Option Trap :=
  if s.inCompute s.here && (windowOf a.toNat).1.refusedInCompute then some (trapACCERR a 6)
  else
    match (windowOf a.toNat).1 with
    | .global => none
    | _ =>
      match s.windowPlace s.here s.me.mode f a.toNat n with
      | .trap t => some t
      | _ => if guardsPass (s.core s.here) s.me.mode a.toNat n f.need then none else some (trapGUARD a)

/-- Does an address lie in a window, at an offset that the window populates (R240, R314)? The offsets of registers count as
populated: their windows refuse a move anyway. -/
def populated (a : Nat) : Bool :=
  let (w, o) := windowOf a
  let views (n size : Nat) : Bool := decide (o < size) || (decide (2 ^ 32 ≤ o ∧ o < (n + 1) * 2 ^ 32 ∧ o % 2 ^ 32 < size))
  match w with
  | .nowhere => false
  | .unit => decide (o < 0x28000)
  | .unitQ4 => decide (o < 0x71C00)
  | .unitFE => decide (o < 0x5000)
  | .cluster => views 64 0x400000
  | .clusterQ4 => decide (o < 0xE38E00)
  | .die => views 8 0x4000000
  | _ => true

/-- The checks of TMOV in their order, but for translation and poison (R268). DESIGN CHOICE. A row end that is invalid is
reported with its range's first address, and of several such the source's first (log 60). -/
def State.tmovTrap (s : State) (src dst : Word) (n : Word) : Option Trap :=
  let k := n.toNat
  let invalid (a : Word) : Option Trap :=
    if populated a.toNat && populated (a.toNat + k - 1) then none else some (trapACCERR a 0)
  let checks : List (Option Trap) := [s.moveCheck .moveRead src k, s.moveCheck .moveWrite dst k]
  if 16384 < k then some (trapACCERR 0 n)
  else if k = 0 then none
  else
    firstTrap ([invalid src, invalid dst, if twoWindows src.toNat k then some (trapXWIN src) else none,
      if twoWindows dst.toNat k then some (trapXWIN dst) else none] ++
      checks.map (fun t => t.filter fun t => t.code == 9) ++ checks)

/-- Translation of the pieces of a range (R268). -/
def resolvePieces (f : Form) : List (Nat × Nat) → M (List (Nat × Nat × Loc × View × Bool))
  | [] => return []
  | (a, n) :: ps => do
    let (l, v, m) ← resolve f (BitVec.ofNat 64 a) n true
    let rs ← resolvePieces f ps
    return (a, n, l, v, m) :: rs

/-- The pieces read in order: all bytes, and the hops. -/
def readMove : List (Nat × Nat × Loc × View × Bool) → M (List Byte × List Hop)
  | [] => return ([], [])
  | (a, n, l, v, _) :: ps => do
    let (x, hops) ← access (BitVec.ofNat 64 a) l n (.load v false) false
    let (bs, hs) ← readMove ps
    return (bytesOfNat n x.toNat ++ bs, hops ++ hs)

/-- A write of a TMOV: into the own unit scratch at once, else put on the CORE path; to a movable page, to a peer or to
a channel it is waited for (R219, R237). -/
def writePiece (a : Word) (l : Loc) (m : Bool) (bs : List Byte) : M (List Hop) := do
  let s ← getS
  let peer := match l.home with
    | .peer _ _ => true
    | _ => false
  if l.home == .unit s.here || m || peer then
    let (_, hops) ← access a l bs.length (.store bs none false) false true
    return hops
  else
    let q := s.accessOf false a l bs.length (.store bs none false)
    let _ ← act fun s => .ok Ans.unit ((s.movePosted s.here (· == l.home)).enterPath s.here .core q)
    return []

/-- DEDUCED. The pieces to be written checked before any is: where a write could still draw a trap, at a page of movable
class or at a peer module, a check goes the way that the write will go (R6, R236, R241; log 7). -/
def checkMove : List (Nat × Nat × Loc × View × Bool) → M Unit
  | [] => return ()
  | (a, n, l, _, m) :: ps => do
    let peer := match l.home with
      | .peer _ _ => true
      | _ => false
    if m || peer then
      let _ ← access (BitVec.ofNat 64 a) l n .check false
    checkMove ps

/-- The pieces written in order; the hops. -/
def writeMove : List (Nat × Nat × Loc × View × Bool) → List Byte → M (List Hop)
  | [], _ => return []
  | (a, n, l, _, m) :: ps, bs => do
    let hops ← writePiece (BitVec.ofNat 64 a) l m (bs.take n)
    let hs ← writeMove ps (bs.drop n)
    return hops ++ hs

/-- Is a CORE-path access of the strand, put there at or after a serial number, still to be performed? -/
def State.sincePending (s : State) (h n : Nat) : Bool :=
  let c := s.core (coreOf h)
  let mine (e : PathEntry) : Bool := e.path == .core && decide (n ≤ e.seq) && e.acc.strand == h && e.acc.op.isNone
  c.path.any mine || (s.retry.any fun e => e.1 == coreOf h && !e.2.acc.armed && mine e.2) ||
    c.slipped.any fun e => mine e.1

/-- TMOV (R268). -/
def execTmov (d a b : BitVec 5) : State → Result :=
  issueRun (.tmov d a b) do
    let t ← getMe
    let src := t.getX a
    let dst := t.getX d
    let n := t.getX b
    match ← act (fun s => match s.tmovTrap src dst n with
        | some tr => .trap tr s
        | none => .ok Ans.unit s) with
    | _ =>
      let from_ ← resolvePieces .moveRead (pieces src.toNat n.toNat)
      let into ← resolvePieces .moveWrite (pieces dst.toNat n.toNat)
      let (bs, hops) ← readMove from_
      checkMove into
      let start ← act fun s => .ok (.val (natVal (s.core s.here).seq) []) s
      let hops' ← writeMove into bs
      let since := start.value.toNat
      let _ ← act fun s => if s.sincePending s.cur since then .park (.written since) s else .ok Ans.unit s
      rebase a hops
      rebase d hops'

/-! Relocation. -/

/-- The size of a tile (R269). -/
def tileSize (t : BitVec 3) : Nat := 4096 * 2 ^ t.toNat

/-- Is the tile wholly within its page: is the page that the CTU holds at least as large? -/
def State.tileInPage (s : State) (va : Word) (size : Nat) : Bool :=
  match ctuFind (s.cluster (clusterOf s.here)).ctu ((s.core s.here).asid.toNat % 65536) va.toNat with
  | some e => decide (size ≤ 2 ^ sizeExp e.size)
  | none => false

/-- Translation of a tile as an action: its place, and whether it lies within one page of movable class, both as the lookup
that hits finds them (R270). -/
def tilePlace (va : Word) (size : Nat) (need : Need) (s : State) : Act :=
  match s.lookup s.here s.me.mode va need with
  | .ok l m => .ok (.place va l .plain (m && s.tileInPage va size)) s
  | .fault t => .trap t s
  | .miss => .park (.walk va need.writes false) (s.startWalk s.here s.me.mode va need.writes true)

/-- Translation of a tile to be retired as an action (R271): as a read, which faults as one, and which sets D too. -/
def retirePlace (va : Word) (size : Nat) (s : State) : Act :=
  match tilePlace va size .read s with
  | .ok a s =>
    let q := s.cluster (clusterOf s.here)
    let asid := (s.core s.here).asid.toNat % 65536
    let hit := ctuFind q.ctu asid va.toNat
    if hit.any fun e => e.leaf.getLsbD 9 then .ok a s
    else if !(s.die (dieOf s.here)).mgmt.getLsbD 1 then
      .trap (pfTrap .read va ((hit.map fun e => levelOfSize e.size).getD 3) 4) s
    else
      match s.walk (s.core s.here).ptroot va.toNat with
      | .leaf e x _ l =>
        let entry : CtuEntry := { asid := asid, size := sizeCode x, page := va.toNat / 2 ^ x, leaf := leafTouched e true }
        .ok a ((if e.getLsbD 9 then s else s.touchLeaf l e true).modCluster (clusterOf s.here) fun q =>
          { q with ctu := ctuInsert q.ctu entry })
      | .fail level reason => .trap (pfTrap .read va level reason) s
  | r => r

/-- The checks of one tile address (R270). -/
def tileChecks (va : Word) (size : Nat) : M Unit := do
  require (va.toNat % size == 0) (trapALIGN va)

/-- The place of a tile, and whether it lies within one page of movable class (R270). -/
def movableTile (place : State → Act) : M (Loc × Bool) := do
  match ← act place with
  | .place _ l _ m => return (l, m)
  | _ => return ({ home := .priv 9, off := 0 }, false)

/-- A move or retirement put into the die's engine. -/
def State.enterBarchan (s : State) (die id : Nat) (old new : Loc) (oldVa newVa : Word) (size : Nat) (retire : Bool) : State :=
  let b : Barchan :=
    { core := s.here, id := id, old := old, new := new, oldVa := oldVa, newVa := newVa, size := size, phase := none,
      retire := retire, asid := (s.core s.here).asid.toNat % 65536 }
  s.modDie die fun q => { q with barchan := q.barchan ++ [b] }

/-- A move or retirement started, unless the core or the die's engine is full (R270, R271); in a replay, the ID that it
had before (R364). DESIGN CHOICE. Where the two tiles of a move lie on different dies, it is the engine of the old tile's die
(log 60). -/
def startBarchan (d : BitVec 5) (old new : Loc) (oldVa newVa : Word) (size : Nat) (retire : Bool) : M Unit := do
  let ws ← recorded 0x42 do
    let s ← getS
    let die := old.home.dieOf
    if (s.core s.here).opsFull || decide (16 ≤ (s.die die).barchan.length) then return [0, 1]
    else
      let (s, id) := s.startOp (if retire then .retire oldVa size else .reloc oldVa newVa size)
      modS fun _ => s.enterBarchan die id old new oldVa newVa size retire
      return [BitVec.ofNat 64 id, 0]
  modT fun t => (t.setX d (ws.getD 0 0)).putCpstat (ws.getD 1 0)

/-- RELOC (R269, R270). -/
def execReloc (d a b : BitVec 5) (t : BitVec 3) : State → Result :=
  issueRun (.reloc d a b t) do
    let st ← getMe
    let size := tileSize t
    let old := st.getX a
    let new := st.getX b
    tileChecks old size
    tileChecks new size
    require (decide (old.toNat < 2 ^ 55)) (trapACCERR old 0)
    require (decide (new.toNat < 2 ^ 55)) (trapACCERR new 0)
    let (lo, okOld) ← movableTile (tilePlace old size .read)
    let (ln, okNew) ← movableTile (tilePlace new size .write)
    require okOld (trapACCERR old 0)
    require (okNew && !(lo.home == ln.home && decide (lo.off < ln.off + size ∧ ln.off < lo.off + size))) (trapACCERR new 0)
    startBarchan d lo ln old new size false

/-- RELOC_RET (R271). -/
def execRelocRet (d a : BitVec 5) (t : BitVec 3) : State → Result :=
  issueRun (.relocRet d a t) do
    let st ← getMe
    let size := tileSize t
    let old := st.getX a
    tileChecks old size
    require (decide (old.toNat < 2 ^ 55)) (trapACCERR old 0)
    let (lo, okOld) ← movableTile (retirePlace old size)
    require okOld (trapACCERR old 0)
    startBarchan d lo lo old old size true

/-! MSWEEP. -/

/-- The checks of a range but for translation (R272). -/
def State.sweepTrap (s : State) (a n : Word) : Option Trap :=
  let k := 8 * n.toNat
  if 4096 < n.toNat then some (trapACCERR 0 n)
  else if a.toNat % 8 != 0 then some (trapALIGN a)
  else if n = 0#64 then none
  else if 2 ^ 57 < a.toNat + k then some (trapACCERR a 0)
  else if twoWindows a.toNat k then some (trapXWIN a)
  else s.moveCheck .sweep a k

/-- Translation of the words of a range (R272). -/
def sweepResolve (a : Nat) : List Nat → M Unit
  | [] => return ()
  | i :: is => do
    let _ ← resolve .sweep (BitVec.ofNat 64 (a + 8 * i)) 8
    sweepResolve a is

/-- The chase of a pointer value through slip marks: where it leads and how many hops, those of a probe that a move forwarded
among them; at 5 the chase stops (R235, R272). -/
def sweepChase : Nat → Word → Nat → M (Word × Nat)
  | 0, w, hops => return (w, hops)
  | fuel + 1, w, hops => do
    let p ← act fun s =>
      match s.peekPlace s.here s.me.mode w with
      | some (l, m) => .ok (.place w l .plain m) s
      | none => .ok Ans.unit s
    match p with
    | .place _ l _ true =>
      let (x, hs) ← access w l 8 .probe false
      let w := hs.foldl (fun w h => w + h.delta) w
      let hops := hops + hs.length
      if 5 ≤ hops then return (w, 5)
      else if x.getLsbD 64 then sweepChase fuel (w + x.setWidth 64) (hops + 1)
      else return (w, hops)
    | _ => return (w, hops)

/-- What became of a word: unchanged, changed, too deep, busy; with the hops of its own accesses (R272). -/
def sweepWord (va : Word) : Nat → M (Nat × List Hop)
  | 0 => return (3, [])
  | tries + 1 => do
    let (l, _, _) ← resolve .sweep va 8
    let (x, h1) ← access va l 8 (.load .plain false) false
    let v := x.setWidth 64
    let (w, hops) ← sweepChase 5 v 0
    if hops = 5 then return (2, h1)
    else if w = v then return (0, h1)
    else
      let (y, h2) ← access va l 8 (.cas v w) false
      if y.setWidth 64 = v then return (1, h1 ++ h2)
      else
        let (r, hs) ← sweepWord va tries
        return (r, h1 ++ h2 ++ hs)

/-- The words swept: changed, deep and busy counted in one number, and the hops (R272). -/
def sweepWords (a : Word) : List Nat → M (Nat × List Hop)
  | [] => return (0, [])
  | i :: is => do
    let (r, h) ← sweepWord (a + BitVec.ofNat 64 (8 * i)) 4
    let (k, hs) ← sweepWords a is
    return (k + (if r = 1 then 1 else if r = 2 then 2 ^ 32 else if r = 3 then 2 ^ 48 else 0), h ++ hs)

/-- MSWEEP (R239, R272). -/
def execMsweep (d a b : BitVec 5) : State → Result :=
  issueRun (.msweep d a b) do
    let t ← getMe
    let va := t.getX a
    let n := t.getX b
    match ← act (fun s => match s.sweepTrap va n with
        | some tr => .trap tr s
        | none => .ok Ans.unit s) with
    | _ =>
      sweepResolve va.toNat (List.range n.toNat)
      let (k, hops) ← sweepWords va (List.range n.toNat)
      rebase a hops
      modT fun t => t.setX d (BitVec.ofNat 64 k)

end Sys2Proof.Machine
end

