-- ==== Sys2Proof/Machine/Engine.lean ====
section
/-! DEFINITION. The engines at work: copies, gathers and relocations (R222, R223, R235, R236, R255 to R271). -/

namespace Sys2Proof.Machine

/-! The end of an operation. -/

/-- An engine operation comes to its end; its message is due at its completion step. -/
def State.stopOp (s : State) (c id : Nat) (status : Nat) (word1 : Word) (flags : FlagSet) : State :=
  s.modOp c id fun o => { o with reads := [], done := some { status := status, word1 := word1, flags := flags } }

/-- The opcode and path code of an operation's message (R264). -/
def OpKind.codes : OpKind → Nat × Nat
  | .copy _ _ _ _ => (0x3F, 1)
  | .gather _ _ _ _ => (0x40, 2)
  | .reloc _ _ _ => (0x42, 5)
  | .retire _ _ => (0x42, 5)
  | .hot o _ _ _ _ => (o, 1)

/-- HANDLE of an operation's message (R205). -/
def OpKind.handle : OpKind → Nat
  | .hot _ h _ _ _ => h
  | _ => 0

/-- The message of an operation at its end (R205, R264). -/
def EngineOp.message (o : EngineOp) (out : Outcome) : Held :=
  let (opc, path) := o.kind.codes
  { msg := { strand := o.strand, uid := o.uid
             word0 := messageWord opc path out.flags o.kind.handle 0 out.status o.id, word1 := out.word1 }
    op := some o.id, cmd := false }

/-- The completion of an operation that has come to its end and is not parked: its message posted, once (R222, R259, R334). -/
def State.completeOp (s : State) (c id : Nat) : State :=
  match (s.core c).op? id with
  | some o =>
    match o.done, o.todo, o.parked with
    | some out, [], false => if (s.core c).held.any fun m => m.op == some id then s else (s.post (o.message out)).recheck o.strand
    | _, _, _ => s
  | none => s

/-- The event of an operation: an access that it has planned is put on its path, or where there is none, what comes next
(R216, R222). -/
def stepOr (core id : Nat) (next : State → Result) : State → Result := fun s =>
  match s.stepOp core id with
  | some t => .next t
  | none => next s

/-- Is an access of the operation still to be performed (R223)? -/
def State.opPending (s : State) (c id bound : Nat) : Bool :=
  let mine (e : PathEntry) : Bool := e.acc.op == some id && decide (e.seq < bound)
  (s.core c).path.any mine || (s.retry.any fun e => e.1 == c && mine e.2) || (s.core c).slipped.any fun e => mine e.1

/-- A translation fault parks the operation for the kernel, once its record is written (R262, R334). -/
def State.parkOp (s : State) (o : EngineOp) (c : Nat) (t : Trap) : State :=
  match s.engineFault o.strand o.id t with
  | some s => s.modOp c o.id fun o => { o with parked := true }
  | none => s

/-- The code of a path class (R52). -/
def Path.code : Path → Nat
  | .core => 0 | .copy => 1 | .gather => 2 | .matrix => 3 | .coll => 4 | .reloc => 5

/-! Rows. -/

/-- Can no port of the module carry a request: all of them are DOWN (R374)? -/
def State.allDown (s : State) : Bool := s.hub.ports.toList.all fun p => p.lstate == 0#2

/-- Is no port UP (R374)? -/
def State.noneUp (s : State) : Bool := s.hub.ports.toList.all fun p => p.lstate != 2#2

/-- An error response of a peer module to the check of an engine's access at an address there, or none: `code` is 0 or the
reason (R241, R262). An absent module is logged (R21). -/
def State.peerRefusal (s : State) (q : Sender) (a code : Nat) : Option State :=
  match (windowOf a).1 with
  | .peer _ =>
    let code := if s.allDown then 1 else code
    if code = 0 then none
    else if code = 1 then
      some (s.logViolation (dieOf q.core) (BitVec.ofNat 64 a) (s.endpoint q.core) (isControl q.core) 7 q.path.code 1)
    else some s
  | _ => none

/-- What a row comes to: its reads and checks are planned; it has these writes, for `taken` source bytes of which `good` were
clean; a status; or a translation fault. -/
inductive RowResult where
  | reads (s : State)
  | moved (s : State) (writes : List Access) (taken good : Nat) (flags : FlagSet)
  | status (n : Nat) (s : State)
  | fault (t : Trap) (s : State)

/-- A row of an engine operation: n source bytes at src to nd bytes at dst, of which the first `skip` are left out;
whether the words' full/empty bits go along, and the conversion (R256, R262, R267). -/
structure Row where
  src  : Nat
  n    : Nat
  dst  : Nat
  nd   : Nat
  skip : Nat
  fe   : Bool
  conv : List Byte → List Byte × List FlagSet

/-- How many source bytes of a row are taken: all, or up to the end of the first poisoned source line (R263); and how
many of them are clean. -/
def takenOf (src n : Nat) (bs : List (Byte × Bool)) : Nat × Nat :=
  match bs.findIdx? fun b => b.2 with
  | some k => (min n (k + 64 - (src + k) % 64), k)
  | none => (n, n)

/-- Elements of a row converted (R116, R262). -/
def convertRow (st dt : BitVec 3) (rm : Rm) (bs : List Byte) : List Byte × List FlagSet :=
  let ws := laneWidth st / 8
  let es := (elemsOf' ws bs).map fun x => fpConvert (typeFmt st) (typeFmt dt) rm x
  (es.flatMap fun e => bytesOfNat (laneWidth dt / 8) e.1.toNat, es.map Prod.snd)
where
  /-- Elements of w bytes. -/
  elemsOf' (w : Nat) (bs : List Byte) : List Word :=
    (List.range (bs.length / w)).map fun i => BitVec.ofNat 64 (natOfBytes ((bs.drop (w * i)).take w))

/-- A row checked, both sides translated, before any byte is read, and its reads planned, with the checks of the places to be
written that a slip mark could turn away (R222, R236, R262). -/
def State.readRow (s : State) (q : Sender) (o : EngineOp) (r : Row) (src dst : Nat) : RowResult :=
  match s.rowStatus q.core o.mode r.src r.n r.dst r.nd with
  | some st => .status st s
  | none =>
    match s.placePieces q.core o.mode .read (pieces r.src r.n) with
    | (.error t, s) => .fault t s
    | (.ok from_, s) =>
      match s.placePieces q.core o.mode .write (pieces r.dst r.nd) with
      | (.error t, s) => .fault t s
      | (.ok into, s) =>
        match (s.peerRefusal q r.src src).orElse fun _ => s.peerRefusal q r.dst dst with
        | some s => .status statREMOTE s
        | none => .reads (s.planOp q.core o.id (s.readsFor q from_ ++ s.checksFor q into))

/-- A row whose reads and checks have all come back: its writes (R262, R263). DESIGN CHOICE. Where a source line is poisoned,
the completion carries the flags of the elements converted before its first byte, and of none behind; where the poisoned bytes
written all lie in the eight kept back for the mark, no destination line is poisoned (log 60). -/
def State.writeRow (s : State) (q : Sender) (o : EngineOp) (r : Row) (gs : List Got) : RowResult :=
  match firstFailed gs with
  | some g =>
    (match g.fault with
      | some t => .fault t s
      | none => .status g.status s)
  | none =>
    match s.placePieces q.core o.mode .write (pieces (r.dst + r.skip) (r.nd - r.skip)) with
    | (.error t, s) => .fault t s
    | (.ok into, s) =>
      let bs := gotBytes gs
      let (taken, good) := takenOf r.src r.n bs
      let (out, fls) := r.conv ((bs.take taken).map Prod.fst)
      let clean := out.length * good / (max taken 1)
      let full := if r.fe then some (gotFull gs) else none
      let fl := orFlags (fls.take (fls.length * good / (max taken 1)))
      .moved s (s.writesFor q (out.drop r.skip) (clean - r.skip) full into 0) taken good fl

/-- A row of an operation taken one step further; none while its reads are under way. -/
def State.stepRow (s : State) (q : Sender) (o : EngineOp) (r : Row) (src dst : Nat) : Option RowResult :=
  if o.reads.isEmpty then some (s.readRow q o r src dst) else (readsDone o.reads).map (s.writeRow q o r)

/-! The copy engine. -/

/-- The row address of a row number: base and strides in order (R262). -/
def rowBase (g : Vector Word 13) (base first row : Nat) : Nat :=
  let n1 := (geomReg g 3).toNat
  let n2 := (geomReg g 4).toNat
  let i1 := row % n1
  let i2 := row / n1 % n2
  let i3 := row / n1 / n2
  (geomReg g base + BitVec.ofNat 64 i1 * geomReg g first + BitVec.ofNat 64 i2 * geomReg g (first + 1) +
    BitVec.ofNat 64 i3 * geomReg g (first + 2)).toNat

/-- Rows of a transfer (R261). -/
def rowCount (g : Vector Word 13) : Nat := (geomReg g 3).toNat * (geomReg g 4).toNat * (geomReg g 5).toNat

/-- Row number `row` of a copy (R262). -/
def copyRowOf (g : Vector Word 13) (rm : BitVec 3) (row : Nat) : Row :=
  let ctl := geomReg g 12
  { src := rowBase g 0 6 row, n := (geomReg g 2).toNat, dst := rowBase g 1 9 row, nd := destRow g, skip := 0
    fe := ctl.getLsbD 4
    conv := fun bs =>
      if ctlConv ctl then convertRow (ctlSrc ctl) (ctlDst ctl) ((Rm.ofCode rm).getD .rne) bs else (bs, []) }

/-- The sender of a copy's accesses: TC1, unless CTL.TC0 is set (R222, R256, R309). -/
def copySender (c : Nat) (o : EngineOp) (g : Vector Word 13) : Sender :=
  { core := c, path := .copy, strand := o.strand, op := o.id, bulk := !(geomReg g 12).getLsbD 5 }

/-- The next step of a copy (R260 to R263). -/
def State.copyRow (s : State) (c : Nat) (o : EngineOp) (g : Vector Word 13) (rm : BitVec 3) (row pos src dst : Nat) : State :=
  let at_ (n : Nat) : Word := BitVec.ofNat 64 n
  if geomEmpty g then s.stopOp c o.id statOK 0 0#5
  else
    let r := copyRowOf g rm row
    match s.stepRow (copySender c o g) o r src dst with
    | none => s
    | some (.reads s) => s
    | some (.status st s) => s.stopOp c o.id st (at_ pos) o.flags
    | some (.fault t s) => s.parkOp o c t
    | some (.moved s ws taken good fl) =>
      let s := s.planOp c o.id (ws.map (·.orEnds { status := statMCHAIN, word1 := at_ pos, flags := o.flags }))
      let fl := o.flags ||| fl
      if good < taken then s.stopOp c o.id statPOISON (at_ (pos + good)) fl
      else if row + 1 = rowCount g then s.stopOp c o.id statOK (at_ (pos + r.n)) fl
      else s.modOp c o.id fun o => { o with flags := fl, kind := .copy g rm (row + 1) (pos + r.n) }

/-- COPY_ROW (R222, R262): the next row of a copy, its reads first and its writes once they have come back, each a step. -/
def execCopyRow (core id src dst : Nat) : State → Result := stepOr core id fun s =>
  match (s.core core).op? id with
  | some o =>
    match o.kind, o.done, o.parked with
    | .copy g rm row pos, none, false => .next (s.copyRow core o g rm row pos src dst)
    | _, _, _ => .next s
  | none => .next s

/-- COPY_COMPLETION (R222, R264). -/
def execCopyCompletion (core id : Nat) : State → Result := stepOr core id fun s =>
  match ((s.core core).op? id).map EngineOp.kind with
  | some (.copy _ _ _ _) => .next (s.completeOp core id)
  | _ => .next s

/-! The gather engine. -/

/-- The sender of a gather's accesses (R222). DESIGN CHOICE. Its rows from a peer module travel in TC1 (log 55). -/
def gatherSender (c : Nat) (o : EngineOp) : Sender :=
  { core := c, path := .gather, strand := o.strand, op := o.id, bulk := true }

/-- The read of a row's index planned, or the status that the row check gives it (R262, R267). -/
def State.readIndex (s : State) (c : Nat) (o : EngineOp) (g : GatherRec) (row : Nat) : Except Nat State :=
  let a := g.idx.toNat + 4 * row
  match s.rowPlace c a 4 false with
  | none => .error statACCERR
  | some (l, v) =>
    if !guardsPass (s.core c) o.mode a 4 .read then .error statGUARD
    else
      .ok (s.planOp c o.id (s.readsFor (gatherSender c o) [({ va := BitVec.ofNat 64 a, loc := l, view := v }, 4)]))

/-- Have all rows of a gather been taken? -/
def GatherRec.allTaken (g : GatherRec) (row : Nat) : Bool := decide (g.nrow ≤ row)

/-- Row number `row` of a gather from a source address; under MARK the first eight bytes of row 0 are kept back (R267). -/
def gatherRowOf (g : GatherRec) (row src : Nat) : Row :=
  { src := src, n := g.rowb, dst := g.dst.toNat + row * g.dstride, nd := g.rowb
    skip := if g.mark && row == 0 then 8 else 0, fe := false, conv := fun bs => (bs, []) }

/-- The next step of a gather (R267): the read of a row's index; the row's reads; its writes. DESIGN CHOICE. A poisoned index
word ends it with status POISON and OFFSET r × ROWB (log 60). -/
def State.gatherRow (s : State) (c : Nat) (o : EngineOp) (g : GatherRec) (row : Nat) (index : Option Int) (first : Option Word)
    (from_ into : Nat) : State :=
  let off (n : Nat) : Word := BitVec.ofNat 64 (row * g.rowb + n)
  let stop (s : State) (st n : Nat) : State := s.stopOp c o.id st (off n) 0#5
  match index with
  | none =>
    if o.reads.isEmpty then
      (match s.readIndex c o g row with
        | .ok s => s
        | .error st => stop s st 0)
    else
      (match readsDone o.reads with
        | none => s
        | some gs =>
          if gs.any fun r => r.status != 0 then stop s ((gs.headD (Got.failed 0 none)).status) 0
          else if gs.any fun r => r.poison.any id then stop s statPOISON 0
          else
            let j := laneInt 32 (BitVec.ofNat 64 (natOfBytes (gs.flatMap Got.data)))
            s.modOp c o.id fun o => { o with reads := [], kind := .gather g row (some j) first })
  | some j =>
    let src : Int := (g.base.toNat : Int) + j * g.stride.toInt
    if src < 0 || 2 ^ 57 ≤ src + g.rowb - 1 then stop s statACCERR 0
    else
      match s.stepRow (gatherSender c o) o (gatherRowOf g row src.toNat) from_ into with
      | none => s
      | some (.reads s) => s
      | some (.status st s) => stop s st 0
      | some (.fault t s) => s.parkOp o c t
      | some (.moved s ws taken good _) =>
        let s := s.planOp c o.id (ws.map (·.orEnds { status := statMCHAIN, word1 := off 0, flags := 0#5 }))
        if good < taken then stop s statPOISON good
        else
          let bs := ((readsDone o.reads).getD []).flatMap Got.data
          let word := if g.mark && row == 0 then some (BitVec.ofNat 64 (natOfBytes (bs.take 8))) else first
          s.modOp c o.id fun o => { o with kind := .gather g (row + 1) none word }

/-- GATHER_ROW (R222, R267). -/
def execGatherRow (core id src dst : Nat) : State → Result := stepOr core id fun s =>
  match (s.core core).op? id with
  | some o =>
    match o.kind, o.done, o.parked with
    | .gather g row index first, none, false =>
      if g.allTaken row then .next s else .next (s.gatherRow core o g row index first src dst)
    | _, _, _ => .next s
  | none => .next s

/-- GATHER_MARK (R223, R267): once every other write is performed, the first word of row 0 as a write-set-full. -/
def execGatherMark (core id : Nat) : State → Result := stepOr core id fun s =>
  match (s.core core).op? id with
  | some o =>
    match o.kind, o.done, o.parked with
    | .gather g row index (some w), none, false =>
      if g.allTaken row && !s.opPending core id (s.core core).seq then
        let l : Loc := { home := .cluster (clusterOf core), off := g.dst.toNat - clusterBase }
        .next ((s.send (gatherSender core o) g.dst l (.sync .setFull w) 8).modOp core id fun o =>
          { o with kind := .gather g row index none })
      else .next s
    | _, _, _ => .next s
  | none => .next s

/-- The event line of a cluster signalled: COUNT higher by an amount, at most 2^32 - 1 (R267, R289). -/
def State.signalLine (s : State) (k n amount : Nat) : State :=
  s.modCluster k fun q =>
    { q with lines := q.lines.setIfInBounds n (BitVec.ofNat 32 (min ((q.lines.toList.getD n 0).toNat + amount) (2 ^ 32 - 1))) }

/-- A gather that has taken all its rows, with every write on its path, ends (R267). DESIGN CHOICE. OFFSET of its message is
NROW × ROWB; one that posts no message holds its ID no longer, while its last writes may still wait to be performed and its
event, if it has one, is to come (R259; log 60). -/
def State.endGather (s : State) (c : Nat) (o : EngineOp) (g : GatherRec) : State :=
  let bytes : Word := BitVec.ofNat 64 (g.nrow * g.rowb)
  let s := match g.evt with
    | some n => s.modCore c fun q => { q with events := q.events ++ [(o.id, n, q.seq)] }
    | none => s
  if g.msg then s.stopOp c o.id statOK bytes 0#5
  else (s.modCore c fun q => { q with ops := q.ops.filter fun p => p.id != o.id }).recheck o.strand

/-- GATHER_COMPLETION (R222, R267): the message of a gather at its end; or, with no such gather, the event of an earlier
one whose writes are all performed. -/
def execGatherCompletion (core id : Nat) : State → Result := stepOr core id fun s =>
  let event : Result :=
    match (s.core core).events.find? fun e => e.1 == id && !s.opPending core id e.2.2 with
    | some e =>
      .next ((s.signalLine (clusterOf core) e.2.1 1).modCore core fun q => { q with events := q.events.filter fun f => f != e })
    | none => .next s
  match (s.core core).op? id with
  | some o =>
    match o.kind, o.done with
    | .gather g row _ first, none =>
      if g.allTaken row && !(g.mark && first.isSome) && !o.parked then .next (s.endGather core o g) else event
    | .gather _ _ _ _, some _ => if (s.core core).held.any fun m => m.op == some id then event else .next (s.completeOp core id)
    | _, _ => event
  | none => event

/-! The barchan. -/

/-- A move of a die's engine changed. -/
def State.modBarchan (s : State) (d c id : Nat) (f : Barchan → Barchan) : State :=
  s.modDie d fun q => { q with barchan := q.barchan.map fun b => if b.core = c ∧ b.id = id then f b else b }

/-- Does a tile hold a slip mark, or is it MOVING (R270)? -/
def State.tileBusy (s : State) (l : Loc) (size : Nat) : Bool :=
  ((wordsOf l size).any fun w => (s.tagAt w).slip.isSome) ||
    (s.dies.flatMap fun d => d.2.barchan).any fun b =>
      !b.retire && (b.phase == some .moving || b.phase == some .copied) && b.old.home == l.home &&
        decide (b.old.off < l.off + size ∧ l.off < b.old.off + b.size)

/-- RELOC_BEGIN (R235, R270): the old home marks the tile MOVING, or refuses the move. -/
def execRelocBegin (core id : Nat) : State → Result := fun s =>
  match s.barchan? core id with
  | some (d, b) =>
    if b.retire || b.phase.isSome then .next s
    else if s.tileBusy b.old b.size || s.tileBusy b.new b.size then
      .next ((s.modBarchan d core id fun b => { b with phase := some .refused }).stopOp core id statACCERR 0 0#5)
    else .next (s.modBarchan d core id fun b => { b with phase := some .moving })
  | none => .next s

/-- The sender of a relocation's accesses: the RELOC path of the core that issued it (R222). -/
def relocSender (c id : Nat) : Sender := { core := c, path := .reloc, strand := 8 * c, op := id, bulk := false }

/-- The reads of a tile's words. -/
def State.tileReads (s : State) (c id : Nat) (b : Barchan) : List Access :=
  (List.range (b.size / 8)).map fun i =>
    s.engineAccess (relocSender c id) (b.oldVa + BitVec.ofNat 64 (8 * i)) (b.old.plus (8 * i)) .lift 8

/-- The writes of a tile's words, each with its tag. -/
def State.tileWrites (s : State) (c id : Nat) (b : Barchan) (gs : List Got) : List Access :=
  gs.zipIdx.map fun g =>
    s.engineAccess (relocSender c id) (b.newVa + BitVec.ofNat 64 (8 * g.2)) (b.new.plus (8 * g.2))
      (.place (BitVec.ofNat 64 (natOfBytes g.1.data)) (g.1.tags.headD WordTag.blank)) 8

/-- RELOC_COPY (R222, R235): the engine puts a read of each word on the RELOC path, and once they have come back a write
of each, with its tag. -/
def execRelocCopy (core id : Nat) : State → Result := stepOr core id fun s =>
  match s.barchan? core id, (s.core core).op? id with
  | some (d, b), some o =>
    if b.phase != some .moving || b.retire then .next s
    else if o.reads.isEmpty then .next (s.planOp core id (s.tileReads core id b))
    else
      match readsDone o.reads with
      | none => .next s
      | some gs =>
        .next ((s.planOp core id (s.tileWrites core id b gs)).modBarchan d core id fun b => { b with phase := some .copied })
  | _, _ => .next s

/-- A tile's words replaced by slip marks (R235). -/
def State.markTile (s : State) (l : Loc) (size : Nat) (delta : Word) : State :=
  (wordsOf l size).foldl (fun s w => s.setTag w { (s.tagAt w) with slip := some (delta, size) }) s

/-- A retry-list entry for a moved tile, as forwarded: translated by D, one hop more, announced again (R235, R236). -/
def State.forwardEntry (s : State) (b : Barchan) (e : Nat × PathEntry) : Nat × PathEntry :=
  let a := s.announceAgain e.1 e.2.acc
  let delta := b.newVa - b.oldVa
  let hop : Hop := { base := b.oldVa, size := b.size, delta := delta }
  (e.1, { e.2 with
    forwarded := true
    acc := { a with va := a.va + delta, loc := { b.new with off := b.new.off + (a.loc.off - b.old.off) }, hops := a.hops ++ [hop] } })

/-- Is an entry's place in a tile? -/
def inTile (l old : Loc) (size : Nat) : Bool := l.home == old.home && decide (old.off ≤ l.off ∧ l.off < old.off + size)

/-- A refusal at root port `root` logged in the hub die's log, cause 7, with the port's hub agent number (R11, R23, R330). -/
def State.logPcie (s : State) (root : Nat) (addr : Word) : State :=
  s.logViolation 8 addr (s.hub.module % 1024 * 4096 + 0x200 + root % 4) true 7 0 7

/-- A request of a root port's device refused: none of its accesses is performed any more, and the violation is logged once
(R23). -/
def State.refuseDevice (s : State) (c : Nat) (a : Access) (addr : Word) : State :=
  (s.keepAccesses c fun e => e.acc.op != a.op).logPcie (c - 4128) addr

/-- An access that cannot go on from where its tile was. A seam message's counts as a disagreement (R184), a device's request is
refused (R23), any other access fails. -/
def State.cannotGo (s : State) (c : Nat) (e : PathEntry) (t : Trap) (status : Nat) : State :=
  match e.acc.kind, e.acc.root with
  | .seam m, _ => s.refuseSeam c m
  | _, some _ => s.refuseDevice c e.acc e.acc.va
  | _, none => s.failAccess c e t status

/-- Has the access taken the four hops that it may take (R236)? A checked store of a strand takes any number (log 7). -/
def Access.deep (a : Access) : Bool := (!a.sure || a.ending.isSome) && decide (4 ≤ a.hops.length)

/-- A forwarded entry that would need a fifth hop (R236): its strand traps, its engine operation stops. -/
def State.deepEntry (s : State) (e : Nat × PathEntry) : State :=
  s.cannotGo e.1 e.2 (trapMCHAIN e.2.acc.va) statMCHAIN

/-- Is the entry an access to the tile that a move displaces? -/
def forwards (b : Barchan) (e : Nat × PathEntry) : Bool :=
  inTile e.2.acc.loc b.old b.size && !e.2.acc.armed && e.2.acc.kind != .lift

/-- The entries of a tile forwarded to the new home, ahead of what reaches it later: they keep their age in the retry
list. -/
def State.forwardTile (s : State) (b : Barchan) : State :=
  let deep (e : Nat × PathEntry) : Bool := forwards b e && e.2.acc.deep
  let gone := s.retry.filter deep
  let kept := (s.retry.filter fun e => !deep e).map fun e => if forwards b e then s.forwardEntry b e else e
  gone.foldl State.deepEntry { s with retry := kept }

/-- RELOC_INSTALL (R235, R287): every copy write is performed; slip marks, and the retry list forwarded. -/
def execRelocInstall (core id : Nat) : State → Result := fun s =>
  match s.barchan? core id with
  | some (d, b) =>
    if b.phase == some .copied && ((s.core core).op? id).all (fun o => o.todo.isEmpty) && !s.opPending core id (s.core core).seq then
      let s := (s.markTile b.old b.size (b.newVa - b.oldVa)).fireWatches (wordsOf b.old b.size)
      let s := s.forwardTile b
      .next ((s.modBarchan d core id fun b => { b with phase := some .installed }).stopOp core id statOK (b.newVa - b.oldVa) 0#5)
    else .next s
  | none => .next s

/-- RELOC_COMPLETION (R270, R271): the message of a move or retirement, which leaves its engine. -/
def execRelocCompletion (core id : Nat) : State → Result := fun s =>
  match s.barchan? core id with
  | some (d, b) =>
    if b.phase = some .installed ∨ b.phase = some .refused then
      let s := s.modDie d fun q => { q with barchan := q.barchan.filter fun o => !(o.core == core && o.id == id) }
      .next (s.completeOp core id)
    else .next s
  | none => .next s

/-- A slip-mark word replaced with 0, empty and unpoisoned (R271). -/
def State.clearMarkWord (s : State) (w : Loc) : State :=
  if (s.tagAt w).slip.isSome then ((s.putRaw w (List.replicate 8 0#8)).setTag w WordTag.blank).fireWatches [w] else s

/-- RELOC_RETIREMENT_STEP (R271); refused where retirement is host-assisted (R340). -/
def execRelocRetirementStep (core id : Nat) : State → Result := fun s =>
  match s.barchan? core id with
  | some (d, b) =>
    if !(b.retire && b.phase.isNone) then .next s
    else if !(s.die (dieOf core)).mgmt.getLsbD 4 then
      .next ((s.modBarchan d core id fun b => { b with phase := some .refused }).stopOp core id statACCERR 0 0#5)
    else
      let s := (wordsOf b.old b.size).foldl State.clearMarkWord s
      .next ((s.modBarchan d core id fun b => { b with phase := some .installed }).stopOp core id statOK 0 0#5)
  | none => .next s

end Sys2Proof.Machine
end

