-- ==== Sys2Proof/Machine/Home.lean ====
section
/-! DEFINITION. Homes at work: which access may be performed next, what becomes of it, and the answers on their way back
(R215 to R239, R241, R278 to R280). The rows of the opcode table that serve a device's words. -/

namespace Sys2Proof.Machine

/-! Which access may be performed. -/

/-- An access of a core by its serial number: in a path queue. -/
def State.pathEntry (s : State) (c seq : Nat) : Option PathEntry := (s.core c).path.find? fun e => e.seq == seq

/-- An access of a core by its serial number in a retry list. -/
def State.retryEntry (s : State) (c seq : Nat) : Option PathEntry :=
  (s.retry.find? fun e => e.1 == c && e.2.seq == seq && !e.2.acc.armed).map Prod.snd

/-- Is the access the oldest of its path queue for its home (R221)? -/
def Core.oldest (c : Core) (e : PathEntry) : Bool :=
  match c.path.find? fun o => o.path == e.path && o.acc.loc.home == e.acc.loc.home with
  | some o => o.seq == e.seq
  | none => false

/-- Does an XFENCE mark hold the access back (R227)? -/
def State.fenced (s : State) (c : Nat) (e : PathEntry) : Bool :=
  (s.core c).fences.any fun m => m.b == e.path && decide (m.seq ≤ e.seq) && s.fencePending c m

/-- Does an earlier write of the same operation hold back a write that sets a word full (R223)? -/
def State.markHeld (s : State) (c : Nat) (e : PathEntry) : Bool :=
  match e.acc.op, e.acc.kind with
  | some id, .sync .setFull _ => s.opPending c id e.seq
  | _, _ => false

/-- Does a check of the same request hold back a write of a device: a request that fails writes no byte (R23; log 64)? -/
def State.checkHeld (s : State) (c : Nat) (a : Access) : Bool :=
  a.root.isSome && a.stored.isSome && (s.outstanding c).any fun o => o.acc.kind == .check && o.acc.op == a.op

/-- May the access at the head of a path queue be performed now? -/
def State.mayPerform (s : State) (c : Nat) (e : PathEntry) : Bool :=
  (s.core c).oldest e && !s.fenced c e && s.scOpen c e && !s.markHeld c e && !s.checkHeld c e.acc

/-! What becomes of an access. -/

/-- What a home gives for an access. -/
inductive Served where
  /-- Performed. -/
  | done (s : State) (a : Ans)
  /-- It draws a trap, or the end of its engine operation with a status. -/
  | fails (s : State) (t : Trap) (status : Nat)
  /-- It waits; `kind` is the wait that its strand begins (R278). -/
  | waits (kind : Option Nat)
  /-- Answered at a slip mark: D and the tile's size. -/
  | slips (d : Word) (size : Nat)
  /-- It has left its home, and its answer comes later (R25). -/
  | leaves (s : State)
  /-- Not now. -/
  | notNow

/-- An access taken out of its path queue or retry list. -/
def State.takeOut (s : State) (c : Nat) (e : PathEntry) : State :=
  { s with retry := s.retry.erase (c, e) }.modCore c fun q => { q with path := q.path.erase e }

/-- A strand that is parked for an answer begins to wait (R278 to R280). -/
def State.beginWait (s : State) (h kind : Nat) (badva : Word) : State :=
  if (s.strand h).status == .parked .answer then
    let w := s.newWait h kind badva none
    match s.noWake h w with
    | some k => s.trapWait h (trapNOWAKE kind k badva)
    | none => s.modStrand h fun t => { t with status := .parked (.wait w) }
  else s

/-- The address with which an access's instruction made it, before any hop (R236). -/
def Access.firstVa (a : Access) : Word := a.hops.foldl (fun va h => va - h.delta) a.va

/-- The strand of an access that is not performed begins its wait, if it has one to begin: of a ghost read by the ghost word's own
address (R152, R156, R278). -/
def State.startWait (s : State) (a : Access) (kind : Option Nat) : State :=
  match kind with
  | some k => if a.answers then s.beginWait a.strand k (if k = 7 then a.firstVa else a.va) else s
  | none => s

/-- What a home gives for an access, applied: an engine's read is noted with its operation. A waiting access goes into the
retry list while that has room (R230). -/
def State.settle (s : State) (c : Nat) (e : PathEntry) (r : Served) : State :=
  match r with
  | .done s (.fetched g) => (s.takeOut c e).noteFetch c e.seq g
  | .done s a => (s.takeOut c e).respond c e.acc a
  | .fails s t status => (s.takeOut c e).failAccess c e t status
  | .waits kind =>
    let s :=
      if s.retryRoom e.acc.loc.home && (s.core c).path.contains e then
        { s.takeOut c e with retry := s.retry ++ [(c, e)] }
      else s
    s.startWait e.acc kind
  | .slips d size =>
    (s.takeOut c e).modCore c fun q => { q with slipped := q.slipped ++ [(e, hopAt e.acc.va d size)] }
  | .leaves s => s.takeOut c e
  | .notNow => s

/-! Memory. -/

/-- Is the instruction that a strand has under way LDS or STS? -/
def Strand.inSync (t : Strand) : Bool :=
  match t.inst with
  | some w => w.extractLsb' 24 8 == 0x31#8 || w.extractLsb' 24 8 == 0x32#8
  | none => false

/-- The wait that a strand begins for an access to memory that is not performed: LDS and STS, or the ghost read of a
cochain instruction (R278); none while the tile is MOVING, but once it has moved and the test fails (R235). -/
def State.memoryWait (s : State) (a : Access) : Option Nat :=
  if (s.movingAt a.loc).isSome then none
  else
    match a.kind with
    | .sync _ _ => some (if (s.strand a.strand).inSync then 4 else 7)
    | _ => none

/-- What a check brings back that nothing turns away. -/
def Got.checked : Got := { status := 0, fault := none, data := [], poison := [], line := false, tags := [] }

/-- The answer to an access to memory: a value with the hops taken, a block with its words' poison, or what an engine's read
brings back. -/
def State.memoryAnswer (s : State) (a : Access) (v : Vec) : Ans :=
  match a.kind with
  | .fetch view => .fetched (s.gotAt view a.loc a.len)
  | .lift => .fetched (s.gotAt .plain a.loc a.len)
  | .load _ true => .block v ((wordsOf a.loc 64).map fun w => (s.tagAt w).poison)
  | .check => if a.op.isSome then .fetched Got.checked else .val v a.hops
  | _ => .val v a.hops

/-- An access to memory performed (R218, R229, R230, R236, R242). -/
def State.serveMemory (s : State) (c : Nat) (a : Access) : Served :=
  match s.perform c a with
  | .done s' v => .done s' (s.memoryAnswer a v)
  | .poisoned k => .fails s (trapPOISON (a.va + BitVec.ofNat 64 k)) statPOISON
  | .waits => .waits (s.memoryWait a)
  | .slip d size => .slips d size

/-- Is the place one of memory: scratch or HBM? -/
def Home.isMemory : Home → Bool
  | .unit _ => true | .cluster _ => true | .die _ => true | .slice _ => true | _ => false

/-! Peer modules. -/

/-- What an engine's read brings back from a peer module: its bytes, then a byte for each of its words, 1 where it is full;
with poison, all bytes. -/
def peerGot (n : Nat) (poison : Bool) (bs : List Byte) : Got :=
  { status := 0, fault := none, data := (bs ++ List.replicate n 0#8).take n, poison := List.replicate n poison, line := poison
    tags := (List.range ((n + 7) / 8)).map fun i => { full := (bs.getD (n + i) 0#8) == 1#8, poison := poison } }

/-- The answer of a peer module to an access (R21, R241): code 0 good, with the value's bytes; 1 to 4 the reasons of R241;
5 poison, at the byte that the first byte of the answer counts from the address, or with the bytes that an engine reads;
6 the access waits there (R232); 7 it met a slip mark there, with D and the tile's size as two words (R236). A reason 1
is logged here, where the request is issued. With every port DOWN a request fails for reason 1; while a port is to come
up again it waits (R374). A write that was checked before draws no error, and waits for a port that is UP; poison does not
matter to a check (log 7). DESIGN CHOICE. An address that names the own module's number is one of a peer like any other, answered
by input: nothing loops back to the own memory (log 65). -/
def State.servePeer (s : State) (c : Nat) (path : Path) (a : Access) (peer : List Byte) (code : Nat) : Served :=
  let code := if s.allDown then 1 else if (a.sure && decide (code ≤ 5)) || (a.kind == .check && code == 5) then 0 else code
  let fetches := a.isFetch
  if s.noneUp && (a.sure || !s.allDown) then .notNow
  else if code = 0 then
    .done s (if fetches then .fetched (if a.kind = .check then Got.checked else peerGot a.len false peer)
             else .val (vecOfBytes (peer.take a.len)) a.hops)
  else if code = 5 then
    (if fetches then .done s (.fetched (peerGot a.len true peer))
     else .fails s (trapPOISON (a.va + BitVec.ofNat 64 (natOfBytes (peer.take 1)))) statREMOTE)
  else if code = 6 then (match a.kind with
    | .sync _ _ => .waits (some (if (s.strand a.strand).inSync then 4 else 7))
    | _ => .notNow)
  else if code = 7 then .slips (BitVec.ofNat 64 (fieldOf peer 0 8)) (fieldOf peer 8 8)
  else
    let s :=
      if code = 1 then
        s.logViolation (dieOf c) a.va (s.endpoint c) (isControl c) (if a.op.isSome then 7 else a.strand % 8) path.code 1
      else s
    .fails s (trapACCERR a.va (BitVec.ofNat 64 (min code 4))) statREMOTE

/-! The rows that serve a device's words. -/

/-- The row of the opcode table that serves an access. -/
inductive DevRow where
  | perform | register
  | barrierCfg | phaseWait | mutexAcquire | mutexRelease | lineWait | lineSignal | peekSet
  | chanSend | chanRecv | chanHead | chanCfg
  | groupTable | collectiveGo | ansaResume | ansaEnd | engactRetry | engactEnd
  | pctlNotice | pctlPreempt | pctlResume | pctlWithdraw | extint | icmdInsert | icmdMstore
  | lcmdStep | lcmdRetrain | lcmdDown | vstatClear | rpcmdRetrain | rpcmdHotReset | rpcmdDisable | rpcmdEnable
  deriving DecidableEq, Repr

/-- The row of an access to an event unit (R289). -/
def eventRow (o : Nat) (a : Access) : DevRow :=
  match a.kind, a.stored with
  | .barrive _, _ => .perform
  | _, none =>
    if o < 0x800 then .perform
    else if o < 0x900 then .mutexAcquire
    else if o < 0xA00 then .lineWait
    else if o < 0xB00 then .perform
    else .phaseWait
  | _, some _ =>
    if o < 0x800 then .barrierCfg
    else if o < 0x900 then .mutexRelease
    else if o < 0xA00 then .lineSignal
    else .peekSet

/-- The row of an access to a channel unit (R293). -/
def chanRow (o : Nat) (a : Access) : DevRow :=
  match a.kind, a.stored with
  | .send _ _, _ => .chanSend
  | _, none => if o = 0x20 then .chanRecv else .perform
  | _, some _ => if o = 8 then .chanCfg else if o = 0x10 then .chanHead else .perform

/-- The row of a store to a compute die's privileged block (R319). -/
def privRow (o : Nat) (v : Word) : DevRow :=
  if 0x100000 ≤ o ∧ o < 0x200000 then
    (if o % 16 = 8 ∧ v = 1 then .ansaResume else if o % 16 = 8 ∧ v = 2 then .ansaEnd else .register)
  else if 0x200000 ≤ o ∧ o < 0x300000 then
    (match o % 64 with
      | 0 => if v = 1 then .pctlNotice else if v = 2 then .pctlPreempt else if v = 3 then .pctlResume
             else if v = 4 then .pctlWithdraw else .register
      | 0x10 => if getField v 16 2 = 1 then .engactRetry else if getField v 16 2 = 2 then .engactEnd else .register
      | 0x18 => .extint
      | _ => .register)
  else if 0x300000 ≤ o ∧ o < 0x400000 then .groupTable
  else if 0x500000 ≤ o ∧ o < 0x600000 then
    (if o % 32 = 0x18 ∧ v = 1 then .icmdInsert else if o % 32 = 0x18 ∧ v = 2 then .icmdMstore else .register)
  else if 0x600000 ≤ o then (if o % 0x80 = 0x40 ∧ v.getLsbD 63 then .collectiveGo else .register)
  else .register

/-- The row of a store to the hub die's block (R24, R26, R375). DESIGN CHOICE. Reserved bits of a store to VSTAT are discarded: it
is its bit 0 that must be 0 (log 34). -/
def hubRow (o : Nat) (v : Word) : DevRow :=
  if 0x100000 ≤ o ∧ o < 0x101000 ∧ o % 0x100 = 0x18 then
    (if v = 1 then .lcmdStep else if v = 2 then .lcmdRetrain else if v = 3 then .lcmdDown else .register)
  else if 0x2000000 ≤ o ∧ o < 0x2040000 ∧ o % 0x10000 = 8 then
    (if v = 1 then .rpcmdRetrain else if v = 2 then .rpcmdHotReset else if v = 3 then .rpcmdDisable
     else if v = 4 then .rpcmdEnable else .register)
  else if 0x3004000 ≤ o ∧ o < 0x3008000 ∧ v.getLsbD 0 = false then .vstatClear
  else .register

/-- THE ROW THAT SERVES AN ACCESS: HOME_PERFORM for memory, peers, PCIe and plain loads of a device. -/
def rowOf (a : Access) : DevRow :=
  match a.loc.home with
  | .event _ => eventRow a.loc.off a
  | .chan _ => chanRow (a.loc.off % 4096) a
  | .priv b =>
    (match a.stored with
      | none => .perform
      | some v =>
        if b = 8 then (if (pcieRegion a.loc.off).isSome then .perform else hubRow a.loc.off v) else privRow a.loc.off v)
  | _ => .perform

/-- A row served: the access of a core with this serial number, if it is the row's and may be performed now. -/
def serveRow (row : DevRow) (core seq : Nat) (f : State → Access → Served) : State → Result := fun s =>
  match s.pathEntry core seq with
  | some e => if rowOf e.acc == row && s.mayPerform core e then .next (s.settle core e (f s e.acc)) else .next s
  | none => .next s

/-- A row served for a store, which is answered once it is performed. -/
def serveStore (row : DevRow) (core seq : Nat) (f : State → Access → Word → State) : State → Result :=
  serveRow row core seq fun s a => .done (f s a (a.stored.getD 0)) Ans.unit

/-! The steps. -/

/-- POSTED_STORE_MOVE (R220): entry k of a core's posted-store queue, where no older entry is bound for its home. -/
def execPostedStoreMove (core k : Nat) : State → Result := fun s =>
  match (s.core core).posted[k]? with
  | some a =>
    if ((s.core core).posted.take k).any fun o => o.loc.home == a.loc.home then .next s
    else
      .next ((s.modCore core fun c => { c with posted := c.posted.eraseIdx k }).enterPath core .core a)
  | none => .next s

/-- What an access needs of its page (R326). -/
def AccKind.need : AccKind → Need
  | .load _ _ => .read | .watch => .read | .probe => .read | .fetch _ => .read | .lift => .read
  | .sync .readLeave _ => .read
  | .amo _ _ => .both | .cas _ _ => .both | .sync _ _ => .both | .release => .both
  | _ => .write

/-- The mode in which an access is checked: its engine operation's, U of a seam message (R184), else its strand's. -/
def State.modeOf (s : State) (c : Nat) (a : Access) : Mode :=
  match a.kind, a.op.bind fun id => (s.core c).op? id with
  | .seam _, _ => .u
  | _, some o => o.mode
  | _, none => (s.strand a.strand).mode

/-- An access that has left a tile goes on from va to a new place (R235, R236): at the end of its path queue, with its
serial number kept; on the CORE path older posted stores to the new home move into the queue first (R220). An SC access
is announced again, behind all that its core has announced. -/
def State.goOn (s : State) (c : Nat) (e : PathEntry) (hop : Hop) (va : Word) (l : Loc) : State :=
  let a := { s.announceAgain c e.acc with va := va, loc := l, hops := e.acc.hops ++ [hop] }
  let a := { a with asid := if a.root.isSome then a.asid else (s.core c).asid.toNat % 65536 }
  let s := if e.path == .core then s.movePosted c (· == l.home) else s
  s.modCore c fun t =>
    { t with path := t.path ++ [{ e with acc := a, forwarded := false }], seq := t.seq + if a.sc.isSome then 1 else 0 }

/-- A translation for a request from outside, under an entry's PTROOT, the U bit ignored (R24, R328): the place, or the
reason of R241. `fab` asks for the FAB bit; `setsA` says whether A and D are set in hardware. -/
def State.outsideWalk (s : State) (root va : Word) (need : Need) (fab setsA : Bool) : Except Nat Loc × State :=
  match s.walk root va.toNat with
  | .fail _ _ => (.error 3, s)
  | .leaf e x _ l =>
    if (fab && !e.getLsbD 10) || !leafGrants e .s need true then (.error 4, s)
    else
      let missing := !e.getLsbD 8 || (need.writes && !e.getLsbD 9)
      if missing && !setsA then (.error 3, s)
      else (.ok (leafPlace e x va.toNat), if missing then s.touchLeaf l e need.writes else s)

/-- A request of a root port's device that was answered at a slip mark goes on under the entry that it was matched with; a walk
that fails, an address that no request may reach, and a fifth hop refuse it (R23, R24, R236). -/
def State.deviceHop (s : State) (c : Nat) (e : PathEntry) (hop : Hop) (root : Word) : State :=
  let va := e.acc.va + hop.delta
  if 4 ≤ e.acc.hops.length then s.refuseDevice c e.acc e.acc.va
  else if 2 ^ 55 < va.toNat + e.acc.len then s.refuseDevice c e.acc va
  else
    match s.outsideWalk root va e.acc.kind.need false true with
    | (.ok l, s) => s.goOn c e hop va l
    | (.error _, s) => s.refuseDevice c e.acc va

/-- A write that was checked before, whose new address does not translate, waits where it is; its engine operation parks for the
kernel, if it is not parked and its message is not posted (R262, R334). DESIGN CHOICE. Where it is, and for a strand's store, the
write waits until its address translates (log 7). -/
def State.holdWrite (s : State) (c : Nat) (a : Access) (t : Trap) : State :=
  match (s.core c).openOp a with
  | some o => if o.parked then s else s.parkOp o c t
  | none => s

/-- SLIP_MARK_HOP (R236): an access answered at a slip mark goes on, or needs a fifth hop. A request from another module is answered
there. -/
def execSlipMarkHop (core seq : Nat) : State → Result := fun s =>
  match (s.core core).slipped.find? fun e => e.1.seq == seq with
  | none => .next s
  | some (e, hop) =>
    let out (s : State) : State := s.modCore core fun c => { c with slipped := c.slipped.filter fun o => o.1.seq != seq }
    let a := e.acc
    let va := a.va + hop.delta
    match a.root with
    | some root => .next ((out s).deviceHop core e hop root)
    | none =>
      if 4132 ≤ core then .next (out s)
      else if a.deep then .next ((out s).cannotGo core e (trapMCHAIN a.va) statMCHAIN)
      else
        match windowOf va.toNat with
        | (.peer m, o) => .next ((out s).goOn core e hop va (s.peerPlace m o))
        | _ =>
          let fails (t : State) (tr : Trap) : State :=
            if a.sure then t.holdWrite core a tr else (out t).cannotGo core e tr statPF
          match s.translate core (s.modeOf core a) va a.kind.need with
          | (.ok l _, t) => .next ((out t).goOn core e hop va l)
          | (.fault tr, t) => .next (fails t tr)
          | (.miss, t) => .next (fails t (pfTrap a.kind.need va 0 0))

/-- ACCESS_RESPONSE (R219): an answer reaches the strand named. -/
def execAccessResponse : State → Result := fun s =>
  match (s.core s.here).answers.find? fun a => a.1 == s.cur with
  | some a =>
    if s.me.status == .parked .answer then
      .next ((s.modCore s.here fun c => { c with answers := c.answers.erase a }).answer s.cur a.2)
    else .next s
  | none => .next s

/-- Is what a parked strand waits for in the memory system over (R219, R224, R227, R268, R302, R346)? -/
def State.drained (s : State) (h : Nat) (p : Park) : Bool :=
  let c := coreOf h
  match p with
  | .postedFull => decide ((s.core c).posted.length < 16)
  | .drain => !s.storesPending h
  | .written since => !s.sincePending h since
  | .fence num =>
    !((s.core c).fences.any fun m => m.num == num && s.fencePending c m)
  | .drainAll seq => !(s.outstanding c).any fun e => decide (e.seq < seq)
  | .ctuinv waits strands moves => s.ctuinvDone waits strands moves
  | _ => false

/-- DRAIN_COMPLETE (R219, R224, R227, R346): what the strand named is parked for in the memory system is over. -/
def execDrainComplete : State → Result := fun s =>
  match s.me.status with
  | .parked p =>
    if s.drained s.cur p then
      (match p with
        | .drainAll _ => .next (s.answer s.cur Ans.unit)
        | .ctuinv _ _ _ => .next (s.answer s.cur Ans.unit)
        | _ => .next (s.wake s.cur))
    else .next s
  | _ => .next s

end Sys2Proof.Machine
end

