-- ==== Sys2Proof/Machine/Event.lean ====
section
/-! DEFINITION. The event units of the clusters: barriers, mutexes, event lines (R289 to R292, R296). -/

namespace Sys2Proof.Machine

/-- A barrier object. -/
def State.barrier (s : State) (k b : Nat) : Barrier := (s.cluster k).barriers.toList.getD b Barrier.reset

/-- A barrier object changed. -/
def State.modBarrier (s : State) (k b : Nat) (f : Barrier → Barrier) : State :=
  s.modCluster k fun q => { q with barriers := q.barriers.mapFinIdx fun i x _ => if i = b then f x else x }

/-- COUNT of a barrier object (R290). -/
def Barrier.count (b : Barrier) : Nat := getField b.cfg 0 16
/-- PV. -/
def Barrier.hasParent (b : Barrier) : Bool := b.cfg.getLsbD 40
/-- The cluster and the number of the parent. -/
def Barrier.parent (b : Barrier) : Nat × Nat := (64 * getField b.cfg 37 3 + getField b.cfg 31 6, getField b.cfg 26 5)

/-- The bits of CFG that are not reserved (R290). -/
def barrierMask : Word := 0x000001FFFC00FFFF#64

/-- STATE as it reads (R290). -/
def Barrier.stateWord (b : Barrier) : Word :=
  BitVec.ofNat 64 (b.phase.toNat * 2 ^ 32 + (if b.hold then 2 ^ 16 else 0) + b.arrived % 2 ^ 16)

/-- Is an access a load of a phase-wait word of a barrier that a phase satisfies (R289)? -/
def phaseSatisfied (k b : Nat) (phase : BitVec 32) (a : Access) : Bool :=
  a.loc.home == .event k && a.stored.isNone && decide (0x2000 + 256 * b ≤ a.loc.off ∧ a.loc.off < 0x2000 + 256 * (b + 1)) &&
    decide (a.loc.off % 256 / 8 ≠ phase.toNat % 32)

/-- A value as an answer. -/
def wordAns (w : Word) : Ans := .val (w.setWidth 512) []

/-- A flip (R291): PHASE goes on, ARRIVED and HOLD are clear, the children that arrived are told, the phase waits in the
retry list are satisfied, and the root object of a job closes its phase (R296). -/
def State.flip (s : State) (k b : Nat) : State :=
  let o := s.barrier k b
  let phase := o.phase + 1
  let s := s.modBarrier k b fun o => { o with phase := phase, arrived := 0, hold := false, children := [] }
  let s := o.children.foldl (fun s c => s.modBarrier c.1 c.2 fun q => { q with falling := true }) s
  let ready := s.retry.filter fun e => phaseSatisfied k b phase e.2.acc
  let s := ready.foldl (fun s e => s.settle e.1 e.2 (.done s (wordAns (phase.setWidth 64)))) s
  if o.hasParent then s
  else (s.rootBarrierOf k b).foldl State.closePhase s

/-- An arrival at an object that does not hold (R291), of a strand or of a child: it counts, and at COUNT the object
flips or tells its parent. -/
def State.arriveAt (s : State) (k b : Nat) (child : Option (Nat × Nat)) : State :=
  let s := s.modBarrier k b fun o => { o with arrived := o.arrived + 1, children := o.children ++ child.toList }
  let o := s.barrier k b
  if o.count ≤ o.arrived then
    if o.hasParent then s.modBarrier k b fun o => { o with hold := true, rising := true } else s.flip k b
  else s

/-- BARRIVE performed (R291, R292): PHASE as it stood before. -/
def State.serveArrive (s : State) (k b : Nat) : Served :=
  let o := s.barrier k b
  if o.hold || o.count == 0 then .waits (some 3)
  else .done (s.arriveAt k b none) (wordAns (o.phase.setWidth 64))

/-- Is an access to the same word waiting at its home? -/
def State.waitsBefore (s : State) (a : Access) : Bool := s.retry.any fun e => !e.2.acc.armed && sameWords e.2.acc a

/-- A phase wait (R289). -/
def State.servePhase (s : State) (k : Nat) (a : Access) : Served :=
  let o := s.barrier k ((a.loc.off - 0x2000) / 256)
  if o.phase.toNat % 32 = a.loc.off % 256 / 8 then .waits (some 3) else .done s (wordAns (o.phase.setWidth 64))

/-- A mutex acquired, or waited for (R289). -/
def State.serveMutex (s : State) (k : Nat) (a : Access) : Served :=
  let m := (a.loc.off - 0x800) / 8
  match (s.cluster k).mutexes.toList.getD m none with
  | some _ => .waits (some 3)
  | none => .done (s.modCluster k fun q => { q with mutexes := q.mutexes.setIfInBounds m (some a.strand) }) (wordAns 1)

/-- An event line's COUNT. -/
def State.lineCount (s : State) (k n : Nat) : BitVec 32 := (s.cluster k).lines.toList.getD n 0

/-- An event line taken once, or waited for (R289). -/
def State.serveLine (s : State) (k : Nat) (a : Access) : Served :=
  let n := (a.loc.off - 0x900) / 8
  let c := s.lineCount k n
  if c = 0 then .waits (some 3)
  else .done (s.modCluster k fun q => { q with lines := q.lines.setIfInBounds n (c - 1) }) (wordAns (c.setWidth 64))

/-- A load of CFG, STATE or a peek word (R289). -/
def State.eventRead (s : State) (k o : Nat) : Word :=
  if o < 0x800 then (if o % 64 = 0 then (s.barrier k (o / 64)).cfg else (s.barrier k (o / 64)).stateWord)
  else (s.lineCount k ((o - 0xA00) / 8)).setWidth 64

/-- An access to an event unit that may wait, served: from its retry list, or where none waits before it (R289). -/
def State.serveEvent (s : State) (k : Nat) (a : Access) : Served :=
  match rowOf a with
  | .phaseWait => s.servePhase k a
  | .mutexAcquire => s.serveMutex k a
  | .lineWait => s.serveLine k a
  | _ =>
    match a.kind with
    | .barrive b => s.serveArrive k b
    | _ => .done s (wordAns (s.eventRead k a.loc.off))

/-- The cluster of an event unit's access. -/
def eventUnit (a : Access) : Nat :=
  match a.loc.home with
  | .event k => k
  | _ => 0

/-- BARRIER_CFG_WRITE (R289). A store while the object has state is software's error (R7): what it held is gone. -/
def execBarrierCfgWrite (core seq : Nat) : State → Result :=
  serveStore .barrierCfg core seq fun s a v =>
    let k := eventUnit a
    (s.modBarrier k (a.loc.off / 64) fun o =>
      { o with cfg := v &&& barrierMask, phase := 0, arrived := 0, children := [], hold := false, rising := false }).recheckCluster k

/-- Does one job have cores in both clusters? -/
def State.sameJob (s : State) (k l : Nat) : Bool :=
  k == l || s.jobs.any fun j => j.2.cores.any (clusterOf · == k) && j.2.cores.any (clusterOf · == l)

/-- BARRIER_CHILD_ARRIVAL (R291): the arrival of an object reaches its parent, and waits there while it holds. DESIGN CHOICE. A
parent in a cluster that no job shares with the object's is software's error, confined to its job (R7, R296): the arrival never
counts there (log 63). -/
def execBarrierChildArrival (cluster obj : Nat) : State → Result := fun s =>
  let o := s.barrier cluster obj
  if !o.rising then .next s
  else
    let (k, b) := o.parent
    let p := s.barrier k b
    if p.hold || p.count == 0 || !s.sameJob cluster k then .next s
    else .next ((s.modBarrier cluster obj fun o => { o with rising := false }).arriveAt k b (some (cluster, obj)))

/-- BARRIER_PARENT_FLIP (R291): the flip of its parent reaches an object. -/
def execBarrierParentFlip (cluster obj : Nat) : State → Result := fun s =>
  if (s.barrier cluster obj).falling then
    .next ((s.modBarrier cluster obj fun o => { o with falling := false }).flip cluster obj)
  else .next s

/-- PHASE_WAIT (R289). -/
def execPhaseWait (core seq : Nat) : State → Result :=
  serveRow .phaseWait core seq fun s a => s.servePhase (eventUnit a) a

/-- MUTEX_ACQUIRE (R289): behind those that wait already. -/
def execMutexAcquire (core seq : Nat) : State → Result :=
  serveRow .mutexAcquire core seq fun s a => if s.waitsBefore a then .waits (some 3) else s.serveMutex (eventUnit a) a

/-- MUTEX_RELEASE (R289). -/
def execMutexRelease (core seq : Nat) : State → Result :=
  serveStore .mutexRelease core seq fun s a _ =>
    s.modCluster (eventUnit a) fun q => { q with mutexes := q.mutexes.setIfInBounds ((a.loc.off - 0x800) / 8) none }

/-- EVENT_LINE_WAIT (R289): behind those that wait already. -/
def execEventLineWait (core seq : Nat) : State → Result :=
  serveRow .lineWait core seq fun s a => if s.waitsBefore a then .waits (some 3) else s.serveLine (eventUnit a) a

/-- EVENT_LINE_SIGNAL (R289). -/
def execEventLineSignal (core seq : Nat) : State → Result :=
  serveStore .lineSignal core seq fun s a v => s.signalLine (eventUnit a) ((a.loc.off - 0x900) / 8) (getField v 0 32)

/-- EVENT_PEEK_SET (R289). -/
def execEventPeekSet (core seq : Nat) : State → Result :=
  serveStore .peekSet core seq fun s a v =>
    s.modCluster (eventUnit a) fun q => { q with lines := q.lines.setIfInBounds ((a.loc.off - 0xA00) / 8) (v.setWidth 32) }

end Sys2Proof.Machine
end

