-- ==== Sys2Proof/Machine/Chan.lean ====
section
/-! DEFINITION. Channels: sends, receives and control words, and the seam queue (R184, R293, R337, R355, R393). -/

namespace Sys2Proof.Machine

/-- A channel queue changed. -/
def State.modChan (s : State) (c q : Nat) (f : ChanQueue → ChanQueue) : State :=
  s.modCore c fun t => { t with chan := t.chan.mapFinIdx fun i x _ => if i = q then f x else x }

/-- Bytes of an entry. -/
def ChanQueue.entryBytes (q : ChanQueue) : Nat := 8 * 2 ^ q.sizeCode
/-- NOTIFY: a strand plus 1, or 0. -/
def ChanQueue.notify (q : ChanQueue) : Nat := getField q.cfg 24 4
/-- Entries written and not consumed. -/
def ChanQueue.held (q : ChanQueue) : Nat := (q.tail - q.head).toNat

/-- DESIGN CHOICE. The place of entry n of a core's queue: the ring lies at BASE in unit data scratch, and wraps at its
end (log 33). -/
def ChanQueue.place (q : ChanQueue) (core : Nat) (n : BitVec 32) : Loc :=
  { home := .unit core, off := (q.base.toNat + n.toNat % (max q.entries 1) * q.entryBytes) % 0x20000 }

/-- The core and the queue of an access to a channel unit. -/
def chanOf (a : Access) : Nat × Nat :=
  match a.loc.home with
  | .chan c => (c, a.loc.off / 4096 % 16)
  | _ => (0, 0)

/-! Sends. -/

/-- The message of an entry written to a queue with NOTIFY (R293). -/
def State.notifyEntry (s : State) (c q : Nat) : State :=
  let n := (s.chanQueue c q).notify
  if n = 0 then s
  else
    let h := 8 * c + (n - 1)
    let uid := ((s.strand h).unit.map UnitRef.uid).getD 0
    s.post { msg := { strand := h, uid := uid, word0 := messageWord 0x32 0 0#5 0 0 0 (q + 1), word1 := 0 }, op := none, cmd := false }

/-- The strand that wrote an entry (R184). -/
def ChanQueue.sender (q : ChanQueue) (n : BitVec 32) : Nat := ((q.senders.find? fun e => e.1 == n).map Prod.snd).getD 0

/-- An entry of a strand appended to a queue (R293). -/
def State.appendEntry (s : State) (c q strand : Nat) (bs : List Byte) : State :=
  let k := s.chanQueue c q
  ((s.write c (k.place c k.tail) bs).modChan c q fun k =>
    { k with tail := k.tail + 1, senders := ((k.tail, strand) :: k.senders).take k.entries }).notifyEntry c q

/-- The bytes that a send puts into an entry: a VST's lowest, a seam message's sixteen, an ST's eight; none where the
queue's entries have another size (R293, R393). -/
def sentBytes (k : ChanQueue) (bs : List Byte) (vec : Bool) : Option (List Byte) :=
  if vec then some (bs.take k.entryBytes) else if bs.length = k.entryBytes then some bs else none

/-- A SEND (R293): refused, waiting for an entry, spilled, or appended. -/
def State.serveSend (s : State) (c : Nat) (a : Access) (bs : List Byte) (vec : Bool) : Served :=
  let (t, q) := chanOf a
  let k := s.chanQueue t q
  let seam := !vec && bs.length == 16
  if (s.core t).job.isNone || (s.core t).job != (s.core c).job then .fails s (trapACCERR a.va 0) statACCERR
  else if k.entries = 0 then .fails s (trapACCERR a.va 5) statACCERR
  else
    match sentBytes k bs vec with
    | none => .fails s (trapACCERR a.va (if seam then 5 else 0)) statACCERR
    | some bs =>
      if (s.core t).diverts then
        if (s.core t).spillFull then .waits (some 10)
        else
          .done (s.spillEntry t
            { kind := if seam then 1 else 0, queue := q, size := bs.length, sender := s.endpoint c, payload := bs
              strand := a.strand, msg := none }) Ans.unit
      else if k.entries ≤ k.held then .waits (some 10)
      else .done (s.appendEntry t q a.strand bs) Ans.unit

/-- CHAN_SEND (R293): a SEND reaches its queue; behind those of its core that wait already. -/
def execChanSend (core seq : Nat) : State → Result :=
  serveRow .chanSend core seq fun s a =>
    match a.kind with
    | .send bs vec =>
      if s.retry.any fun e => e.1 == core && e.2.acc.loc == a.loc && rowOf e.2.acc == .chanSend then .waits (some 10)
      else s.serveSend core a bs vec
    | _ => .notNow

/-- CHAN_ENTRY_WRITE (R293): a SEND that waits gets its entry, the oldest that waits for the queue first. -/
def execChanEntryWrite (core seq : Nat) : State → Result := fun s =>
  match s.retryEntry core seq with
  | some e =>
    match e.acc.kind, (s.retry.find? fun o => o.2.acc.loc == e.acc.loc && rowOf o.2.acc == .chanSend) with
    | .send bs vec, some o => if o == (core, e) then .next (s.settle core e (s.serveSend core e.acc bs vec)) else .next s
    | _, _ => .next s
  | none => .next s

/-! The owner's words. -/

/-- A load of a control word (R293). -/
def ChanQueue.read (q : ChanQueue) (o : Nat) : Word :=
  match o with
  | 0 => q.base
  | 8 => q.cfg
  | 0x10 => q.head.setWidth 64
  | _ => q.tail.setWidth 64

/-- RECV (R293): waits while the queue is empty. -/
def State.serveRecv (s : State) (a : Access) : Served :=
  let (c, q) := chanOf a
  let k := s.chanQueue c q
  if k.head = k.tail then .waits (some 9) else .done s (wordAns (k.tail.setWidth 64))

/-- CHAN_RECV (R293). -/
def execChanRecv (core seq : Nat) : State → Result := serveRow .chanRecv core seq fun s a => s.serveRecv a

/-- A store to a control word that must hold what the queue allows. One whose strand waits for the answer traps where it does
not; a posted one was checked at issue (R355; log 59). `after` is what the write makes the core named do. -/
def State.storeControl (s : State) (a : Access) (ok : ChanQueue → Word → Bool) (after : Nat → State → State) : Served :=
  let (c, q) := chanOf a
  let v := a.stored.getD 0
  if a.answers && !ok (s.chanQueue c q) v then .fails s (trapCHAN a.va v) statACCERR
  else .done (after c (s.modChan c q fun k => k.put (a.loc.off % 4096) v)) Ans.unit

/-- CHAN_HEAD_WRITE (R293, R355). -/
def execChanHeadWrite (core seq : Nat) : State → Result := serveRow .chanHead core seq fun s a =>
  s.storeControl a chanHeadOk fun _ s => s

/-- CHAN_CFG_WRITE (R293, R355). -/
def execChanCfgWrite (core seq : Nat) : State → Result := serveRow .chanCfg core seq fun s a =>
  s.storeControl a chanCfgOk fun c s => s.recheckCore c

/-- A plain access to a control word: a load, or a store of BASE (R293). -/
def State.serveChan (s : State) (a : Access) : Served :=
  let (c, q) := chanOf a
  match a.stored with
  | none => .done s (wordAns ((s.chanQueue c q).read (a.loc.off % 4096)))
  | some v => .done (s.modChan c q fun k => { k with base := v }) Ans.unit

/-! The seam queue. -/

/-- SEAM_QUEUE_TAKE (R184, R393): the head of a seam queue, whose entries have 16 bytes, once its landing register is
VALID: its write-when-empty sent on the CORE path, or a disagreement recorded. -/
def execSeamQueueTake (core queue : Nat) : State → Result := fun s =>
  let k := s.chanQueue core queue
  if queue != 15 || k.entries == 0 || k.sizeCode != 1 || k.head == k.tail || (s.core core).pstate == .saved then .next s
  else
    let m := seamOfBytes (k.sender k.head) (s.bytesAt (k.place core k.head) 16)
    if !(s.landing core m).valid then .next s
    else
      let pop (s : State) : State := s.modChan core queue fun k => { k with head := k.head + 1 }
      match s.seamPlace core m with
      | (none, s) => .next (pop (s.refuseSeam core m))
      | (some (va, l), s) => .next ((pop s).enterPath core .core (s.seamAccess core m va l))

end Sys2Proof.Machine
end

