-- ==== Sys2Proof/Machine/Collective.lean ====
section
/-! DEFINITION. Collectives: the routers, COLPUT and COLGET (R12, R93 to R95, R305 to R308, R333). -/

namespace Sys2Proof.Machine

/-! The mesh and the group table. -/

/-- A core's column and row in the mesh of its die (R12). -/
def meshPlace (c : Nat) : Nat × Nat :=
  let k := c % 8
  let n := c / 8 % 64
  (4 * (n % 8) + k % 4, 2 * (n / 8) + k / 4)

/-- The core of a die at a column and row. -/
def coreAt (d col row : Nat) : Nat := 512 * d + 8 * (row / 2 * 8 + col / 4) + row % 2 * 4 + col % 4

/-- The neighbour of a core at a port, 1 N, 2 E, 3 S, 4 W, 5 EXT (R14, R305); none at the edge of the die, nor where EXT leads
to a gateway. DESIGN CHOICE. The bridge to the next die joins the routers of column 31 with those of its column 0 in the same
row (log 30). -/
def neighbour (c port : Nat) : Option Nat :=
  let (col, row) := meshPlace c
  let d := c / 512
  match port with
  | 5 =>
    if col = 31 then some (coreAt ((d + 1) % 8) 0 row) else if col = 0 then some (coreAt ((d + 7) % 8) 31 row) else none
  | 1 => if row = 0 then none else some (coreAt d col (row - 1))
  | 2 => if col = 31 then none else some (coreAt d (col + 1) row)
  | 3 => if row = 15 then none else some (coreAt d col (row + 1))
  | 4 => if col = 0 then none else some (coreAt d (col - 1) row)
  | _ => none

/-- The port by which a neighbour reaches back. -/
def oppositePort (port : Nat) : Nat :=
  if port = 1 then 3 else if port = 2 then 4 else if port = 3 then 1 else if port = 4 then 2 else port

/-! Fields of a group table entry (R305). -/

/-- Contributions per round, at the root. -/
def groupLeaves (e : Word) : Nat := getField e 48 16 + 1
/-- Elements per contribution. -/
def groupLen (e : Word) : Nat := getField e 36 7
/-- The handle of a routine group. -/
def groupHandle (e : Word) : Nat := getField e 32 4
/-- The operator. -/
def groupOper (e : Word) : Nat := getField e 28 4
/-- The element type. -/
def groupFmt (e : Word) : BitVec 3 := e.extractLsb' 25 3
/-- The rounding code. -/
def groupRm (e : Word) : BitVec 3 := e.extractLsb' 22 3
/-- The port toward the root. -/
def groupParent (e : Word) : Nat := getField e 19 3
/-- The ports that send contributions here. -/
def groupChildren (e : Word) : List Nat := (List.range 6).filter fun p => e.getLsbD (13 + p)
/-- Is the entry in use, with an operator that exists? -/
def groupValid (e : Word) : Bool := e.getLsbD 0 && decide (groupOper e ≤ 6)

/-! Combining. -/

/-- floor(log2(|v|)) of a nonzero number m * 2^e. -/
def topExp (m : Nat) (e : Int) : Int := e + Nat.log2 m

/-- The largest exponent among the numbers of a list (R93). -/
def maxExp : List Num → Option Int
  | [] => none
  | .fin _ m e :: r =>
    (match maxExp r with
      | some x => some (max (topExp m e) x)
      | none => some (topExp m e))
  | _ :: r => maxExp r

/-- A number truncated to the grid 2^q (R93): the integer, and whether something was lost. -/
def truncateTo (q : Int) : Num → Int × Bool
  | .fin n m e =>
    let (k, lost) := if q ≤ e then (m * 2 ^ (e - q).toNat, false) else (m / 2 ^ (q - e).toNat, m % 2 ^ (q - e).toNat != 0)
    (if n then -(k : Int) else k, lost)
  | _ => (0, false)

/-- The result of a floating-point SUM over contributions (R93). -/
def sumCollective (f : Fmt) (rm : Rm) (vs : List Num) : Word × FlagSet :=
  let nv := flagIf (vs.any Num.isSnan) flagNV
  let pinf := vs.contains (.inf false)
  let ninf := vs.contains (.inf true)
  if vs.any Num.isNan || (pinf && ninf) then (f.nan, flagNV)
  else if pinf then (f.inf false, nv)
  else if ninf then (f.inf true, nv)
  else
    match maxExp vs with
    | none => (f.sign (vs.all (· == .zero true) || (rm == .rdn && vs.contains (.zero true))), nv)
    | some e =>
      let q := e - (if f = .f64 then 110 else 62)
      let ts := vs.map (truncateTo q)
      let sum := (ts.map Prod.fst).sum
      let lost := flagIf (ts.any Prod.snd) flagNX
      let (w, fl) := if sum = 0 then (f.sign (rm == .rdn), 0#5) else deliver rm f (numOfInt sum q)
      (w, fl ||| lost)

/-- One lane of a round's result at the root, but for routine groups (R93, R94, R305): the operator on all contributions. -/
def combineLane (oper : Nat) (t : BitVec 3) (rm : Rm) (vs : List Word) : LaneResult :=
  let w := laneWidth t
  let fold (f : Word → Word → LaneResult) : LaneResult :=
    match vs with
    | [] => quiet 0
    | v :: r => r.foldl (fun a x => let b := f a.1 x; (b.1, a.2 ||| b.2)) (quiet v)
  match oper with
  | 0 => if isFloatType t then sumCollective (typeFmt t) rm (vs.map (unpack (typeFmt t)))
         else quiet (laneOfInt w ((vs.map BitVec.toNat).sum : Nat))
  | 1 => fold (laneMinMax t 0#3 false)
  | 2 => fold (laneMinMax t 0#3 true)
  | 3 => fold fun a x => quiet (a &&& x)
  | 4 => fold fun a x => quiet (a ||| x)
  | _ => fold fun a x => quiet (a ^^^ x)

/-- Do the items that two contributions carry agree (R307)? -/
def sameItems (e : Word) (a b : Contribution) : Bool :=
  if groupOper e = 6 then a.mode == b.mode && a.routine == b.routine && a.fnver == b.fnver
  else !isFloatType (groupFmt e) || a.mode == b.mode

/-- F(acc, next) in every lane (R209, R305, R307). -/
def applyLanes (rt : Routine) (mode : BitVec 3) (fnver : Nat) (acc next : List Word) : List Word × FlagSet :=
  let c : Captured := { frm := mode.setWidth 64, fte := 0, fnver := fnver }
  let rs := (acc.zip next).map fun p => rt.apply c [p.1, p.2]
  (rs.map fun r => r.outs.headD 0, orFlags (rs.map Applied.flags))

/-- Two contributions combined in a router, `b` at the higher port. -/
def joinContributions (e : Word) (a b : Contribution) : Contribution :=
  let agrees := a.agrees && b.agrees && sameItems e a b
  let (lanes, fl) := match a.routine with
    | some rt => if groupOper e = 6 && agrees then applyLanes rt a.mode a.fnver a.lanes b.lanes else (a.lanes, 0#5)
    | none => (a.lanes, 0#5)
  { a with leaves := a.leaves ++ b.leaves, lanes := lanes, flags := a.flags ||| b.flags ||| fl, agrees := agrees }

/-- The error result of a round (R305, R307). -/
def groupError (e : Word) : List Word × FlagSet :=
  (List.replicate (groupLen e) (if isFloatType (groupFmt e) then (typeFmt (groupFmt e)).nan else 0), flagNV)

/-- What the root makes of a round (R93, R305, R307): lanes and flags, and the cause to log. `free` is the place of free
values, for a rounding code that R45 does not give. -/
def rootResult (e : Word) (x : Contribution) (free : Nat) : (List Word × FlagSet) × Option Nat :=
  if x.leaves.length ≠ groupLeaves e then (groupError e, some 6)
  else if !x.agrees then (groupError e, some 8)
  else if groupOper e = 6 then ((x.lanes, x.flags), none)
  else
    match isFloatType (groupFmt e) && groupOper e == 0, Rm.ofCode x.mode with
    | true, none =>
      (((List.range (groupLen e)).map fun i =>
          BitVec.ofNat 64 ((Config.freeWord (free + i)).toNat % 2 ^ laneWidth (groupFmt e)),
        BitVec.ofNat 5 (Config.freeNat free)), none)
    | _, rm =>
      let rs := (List.range (groupLen e)).map fun i =>
        combineLane (groupOper e) (groupFmt e) (rm.getD .rne) (x.leaves.map fun l => l.2.getD i 0)
      ((rs.map Prod.fst, orFlags (rs.map Prod.snd)), none)

/-! Rounds. -/

/-- A contribution that arrives at a port put into a core's rounds: into the round that is still gathering, unless that
port has contributed to it. -/
def addPort (g port : Nat) (x : Contribution) : List Round → List Round
  | [] => [{ group := g, opened := false, ports := [(port, x)], sent := false, coming := none, result := none, hosted := none }]
  | r :: rs =>
    if r.group = g ∧ r.sent = false ∧ r.hosted = none ∧ (r.ports.all fun p => p.1 != port) then
      { r with ports := r.ports ++ [(port, x)], opened := r.opened || port == 0 } :: rs
    else r :: addPort g port x rs

/-- A contribution arrives at a router. -/
def State.contribute (s : State) (c g port : Nat) (x : Contribution) : State :=
  s.modCore c fun t =>
    let rs := addPort g port x t.rounds
    { t with rounds := if port = 0 then rs.map fun r => if r.group = g ∧ r.sent = false ∧ (r.ports.any fun p => p.1 == 0) then { r with opened := true } else r
                       else rs }

/-- The result sent on its way to the leaves of this module (R305). -/
def State.sendDown (s : State) (g : Nat) (cs : List Nat) (lanes : List Word) (flags : FlagSet) : State :=
  cs.foldl (fun s c => s.modCore c fun t =>
    { t with rounds := t.rounds.map fun r =>
        if r.group = g ∧ r.opened ∧ r.coming.isNone ∧ r.result.isNone then { r with coming := some (lanes, flags) } else r }) s

/-- The cores of this module among the leaves of a contribution, which are endpoint IDs. -/
def State.localLeaves (s : State) (x : Contribution) : List Nat :=
  (x.leaves.map Prod.fst).filterMap fun e => if e / 4096 = s.hub.module % 1024 then some (e % 4096) else none

/-- A round that a router has combined: sent on, and gone from a router that is no leaf of it. -/
def closeGathering (g : Nat) (rs : List Round) : List Round :=
  rs.filterMap fun r =>
    if r.group = g ∧ r.sent = false then (if r.opened then some { r with sent := true, ports := [] } else none) else some r

/-- The round of a group that a core's router gathers. -/
def Core.gathering (c : Core) (g : Nat) : Option Round :=
  c.rounds.find? fun r => r.group == g && !r.sent && r.hosted.isNone

/-- COLLECTIVE_COMBINE (R305, R307): the router of a core has one contribution from each CHILD port; it combines them and
sends the result to PARENT, or at the root down to the contributing cores. -/
def execCollectiveCombine (core group : Nat) : State → Result := fun s =>
  let e := (s.core core).groupEntry group
  match (s.core core).gathering group with
  | none => .next s
  | some r =>
    let kids := (groupChildren e).filterMap fun p => (r.ports.find? fun q => q.1 == p).map Prod.snd
    match kids with
    | [] => .next s
    | k :: ks =>
      if !groupValid e || kids.length != (groupChildren e).length || !(s.die (dieOf core)).mgmt.getLsbD 2 then .next s
      else
        let x := ks.foldl (joinContributions e) k
        let s := s.modCore core fun c => { c with rounds := closeGathering group c.rounds }
        if groupParent e = 7 then
          let ((lanes, fl), cause) := rootResult e x s.free
          let s := { s with free := s.free + groupLen e }
          let s := match cause with
            | some n => s.logViolation (dieOf core) 0 (s.endpoint core) false 7 4 n
            | none => s
          .next (s.sendDown group (s.localLeaves x) lanes fl)
        else
          match neighbour core (groupParent e) with
          | some p => .next (s.contribute p group (oppositePort (groupParent e)) x)
          | none => .next s

/-- The strands of a core that wait for a group's result are ready again (R308). -/
def State.wakeCollective (s : State) (c g : Nat) : State :=
  (List.range 6).foldl (fun s k =>
    match (s.strand (8 * c + k)).waiting? with
    | some w => if w.kind = 5 ∧ w.badva.toNat = g then s.wake (8 * c + k) else s
    | none => s) s

/-- COLLECTIVE_RESULT_ARRIVAL (R305, R308). -/
def execCollectiveResultArrival (core group : Nat) : State → Result := fun s =>
  match (s.core core).rounds.find? fun r => r.group == group && r.coming.isSome with
  | none => .next s
  | some _ =>
    let s := s.modCore core fun c =>
      { c with rounds := c.rounds.map fun r =>
          if r.group = group ∧ r.coming.isSome then { r with result := r.coming, coming := none } else r }
    .next (s.wakeCollective core group)

/-! Host-assisted mode. -/

/-- The bytes of a routine record (R207). -/
def Routine.bytes (rt : Routine) : List Byte :=
  bytesOfNat 1 rt.words.length ++ bytesOfNat 1 (rt.nin + 16 * rt.nout) ++ bytesOfNat 1 (if rt.assoc then 1 else 0) ++
    bytesOfNat 1 rt.type.toNat ++ bytesOfNat 4 0 ++ bytesOfNat 8 rt.ident.toNat ++ rt.words.flatMap fun w => bytesOfNat 4 w.toNat

/-- Eight words of bytes from an offset, zero beyond their end. -/
def recordWords (bs : List Byte) (o : Nat) : List Word :=
  (List.range 8).map fun i => BitVec.ofNat 64 (natOfBytes ((bs.drop (o + 8 * i)).take 8))

/-- The fault-queue records of a contribution (R333): entry, strand, round number, contribution. -/
def hostRecords (epid strand g round : Nat) (e : Word) (fnver : Nat) (x : Contribution) : List (List Word) :=
  let lanes := (x.leaves.head?.map Prod.snd).getD []
  let first := [faultWord epid strand 3, BitVec.ofNat 64 (g + round % 65536 * 65536), e,
    BitVec.ofNat 64 (x.mode.toNat + fnver % 256 * 256), 0, 0, 0, 0]
  let data := lanes.flatMap fun w => bytesOfNat (laneWidth (groupFmt e) / 8) w.toNat
  match x.routine with
  | some rt => [first, recordWords data 0, recordWords rt.bytes 0, recordWords rt.bytes 64]
  | none => [first, recordWords data 0]

/-- COLLECTIVE_QUEUE_RECORD (R333): the records of a contribution that waits for room are written together. -/
def execCollectiveQueueRecord (core group : Nat) : State → Result := fun s =>
  match (s.core core).rounds.find? fun r => r.group == group && r.hosted.isSome with
  | none => .next s
  | some r =>
    match s.pushFault (dieOf core) (r.hosted.getD []) with
    | none => .next s
    | some s => .next (s.modCore core fun c =>
        { c with rounds := c.rounds.map fun q => if q.group = group ∧ q.hosted.isSome then { q with hosted := none } else q })

/-- The leaves under a router by the group tables (R305); `fuel` bounds the depth. -/
def State.treeLeaves (s : State) (g : Nat) : Nat → Nat → List Nat
  | 0, _ => []
  | fuel + 1, c =>
    (groupChildren ((s.core c).groupEntry g)).flatMap fun p =>
      if p = 0 then [c]
      else match neighbour c p with
        | some n => s.treeLeaves g fuel n
        | none => []

/-- Is the core the root of the group, with a round open (R333)? -/
def State.goDelivers (s : State) (core g : Nat) : Bool :=
  let e := (s.core core).groupEntry g
  e.getLsbD 0 && groupParent e == 7 &&
    (s.treeLeaves g 384 core).any fun c => ((s.core c).openRound g).any fun r => r.coming.isNone && r.result.isNone

/-- The kernel's result sent by the root down to the leaves: words as LEN elements, and flags (R333). -/
def State.deliverResult (s : State) (core g : Nat) (words : List Word) (flags : FlagSet) : State :=
  let e := (s.core core).groupEntry g
  let v : Vec := BitVec.ofNat 512 (natOfBytes (words.flatMap fun w => bytesOfNat 8 w.toNat))
  s.sendDown g (s.treeLeaves g 384 core) ((lanesOf (laneWidth (groupFmt e)) v).take (groupLen e)) flags

/-! The instructions. -/

/-- The mode that a contribution carries (R307). -/
def carriedMode (e : Word) (frm : Word) : BitVec 3 := if groupRm e = 7#3 then frm.extractLsb' 0 3 else groupRm e

/-- Step 3 of R59 for COLPUT (R306): a rounding mode that does not exist. -/
def colputIll (e : Word) (rt : Option Routine) (frm : Word) : Bool :=
  decide (5 ≤ getField frm 0 3) &&
    (groupRm e == 7#3 || (groupOper e == 6 && (match rt with
      | some r => r.usesDyn
      | none => false)))

/-- COLPUT (R306, R307, R333, R362). -/
def execColput (d v : BitVec 5) (g : BitVec 6) : State → Result :=
  issueRun (.colput d v g) do
    let s ← getS
    let t := s.me
    let e := (s.core s.here).groupEntry g.toNat
    let rt := if groupOper e = 6 then t.handles.toList.getD (groupHandle e) none else none
    require (!colputIll e rt t.frm) (trapILL (wordOf (.colput d v g)))
    let ws ← recorded 0x84 do
      let s ← getS
      if ((s.core s.here).openRound g.toNat).isSome then return [0]
      else
        require (groupValid e && !(groupOper e == 6 && rt.isNone)) (trapCTYPE 0)
        let lanes := (lanesOf (laneWidth (groupFmt e)) (t.getV v)).take (groupLen e)
        let x : Contribution :=
          { leaves := [(s.endpoint s.here, lanes)], mode := carriedMode e t.frm, routine := rt, fnver := t.version
            lanes := lanes, flags := 0#5, agrees := true }
        let n := tableGet 0 (s.core s.here).roundCount g.toNat + 1
        modS fun s => s.modCore s.here fun c => { c with roundCount := tableSet c.roundCount g.toNat n }
        if (s.die (dieOf s.here)).mgmt.getLsbD 2 then modS fun s => s.contribute s.here g.toNat 0 x
        else
          let recs := hostRecords (s.endpoint s.here) (s.cur % 8) g.toNat n e t.version x
          modS fun s => s.modCore s.here fun c =>
            { c with rounds := c.rounds ++ [{ group := g.toNat, opened := true, ports := [], sent := true, coming := none,
                                              result := none, hosted := some recs }] }
        return [1]
    leaveCore
    modT fun t => t.setX d (ws.headD 0)

/-- A core's outstanding round closed (R308). -/
def Core.closeRound (c : Core) (g : Nat) : Core := { c with rounds := c.rounds.filter fun r => !(r.group == g && r.opened) }

/-- COLGET (R308, R362). -/
def execColget (d : BitVec 5) (g : BitVec 6) : State → Result :=
  issueRun (.colget d g) do
    let ws ← recorded 0x85 do
      let _ ← act (waitAct 5 (BitVec.ofNat 64 g.toNat) none fun s =>
        if ((s.core s.here).openRound g.toNat).any fun r => r.result.isSome then some (0, s) else none)
      let s ← getS
      let e := (s.core s.here).groupEntry g.toNat
      let (lanes, fl) := (((s.core s.here).openRound g.toNat).bind Round.result).getD ([], 0#5)
      let v := vecOfLanes (laneWidth (groupFmt e)) (lanes.take (groupLen e))
      modS fun s => (s.modCore s.here fun c => c.closeRound g.toNat).recheckCore s.here
      return fl.setWidth 64 :: (List.range 8).map fun i => v.extractLsb' (64 * i) 64
    modT fun t =>
      let v : Vec := BitVec.ofNat 512 (natOfBytes ((ws.drop 1).flatMap fun w => bytesOfNat 8 w.toNat))
      { (t.setV d v) with fflags := mergeFlags t.fflags ((ws.headD 0).extractLsb' 0 5) }

end Sys2Proof.Machine
end

