-- ==== Sys2Proof/Machine/Context.lean ====
section
/-! DEFINITION. The save area of a core: what a pre-emption writes there and a resume reads back (R334, R336, R338). -/

namespace Sys2Proof.Machine

/-! Access to the save area, with S-mode permission under the job's translation. -/

/-- Bytes written to a core's save area, in pieces of 64; none where a page does not translate. -/
def State.saveWrite (s : State) (c off : Nat) (bs : List Byte) : Option State :=
  let base := (s.core c).saveAt.toNat + off
  (pieces base bs.length).foldl (fun (r : Option State) p => r.bind fun s =>
    match s.translate c .s (BitVec.ofNat 64 p.1) .write with
    | (.ok l _, s) => some (s.write c l ((bs.drop (p.1 - base)).take p.2))
    | _ => none) (some s)

/-- The words of a place that are poisoned, saved poisoned (R336). -/
def State.savePoison (s : State) (c off : Nat) (l : Loc) (n : Nat) : State :=
  let base := (s.core c).saveAt.toNat + off
  ((wordsOf l n).filter fun w => (s.tagAt w).poison).foldl (fun s w =>
    match s.translate c .s (BitVec.ofNat 64 (base + (w.off - l.off))) .write with
    | (.ok q _, s) => s.setTag q { s.tagAt q with poison := true }
    | (_, s) => s) s

/-- Bytes of a core's save area, with the poison of their words; none where a page does not translate. -/
def State.saveRead (s : State) (c off n : Nat) : Option (List Byte × List Bool) :=
  let base := (s.core c).saveAt.toNat + off
  ((pieces base n).foldl (fun (r : Option (List (List Byte × List Bool) × State)) p => r.bind fun q =>
    match q.2.translate c .s (BitVec.ofNat 64 p.1) .read with
    | (.ok l _, s) => some ((s.bytesAt l p.2, (wordsOf l p.2).map fun w => (s.tagAt w).poison) :: q.1, s)
    | _ => none) (some ([], s))).map fun q => (q.1.reverse.flatMap Prod.fst, q.1.reverse.flatMap Prod.snd)

/-! Words and bytes. -/

/-- Words as bytes. -/
def wordsBytes (ws : List Word) : List Byte := ws.flatMap fun w => bytesOfNat 8 w.toNat

/-- Numbers as words, as bytes. -/
def natsBytes (ns : List Nat) : List Byte := ns.flatMap (bytesOfNat 8)

/-- Bytes filled up with zeros, or cut, to a size. -/
def fillBytes (n : Nat) (bs : List Byte) : List Byte := (bs ++ List.replicate n 0#8).take n

/-- Word number i of a record. -/
def natField (bs : List Byte) (i : Nat) : Nat := fieldOf bs (8 * i) 8

/-- Word number i of a record. -/
def wordField (bs : List Byte) (i : Nat) : Word := BitVec.ofNat 64 (natField bs i)

/-- A truth value as a number. -/
def boolNat (b : Bool) : Nat := if b then 1 else 0

/-- n records of a size, from an offset. -/
def recordsOf (bs : List Byte) (o size n : Nat) : List (List Byte) :=
  (List.range n).map fun i => (bs.drop (o + size * i)).take size

/-! A strand's region. -/

/-- The strand-scope CSRs in the order of their numbers (R336, R347). -/
def strandCsrs : List Nat :=
  [1, 2, 3, 4, 5, 8, 9, 0xA, 0x100, 0x101, 0x103, 0x300, 0x301, 0x302, 0x303, 0x304, 0x305, 0x306, 0x307, 0x308, 0x309,
   0x310, 0x311, 0x312, 0x313]

/-- A routine as its record (R207), in 128 bytes; an empty handle as zeros. -/
def handleBytes (r : Option Routine) : List Byte := fillBytes 128 ((r.map Routine.bytes).getD [])

/-- The handle that 128 bytes hold. -/
def handleOf (bs : List Byte) : Option Routine :=
  if fieldOf bs 0 1 = 0 then none else some (routineOf bs (wordsOfBytes ((bs.drop 16).take (4 * fieldOf bs 0 1))))

/-- The regions of a strand in the save area, by their offsets (R336). DESIGN CHOICE. The words at 0x1600 stand in the order
of the rule, one 64-bit word each (log 36). -/
def State.strandRegions (s : State) (h : Nat) : List (Nat × List Byte) :=
  let t := s.strand h
  let csrs := strandCsrs.map ({ s with cur := h }.csrRead)
  [ (0x0, wordsBytes t.x.toList), (0x100, wordsBytes t.f.toList), (0x200, wordsBytes t.p.toList), (0x240, wordsBytes csrs),
    (0x400, t.v.toList.flatMap fun v => bytesOfNat 64 v.toNat), (0xC00, t.c.toList.flatMap fun c => bytesOfNat 32 c.bits.toNat),
    (0xE00, t.handles.toList.flatMap handleBytes),
    (0x1600, wordsBytes (t.shadow.toList ++ [t.mcfg.kblocks, t.mcfg.sa, t.mcfg.sb, t.mcfg.sc, t.mcfg.spu, t.mcfg.mseq,
      t.pendFlags.setWidth 64, t.ansv, t.ansa])) ]

/-- Where the answer of strand s of a core stands in the save area (R334, R336): ANSV, with ANSA behind it. -/
def answerOffset (k : Nat) : Nat := 0x28000 + 0x2000 * k + 0x1600 + 8 * 20

/-- A strand's registers reloaded from its region (R336, R338); its loop body is read again (R109), and its stream buffer,
which the area does not hold, is filled anew (log 36). -/
def Strand.reload (t : Strand) (bs : List Byte) : Strand :=
  let w (o i : Nat) : Word := BitVec.ofNat 64 (fieldOf bs (o + 8 * i) 8)
  { t with
    x := Vector.ofFn fun i => w 0 i, f := Vector.ofFn fun i => w 0x100 i, p := Vector.ofFn fun i => w 0x200 i
    v := Vector.ofFn fun i => BitVec.ofNat 512 (fieldOf bs (0x400 + 64 * i) 64)
    c := Vector.ofFn fun i => CochainReg.ofBits (BitVec.ofNat 256 (fieldOf bs (0xC00 + 32 * i) 32))
    handles := Vector.ofFn fun i => handleOf ((bs.drop (0xE00 + 128 * i)).take 128)
    shadow := Vector.ofFn fun i => w 0x1600 i
    mcfg := { kblocks := w 0x1600 13, sa := w 0x1600 14, sb := w 0x1600 15, sc := w 0x1600 16, spu := w 0x1600 17, mseq := w 0x1600 18 }
    pendFlags := (w 0x1600 19).setWidth 5, ansv := w 0x1600 20, ansa := w 0x1600 21, loopBuf := [], stream := none }

/-- A CSR reloaded: by its write rule, but for IPEND, to which the area adds (R343), and CPSTAT, which no CSR write sets. -/
def State.reloadCsr (s : State) (n : Nat) (v : Word) : State :=
  match n with
  | 0x103 => s.modMe fun t => { t with cpstat := v }
  | 0x308 => s.modMe fun t => { t with ipend := setField (t.ipend ||| (v &&& csrMask 0x308)) 4 1 0 }
  | _ => s.csrWrite n v

/-- A strand reloaded, with its CSRs. -/
def State.reloadStrand (s : State) (h : Nat) (bs : List Byte) : State :=
  let s := s.modStrand h fun t => t.reload bs
  let cur := s.cur
  let vals := (List.range strandCsrs.length).map fun i => (strandCsrs.getD i 0, wordField (bs.drop 0x240) i)
  { vals.foldl (fun s e => s.reloadCsr e.1 e.2) { s with cur := h } with cur := cur }

/-! The core's region. DESIGN CHOICE. Its parts follow one another in the order of R336, each in records of 64-bit words
(log 36). -/

/-- A complex slot (R137) in 320 bytes. -/
def ComplexSlot.bytes (x : ComplexSlot) : List Byte :=
  let st := match x.state with
    | .empty => 0 | .loaded => 1 | .busy => 2
  fillBytes 320 (natsBytes [st, (x.holder.map fun h => h % 8 + 1).getD 0, x.gen.toNat, x.addr.toNat] ++ x.desc)

/-- The slot of a core that 320 bytes hold. -/
def slotOf (c : Nat) (bs : List Byte) : ComplexSlot :=
  let st : SlotState := match natField bs 0 with
    | 0 => .empty | 1 => .loaded | _ => .busy
  { state := st, gen := BitVec.ofNat 32 (natField bs 2)
    desc := if zeroField bs 32 256 then [] else (bs.drop 32).take 256, addr := wordField bs 3
    holder := if natField bs 1 = 0 then none else some (8 * c + (natField bs 1 - 1)) }

/-- A landing register (R183) in 64 bytes. -/
def Landing.bytes (x : Landing) : List Byte :=
  fillBytes 64 (natsBytes [boolNat x.valid, boolNat x.err] ++ bytesOfNat 32 x.reg.bits.toNat)

/-- The landing register that 64 bytes hold. -/
def landingOf (bs : List Byte) : Landing :=
  { valid := natField bs 0 != 0, err := natField bs 1 != 0, reg := CochainReg.ofBits (BitVec.ofNat 256 (fieldOf bs 16 32)) }

/-- A mailbox message (R205, R283) in 32 bytes: in use, shared, strand; unit; words. -/
def Msg.bytes (m : Msg) : List Byte :=
  natsBytes [1 + 2 * boolNat m.shared + 4 * (m.strand % 8), m.uid, m.word0.toNat, m.word1.toNat]

/-- The message of a core that 32 bytes hold. -/
def msgOf (c : Nat) (bs : List Byte) : Option Msg :=
  let n := natField bs 0
  if n % 2 = 0 then none
  else some { strand := 8 * c + n / 4 % 8, uid := natField bs 1, word0 := wordField bs 2, word1 := wordField bs 3,
              shared := n / 2 % 2 == 1 }

/-- The control words of a channel queue (R293) in 32 bytes. -/
def ChanQueue.bytes (q : ChanQueue) : List Byte := natsBytes [q.base.toNat, q.cfg.toNat, q.head.toNat, q.tail.toNat]

/-- A channel queue with the control words that 32 bytes hold. -/
def ChanQueue.reload (q : ChanQueue) (bs : List Byte) : ChanQueue :=
  { q with base := wordField bs 0, cfg := wordField bs 1, head := BitVec.ofNat 32 (natField bs 2),
           tail := BitVec.ofNat 32 (natField bs 3) }

/-- What a matrix command does, as numbers: its kind, three fields, two words; with the record and the routine of a
higher-order operation. -/
def MatrixKind.fields : MatrixKind → List Nat × HotRec × Option Routine
  | .mma t s a b => ([0, t.toNat, s.toNat, 0, a.toNat, b.toNat], { ins := [], outs := [], n := 0, m := 0 }, none)
  | .mconst t c u x p => ([1, t.toNat, c.toNat, boolNat u, x.toNat, p.toNat], { ins := [], outs := [], n := 0, m := 0 }, none)
  | .zero => ([2, 0, 0, 0, 0, 0], { ins := [], outs := [], n := 0, m := 0 }, none)
  | .load f a => ([3, f.toNat, 0, 0, a.toNat, 0], { ins := [], outs := [], n := 0, m := 0 }, none)
  | .store f a => ([4, f.toNat, 0, 0, a.toNat, 0], { ins := [], outs := [], n := 0, m := 0 }, none)
  | .add f j => ([5, f.toNat, j, 0, 0, 0], { ins := [], outs := [], n := 0, m := 0 }, none)
  | .hot op h rt r _ => ([6, op, h, 0, 0, 0], r, some rt)

/-- The kind that numbers, a record and a routine describe. -/
def matrixKindOf (w : Nat → Nat) (r : HotRec) (rt : Option Routine) : MatrixKind :=
  let a : Word := BitVec.ofNat 64 (w 4)
  let b : Word := BitVec.ofNat 64 (w 5)
  let f := BitVec.ofNat 3 (w 1)
  match w 0, rt with
  | 0, _ => .mma f (BitVec.ofNat 3 (w 2)) a b
  | 1, _ => .mconst f (BitVec.ofNat 2 (w 2)) (w 3 != 0) a b
  | 3, _ => .load f a
  | 4, _ => .store f a
  | 5, _ => .add f (w 2)
  | 6, some rt => .hot (w 1) (w 2) rt r .start
  | _, _ => .zero

/-- The mode of a number. -/
def modeOfNat (n : Nat) : Mode := if n = 0 then .u else if n = 1 then .s else .m

/-- A matrix command that has not started (R190, R202) in 512 bytes. -/
def MatrixCmd.bytes (k : MatrixCmd) : List Byte :=
  let (fs, r, rt) := k.kind.fields
  let g := k.cfg
  fillBytes 512 (natsBytes (fs ++
    [ 1, k.id, k.strand % 8, k.uid, k.launch, k.mode.code, k.k, boolNat k.notify, k.rm.toNat, boolNat k.seq,
      g.kblocks.toNat, g.sa.toNat, g.sb.toNat, g.sc.toNat, g.spu.toNat, g.mseq.toNat, k.frm.toNat, k.fte.toNat, k.fnver.toNat,
      k.wlim, r.n, r.m ] ++ (List.range 4).map (fun i => (r.ins.getD i 0).toNat) ++
      (List.range 2).map fun i => (r.outs.getD i 0).toNat) ++ handleBytes rt)

/-- The matrix command of a core that 512 bytes hold. -/
def cmdOf (c : Nat) (bs : List Byte) : Option MatrixCmd :=
  let n := natField bs
  let w := wordField bs
  if n 6 = 0 then none
  else
    let r : HotRec := { ins := (List.range 4).map fun i => w (28 + i), outs := (List.range 2).map fun i => w (32 + i), n := n 26, m := n 27 }
    some { id := n 7, strand := 8 * c + n 8 % 8, uid := n 9, launch := n 10, mode := modeOfNat (n 11), k := n 12, notify := n 13 != 0
           rm := BitVec.ofNat 3 (n 14), seq := n 15 != 0
           cfg := { kblocks := w 16, sa := w 17, sb := w 18, sc := w 19, spu := w 20, mseq := w 21 }
           frm := w 22, fte := w 23, fnver := w 24, wlim := n 25
           kind := matrixKindOf n r (handleOf ((bs.drop 272).take 128))
           started := false, accBad := false, step := none, reads := [], todo := [], waitFrom := none, blocks := [], done := none }

/-- The full/empty bits of unit scratch in word order (R336). -/
def State.fullBytes (s : State) (c : Nat) : List Byte :=
  (List.range 2560).map fun i => (List.range 8).foldl (fun (b : Byte) j =>
    if (s.tagAt { home := .unit c, off := 8 * (8 * i + j) }).full then b ||| (1#8 <<< j) else b) 0#8

/-- The core-scope CSRs in the order of their numbers (R336, R347). -/
def coreCsrs : List Nat := [0x201, 0x203, 0x320, 0x321, 0x322, 0x323, 0x324, 0x325, 0x326, 0x327, 0x330, 0x331]

/-- The core's region (R336): slots, landing registers, mailbox, channel control words, matrix commands, full/empty bits,
CSRs; zeros behind them. -/
def State.coreRegion (s : State) (c : Nat) : List Byte :=
  let k := s.core c
  fillBytes 0x4000 (
    k.slots.toList.flatMap ComplexSlot.bytes ++ k.landing.toList.flatMap Landing.bytes ++
    fillBytes 0x800 (k.mailbox.flatMap Msg.bytes) ++ k.chan.toList.flatMap ChanQueue.bytes ++
    fillBytes 0x800 ((k.cmds.filter fun q => q.done.isNone).flatMap MatrixCmd.bytes) ++ s.fullBytes c ++
    wordsBytes (coreCsrs.map ({ s with cur := 8 * c }.csrRead)))

/-- The full/empty bits of unit scratch reloaded. -/
def State.reloadFull (s : State) (c : Nat) (bs : List Byte) : State :=
  let bit (i : Nat) : Bool := (bs.getD (i / 8) 0#8).getLsbD (i % 8)
  let at_ (i : Nat) : Loc := { home := .unit c, off := 8 * i }
  ((List.range 20480).filter fun i => (s.tagAt (at_ i)).full != bit i).foldl (fun s i =>
    s.setTag (at_ i) { s.tagAt (at_ i) with full := bit i }) s

/-- The commands of a core reloaded: those that have come to their end stay, and of those in the area the ones that have
not been ended meanwhile follow. -/
def Core.reloadCmds (k : Core) (qs : List MatrixCmd) : List MatrixCmd :=
  (k.cmds.filter fun q => q.done.isSome) ++
    qs.filter fun q => k.cmds.any fun o => o.done.isNone && o.strand == q.strand && o.uid == q.uid && o.id == q.id

/-- A slot reloaded: one that was BUSY, and that the end of its holder's unit has emptied meanwhile, stays EMPTY (R138, R339). -/
def ComplexSlot.reload (now : ComplexSlot) (c : Nat) (bs : List Byte) : ComplexSlot :=
  let x := slotOf c bs
  if x.state = .busy ∧ now.state ≠ .busy then { x with state := .empty, holder := none } else x

/-- The core's region reloaded (R338). DESIGN CHOICE. A slot comes back as it was saved, LOADED and with its generation, although
the job may have ended while the core was saved, which empties it (R138, R405; log 36). -/
def State.reloadCore (s : State) (c : Nat) (bs : List Byte) : State :=
  let slots := recordsOf bs 0 320 4
  let landings := recordsOf bs 0x500 64 16
  let msgs := (recordsOf bs 0x900 32 64).filterMap (msgOf c)
  let chans := recordsOf bs 0x1100 32 16
  let cmds := (recordsOf bs 0x1300 512 4).filterMap (cmdOf c)
  let s := s.modCore c fun k =>
    { k with
      slots := Vector.ofFn fun i => (k.slots[i]).reload c (slots.getD i [])
      landing := Vector.ofFn fun i => landingOf (landings.getD i [])
      mailbox := msgs.filter fun m => s.unitLives m.strand m.uid
      chan := Vector.ofFn fun i => (k.chan[i]).reload (chans.getD i [])
      cmds := k.reloadCmds cmds }
  let s := s.reloadFull c ((bs.drop 0x1B00).take 2560)
  let cur := s.cur
  let vals := (List.range coreCsrs.length).map fun i => (coreCsrs.getD i 0, wordField (bs.drop 0x2500) i)
  { vals.foldl (fun s e => s.csrWrite e.1 e.2) { s with cur := 8 * c } with cur := cur }

/-! The whole context. -/

/-- Regions written one after the other. -/
def State.saveRegions (s : State) (c base : Nat) : List (Nat × List Byte) → Option State
  | [] => some s
  | (o, bs) :: r => (s.saveWrite c (base + o) bs).bind fun s => s.saveRegions c base r

/-- The whole context written to the save area (R336). -/
def State.saveContext (s : State) (c : Nat) : Option State :=
  let unit_ : Loc := { home := .unit c, off := 0 }
  let core := s.coreRegion c
  (s.saveWrite c 0 (s.bytesAt unit_ 0x28000)).bind fun s =>
    let s := s.savePoison c 0 unit_ 0x28000
    ((List.range 6).foldl (fun (r : Option State) k => r.bind fun s =>
      s.saveRegions c (0x28000 + 0x2000 * k) (s.strandRegions (8 * c + k))) (some s)).bind fun s =>
        (s.saveWrite c 0x34000 core).bind fun s => s.saveWrite c 0x38000 (List.replicate 0x8000 0#8)

/-- Unit scratch reloaded, with the poison of its words (R336, R338). -/
def State.reloadScratch (s : State) (c : Nat) (bs : List Byte) (bad : List Bool) : State :=
  let s := s.putRaw { home := .unit c, off := 0 } bs
  ((wordsOf { home := .unit c, off := 0 } 0x28000).zip bad).foldl (fun s e =>
    if (s.tagAt e.1).poison = e.2 then s else s.setTag e.1 { s.tagAt e.1 with poison := e.2 }) s

/-- The context read back (R338). -/
def State.loadContext (s : State) (c : Nat) : Option State :=
  (s.saveRead c 0 0x28000).bind fun unit_ =>
    let s := s.reloadScratch c unit_.1 unit_.2
    ((List.range 6).foldl (fun (r : Option State) k => r.bind fun s =>
      (s.saveRead c (0x28000 + 0x2000 * k) 0x2000).map fun bs => s.reloadStrand (8 * c + k) bs.1) (some s)).bind fun s =>
        (s.saveRead c 0x34000 0x4000).map fun bs => s.reloadCore c bs.1

end Sys2Proof.Machine
end

