-- ==== Sys2Proof/Machine/Tile.lean ====
section
/-! DEFINITION. The matrix unit at work: tile steps, the arbiter, the sprue (R187 to R204). -/

namespace Sys2Proof.Machine

/-! Elements. -/

/-- n elements of w bits of a number, lowest first. -/
def elemsOf (w : Nat) : Nat → Nat → List Word
  | 0, _ => []
  | n + 1, x => BitVec.ofNat 64 (x % 2 ^ w) :: elemsOf w n (x / 2 ^ w)

/-- Elements of w bits put together, the first lowest. -/
def packElems (w : Nat) (xs : List Word) : Nat := packLanes w xs

/-- A list cut into rows of n. -/
def rowsOf (n : Nat) : Nat → List Word → List (List Word)
  | 0, _ => []
  | k + 1, xs => xs.take n :: rowsOf n k (xs.drop n)

/-- The columns of a list of 32 rows. -/
def columnsOf (rows : List (List Word)) : List (List Word) :=
  (List.range 32).map fun j => rows.map fun r => r.getD j 0

/-- The elements of a byte string, w bytes each (R2). -/
def elemsOfBytes (w : Nat) (bs : List Byte) : List Word := elemsOf (8 * w) (bs.length / w) (natOfBytes bs)

/-- The elements of an accumulator, or of a pair (R187). -/
def Cluster.accElems (q : Cluster) (k : Nat) (wide : Bool) : List Word :=
  let at_ (k : Nat) : AccBits := (q.acc.toList.getD k { bits := 0, poison := false }).bits
  if wide then elemsOf 64 512 (at_ k).toNat ++ elemsOf 64 512 (at_ (k + 1)).toNat else elemsOf 32 1024 (at_ k).toNat

/-- Is the accumulator, or one of a pair, poisoned (R189)? -/
def Cluster.accPoison (q : Cluster) (k : Nat) (wide : Bool) : Bool :=
  let at_ (k : Nat) : Bool := (q.acc.toList.getD k { bits := 0, poison := false }).poison
  at_ k || (wide && at_ (k + 1))

/-- The record of an accumulator taken before its first change of the phase, as 64 lines (R362). -/
def State.recordAcc (s : State) (c k : Nat) : State :=
  let core := s.core c
  if !s.inCompute c || !core.recording || (core.accRecord.any fun e => e.1 == k) then s
  else if 768 < core.record.length + 64 * (core.accRecord.length + 1) then s.modCore c fun t => { t with recording := false }
  else
    let a := (s.cluster (clusterOf c)).acc.toList.getD k { bits := 0, poison := false }
    let n := s.recordCount c
    s.modCore c fun t => { t with accRecord := t.accRecord ++ [(k, n, a)] }

/-- One accumulator changed by a command of core c. -/
def State.modAcc (s : State) (c k : Nat) (f : Accumulator → Accumulator) : State :=
  (s.recordAcc c k).modCluster (clusterOf c) fun q => { q with acc := q.acc.mapFinIdx fun i a _ => if i = k then f a else a }

/-- An accumulator, or a pair, written with its elements, its poison as it is unless `clear` (R187, R189). -/
def State.writeAcc (s : State) (c k : Nat) (wide clear : Bool) (es : List Word) : State :=
  let put (s : State) (k w : Nat) (es : List Word) : State :=
    s.modAcc c k fun a => { bits := BitVec.ofNat 32768 (packElems w es), poison := a.poison && !clear }
  if wide then put (put s k 64 (es.take 512)) (k + 1) 64 (es.drop 512) else put s k 32 es

/-- The poison bit of an accumulator, or of a pair, set (R189, R202). -/
def State.markAcc (s : State) (c k : Nat) (wide : Bool) : State :=
  let s := s.modAcc c k fun a => { a with poison := true }
  if wide then s.modAcc c (k + 1) fun a => { a with poison := true } else s

/-! Arithmetic. -/

/-- The format of the elements of a float type, and of its accumulation (R197). -/
def matrixFmt (t : BitVec 3) : Fmt × Fmt :=
  match t with
  | 0#3 => (.bf16, .f32) | 1#3 => (.f16, .f32) | 2#3 => (.f32, .f32) | _ => (.f64, .f64)

/-- Neighbouring exact products added and rounded: level 1 of R89. -/
def pairProducts (f : Fmt) (rm : Rm) : List (Bool × Num) → List Word × FlagSet
  | a :: b :: r =>
    let x := sumExact rm [a.2, b.2]
    let (w, fl) := deliverMarked rm f (a.1 || b.1 || x.1, x.2)
    let (ws, fls) := pairProducts f rm r
    (w :: ws, fl ||| fls)
  | _ => ([], 0#5)

/-- Neighbours added and rounded: the further levels of R89. -/
def pairSums (f : Fmt) (rm : Rm) : List Word → List Word × FlagSet
  | a :: b :: r =>
    let (w, fl) := fpAdd f rm a b
    let (ws, fls) := pairSums f rm r
    (w :: ws, fl ||| fls)
  | _ => ([], 0#5)

/-- n levels of pairwise sums. -/
def sumLevels (f : Fmt) (rm : Rm) : Nat → List Word × FlagSet → List Word × FlagSet
  | 0, r => r
  | n + 1, (ws, fl) =>
    let (v, g) := pairSums f rm ws
    sumLevels f rm n (v, fl ||| g)

/-- One k-block under TREE (R89): 32 products, five levels, and the sum with the accumulator. -/
def dotTree (e f : Fmt) (rm : Rm) (acc : Word) (as bs : List Word) : Word × FlagSet :=
  let products := (as.zip bs).map fun p => mulExact (unpack e p.1) (unpack e p.2)
  let (t, fl) := sumLevels f rm 4 (pairProducts f rm products)
  let (r, g) := fpAdd f rm acc (t.headD 0)
  (r, fl ||| g)

/-- One k-block under SEQ (R90): a fused multiply-add per product. -/
def dotSeq (e f : Fmt) (rm : Rm) (acc : Word) (as bs : List Word) : Word × FlagSet :=
  (as.zip bs).foldl (fun r p =>
    let (w, g) := deliverMarked rm f (fmaExact rm (mulExact (unpack e p.1) (unpack e p.2)) (unpack f r.1))
    (w, r.2 ||| g)) (acc, 0#5)

/-- One k-block of an integer type: exact modulo 2^32 (R197). -/
def dotInt (unsignedA : Bool) (acc : Word) (as bs : List Word) : Word :=
  let a (x : Word) : Int := if unsignedA then x.toNat else laneInt 8 x
  laneOfInt 32 ((as.zip bs).foldl (fun r p => r + a p.1 * laneInt 8 p.2) (acc.toNat : Int))

/-- One k-block of one element (R89, R90, R197). -/
def dotBlock (t : BitVec 3) (seq : Bool) (rm : Rm) (acc : Word) (as bs : List Word) : Word × FlagSet :=
  if t = 4#3 ∨ t = 5#3 then (dotInt (t == 5#3) acc as bs, 0#5)
  else
    let (e, f) := matrixFmt t
    if seq then dotSeq e f rm acc as bs else dotTree e f rm acc as bs

/-- All elements of C after one k-block: rows of A, columns of B. -/
def blockTile (t : BitVec 3) (seq : Bool) (rm : Rm) (acc : List (List Word)) (as bs : List (List Word)) :
    List (List Word) × FlagSet :=
  let rows := (acc.zip as).map fun p => (p.1.zip bs).map fun q => dotBlock t seq rm q.1 p.2 q.2
  (rows.map fun r => r.map Prod.fst, orFlags (rows.flatMap fun r => r.map Prod.snd))

/-- The blocks of an MMA in ascending order of their index (R92, R200). -/
def sortBlocks (n : Nat) (bs : List (Nat × List Word × List Word)) : List (Nat × List Word × List Word) :=
  (List.range n).filterMap fun b => bs.find? fun e => e.1 == b

/-- C of an MMA (R198): the accumulator's elements and the blocks. -/
def mmaTile (t : BitVec 3) (seq : Bool) (rm : Rm) (acc : List Word) (blocks : List (Nat × List Word × List Word)) :
    List Word × FlagSet :=
  let r := blocks.foldl (fun (r : List (List Word) × FlagSet) b =>
    let (c, fl) := blockTile t seq rm r.1 (rowsOf 32 32 b.2.1) (columnsOf (rowsOf 32 32 b.2.2))
    (c, r.2 ||| fl)) (rowsOf 32 32 acc, 0#5)
  (r.1.flatten, r.2)

/-- One in a matrix element type (R203). -/
def matrixOne (t : BitVec 3) : Word := if t = 4#3 ∨ t = 5#3 then 1#64 else (matrixFmt t).1.one false

/-- The constant C(i, k) of MCONST (R203), row by row. -/
def constTile (t : BitVec 3) (c : BitVec 2) (perm : List Nat) : List Word :=
  (List.range 32).flatMap fun i => (List.range 32).map fun k =>
    let one := match c with
      | 0#2 => k == i
      | 1#2 => perm.getD i 32 == k
      | 2#2 => true
      | _ => k == 31 - i
    if one then matrixOne t else 0#64

/-! Operands. -/

/-- The place of an operand row of a core (R199). -/
def localPlace (c : Nat) (a : Word) : Loc × View :=
  let (w, o) := windowOf a.toNat
  match w with
  | .unitQ4 => ({ home := .unit c, off := o }, .q4)
  | .cluster => ({ home := .cluster (clusterOf c), off := o }, .plain)
  | .clusterQ4 => ({ home := .cluster (clusterOf c), off := o }, .q4)
  | _ => ({ home := .unit c, off := o }, .plain)

/-- The pieces of a tile's 32 rows of n bytes, from row `first` on: each with its place (R199). -/
def tilePieces (c : Nat) (base stride : Word) (first n : Nat) : List (Place × Nat) :=
  (List.range 32).flatMap fun i => (pieces (rowAddr base stride (first + i)).toNat n).map fun p =>
    let va : Word := BitVec.ofNat 64 p.1
    let (l, v) := localPlace c va
    ({ va := va, loc := l, view := v }, p.2)

/-- Has the first word of a block's first row been filled (R200)? DEDUCED. A block that is read through a decoded view waits for
nothing: alias reads neither test full/empty bits nor wait on them (R83, R229; log 56). -/
def State.blockFull (s : State) (c : Nat) (base stride : Word) (b : Nat) : Bool :=
  match localPlace c (rowAddr base stride (32 * b)) with
  | (l, .plain) => (s.tagAt l).countsFull
  | _ => true

/-- The k-blocks that a command has not taken. -/
def MatrixCmd.left (k : MatrixCmd) : List Nat := (List.range k.cfg.kblocks.toNat).filter fun n => !k.blocks.any fun e => e.1 == n

/-- The k-block that a command's next step takes; none where its operand is not there yet (R200, R201). -/
def State.nextBlock (s : State) (c : Nat) (k : MatrixCmd) : Option Nat :=
  match k.kind with
  | .mma _ src _ b =>
    if src = 3#3 then k.left.find? fun n => s.blockFull c b k.cfg.sb n
    else if src = 2#3 then
      (if ((s.cluster (clusterOf c)).sprue.toList.getD b.toNat none).isSome then k.left.head? else none)
    else k.left.head?
  | .hot _ _ _ _ _ => none
  | _ => some 0

/-- The accumulators that a command names (R191). -/
def MatrixCmd.names (k : MatrixCmd) : List Nat :=
  let pair (k : Nat) (wide : Bool) : List Nat := if wide then [k, k + 1] else [k]
  match k.kind with
  | .mma t _ _ _ => pair k.k (t == 3#3)
  | .mconst t _ _ _ _ => pair k.k (t == 3#3)
  | .zero => [k.k]
  | .load f _ => pair k.k (f == 7#3)
  | .store f _ => pair k.k (f == 7#3)
  | .add f j => pair k.k (f == 7#3) ++ pair j (f == 7#3)
  | .hot _ _ _ _ _ => []

/-- May a core's head command start, beside the commands that other cores execute (R191)? -/
def State.mayStart (s : State) (c : Nat) (k : MatrixCmd) : Bool :=
  k.started || (List.range 8).all fun i =>
    8 * clusterOf c + i == c || (s.core (8 * clusterOf c + i)).cmds.all fun o =>
      !o.started || o.done.isSome || o.names.all fun n => n ∉ k.names

/-- May a core's head command go on: a started one while no mark holds its path back, one that is not started only on a
core that runs (R202, R227)? -/
def State.mayRun (s : State) (c : Nat) (k : MatrixCmd) : Bool :=
  s.mayStart c k && (k.started || (s.core c).pstate == .running) &&
    !((s.core c).fences.any fun m => m.b == .matrix && s.fencePending c m)

/-- Is a step of the core's head command runnable (R192)? -/
def State.runnable (s : State) (c : Nat) : Bool :=
  match (s.core c).headCmd with
  | some k => (s.nextBlock c k).isSome && s.mayRun c k
  | none => false

/-- The core that the arbiter grants a step, and whether its turn goes on (R192). A turn ends after its weight in steps, or
where the core has none to run; a core that the ring comes back to begins a new turn. -/
def State.grant (s : State) (n : Nat) : Option (Nat × Bool) :=
  let q := s.cluster n
  let weight (i : Nat) : Nat := getField q.muwt (4 * i) 4
  let ring : List Nat := (List.range 8).map fun i => (q.arbCore + 1 + i) % 8
  let ready (i : Nat) : Bool := s.runnable (8 * n + i)
  if q.arbSteps < weight q.arbCore && ready q.arbCore then some (q.arbCore, true)
  else
    match (ring.filter fun i => weight i != 0).find? ready with
    | some i => some (i, false)
    | none => ((ring.filter fun i => weight i == 0).find? ready).map (·, false)

/-! The steps. -/

/-- The rounding mode of a command. -/
def MatrixCmd.mode' (k : MatrixCmd) : Rm := (Rm.ofCode k.rm).getD .rne

/-- A command stops on poison (R189, R202). -/
def State.poisonCmd (s : State) (c : Nat) (k : MatrixCmd) (wide : Bool) (elem : Nat) : State :=
  (s.markAcc c k.k wide).finishCmd c k statPOISON elem 0 0#5

/-- ELEM for poison in an accumulator (R202). -/
abbrev elemAcc : Nat := 0xFFFFFFFF

/-- The words of a sprue tile, read as a B tile of n bytes; bytes beyond the tile are zero (R201). -/
def Tile.take (t : Tile) (n : Nat) : List Byte × Bool :=
  ((t.data ++ List.replicate n 0#8).take n, t.poison.any fun j => decide (8 * j < n))

/-- A published tile sent on its way (R201). -/
def State.publish (s : State) (c : Nat) (k : MatrixCmd) (data : List Byte) (poison : List Nat) : State :=
  let n := clusterOf c
  let t : Tile := { data := data, poison := poison, uses := k.cfg.spu.toNat }
  s.modCluster n fun q =>
    { q with transit := q.transit ++ [{ src := n % 8, hop := 1, tile := t, job := (s.core c).job.getD 0 }] }

/-- A use of a sprue slot (R201). -/
def State.useSlot (s : State) (n j : Nat) : State :=
  s.modCluster n fun q =>
    { q with sprue := q.sprue.mapFinIdx fun i t _ =>
        if i = j then t.bind fun t => if t.uses ≤ 1 then none else some { t with uses := t.uses - 1 } else t }

/-- The sender of a matrix command's accesses (R222). -/
def MatrixCmd.sender (k : MatrixCmd) (c : Nat) : Sender := { core := c, path := .matrix, strand := k.strand, op := 0, bulk := false }

/-- The numbers of the poisoned words of a tile read with a flag for each byte. -/
def poisonedWords (bad : List Bool) : List Nat :=
  (List.range (bad.length / 8)).filter fun j => ((bad.drop (8 * j)).take 8).any id

/-- The order that MORD holds for a core (R91). -/
def State.seqOrder (s : State) (c : Nat) : Bool := (s.jobOf c).any (·.ord)

/-- Does a command name an accumulator that holds poison and that it reads (R191, R202, R204)? -/
def State.readsPoison (s : State) (c : Nat) (k : MatrixCmd) : Bool :=
  let bad (n : Nat) (wide : Bool) : Bool := (s.cluster (clusterOf c)).accPoison n wide
  match k.kind with
  | .mma t _ _ _ => bad k.k (t == 3#3)
  | .mconst t _ _ _ _ => bad k.k (t == 3#3)
  | .store f _ => bad k.k (f == 7#3)
  | .add f j => bad k.k (f == 7#3) || bad j (f == 7#3)
  | _ => false

/-- Is the command of an FP64 accumulator pair (R187)? -/
def MatrixKind.wide : MatrixKind → Bool
  | .mma t _ _ _ => t == 3#3 | .mconst t _ _ _ _ => t == 3#3 | .zero => false
  | .load f _ => f == 7#3 | .store f _ => f == 7#3 | .add f _ => f == 7#3 | .hot _ _ _ _ _ => false

/-- The operand pieces that a tile step reads: of an MMA the rows of A and then of B, of an MCONST the tile and then the
permutation (R199, R203, R204). -/
def MatrixCmd.operands (k : MatrixCmd) (c b : Nat) : List (Place × Nat) :=
  match k.kind with
  | .mma t src x y =>
    let n := 32 * matrixWidth t
    tilePieces c (x + BitVec.ofNat 64 (b * n)) k.cfg.sa 0 n ++ if src = 2#3 then [] else tilePieces c y k.cfg.sb (32 * b) n
  | .mconst t cc _ x p =>
    tilePieces c x k.cfg.sb 0 (32 * matrixWidth t) ++
      if cc = 1#2 then (pieces p.toNat 32).map fun q =>
        let va : Word := BitVec.ofNat 64 q.1
        ({ va := va, loc := (localPlace c va).1, view := (localPlace c va).2 }, q.2)
      else []
  | .load f x => tilePieces c x k.cfg.sc 0 (32 * accWidth f)
  | _ => []

/-- The writes of a row of MACC STORE. -/
def State.storeRow (s : State) (c : Nat) (k : MatrixCmd) (a : Word) (bs : List Byte) (poison : Bool) : List Access :=
  (pieces a.toNat bs.length).map fun p =>
    let va := BitVec.ofNat 64 p.1
    s.engineAccess (k.sender c) va (localPlace c va).1 (.store ((bs.drop (p.1 - a.toNat)).take p.2) none poison) p.2

/-- An element that MACC STORE writes (R204). -/
def accStoreElem (f : BitVec 3) (rm : Rm) (x : Word) : LaneResult :=
  match f with
  | 0#3 => quiet (laneOfInt 8 (clampInt (-128) 127 (laneInt 32 x)))
  | 4#3 => fpConvert .f32 .bf16 rm x
  | 5#3 => fpConvert .f32 .f16 rm x
  | 6#3 => fpConvert .f32 .f32 rm x
  | _ => quiet x

/-- The elements that MACC STORE writes, with their flags (R204). -/
def State.storeElems (s : State) (c : Nat) (k : MatrixCmd) (f : BitVec 3) : List LaneResult :=
  ((s.cluster (clusterOf c)).accElems k.k (f == 7#3)).map (accStoreElem f k.mode')

/-- The writes of MACC STORE; of a poisoned accumulator, lines that are poisoned (R189, R204). -/
def State.storeRows (s : State) (c : Nat) (k : MatrixCmd) (f : BitVec 3) (x : Word) (bad : Bool) : List Access :=
  ((rowsOf 32 32 ((s.storeElems c k f).map Prod.fst)).zipIdx).flatMap fun r =>
    s.storeRow c k (rowAddr x k.cfg.sc r.2) (r.1.flatMap fun e => bytesOfNat (accWidth f) e.toNat) bad

/-- The accesses that a command makes next, and waits for where they are reads (R222). -/
def State.planCmd (s : State) (c : Nat) (k : MatrixCmd) (as : List Access) : State :=
  s.modCore c fun q => q.modCmd k fun k => { k with todo := as, reads := fetchesOf as }

/-- What a command has to do next, of which the accesses are known, as one step (R216, R222): the next access put on the
MATRIX path; none where there is none left. -/
def State.stepCmd (s : State) (c : Nat) (k : MatrixCmd) : Option State :=
  match k.todo with
  | a :: r =>
    some ((s.enterPath c .matrix a).modCore c fun q => q.modCmd k fun k =>
      { k with todo := r, reads := if a.isFetch then numberRead (s.core c).seq k.reads else k.reads })
  | [] => none

/-- A TILE STEP BEGINS (R191, R192, R202): a command's first step reads its accumulators, and stops on poison in them;
the step's operand reads, or the writes of MACC STORE, are to go on the MATRIX path. A command of source .ring uses its
slot up however it ends but for WAITTO (R201). -/
def State.beginStep (s : State) (c : Nat) (k : MatrixCmd) (b : Nat) : State :=
  let k := if k.started then k else { k with started := true, seq := s.seqOrder c, accBad := s.readsPoison c k }
  let s := s.modCore c fun q => q.modCmd k fun _ => { k with step := some b }
  match k.kind with
  | .store f x => s.planCmd c k (s.storeRows c k f x k.accBad)
  | .mma t src _ y =>
    if k.accBad then
      (if src = 2#3 then s.useSlot (clusterOf c) y.toNat else s).poisonCmd c k (t == 3#3) elemAcc
    else s.planCmd c k (s.readsFor (k.sender c) (k.operands c b))
  | _ =>
    if k.accBad then s.poisonCmd c k k.kind.wide elemAcc
    else s.planCmd c k (s.readsFor (k.sender c) (k.operands c b))

/-- The end of a k-block of an MMA, and of the command where it is the last (R198 to R202). DESIGN CHOICE. MMA.pub publishes its B
tile also where a poisoned A word stops it, and none where a poisoned accumulator has stopped it before its reads (log 15). -/
def State.endMma (s : State) (c : Nat) (k : MatrixCmd) (t src : BitVec 3) (y : Word) (b : Nat) (data : List Byte)
    (bad : List Bool) : State :=
  let w := matrixWidth t
  let size := 32 * (32 * w)
  let (bs, badB) : List Byte × Bool :=
    if src = 2#3 then (match (s.cluster (clusterOf c)).sprue.toList.getD y.toNat none with
      | some tile => tile.take size
      | none => ([], false))
    else (data.drop size, false)
  let s := if src = 1#3 then s.publish c k bs (poisonedWords (bad.drop size)) else s
  let used (s : State) : State := if src = 2#3 then s.useSlot (clusterOf c) y.toNat else s
  if bad.any id || badB then used (s.poisonCmd c k (t == 3#3) b)
  else
    let blocks := k.blocks ++ [(b, elemsOfBytes w (data.take size), elemsOfBytes w bs)]
    if blocks.length < k.cfg.kblocks.toNat then
      s.modCore c fun q => q.modCmd k fun k => { k with blocks := blocks, step := none, reads := [] }
    else
      let wide := t == 3#3
      let (es, fl) :=
        mmaTile t k.seq k.mode' ((s.cluster (clusterOf c)).accElems k.k wide) (sortBlocks k.cfg.kblocks.toNat blocks)
      (used (s.writeAcc c k.k wide false es)).finishCmd c k statOK 0 0 fl

/-- MCONST (R203). -/
def State.endConst (s : State) (c : Nat) (k : MatrixCmd) (t : BitVec 3) (cc : BitVec 2) (side : Bool) (data : List Byte)
    (bad : List Bool) : State :=
  let w := matrixWidth t
  let wide := t == 3#3
  if bad.any id then s.poisonCmd c k wide 0
  else
    let size := 32 * (32 * w)
    let consts := constTile t cc ((data.drop size).map BitVec.toNat)
    let xe := elemsOfBytes w (data.take size)
    let as := if side then (columnsOf (rowsOf 32 32 xe)).flatten else consts
    let bs := if side then consts else xe
    let (es, fl) := mmaTile t k.seq k.mode' ((s.cluster (clusterOf c)).accElems k.k wide) [(0, as, bs)]
    (s.writeAcc c k.k wide false es).finishCmd c k statOK 0 0 fl

/-- An element that MACC LOAD puts into an accumulator (R204). -/
def accLoadElem (f : BitVec 3) (x : Word) : LaneResult :=
  match f with
  | 0#3 => quiet (laneOfInt 32 (laneInt 8 x))
  | 4#3 => fpConvert .bf16 .f32 .rne x
  | 5#3 => fpConvert .f16 .f32 .rne x
  | _ => quiet x

/-- An element of MACC ADD (R204). -/
def accAddElem (f : BitVec 3) (rm : Rm) (x y : Word) : LaneResult :=
  match f with
  | 2#3 => quiet (laneOfInt 32 (x.toNat + y.toNat : Nat))
  | 6#3 => fpAdd .f32 rm x y
  | _ => fpAdd .f64 rm x y

/-- MACC LOAD (R189, R204). -/
def State.endLoad (s : State) (c : Nat) (k : MatrixCmd) (f : BitVec 3) (data : List Byte) (bad : List Bool) : State :=
  let wide := f == 7#3
  if bad.any id then s.poisonCmd c k wide 0
  else
    let es := (elemsOfBytes (accWidth f) data).map (accLoadElem f)
    (s.writeAcc c k.k wide true (es.map Prod.fst)).finishCmd c k statOK 0 0 (orFlags (es.map Prod.snd))

/-- MACC STORE (R189, R202, R204). -/
def State.endStore (s : State) (c : Nat) (k : MatrixCmd) (f : BitVec 3) : State :=
  if k.accBad then s.finishCmd c k statPOISON elemAcc 0 0#5
  else s.finishCmd c k statOK 0 0 (orFlags ((s.storeElems c k f).map Prod.snd))

/-- MACC ADD (R202, R204). -/
def State.endAdd (s : State) (c : Nat) (k : MatrixCmd) (f : BitVec 3) (j : Nat) : State :=
  let wide := f == 7#3
  let q := s.cluster (clusterOf c)
  let es := ((q.accElems k.k wide).zip (q.accElems j wide)).map fun p => accAddElem f k.mode' p.1 p.2
  (s.writeAcc c k.k wide false (es.map Prod.fst)).finishCmd c k statOK 0 0 (orFlags (es.map Prod.snd))

/-- A TILE STEP ENDS (R192): its reads have all come back. -/
def State.endStep (s : State) (c : Nat) (k : MatrixCmd) (b : Nat) (gs : List Got) : State :=
  let data := gs.flatMap Got.data
  let bad := gs.flatMap Got.poison
  match k.kind with
  | .mma t src _ y => s.endMma c k t src y b data bad
  | .mconst t cc side _ _ => s.endConst c k t cc side data bad
  | .zero => (s.writeAcc c k.k false true (List.replicate 1024 0#64)).finishCmd c k statOK 0 0 0#5
  | .load f _ => s.endLoad c k f data bad
  | .store f _ => s.endStore c k f
  | .add f j => s.endAdd c k f j
  | .hot _ _ _ _ _ => s

/-- The tile step that a cluster's unit has under way: the core, the command, the k-block. -/
def State.stepUnderWay (s : State) (n : Nat) : Option (Nat × MatrixCmd × Nat) :=
  (List.range 8).findSome? fun i =>
    (s.core (8 * n + i)).headCmd.bind fun k => k.step.map fun b => (8 * n + i, k, b)

/-- The turn of a core ends where it has no runnable step (R192): it has had more steps than any weight. -/
def State.endTurn (s : State) (n : Nat) : State :=
  if s.runnable (8 * n + (s.cluster n).arbCore) then s else s.modCluster n fun q => { q with arbSteps := 16 }

/-- MATRIX_TILE_STEP (R19, R192, R216): of the step under way, the next access, or its end once its reads have come back;
with none under way, the arbiter of a cluster grants one, or leaves the slot empty under throttling. -/
def execMatrixTileStep (cluster : Nat) : State → Result := fun s =>
  match s.stepUnderWay cluster with
  | some (c, k, b) =>
    (match s.stepCmd c k with
      | some s => .next s
      | none =>
        match readsDone k.reads with
        | some gs => .next ((s.endStep c k b gs).endTurn cluster)
        | none => .next s)
  | none =>
    if s.hub.throttled then .next { s with hub := { s.hub with throttled := false } }
    else
      match s.grant cluster with
      | none => .next (s.endTurn cluster)
      | some (i, goesOn) =>
        let s := s.modCluster cluster fun q =>
          if goesOn then { q with arbSteps := q.arbSteps + 1 } else { q with arbCore := i, arbSteps := 1 }
        match (s.core (8 * cluster + i)).headCmd with
        | some k => .next (s.beginStep (8 * cluster + i) k ((s.nextBlock (8 * cluster + i) k).getD 0))
        | none => .next s

/-- The k-block that a command waits for: the least that is not taken and not there (R200, R201). -/
def State.waitingBlock (s : State) (c : Nat) (k : MatrixCmd) : Option Nat :=
  match k.kind with
  | .mma _ src _ b =>
    if src = 3#3 then k.left.find? fun n => !s.blockFull c b k.cfg.sb n
    else if src = 2#3 ∧ (s.nextBlock c k).isNone then k.left.head?
    else none
  | _ => none

/-- MATRIX_WAIT_EXPIRY (R200, R201): a block or a slot that the head command of a core needs has not come within WLIM. On a
core that is being saved, is saved or is restored it waits without limit (R202). -/
def execMatrixWaitExpiry (core : Nat) : State → Result := fun s =>
  match (s.core core).headCmd with
  | none => .next s
  | some k =>
    match s.waitingBlock core k with
    | some b =>
      if k.step.isNone && (s.core core).pstate == .running && k.waitFrom.any (fun w => decide (w + k.wlim < s.cycle)) then
        .next (s.finishCmd core k statWAITTO b 0 0#5)
      else .next s
    | none => .next s

/-- SPRUE_HOP (R13, R201): a tile from a cluster enters the next slot, if it is empty and no earlier tile of the same
position waits before it. -/
def execSprueHop (cluster k : Nat) : State → Result := fun s =>
  match (s.cluster cluster).transit[k]? with
  | none => .next s
  | some t =>
    let free := ((s.cluster cluster).transit.take k).all fun o => decide (t.hop < o.hop)
    let target := cluster / 8 * 8 + (t.src + t.hop) % 8
    let slot := (s.cluster target).sprue.toList.getD t.src none
    if free && slot.isNone then
      let s := s.modCluster target fun q => { q with sprue := q.sprue.setIfInBounds t.src (some t.tile) }
      .next (s.modCluster cluster fun q =>
        { q with transit := if 7 ≤ t.hop then q.transit.eraseIdx k else q.transit.set k { t with hop := t.hop + 1 } })
    else .next s

/-- POWER_THROTTLE (R19): the next tile slot stays empty, and nothing else changes. -/
def execPowerThrottle : State → Result := fun s => .next { s with hub := { s.hub with throttled := true } }

end Sys2Proof.Machine
end

