-- ==== Sys2Proof/Machine/Hot.lean ====
section
/-! DEFINITION. The higher-order instructions: issue, and the operation at work (R209 to R213, R222). -/

namespace Sys2Proof.Machine

/-! Streams. -/

/-- A stream: its first address and its number of elements. -/
structure Stream where
  base : Nat
  n    : Nat
  deriving DecidableEq, Repr

/-- The input streams that an operation uses (R210, R212): HFOLD and HSCAN take component m of a tuple from INm. -/
def HotRec.inputs (r : HotRec) (op : Nat) (rt : Routine) : List Stream :=
  ((r.ins.take (if op = 0x80 ∨ op = 0x81 then rt.nout else rt.nin)).zipIdx).map fun e =>
    { base := e.1.toNat, n := if op = 0x83 ∧ e.2 = 1 then (if r.n = 0 then 0 else r.m) else r.n }

/-- The elements of output of an operation. -/
def HotRec.outCount (r : HotRec) (op : Nat) : Nat := if op = 0x80 then 1 else if op = 0x83 then r.n * r.m else r.n

/-- The output streams that an operation uses. -/
def HotRec.outputs (r : HotRec) (op : Nat) (rt : Routine) : List Stream :=
  (r.outs.take rt.nout).map fun a => { base := a.toNat, n := r.outCount op }

/-- The check of a stream at issue, behind its alignment and window boundary (R211). -/
def State.streamTrap (s : State) (mat : Bool) (w : Nat) (write : Bool) (st : Stream) : Option Trap :=
  let a := BitVec.ofNat 64 st.base
  let n := w * st.n
  let (win, o) := windowOf st.base
  let need : Need := if write then .write else .read
  let reaches : Bool :=
    if mat then
      !isControl s.here && (match win with
        | .unit => decide (o + n ≤ 0x20000)
        | .cluster => decide (o + n ≤ 0x400000)
        | _ => false)
    else
      (s.rowPlace s.here st.base n write).isSome && (match win with
        | .cluster => decide (o + n ≤ 0x400000)
        | _ => true)
  if st.n = 0 then none
  else if !reaches then some (trapACCERR a (s.refusedValue s.here st.base n))
  else if (write && isAlias st.base) || !guardsPass (s.core s.here) s.me.mode st.base n need then some (trapGUARD a)
  else none

/-- The checks of the streams at issue, step by step (R59, R211). -/
def State.streamsTrap (s : State) (mat : Bool) (w : Nat) (ins outs : List Stream) : Option Trap :=
  let all := ins ++ outs
  let first (f : Stream → Option Trap) : Option Trap := all.findSome? f
  firstTrap [
    first fun st => if st.base % w != 0 then some (trapALIGN (BitVec.ofNat 64 st.base)) else none,
    first fun st => if twoWindows st.base (w * st.n) then some (trapXWIN (BitVec.ofNat 64 st.base)) else none,
    ins.findSome? (s.streamTrap mat w false), outs.findSome? (s.streamTrap mat w true)]

/-! Issue. -/

/-- The fields of an operation record (R210). -/
def hotRecOf (bs : List Byte) : HotRec :=
  { ins := (List.range 4).map fun i => BitVec.ofNat 64 (fieldOf bs (8 * i) 8)
    outs := (List.range 2).map fun i => BitVec.ofNat 64 (fieldOf bs (0x20 + 8 * i) 8)
    n := fieldOf bs 0x30 4, m := fieldOf bs 0x34 4 }

/-- The field of a record that is out of range first, or the arity (R211, R212). -/
def hotReject (op : Nat) (bs : List Byte) (rt : Routine) : Option Nat :=
  let r := hotRecOf bs
  if 2 ^ 24 < r.n then some 0x130
  else if (if op = 0x83 then r.m = 0 ∨ 65536 < r.m else r.m ≠ 0) then some 0x134
  else if !zeroField bs 0x38 8 then some 0x138
  else if op = 0x83 ∧ 2 ^ 24 < r.n * r.m then some 0x134
  else if (op = 0x80 ∨ op = 0x81) ∧ rt.nin ≠ 2 * rt.nout then some 0x201
  else if op = 0x83 ∧ rt.nin ≠ 2 then some 0x201
  else none

/-- A higher-order instruction at issue (R209 to R211). -/
def higherOrder (i : Instr) (op : Nat) (d a : BitVec 5) (h : BitVec 4) (mat : Bool) : State → Result :=
  issueRun i do
    let t ← getMe
    let rt ← match t.handles.toList.getD h.toNat none with
      | none => trap (trapCTYPE 0)
      | some rt => pure rt
    require (!(rt.usesDyn && (effectiveRm 7#3 t.frm).isNone)) (trapILL (wordOf i))
    let bs ← recordRead (t.getX a) 64
    match hotReject op bs rt with
    | some v => trap (trapCTYPE (BitVec.ofNat 64 v))
    | none =>
      let r := hotRecOf bs
      let s ← getS
      match s.streamsTrap mat (laneWidth rt.type / 8) (r.inputs op rt) (r.outputs op rt) with
      | some tr => trap tr
      | none =>
        if mat then
          if (s.core s.here).cmdsFull then modT fun t => t.setX d 0
          else
            leaveCore
            modS fun s => s.enterCmd (.hot op h.toNat rt r .start) 0 true 0#3
            modT fun t => t.setX d t.mcfg.mseq
        else if (s.core s.here).opsFull then modT fun t => t.setX d 0
        else
          let (s', id) := s.startOp (.hot op h.toNat rt r .start)
          modS fun _ => s'
          modT fun t => t.setX d (BitVec.ofNat 64 id)

/-- HFOLD (R210, R212). -/
def execHfold (d a : BitVec 5) (h : BitVec 4) (e : BitVec 2) : State → Result :=
  higherOrder (.hfold d a h e) 0x80 d a h (e == 1#2)

/-- HSCAN (R210, R212). -/
def execHscan (d a : BitVec 5) (h : BitVec 4) (e : BitVec 2) : State → Result :=
  higherOrder (.hscan d a h e) 0x81 d a h (e == 1#2)

/-- HZIP (R210, R212). -/
def execHzip (d a : BitVec 5) (h : BitVec 4) (e : BitVec 2) : State → Result :=
  higherOrder (.hzip d a h e) 0x82 d a h (e == 1#2)

/-- HOUTER (R210, R212). -/
def execHouter (d a : BitVec 5) (h : BitVec 4) (e : BitVec 2) : State → Result :=
  higherOrder (.houter d a h e) 0x83 d a h (e == 1#2)

/-! The operation at work. -/

/-- Where the element at an address is for an engine of a core, and the checks after issue (R213). -/
def State.hotPlace (s : State) (c : Nat) (mode : Mode) (mat : Bool) (need : Need) (a n : Nat) : Except HotEnd Place × State :=
  if !guardsPass (s.core c) mode a n need then (.error (.status statGUARD), s)
  else if mat then
    let (l, v) := localPlace c (BitVec.ofNat 64 a)
    (.ok { va := BitVec.ofNat 64 a, loc := l, view := v }, s)
  else if (s.rowPlace c a n need.writes).isNone then (.error (.status statACCERR), s)
  else
    match s.piecePlace c mode need a n with
    | (.ok p, s) => (.ok p, s)
    | (.error t, s) => (.error (.fault t), s)

/-- A read of an operation: the stream, the least output element that needs it, the address. -/
structure HotRead where
  stream : Nat
  elem   : Nat
  addr   : Nat
  deriving DecidableEq, Repr

/-- The reads of an operation in their order: ascending by the output element that first needs them (R211, R212). -/
def hotReads (op : Nat) (m w : Nat) (ins : List Stream) : List HotRead :=
  let el (k : Nat) (st : Stream) (step e : Nat) : HotRead := { stream := k, elem := step * e, addr := st.base + w * e }
  if op = 0x83 then
    match ins with
    | [a, b] =>
      let rows := (List.range a.n).map (el 0 a m)
      rows.take 1 ++ (List.range b.n).map (el 1 b 1) ++ rows.drop 1
    | _ => []
  else (List.range ((ins.map Stream.n).headD 0)).flatMap fun e => ins.zipIdx.map fun q => el q.2 q.1 1 e

/-- The reads of an operation placed in order, up to the first element that cannot be accessed (R211, R213). -/
def State.hotIns (s : State) (q : Sender) (mode : Mode) (mat : Bool) (w : Nat) :
    List HotRead → (List (Place × Nat) × Option (Nat × HotEnd)) × State
  | [] => (([], none), s)
  | r :: rs =>
    match s.hotPlace q.core mode mat .read r.addr w with
    | (.error e, s) => (([], some (r.elem, e)), s)
    | (.ok p, s) =>
      let ((ps, e), s) := s.hotIns q mode mat w rs
      (((p, w) :: ps, e), s)

/-- Why a read that came back stops the operation, if it does (R205, R213, R236). -/
def Got.stops (g : Got) : Option HotEnd :=
  match g.fault with
  | some t => some (.fault t)
  | none => if g.status != 0 then some (.status g.status) else if g.poison.any id then some (.status statPOISON) else none

/-- The reads that have come back, up to the first that stops the operation: the elements by stream, and the stop. -/
def gotStreams (n : Nat) (short : Option (Nat × HotEnd)) : List (HotRead × Got) → List (List Word) × Option (Nat × HotEnd)
  | [] => (List.replicate n [], short)
  | (r, g) :: rs =>
    match g.stops with
    | some e => (List.replicate n [], some (r.elem, e))
    | none =>
      let (xs, e) := gotStreams n short rs
      (xs.zipIdx.map fun q => if q.2 = r.stream then BitVec.ofNat 64 (natOfBytes g.data) :: q.1 else q.1, e)

/-- The input tuples of an operation, element by element (R212). -/
def hotTuples (op : Nat) (r : HotRec) (xs : List (List Word)) : List (List Word) :=
  if op = 0x83 then
    (xs.getD 0 []).flatMap fun a => (xs.getD 1 []).map fun b => [a, b]
  else (List.range r.n).map fun e => xs.map fun x => x.getD e 0

/-- The end of an operation: how it stops, element, word offset, flags, and the output elements that are written. -/
structure HotResult where
  stop   : HotEnd
  elem   : Nat
  rtpc   : Nat
  flags  : FlagSet
  outs   : List (List Word)
  deriving DecidableEq, Repr

/-- An operation computed (R212, R213): `badIn` and `badOut` name the first element that an input or an output stops.
Under HFOLD the inputs are read before any application (DEDUCED, log 29). -/
def hotCompute (op : Nat) (rt : Routine) (c : Captured) (count : Nat) (xs : List (List Word))
    (badIn badOut : Option (Nat × HotEnd)) : HotResult :=
  let stop (e : HotEnd) (elem : Nat) (r : Computed) : HotResult :=
    { stop := e, elem := elem, rtpc := 0, flags := r.flags, outs := r.outs }
  let ok (r : Computed) : HotResult := stop (.status statOK) 0 r
  let fault (st : Stopped) (r : Computed) : HotResult :=
    { stop := .status statRTFAULT, elem := st.elem, rtpc := st.rtpc, flags := st.flags, outs := if op = 0x80 then [] else r.outs }
  let empty : Computed := { outs := [], flags := 0#5, stop := none }
  if op = 0x80 then
    match badIn with
    | some b => stop b.2 0 empty
    | none =>
      let r := rt.compute c op xs
      match r.stop, badOut with
      | some st, _ => fault st r
      | none, some b => stop b.2 0 empty
      | none, none => ok r
  else
    let inAt := (badIn.map Prod.fst).getD count
    let outAt := (badOut.map Prod.fst).getD count
    let r := rt.compute c op (xs.take (min inAt (outAt + 1)))
    match r.stop with
    | some st => fault st r
    | none =>
      if inAt ≤ outAt then
        match badIn with
        | some b => stop b.2 inAt r
        | none => ok r
      else
        match badOut with
        | some b => stop b.2 outAt (rt.compute c op (xs.take outAt))
        | none => ok r

/-- Where the outputs of an operation go, element by element from e on, up to the first that cannot be accessed: `bad` holds the
addresses whose check has failed. -/
def State.hotOuts (s : State) (q : Sender) (mode : Mode) (mat : Bool) (w elem code : Nat) (bad : List (Nat × HotEnd))
    (outs : List Stream) : Nat → Nat → (List (List Place) × Option (Nat × HotEnd)) × State
  | 0, _ => (([], none), s)
  | n + 1, e =>
    let rec one (s : State) : List Stream → Except HotEnd (List Place) × State
      | [] => (.ok [], s)
      | st :: r =>
        match s.hotPlace q.core mode mat .write (st.base + w * e) w with
        | (.error x, s) => (.error x, s)
        | (.ok p, s) =>
          match s.peerRefusal q (st.base + w * e) (if e = elem then code else 0), bad.find? fun x => x.1 == st.base + w * e with
          | some s, _ => (.error (.status statREMOTE), s)
          | none, some x => (.error x.2, s)
          | none, none =>
            match one s r with
            | (.ok ps, s) => (.ok (p :: ps), s)
            | (.error x, s) => (.error x, s)
    match one s outs with
    | (.error x, s) => (([], some (e, x)), s)
    | (.ok ps, s) =>
      let ((r, x), s) := s.hotOuts q mode mat w elem code bad outs n (e + 1)
      ((ps :: r, x), s)

/-- The writes of an operation's output elements, in ascending order (R211). -/
def State.hotWrites (s : State) (q : Sender) (w : Nat) (es : List (List Place × List Word)) : List Access :=
  es.flatMap fun e => (e.1.zip e.2).map fun p => s.engineAccess q p.1.va p.1.loc (.store (bytesOfNat w p.2.toNat) none false) w

/-- The writes of a copy engine's operation, element by element, each with the end that the operation comes to where it cannot be
made (R213, R236). -/
def State.hotSureWrites (s : State) (q : Sender) (w : Nat) (es : List (List Place × List Word)) (ends : List Outcome) : List Access :=
  (es.zip ends).flatMap fun e => (s.hotWrites q w [e.1]).map (·.orEnds e.2)

/-- The addresses of outputs whose checks have failed, of those that were checked, with the answers to the reads and checks. -/
def failedChecks (checked : List Nat) (gs : List Got) : List (Nat × HotEnd) :=
  (checked.zip (gs.drop (gs.length - checked.length))).filterMap fun e => e.2.stops.map fun x => (e.1, x)

/-- Word 1 of the message (R205). -/
def HotResult.word1 (r : HotResult) : Word := BitVec.ofNat 64 (r.elem % 2 ^ 32 * 2 ^ 32 + r.rtpc % 32)

/-- The input tuples that an operation's reads have brought, and the first element that an input stops (R212, R213); behind the
reads stand the answers to the checks of these addresses. -/
def HotRec.got (r : HotRec) (op : Nat) (rt : Routine) (checked : List Nat) (short : Option (Nat × HotEnd)) (gs : List Got) :
    List (List Word) × Option (Nat × HotEnd) :=
  let ins := r.inputs op rt
  let (xs, badIn) := gotStreams ins.length short
    ((hotReads op r.m (laneWidth rt.type / 8) ins).zip (gs.take (gs.length - checked.length)))
  (hotTuples op r xs, badIn)

/-- The ends that an operation comes to where a write of output element 0, 1, ... cannot be made (R213). -/
def HotRec.ends (r : HotRec) (op : Nat) (rt : Routine) (cap : Captured) (checked : List Nat) (short : Option (Nat × HotEnd))
    (gs : List Got) (n : Nat) : List Outcome :=
  let (xs, badIn) := r.got op rt checked short gs
  (List.range n).map fun e =>
    let res := hotCompute op rt cap (r.outCount op) xs badIn (some (e, .status statMCHAIN))
    { status := statMCHAIN, word1 := res.word1, flags := res.flags }

/-- An operation of which all reads, and the checks of these addresses, have come back, computed, with its outputs placed (R211 to
R213); the places are those of the elements that are written. -/
def State.hotResult (s : State) (q : Sender) (mode : Mode) (mat : Bool) (cap : Captured) (op : Nat) (rt : Routine) (r : HotRec)
    (checked : List Nat) (short : Option (Nat × HotEnd)) (gs : List Got) (elem code : Nat) :
    (HotResult × List (List Place)) × State :=
  let w := laneWidth rt.type / 8
  let (xs, badIn) := r.got op rt checked short gs
  let run (badOut : Option (Nat × HotEnd)) : HotResult := hotCompute op rt cap (r.outCount op) xs badIn badOut
  let ((places, badOut), s) := s.hotOuts q mode mat w elem code (failedChecks checked gs) (r.outputs op rt) (run none).outs.length 0
  ((run badOut, places), s)

/-- The sender of a copy engine's higher-order operation (R222). DESIGN CHOICE. It travels in TC1 as a copy does (log 55). -/
def hotSender (c : Nat) (o : EngineOp) : Sender := { core := c, path := .copy, strand := o.strand, op := o.id, bulk := true }

/-- The end that a copy engine's operation comes to (R213): its writes are planned, or a translation fault parks it, unless the
kernel ends it with the status `onFault`. `ends` are the ends where a write cannot be made. -/
def State.endHotCopy (s : State) (c : Nat) (o : EngineOp) (w : Nat) (res : HotResult) (places : List (List Place)) (ends : List Outcome)
    (onFault : Option Nat) : State :=
  let finish (st : Nat) : State :=
    (s.planOp c o.id (s.hotSureWrites (hotSender c o) w (places.zip res.outs) ends)).stopOp c o.id st res.word1 res.flags
  match res.stop, onFault with
  | .status st, _ => finish st
  | .fault _, some st => finish st
  | .fault t, none => s.parkOp o c t

/-- The floating-point state that an operation captured (R211). -/
def EngineOp.captured (o : EngineOp) : Captured := { frm := o.frm, fte := o.fte, fnver := getField o.fnver 0 8 }

/-- A copy engine's operation computed, with its outputs placed. -/
def State.hotCopied (s : State) (c : Nat) (o : EngineOp) (op : Nat) (rt : Routine) (r : HotRec) (checked : List Nat)
    (short : Option (Nat × HotEnd)) (gs : List Got) (elem code : Nat) : (HotResult × List (List Place)) × State :=
  s.hotResult (hotSender c o) o.mode false o.captured op rt r checked short gs elem code

/-- A copy engine's operation of which all reads and checks have come back: the checks of outputs that a slip mark could turn
away, where they are still to be made, else its end (R213, R236). -/
def State.hotNext (s : State) (c : Nat) (o : EngineOp) (op h : Nat) (rt : Routine) (r : HotRec) (checked : List Nat)
    (short : Option (Nat × HotEnd)) (gs : List Got) (elem code : Nat) : State :=
  let w := laneWidth rt.type / 8
  let ((res, places), s) := s.hotCopied c o op rt r checked short gs elem code
  let cs := if checked.isEmpty then s.checksFor (hotSender c o) (places.flatten.map (·, w)) else []
  if cs.isEmpty then s.endHotCopy c o w res places (r.ends op rt o.captured checked short gs places.length) none
  else
    s.modOp c o.id fun o =>
      { o with todo := cs, reads := o.reads ++ fetchesOf cs, kind := .hot op h rt r (.reading (cs.map fun a => a.va.toNat) short) }

/-- The next step of a copy engine's operation: its reads, its checks and writes, its message (R211 to R213, R222). -/
def State.hotCopy (s : State) (c : Nat) (o : EngineOp) (elem code : Nat) : State :=
  match o.kind, o.done with
  | .hot _ _ _ _ _, some _ => s.completeOp c o.id
  | .hot op h rt r .start, none =>
    let w := laneWidth rt.type / 8
    let ((ps, short), s) := s.hotIns (hotSender c o) o.mode false w (hotReads op r.m w (r.inputs op rt))
    (s.planOp c o.id (s.readsFor (hotSender c o) ps)).modOp c o.id fun o => { o with kind := .hot op h rt r (.reading [] short) }
  | .hot op h rt r (.reading checked short), none =>
    (match readsDone o.reads with
      | none => s
      | some gs => s.hotNext c o op h rt r checked short gs elem code)
  | _, _ => s

/-- The next step of a matrix engine's operation: its reads, its writes, its end (R211 to R213, R222). -/
def State.hotMatrix (s : State) (c : Nat) (k : MatrixCmd) : State :=
  match k.kind with
  | .hot op h rt r stage =>
    let w := laneWidth rt.type / 8
    let put (s : State) (stage : HotStage) (as : List Access) : State :=
      (s.planCmd c k as).modCore c fun q => q.modCmd k fun k => { k with started := true, kind := .hot op h rt r stage }
    (match stage with
      | .start =>
        if s.mayRun c k then
          let ((ps, short), s) := s.hotIns (k.sender c) k.mode true w (hotReads op r.m w (r.inputs op rt))
          put s (.reading [] short) (s.readsFor (k.sender c) ps)
        else s
      | .reading checked short =>
        (match readsDone k.reads with
          | none => s
          | some gs =>
            let cap : Captured := { frm := k.frm, fte := k.fte, fnver := getField k.fnver 0 8 }
            let ((res, places), s) := s.hotResult (k.sender c) k.mode true cap op rt r checked short gs 0 0
            let st := match res.stop with
              | .status n => n
              | .fault _ => statPF
            put s (.ended st res.elem res.rtpc res.flags) (s.hotWrites (k.sender c) w (places.zip res.outs)))
      | .ended st elem rtpc fl => s.finishCmd c k st elem rtpc fl)
  | _ => s

/-- HOT_OPERATION_COMPLETION (R205, R211 to R213, R216): a step towards the completion of an operation of the copy engine, or of
the matrix engine's head command: one access that it has planned, else the plan of its reads, of its writes, or its message. -/
def execHotOperationCompletion (core : Nat) (engine : Bool) (id elem code : Nat) : State → Result := fun s =>
  if !engine then
    match (s.core core).op? id with
    | some o => if o.parked then .next s else stepOr core id (fun s => .next (s.hotCopy core o elem code)) s
    | none => .next s
  else
    match (s.core core).headCmd with
    | some k => if k.id = id then .next ((s.stepCmd core k).getD (s.hotMatrix core k)) else .next s
    | none => .next s

end Sys2Proof.Machine
end

