-- ==== Sys2Proof/Machine/Priv.lean ====
section
/-! DEFINITION. The privileged blocks of the compute dies: logs, fault queue, answer registers, group and job tables, the
CTU insert block, collective result blocks (R319, R329 to R334, R340, R341). -/

namespace Sys2Proof.Machine

/-- The block of an access. -/
def blockOfAccess (a : Access) : Nat :=
  match a.loc.home with
  | .priv b => b
  | _ => 8

/-- The bits of MGMTMODE that are not reserved (R340). -/
def mgmtMask : Word := 0x0FFF001F#64

/-- A word of a ring log, of entries of 32 bytes (R330, R361). -/
def RingLog.word (l : RingLog) (o : Nat) : Word :=
  if o = 0 then BitVec.ofNat 64 (l.head.toNat + l.lost.toNat * 2 ^ 32)
  else if o < 16 then 0
  else (tableGet [] l.ents ((o - 16) / 32)).getD ((o - 16) % 32 / 8) 0

/-- A word of a die's fault queue (R332). -/
def Die.faultWord (d : Die) (o : Nat) : Word :=
  if o = 0 then d.fqHead.setWidth 64
  else if o = 8 then d.fqTail.setWidth 64
  else (tableGet [] d.fqRecs ((o - 16) / 64)).getD ((o - 16) % 64 / 8) 0

/-- The strand whose answer registers an offset names (R319). -/
def answerStrand (b o : Nat) : Nat := 8 * (512 * b + (o - 0x100000) / 96) + (o - 0x100000) % 96 / 16

/-- The core whose control block an offset names (R319). -/
def controlCore (b o : Nat) : Nat := 512 * b + (o - 0x200000) / 64

/-- The core and group of a group table entry (R319). -/
def groupAt (b o : Nat) : Nat × Nat := (512 * b + (o - 0x300000) / 512, (o - 0x300000) % 512 / 8)

/-- The entry number of a gateway's job table, and whether it is word 1 (R319, R329). -/
def jobEntryAt (o : Nat) : Nat × Bool := ((o - 0x400000) / 16, (o - 0x400000) % 16 == 8)

/-- The cluster of a CTU insert block (R319). -/
def insertCluster (b o : Nat) : Nat := 64 * b + (o - 0x500000) / 32

/-- The core, group and word number of a collective result block (R319). -/
def resultAt (b o : Nat) : Nat × Nat × Nat := (512 * b + (o - 0x600000) / 0x2000, (o - 0x600000) % 0x2000 / 0x80, (o - 0x600000) % 0x80 / 8)

/-- The nine words of a collective result block (R333). -/
def Die.result (d : Die) (c g : Nat) : List Word :=
  ((d.collRes.find? fun e => e.1 == c && e.2.1 == g).map fun e => e.2.2).getD (List.replicate 9 0)

/-- The number of a state of pre-emption (R335). -/
def PState.code : PState → Nat
  | .running => 0 | .saving => 1 | .saved => 2 | .restoring => 3

/-- A load of a word of a compute die's block (R319). PCTL, ENGACT, EXTINT and the words behind them read 0 (DEDUCED,
log 34). -/
def State.privRead (s : State) (b o : Nat) : Word :=
  let d := s.die b
  if o = 0 then d.mgmt
  else if o < 0x20000 then d.vlog.word (o - 0x10000)
  else if o < 0x100000 then d.faultWord (o - 0x20000)
  else if o < 0x200000 then
    (let t := s.strand (answerStrand b o)
     if o % 16 = 0 then t.ansv else t.ansa)
  else if o < 0x300000 then (if o % 64 = 8 then BitVec.ofNat 64 (s.core (controlCore b o)).pstate.code else 0)
  else if o < 0x400000 then (s.core (groupAt b o).1).groupEntry (groupAt b o).2
  else if o < 0x500000 then
    (let e := tableGet (0, 0) d.jobTable (jobEntryAt o).1
     if (jobEntryAt o).2 then e.2 else e.1)
  else if o < 0x600000 then
    (let q := s.cluster (insertCluster b o)
     match o % 32 with
     | 0 => q.iva | 8 => q.iasid | 0x10 => q.idata | _ => q.icmd)
  else
    (let (c, g, k) := resultAt b o
     (d.result c g).getD k 0)

/-- A word of a collective result block set. -/
def Die.setResult (d : Die) (c g k : Nat) (v : Word) : Die :=
  let ws := (d.result c g).set k v
  { d with collRes := (d.collRes.filter fun e => !(e.1 == c && e.2.1 == g)) ++ [(c, g, ws)] }

/-- The answer registers of a strand of a SAVED core written to its save area, where that translates (R334). -/
def State.storeAnswer (s : State) (h : Nat) : State :=
  let t := s.strand h
  if (s.core (coreOf h)).pstate == .saved then
    (s.saveWrite (coreOf h) (answerOffset (h % 8)) (wordsBytes [t.ansv, t.ansa])).getD s
  else s

/-- DESIGN CHOICE. A store to a word of a compute die's block that has no behaviour of its own (R318, R319): logs, TAIL
and records are read-only, reserved bits are discarded (log 34). -/
def State.privWrite (s : State) (b o : Nat) (v : Word) : State :=
  if o = 0 then s.modDie b fun d => { d with mgmt := v &&& mgmtMask }
  else if o < 0x20000 then s
  else if o < 0x100000 then (if o = 0x20000 then s.modDie b fun d => { d with fqHead := v.setWidth 32 } else s)
  else if o < 0x200000 then
    (if o % 16 = 0 then (s.modStrand (answerStrand b o) fun t => { t with ansv := v }).storeAnswer (answerStrand b o) else s)
  else if o < 0x400000 then s
  else if o < 0x500000 then
    (let (j, second) := jobEntryAt o
     s.modDie b fun d =>
       let e := tableGet (0, 0) d.jobTable j
       { d with jobTable := tableSet d.jobTable j (if second then (e.1, v &&& ptrootMask) else (v &&& 0x800000FFFFFFFFFF#64, e.2)) })
  else if o < 0x600000 then
    s.modCluster (insertCluster b o) fun q =>
      (match o % 32 with
       | 0 => { q with iva := v &&& 0x01FFFFFFFFFFFFF8#64 }
       | 8 => { q with iasid := v &&& 0x3FFFF#64 }
       | 0x10 => { q with idata := v }
       | _ => q)
  else
    (let (c, g, k) := resultAt b o
     if k < 8 then s.modDie b fun d => d.setResult c g k v
     else if k = 8 then s.modDie b fun d => d.setResult c g 8 (v &&& 0x1F#64)
     else s)

/-! The words with behaviour. -/

/-- Is the write of a group table entry refused (R94, R305)? -/
def groupRefused (v : Word) : Bool :=
  (isFloatType (groupFmt v) && decide (3 ≤ groupOper v ∧ groupOper v ≤ 5)) ||
    (v.getLsbD 0 && (groupLen v == 0 || decide (512 / laneWidth (groupFmt v) < groupLen v)))

/-- The bits of a group table entry that are not reserved (R305). -/
def groupMask : Word := 0xFFFF07FFFFFFE001#64

/-- GROUP_TABLE_WRITE (R305). -/
def execGroupTableWrite (core seq : Nat) : State → Result :=
  serveStore .groupTable core seq fun s a v =>
    let (c, g) := groupAt (blockOfAccess a) a.loc.off
    if groupRefused v then s
    else (s.modCore c fun t => { t with groups := t.groups.setIfInBounds g (v &&& groupMask) }).recheckCore c

/-- COLLECTIVE_GO (R333): the store is answered once the result has left the root. It is ignored in hardware mode, and
ignored and logged, cause 6, where the core is not the root or has no open round. DESIGN CHOICE. FLAGS reads back as a store
that delivers left it, GO reads 0 (log 34), and the logged event names address 0, strand 7 and the COLL path (log 42). -/
def execCollectiveGo (core seq : Nat) : State → Result :=
  serveStore .collectiveGo core seq fun s a v =>
    let b := blockOfAccess a
    let (c, g, _) := resultAt b a.loc.off
    if (s.die b).mgmt.getLsbD 2 then s
    else if s.goDelivers c g then
      (s.modDie b fun d => d.setResult c g 8 (v &&& 0x1F#64)).deliverResult c g (((s.die b).result c g).take 8) (v.extractLsb' 0 5)
    else s.logViolation b 0 (s.endpoint c) false 7 4 6

/-- EXTINT_WRITE (R335). -/
def execExtintWrite (core seq : Nat) : State → Result :=
  serveStore .extint core seq fun s a v =>
    let c := controlCore (blockOfAccess a) a.loc.off
    (List.range 6).foldl (fun s k => if v.getLsbD k then s.raiseExt (8 * c + k) else s) s

/-- A strand parked on a forward, released (R334): 1 resumes it at the word after its ECALL, 2 ends its unit. -/
def State.answerForward (s : State) (h : Nat) (action : Nat) : State :=
  match (s.strand h).status with
  | .parked (.forward _) =>
    if action = 1 then
      (s.modStrand h fun t =>
        { (t.setX 10#5 t.ansv).advance with ansa := 0 }).wake h
    else (s.modStrand h fun t => { t with ansa := 0 }).endUnit h .faulted
  | _ => s

/-- A store to ANSA: at once, or kept in the save area of a pre-empted core until it resumes (R334). -/
def State.storeAnsa (s : State) (h action : Nat) : State :=
  if (s.core (coreOf h)).pstate == .saved then
    match (s.strand h).status with
    | .parked (.forward _) => (s.modStrand h fun t => { t with ansa := BitVec.ofNat 64 action }).storeAnswer h
    | _ => s
  else s.answerForward h action

/-- ANSA_RESUME (R334). -/
def execAnsaResume (core seq : Nat) : State → Result :=
  serveStore .ansaResume core seq fun s a _ => s.storeAnsa (answerStrand (blockOfAccess a) a.loc.off) 1

/-- ANSA_END (R334). -/
def execAnsaEnd (core seq : Nat) : State → Result :=
  serveStore .ansaEnd core seq fun s a _ => s.storeAnsa (answerStrand (blockOfAccess a) a.loc.off) 2

/-- What an operation does when it is tried again after a translation fault: a higher-order operation reads its inputs
again, since it has written nothing yet. -/
def OpKind.again : OpKind → OpKind
  | .hot op h rt r _ => .hot op h rt r .start
  | k => k

/-- A parked operation that goes on: it checks its row or its elements again; where a write is what it parked on, that is tried
again, and what the operation has under way stays so. -/
def EngineOp.goAgain (o : EngineOp) : EngineOp :=
  if o.done.isNone && (readsDone o.reads).isSome then { o with parked := false, reads := [], kind := o.kind.again }
  else { o with parked := false }

/-- ENGACT_RETRY (R334): the operation goes on from the byte at which it parked; a store that names no parked operation is
ignored. -/
def execEngactRetry (core seq : Nat) : State → Result :=
  serveStore .engactRetry core seq fun s a v =>
    let c := controlCore (blockOfAccess a) a.loc.off
    match (s.core c).op? (getField v 0 16) with
    | some o => if o.parked then s.modOp c o.id EngineOp.goAgain else s
    | none => s

/-- The write that an operation is parked on: of those answered at a slip mark the first, in the operation's order, whose new
address does not translate. -/
def State.parkedWrite (s : State) (c id : Nat) (mode : Mode) : Option Access :=
  let mine := (s.core c).slipped.filter fun e => e.1.acc.op == some id && e.1.acc.ending.isSome &&
    (match s.translate c mode (e.1.acc.va + e.2.delta) .write with
      | (.ok _ _, _) => false
      | _ => (windowOf (e.1.acc.va + e.2.delta).toNat).1 == .global)
  (mine.find? fun e => mine.all fun o => decide (e.1.seq ≤ o.1.seq)).map fun e => e.1.acc

/-- A parked operation ended by the kernel, with status PF (R213, R264, R334): at the write that it is parked on, else at its
row or element. -/
def State.endParked (s : State) (c : Nat) (o : EngineOp) : State :=
  match (s.parkedWrite c o.id o.mode).bind fun a => a.ending.map fun out => (a, out) with
  | some (a, out) => s.failWrite c o.id { out with status := statPF } a
  | none =>
    let s := s.modOp c o.id fun o => { o with parked := false }
    match o.kind, o.done with
    | _, some _ => s
    | .copy _ _ _ pos, none => s.stopOp c o.id statPF (BitVec.ofNat 64 pos) o.flags
    | .gather g row _ _, none => s.stopOp c o.id statPF (BitVec.ofNat 64 (row * g.rowb)) o.flags
    | .hot op _ rt r (.reading checked short), none =>
      let gs := (readsDone o.reads).getD []
      let ((res, places), s) := s.hotCopied c o op rt r checked short gs 0 0
      s.endHotCopy c o (laneWidth rt.type / 8) res places (r.ends op rt o.captured checked short gs places.length) (some statPF)
    | _, none => s.stopOp c o.id statPF 0 o.flags

/-- ENGACT_END (R334). -/
def execEngactEnd (core seq : Nat) : State → Result :=
  serveStore .engactEnd core seq fun s a v =>
    let c := controlCore (blockOfAccess a) a.loc.off
    match (s.core c).op? (getField v 0 16) with
    | some o => if o.parked then s.endParked c o else s
    | none => s

/-- FAULT_QUEUE_ENTRY (R331): an entry has freed for the strand named, which waits to forward its fault. -/
def execFaultQueueEntry : State → Result := fun s =>
  match s.me.status with
  | .parked (.forward false) =>
    (match s.pushFault (dieOf s.here) [s.forwardRecord s.cur] with
      | some s => .next (s.modMe fun t => { t with status := .parked (.forward true) })
      | none => .next s)
  | _ => .next s

/-! The CTU insert block. -/

/-- ICMD's status set (R341): 0 done, 1 refused. -/
def State.setIcmd (s : State) (k n : Nat) : State := s.modCluster k fun q => { q with icmd := BitVec.ofNat 64 n }

/-- Is an entry malformed as one of the level of a page size (R323, R341)? An entry with V = 0 is not. -/
def entryMalformed (e : Word) (k : Nat) : Bool :=
  if e.getLsbD 1 then leafMalformed e k else decide (k < 21) || tableMalformed e

/-- ICMD_INSERT (R341). -/
def execIcmdInsert (core seq : Nat) : State → Result :=
  serveStore .icmdInsert core seq fun s a _ =>
    let k := insertCluster (blockOfAccess a) a.loc.off
    let q := s.cluster k
    let size : BitVec 2 := q.iasid.extractLsb' 16 2
    let page := q.iva.toNat / 4096 * 4096
    if entryMalformed q.idata (sizeExp size) || decide (page % 2 ^ sizeExp size ≠ 0) then
      s.setIcmd k 1
    else
      let e : CtuEntry := { asid := getField q.iasid 0 16, size := size, page := page / 2 ^ sizeExp size, leaf := q.idata }
      (s.modCluster k fun q => { q with ctu := ctuInsert q.ctu e }).setIcmd k 0

/-- The PTROOT of an ASID, from the jobs running or the job table of a die (R329, R341, R342; DEDUCED, log 35). -/
def State.rootOfAsid (s : State) (b asid : Nat) : Option Word :=
  match s.jobs.find? fun j => j.2.asid.toNat == asid with
  | some j => some j.2.ptroot
  | none => ((s.die b).jobTable.find? fun e => e.2.1.getLsbD 63 && getField e.2.1 0 16 == asid).map fun e => e.2.2

/-- MSTORE carried out by core c (R341): at the word's home, whatever mark it holds. -/
def State.mstore (s : State) (c k b : Nat) : Served :=
  let q := s.cluster k
  match s.rootOfAsid b (getField q.iasid 0 16) with
  | none => .done (s.setIcmd k 1) Ans.unit
  | some root =>
    if 2 ^ 55 ≤ q.iva.toNat then .done (s.setIcmd k 1) Ans.unit
    else
      match s.walk root q.iva.toNat with
      | .fail _ _ => .done (s.setIcmd k 1) Ans.unit
      | .leaf e x _ _ =>
        let a : Access :=
          { strand := 0, answers := false, op := none, va := q.iva, loc := leafPlace e x q.iva.toNat, len := 8, kind := .mstore q.idata
            sc := none, hops := [] }
        match s.perform c a with
        | .done s _ => .done ((s.newPass a).setIcmd k 0) Ans.unit
        | _ => .waits none

/-- ICMD_MSTORE (R341): it waits while the word's tile is MOVING. -/
def execIcmdMstore (core seq : Nat) : State → Result := fun s =>
  let go (e : PathEntry) : Result :=
    let b := blockOfAccess e.acc
    if rowOf e.acc == .icmdMstore then .next (s.settle core e (s.mstore core (insertCluster b e.acc.loc.off) b)) else .next s
  match s.pathEntry core seq, s.retryEntry core seq with
  | some e, _ => if s.mayPerform core e then go e else .next s
  | none, some e => go e
  | none, none => .next s

end Sys2Proof.Machine
end

