-- ==== Sys2Proof/Machine/Preempt.lean ====
section
/-! DEFINITION. Pre-emption of a core: the save, the spill queue, the restore (R335 to R339). -/

namespace Sys2Proof.Machine

/-! PCTL. -/

/-- IPEND.PRE of a strand (R335). -/
def State.setPre (s : State) (h : Nat) (b : Bool) : State :=
  (s.modStrand h fun t => { t with ipend := setField t.ipend 4 1 (if b then 1 else 0) }).wakeWfi h

/-- PCTL_NOTICE (R335). -/
def execPctlNotice (core seq : Nat) : State → Result :=
  serveStore .pctlNotice core seq fun s a _ =>
    let c := controlCore (blockOfAccess a) a.loc.off
    if (s.core c).pstate == .running then (List.range 6).foldl (fun s k => s.setPre (8 * c + k) true) s else s

/-- PCTL_WITHDRAW (R335). -/
def execPctlWithdraw (core seq : Nat) : State → Result :=
  serveStore .pctlWithdraw core seq fun s a _ =>
    let c := controlCore (blockOfAccess a) a.loc.off
    if (s.core c).pstate == .running then (List.range 6).foldl (fun s k => s.setPre (8 * c + k) false) s else s

/-- A strand as a save begins (R336): WFI and the wait for a matrix entry are withdrawn, and its watch fires. One that waits
leaves its wait as the cycle ends (R281). -/
def State.stopForSave (s : State) (h : Nat) : State :=
  let t := s.strand h
  if t.waiting?.isSome then s
  else (if t.status == .parked .wfi || t.status == .parked .matrixFull then s.leaveWait h else s).fireWatch h

/-- A waiting strand of a core that is being saved leaves its wait, with EPC at its instruction; its watch fires (R282,
R287, R336). -/
def State.leaveForSave (s : State) (h : Nat) : State :=
  ((s.leaveWait h).modStrand h fun t => { t with epc := t.pc }).fireWatch h

/-- PCTL_PREEMPT (R336): the save begins. -/
def execPctlPreempt (core seq : Nat) : State → Result :=
  serveStore .pctlPreempt core seq fun s a _ =>
    let c := controlCore (blockOfAccess a) a.loc.off
    if (s.core c).pstate == .running then
      (List.range 6).foldl (fun s k => s.stopForSave (8 * c + k)) (s.modCore c fun t => { t with pstate := .saving })
    else s

/-! The end of a save. -/

/-- Has a strand stopped (R336)? One parked on a forward or in CANCEL stays so. -/
def Strand.stopped (t : Strand) : Bool :=
  match t.status with
  | .idle => true
  | .ready => t.inst.isNone
  | .parked (.forward true) => true
  | .parked (.cancel _ _) => true
  | .parked _ => false

/-- A matrix command that waits under R200 or R201 goes back unstarted (R202). -/
def MatrixCmd.unstart (k : MatrixCmd) : MatrixCmd := { k with started := false, accBad := false, step := none, reads := [], todo := [], blocks := [], waitFrom := none }

/-- Do the matrix commands of a core stand as a save needs them: none started but one that waits (R202)? -/
def State.matrixStopped (s : State) (c : Nat) : Bool :=
  match (s.core c).headCmd with
  | some k => !k.started || (k.step.isNone && (s.waitingBlock c k).isSome && (s.nextBlock c k).isNone)
  | none => true

/-- Is nothing of a core's strands under way (R228, R336)? The delivery of a seam message is no access of theirs. -/
def State.savable (s : State) (c : Nat) : Bool :=
  let k := s.core c
  k.pstate == .saving && (List.range 6).all (fun n => (s.strand (8 * c + n)).stopped) && k.posted.isEmpty && k.answers.isEmpty &&
    (s.outstanding c).all (fun e => e.path != .core || sameSender e.acc.kind e.acc.kind) && s.matrixStopped c

/-- The KIND 2 record (R332): what it does not state is free (log 4). -/
def State.savedRecord (s : State) (c : Nat) : List Word :=
  let w (i : Nat) : Word := Config.freeWord (s.free + i)
  [faultWord (s.endpoint c) (Config.freeNat s.free % 8) 2, w 0, w 1, w 2, w 3, 0, (s.core c).asid &&& 0xFFFF#64, 0]

/-- EXT and SW of a saved core's strands, which stand in the save area: what is set from now on is added to them (R338, R343). -/
def State.clearPending (s : State) (c : Nat) : State :=
  (List.range 6).foldl (fun s k => s.modStrand (8 * c + k) fun t => { t with ipend := t.ipend &&& ~~~csrMask 0x308 }) s

/-- CORE_SAVE_COMPLETE (R336): the context is written, the core is SAVED, and the kernel is told, once the fault queue
has room. Where the save area does not translate the core stays SAVING (log 36). -/
def execCoreSaveComplete (core : Nat) : State → Result := fun s =>
  if !s.savable core then .next s
  else
    match s.saveContext core with
    | none => .next s
    | some s =>
      match s.pushFault (dieOf core) [s.savedRecord core] with
      | none => .next s
      | some s =>
        .next ((({ s with free := s.free + 4 } : State).clearPending core).modCore core fun t =>
          { t with pstate := .saved, cmds := t.cmds.map fun k => if k.done.isNone then k.unstart else k })

/-! The restore. -/

/-- The answers stored for a core's strands while it was away, applied (R334, R338). -/
def State.applyAnswers (s : State) (c : Nat) : State :=
  (List.range 6).foldl (fun s k =>
    let a := (s.strand (8 * c + k)).ansa.toNat
    if a = 1 ∨ a = 2 then s.answerForward (8 * c + k) a else s) s

/-- A core whose spill queue is empty diverts nothing more (R338). -/
def State.endRestore (s : State) (c : Nat) : State :=
  if (s.core c).pstate == .restoring && (s.core c).spill.isEmpty then s.modCore c fun t => { t with pstate := .running } else s

/-- PCTL_RESUME (R338): the context is reloaded where its pages translate, and the spill queue begins to drain. -/
def execPctlResume (core seq : Nat) : State → Result :=
  serveStore .pctlResume core seq fun s a _ =>
    let c := controlCore (blockOfAccess a) a.loc.off
    if (s.core c).pstate == .saved then
      let s := (s.loadContext c).getD s
      (((s.modCore c fun t => { t with pstate := .restoring }).applyAnswers c).headWaits c).endRestore c
    else s

/-- The head of the spill queue put where it belongs, if it fits (R338). -/
def State.spillFits (s : State) (c : Nat) (e : Spill) : Option State :=
  match e.msg with
  | some m =>
    if (s.core c).hasRoom m.strand || !s.unitLives m.strand m.uid then some (s.deliver { msg := m, op := none, cmd := false }) else none
  | none =>
    let k := s.chanQueue c e.queue
    if k.held < k.entries ∧ k.entryBytes = e.size then some (s.appendEntry c e.queue e.strand e.payload) else none

/-- SPILL_DRAIN (R338): the head of the queue is taken off first, so that a message that it brings about comes behind the rest. -/
def execSpillDrain (core : Nat) : State → Result := fun s =>
  if (s.core core).pstate != .restoring then .next s
  else
    match (s.core core).spill with
    | [] => .next (s.endRestore core)
    | e :: r =>
      match (s.modCore core fun t => { t with spill := r }).spillFits core e with
      | some s => .next (s.endRestore core)
      | none => .next s

end Sys2Proof.Machine
end

