-- ==== Sys2Proof/Machine/Hub.lean ====
section
/-! DEFINITION. The hub die's privileged block, its PCIe root ports and its interrupt vectors (R22 to R26, R404), and
requests that come to memory from outside the module (R24, R328). -/

namespace Sys2Proof.Machine

/-! Fabric ports and root ports by number. -/

/-- A fabric port. -/
def State.port (s : State) (p : Nat) : Port := s.hub.ports.toList.getD p Port.reset

/-- A fabric port changed. -/
def State.modPort (s : State) (p : Nat) (f : Port → Port) : State :=
  { s with hub := { s.hub with ports := s.hub.ports.mapFinIdx fun i x _ => if i = p then f x else x } }

/-- A root port. -/
def State.root (s : State) (r : Nat) : RootPort := s.hub.roots.toList.getD r RootPort.reset

/-- A root port changed. -/
def State.modRoot (s : State) (r : Nat) (f : RootPort → RootPort) : State :=
  { s with hub := { s.hub with roots := s.hub.roots.mapFinIdx fun i x _ => if i = r then f x else x } }

/-! Loads and stores of the block. -/

/-- LSTATE (R375). -/
def Port.lstateWord (p : Port) : Word :=
  BitVec.ofNat 64 (p.lstate.toNat + p.speed.toNat * 2 ^ 4 + p.fails % 16 * 2 ^ 8 + p.resent.toNat * 2 ^ 32)

/-- A load of the hub die's block (R24, R26, R361, R375). -/
def State.hubRead (s : State) (o : Nat) : Word :=
  if o < 0x1000000 then
    (let p := s.port ((o - 0x100000) / 0x100)
     match o % 0x100 with
     | 0 => p.lstateWord | 8 => p.lrec | 0x10 => p.prec | _ => 0)
  else if o < 0x2000000 then (s.die ((o - 0x1000000) / 0x10000)).elog.word (o % 0x10000)
  else if o < 0x3000000 then
    (let r := s.root ((o - 0x2000000) / 0x10000)
     let q := o % 0x10000
     if q = 0 then r.rpstat
     else if q = 0x10 then r.apbase
     else if q = 0x18 then r.msibase
     else
       let e := tableGet (0, 0) r.rtab ((q - 0x100) / 16)
       if q % 16 = 8 then e.2 else e.1)
  else if o < 0x3004000 then tableGet 0 s.hub.vtab ((o - 0x3000000) / 8)
  else tableGet 0 s.hub.vstat ((o - 0x3004000) / 8)

/-- DESIGN CHOICE. A store to a word of the hub die's block that has no behaviour of its own (R24, R26): reserved bits
are discarded, and error logs are read-only (log 34). -/
def State.hubWrite (s : State) (o : Nat) (v : Word) : State :=
  if o < 0x2000000 then s
  else if o < 0x3000000 then
    (let q := o % 0x10000
     s.modRoot ((o - 0x2000000) / 0x10000) fun r =>
       if q = 0x10 then { r with apbase := v &&& 0xFFFFFFFFE0000000#64 }
       else if q = 0x18 then { r with msibase := v &&& 0xFFFFFFFFFFFFF001#64 }
       else if 0x100 ≤ q then
         let n := (q - 0x100) / 16
         let e := tableGet (0, 0) r.rtab n
         { r with rtab := tableSet r.rtab n (if q % 16 = 8 then (e.1, v &&& ptrootMask) else (v &&& 0x80000000FFFFFFFF#64, e.2)) }
       else r)
  else if o < 0x3004000 then
    { s with hub := { s.hub with vtab := tableSet s.hub.vtab ((o - 0x3000000) / 8) (v &&& 0x8000000000000FFF#64) } }
  else s

/-- VSTAT_CLEAR (R26). -/
def execVstatClear (core seq : Nat) : State → Result :=
  serveStore .vstatClear core seq fun s a _ =>
    { s with hub := { s.hub with vstat := tableErase s.hub.vstat ((a.loc.off - 0x3004000) / 8) } }

/-! Requests from outside. -/

/-- The places of a request from outside, in 64-byte pieces: all of them, or the reason of R241 that stops the first that fails
(R24, R328). -/
def State.outsidePlaces (s : State) (root : Word) (need : Need) (fab setsA : Bool) :
    List (Nat × Nat) → Except Nat (List (Loc × Nat)) × State
  | [] => (.ok [], s)
  | p :: ps =>
    match s.outsideWalk root (BitVec.ofNat 64 p.1) need fab setsA with
    | (.error r, s) => (.error r, s)
    | (.ok l, s) =>
      match s.outsidePlaces root need fab setsA ps with
      | (.ok ls, s) => (.ok ((l, p.2) :: ls), s)
      | r => r

/-- DESIGN CHOICE. What comes to memory from outside stands in path queues as a core's accesses do, one queue for the requests of
a root port, and one for each requester and path of other modules: each piece of at most 64 bytes is an access, and the rules of
homes hold for it (R216 to R221, R235; log 64). These are the numbers under which the queues stand. -/
def rootQueue (root : Nat) : Nat := 4128 + root % 4
/-- The number of the queue of another module's requester, a hub agent or not, and path. -/
def gatewayQueue (src : Nat) (hub : Bool) (path : Nat) : Nat :=
  4132 + (src % 2 ^ 22 * 2 + if hub then 1 else 0) * 16 + path % 16

/-- The pieces of a request from outside put in their queue, in order; `op` numbers a device's request. -/
def State.enterPieces (s : State) (q asid : Nat) (root : Option Word) (op : Option Nat) (k : AccKind) : List (Loc × Nat) → Nat → State
  | [], _ => s
  | (l, n) :: ps, va =>
    let part : AccKind := match k with
      | .store data fe p => .store (data.take n) fe p
      | k => k
    let rest : AccKind := match k with
      | .store data fe p => .store (data.drop n) fe p
      | k => k
    let a : Access :=
      { strand := 8 * q, answers := false, op := op, va := BitVec.ofNat 64 va, loc := l, len := n, kind := part, sc := none, hops := []
        asid := asid, root := root }
    (s.enterPath q .core a).enterPieces q asid root op rest ps (va + n)

/-- Does an address lie in the interrupt window of a port (R24, R26)? -/
def RootPort.inWindow (r : RootPort) (a : Word) : Bool := r.msibase.getLsbD 0 && r.msibase.toNat / 4096 == a.toNat / 4096

/-- An interrupt message (R26). -/
def State.message (s : State) (root : Nat) (addr : Word) (data : BitVec 32) : State :=
  let v := data.toNat % 2048
  let e := tableGet 0 s.hub.vtab v
  let target := getField e 0 12
  if !e.getLsbD 63 || 32 ≤ target then s.logPcie root addr
  else ({ s with hub := { s.hub with vstat := tableSet s.hub.vstat v 1 } } : State).raiseExt (8 * (4096 + target))

/-- MSI_MESSAGE (R26): a four-byte write into the window of its port. -/
def execMsiMessage (root _rid : Nat) (addr : Word) (data : BitVec 32) : State → Result := fun s =>
  if (s.root root).inWindow addr then .next (s.message root addr data) else .next s

/-- The lowest-numbered VALID entry of a requester table for a requester ID (R24): its ASID and its PTROOT. -/
def RootPort.requester (r : RootPort) (rid : Nat) : Option (Nat × Word) :=
  (r.rtab.find? fun e => e.2.1.getLsbD 63 && getField e.2.1 0 16 == rid).map fun e => (getField e.2.1 16 16, e.2.2)

/-- PCIE_INBOUND_MEMORY_REQUEST (R22 to R24, R26, R235): an interrupt message, a refusal, or accesses to memory under the ASID of
the requester's entry: of a write, first the checks of its pieces, for it writes no byte where one is refused (log 64). DESIGN CHOICE. A write of more than 512 bytes and a read of more than 4,096 are no requests that a port
takes (R22), and a poisoned interrupt message is one all the same (R26; log 53). -/
def execPcieInboundMemoryRequest (root rid : Nat) (addr : Word) (write poisoned : Bool) (len : Nat) (data : List Byte) :
    State → Result := fun s =>
  let r := s.root root
  if (if write then 512 else 4096) < len then .next s
  else if write && r.inWindow addr then
    (if len = 4 then .next (s.message root addr (BitVec.ofNat 32 (fieldOf data 0 4))) else .next (s.logPcie root addr))
  else
    match r.requester rid with
    | none => .next (s.logPcie root addr)
    | some (asid, ptroot) =>
      if 2 ^ 55 < addr.toNat + len then .next (s.logPcie root addr)
      else
        match s.outsidePlaces ptroot (if write then .write else .read) false true (pieces addr.toNat len) with
        | (.error _, s') => .next (s'.logPcie root addr)
        | (.ok ps, s') =>
          let put (s : State) (k : AccKind) : State :=
            s.enterPieces (rootQueue root) asid (some ptroot) (some (s'.core (rootQueue root)).seq) k ps addr.toNat
          .next (if write then put (put s' .check) (.store ((data ++ List.replicate len 0#8).take len) none poisoned)
                 else put s' (.load .plain false))

/-! The control cores' own requests to PCIe. -/

/-- PRESUMED. The bits of a byte of a Type 1 configuration header that a store changes, by PCI Express Base Specification
6.0: Command, cache line size, bus numbers, the windows' bases and limits, interrupt line, bridge control (log 54). -/
def headerMask (o : Nat) : Byte :=
  match o with
  | 0x04 => 0x47 | 0x05 => 0x05 | 0x0C => 0xFF | 0x18 => 0xFF | 0x19 => 0xFF | 0x1A => 0xFF | 0x1C => 0xF0 | 0x1D => 0xF0
  | 0x20 => 0xF0 | 0x21 => 0xFF | 0x22 => 0xF0 | 0x23 => 0xFF | 0x24 => 0xF0 | 0x25 => 0xFF | 0x26 => 0xF0 | 0x27 => 0xFF
  | 0x28 => 0xFF | 0x29 => 0xFF | 0x2A => 0xFF | 0x2B => 0xFF | 0x2C => 0xFF | 0x2D => 0xFF | 0x2E => 0xFF | 0x2F => 0xFF
  | 0x30 => 0xFF | 0x31 => 0xFF | 0x32 => 0xFF | 0x33 => 0xFF | 0x3C => 0xFF | 0x3E => 0x5F
  | _ => 0

/-- A byte of the configuration space of root port r itself (R25): what the port fixes, and what software has written. -/
def RootPort.headerByte (t : RootPort) (r o : Nat) : Byte :=
  (Config.rootHeader r o &&& ~~~headerMask o) ||| (tableGet 0 t.header o &&& headerMask o)

/-- Bytes written to a root port's own configuration space (R25). -/
def RootPort.writeHeader (t : RootPort) : Nat → List Byte → RootPort
  | _, [] => t
  | o, b :: bs => RootPort.writeHeader { t with header := tablePut 0 t.header o (b &&& headerMask o) } (o + 1) bs

/-- The access of a control core to a PCIe region (R25): the port's own configuration space answers at once, a store to
the aperture is posted and leaves, and others are pending until their completion. -/
def State.servePcie (s : State) (a : Access) (r : Nat) (aperture : Bool) (o : Nat) : Served :=
  if !aperture && decide (o < 0x1000) then
    (match a.stored with
      | none => .done s (.val (vecOfBytes ((List.range a.len).map fun i => (s.root r).headerByte r (o + i))) [])
      | some v => .done (s.modRoot r fun t => t.writeHeader o (bytesOfNat a.len v.toNat)) Ans.unit)
  else if aperture && a.stored.isSome then .done s Ans.unit
  else
    let addr := if aperture then (s.root r).apbase + BitVec.ofNat 64 o else BitVec.ofNat 64 o
    let q : PcieReq := { strand := a.strand, va := a.va, addr := addr, len := a.len, write := a.stored.isSome, start := s.cycle }
    .leaves (s.modRoot r fun t => { t with pending := t.pending ++ [q] })

/-- A pending request of a root port ends with an answer (R25). -/
def State.endPending (s : State) (root k : Nat) (q : PcieReq) (a : Ans) : State :=
  let s := s.modRoot root fun t => { t with pending := t.pending.eraseIdx k }
  s.modCore (coreOf q.strand) fun c => { c with answers := c.answers ++ [(q.strand, a)] }

/-- A pending request refused or never answered (R25): all ones, and a violation logged. DESIGN CHOICE. The requester logged is the
control core that issued it, with its strand and the address that it accessed (log 42). -/
def State.failPending (s : State) (root k : Nat) (q : PcieReq) : State :=
  let c := coreOf q.strand
  (s.logViolation 8 q.va (s.endpoint c) true (q.strand % 8) 0 7).endPending root k q
    (.val (vecOfBytes (List.replicate q.len 0xFF#8)) [])

/-- Have 65,000,000 cycles passed since the request left (R25)? -/
def PcieReq.late (q : PcieReq) (cycle : Nat) : Bool := decide (q.start + 65000000 ≤ cycle)

/-- PCIE_COMPLETION (R25): of pending request k: good, poisoned, or not `ok`, which is Unsupported Request or Completer
Abort; one that comes too late counts as none. -/
def execPcieCompletion (root k : Nat) (ok poisoned : Bool) (data : List Byte) : State → Result := fun s =>
  match (s.root root).pending[k]? with
  | none => .next s
  | some q =>
    if !ok || q.late s.cycle then .next (s.failPending root k q)
    else if poisoned && !q.write then .next (s.endPending root k q (.trap (trapPOISON q.va)))
    else .next (s.endPending root k q (.val (vecOfBytes (data.take q.len)) []))

/-- PCIE_COMPLETION_TIMEOUT (R25): 65,000,000 cycles with no completion. -/
def execPcieCompletionTimeout (root k : Nat) : State → Result := fun s =>
  match (s.root root).pending[k]? with
  | none => .next s
  | some q => if q.late s.cycle then .next (s.failPending root k q) else .next s

/-! Root ports' links. -/

/-- RPSTAT with its state alone. -/
def rpState (n : Nat) : Word := BitVec.ofNat 64 n

/-- Is the link of a root port up? -/
def RootPort.isUp (r : RootPort) : Bool := getField r.rpstat 0 2 == 2

/-- The root port of a store to RPCMD. -/
def rootOfAccess (a : Access) : Nat := (a.loc.off - 0x2000000) / 0x10000

/-- RPCMD_RETRAIN (R24): a link that is up trains again. -/
def execRpcmdRetrain (core seq : Nat) : State → Result :=
  serveStore .rpcmdRetrain core seq fun s a _ => s.modRoot (rootOfAccess a) fun r => if r.isUp then { r with rpstat := rpState 1 } else r

/-- PRESUMED. RPCMD_HOT_RESET (R24): the hierarchy below the port is reset, and a link that is up trains again (log 46). -/
def execRpcmdHotReset (core seq : Nat) : State → Result :=
  serveStore .rpcmdHotReset core seq fun s a _ => s.modRoot (rootOfAccess a) fun r => if r.isUp then { r with rpstat := rpState 1 } else r

/-- RPCMD_DISABLE (R24). -/
def execRpcmdDisable (core seq : Nat) : State → Result :=
  serveStore .rpcmdDisable core seq fun s a _ => s.modRoot (rootOfAccess a) fun r => { r with rpstat := rpState 0 }

/-- RPCMD_ENABLE (R24): a link that is down trains. -/
def execRpcmdEnable (core seq : Nat) : State → Result :=
  serveStore .rpcmdEnable core seq fun s a _ =>
    s.modRoot (rootOfAccess a) fun r => if getField r.rpstat 0 2 = 0 then { r with rpstat := rpState 1 } else r

/-- ROOT_PORT_LINK_UP (R24): training ends with a width and a rate of R22; FLIT mode at 64 GT/s. -/
def execRootPortLinkUp (root width rate : Nat) : State → Result := fun s =>
  .next (s.modRoot root fun r =>
    if getField r.rpstat 0 2 = 1 ∧ width ∈ [1, 4, 8, 16] ∧ rate ≤ 5 then
      { r with rpstat := BitVec.ofNat 64 (2 + width * 2 ^ 2 + rate * 2 ^ 8 + (if rate = 5 then 2 ^ 11 else 0)) }
    else r)

/-- ROOT_PORT_LINK_LOSS (R24). -/
def execRootPortLinkLoss (root : Nat) : State → Result := fun s => .next (s.modRoot root fun r => { r with rpstat := rpState 0 })

/-! The gateways. -/

/-- The kind of a peer request by its number: 0 a read, 1 a write, 16 + f an AMO, 32 a CAS, 40 to 44 the synchronising
accesses of R229. -/
def requestKind (op : Nat) (data : List Byte) : Option AccKind :=
  let w (o : Nat) : Word := BitVec.ofNat 64 (fieldOf data o 8)
  if op = 0 then some (.load .plain false)
  else if op = 1 then some (.store data none false)
  else if 16 ≤ op ∧ op < 25 then some (.amo (BitVec.ofNat 4 (op - 16)) (w 0))
  else if op = 32 then some (.cas (w 0) (w 8))
  else if op = 40 then some (.sync .readLeave 0)
  else if op = 41 then some (.sync .readTake 0)
  else if op = 42 then some (.sync .writeFill (w 0))
  else if op = 43 then some (.sync .setEmpty (w 0))
  else if op = 44 then some (.sync .setFull (w 0))
  else none

/-- The VALID entry of a die's job table with a key, the lowest-numbered (R328, R329): its ASID and its PTROOT. -/
def Die.jobEntry (d : Die) (key : BitVec 24) : Option (Nat × Word) :=
  (d.jobTable.find? fun e => e.2.1.getLsbD 63 && getField e.2.1 16 24 == key.toNat).map fun e => (getField e.2.1 0 16, e.2.2)

/-- GATEWAY_REQUEST (R328): a request from another module at a gateway of a die: key, translation and permission, then
its accesses. What fails touches no byte and is logged in the die's violation log with the reason as its cause. -/
def execGatewayRequest (die src : Nat) (hub : Bool) (strand path : Nat) (key : BitVec 24) (va : Word) (len op : Nat)
    (data : List Byte) : State → Result := fun s =>
  let refuse (s : State) (cause : Nat) : Result := .next (s.logViolation die va src hub (strand % 8) (path % 16) cause)
  match requestKind op data with
  | none => .next s
  | some k =>
    match (s.die die).jobEntry key with
    | none => refuse s 2
    | some (asid, root) =>
      match s.outsidePlaces root k.need true ((s.die die).mgmt.getLsbD 1) (pieces (va.toNat % 2 ^ 45) len) with
      | (.error r, s') => refuse s' r
      | (.ok ps, s') => .next (s'.enterPieces (gatewayQueue src hub path) asid none none k ps (va.toNat % 2 ^ 45))

/-! TC1. -/

/-- TC1_ANNOUNCE (R310): bytes announced by this port's gateway to a receiver, or by a source to this gateway. -/
def execTc1Announce (port : Nat) (receives : Bool) (peer bytes : Nat) : State → Result := fun s =>
  .next (s.modPort port fun p =>
    if receives then
      { p with sources :=
          if p.sources.any (·.1 == peer) then p.sources.map fun e => if e.1 = peer then (peer, e.2 + bytes) else e
          else if bytes = 0 then p.sources else p.sources ++ [(peer, bytes)] }
    else { p with announced := tableSet p.announced peer (tableGet 0 p.announced peer + bytes) })

/-- TC1_GRANT (R310): this port's gateway grants 4 KiB to the first of the sources, which goes to the end of their order
while it has more; or a receiver's grant reaches this gateway, which holds at most 64 of each receiver. -/
def execTc1Grant (port : Nat) (receives : Bool) (peer : Nat) : State → Result := fun s =>
  .next (s.modPort port fun p =>
    if receives then
      (match p.sources with
        | [] => p
        | (q, n) :: r => { p with sources := if n ≤ 4096 then r else r ++ [(q, n - 4096)] })
    else
      let have_ := tableGet [] p.granted peer
      let left := tableGet 0 p.announced peer
      if left = 0 ∨ 64 ≤ have_.length then p
      else
        { p with
          announced := tableSet p.announced peer (left - 4096)
          granted := tableSet p.granted peer (have_ ++ [min left 4096]) })

end Sys2Proof.Machine
end

