-- ==== Sys2Proof/Machine/Link.lean ====
section
/-! DEFINITION. The Aqrex links: frames, replay and retraining (R309, R310, R340, R368 to R375). -/

namespace Sys2Proof.Machine

/-! Frames. -/

/-- CRC-32 of IEEE 802.3, one bit: the register is reflected (R368; PRESUMED, log 37). -/
def crcBit (c : BitVec 32) : BitVec 32 := if c.getLsbD 0 then (c >>> 1) ^^^ 0xEDB88320#32 else c >>> 1

/-- CRC-32 of bytes from a register value. -/
def crcFrom : BitVec 32 → List Byte → BitVec 32
  | c, [] => c
  | c, b :: bs => crcFrom (crcBit (crcBit (crcBit (crcBit (crcBit (crcBit (crcBit (crcBit (c ^^^ b.setWidth 32))))))))) bs

/-- CRC-32 of bytes (R368; PRESUMED, log 37). -/
def crc32 (bs : List Byte) : BitVec 32 := ~~~crcFrom 0xFFFFFFFF#32 bs

/-- The header of a frame (R368). -/
structure Header where
  seq   : Nat
  ack   : Nat
  nak   : Bool
  tc    : Nat
  kind  : Nat
  freed : List Nat
  deriving DecidableEq, Repr

/-- The header in a frame's first 16 bytes (R368). -/
def headerOf (bs : List Byte) : Header :=
  let h := natOfBytes (bs.take 16)
  let f (lo w : Nat) : Nat := h / 2 ^ lo % 2 ^ w
  { seq := f 116 12, ack := f 104 12, nak := f 103 1 == 1, tc := f 101 2, kind := f 99 2, freed := [f 48 16, f 64 16, f 80 16] }

/-- A header as bytes (R368). -/
def Header.bytes (h : Header) : List Byte :=
  let f (k : Nat) : Nat := h.freed.getD k 0
  bytesOfNat 16 (h.seq * 2 ^ 116 + h.ack * 2 ^ 104 + (if h.nak then 2 ^ 103 else 0) + h.tc * 2 ^ 101 + h.kind * 2 ^ 99 +
    f 2 * 2 ^ 80 + f 1 * 2 ^ 64 + f 0 * 2 ^ 48)

/-- A frame as it goes out (R368): header, 236 bytes, CRC. -/
def frameBytes (h : Header) (payload : List Byte) : List Byte :=
  let body := h.bytes ++ (payload ++ List.replicate 236 0#8).take 236
  body ++ bytesOfNat 4 (crc32 body).toNat

/-- Is a frame whole: 256 bytes with a CRC that passes (R368)? -/
def frameGood (bs : List Byte) : Bool := bs.length == 256 && fieldOf bs 252 4 == (crc32 (bs.take 252)).toNat

/-- The die whose gateway a port is (R375). -/
def dieOfPort (p : Nat) : Nat := p / 2

/-- A link event logged (R361): ADDR is the port, SOURCE the link. -/
def State.logLink (s : State) (p event : Nat) : State := s.logError (dieOfPort p) (BitVec.ofNat 64 p) 0 6 event

/-! Retraining. -/

/-- Does retraining wait for the kernel (R340)? -/
def State.linkAssisted (s : State) (p : Nat) : Bool := !(s.die (dieOfPort p)).mgmt.getLsbD 3

/-- An attempt begins: its serial, and the PHY training (R371). -/
def Port.beginAttempt (q : Port) : Port :=
  { q with shake := .phy, attempt := q.attempt + 1, prec := 0, peerLid := none, stepWait := false }

/-- Retraining at a target speed: the first attempt, or a wait for the kernel's STEP (R340, R371). -/
def Port.retrain (q : Port) (target : BitVec 2) (assisted : Bool) : Port :=
  let q := { q with lstate := 1, target := target }
  if assisted then { q with shake := .idle, stepWait := true } else q.beginAttempt

/-- The next lower speed (R373). -/
def lowerSpeed (v : BitVec 2) : BitVec 2 := if v.toNat < 2 then v + 1 else 2#2

/-- A failed attempt (R373, R374): logged, counted, and the next lower speed or DOWN. -/
def State.failAttempt (s : State) (p : Nat) : State :=
  let s := s.logLink p 8
  let q := s.port p
  if 3 ≤ q.fails then
    (s.modPort p fun q => { q with fails := q.fails + 1, lstate := 0, shake := .idle, stepWait := false }).logLink p 9
  else
    s.modPort p fun q => ({ q with fails := q.fails + 1 } : Port).retrain (lowerSpeed q.target) (s.linkAssisted p)

/-- A frame sent again. -/
def Frame.again (f : Frame) : Frame := { f with sent := f.sent + 1 }

/-- DESIGN CHOICE. A good attempt (R373): traffic is restored, and every frame after the last ACK is replayed, counted
from one again (log 38). The receiver's slots that training exchanges are free values (log 4). -/
def State.goodAttempt (s : State) (p : Nat) : State :=
  let buf : Vector Nat 3 := #v[Config.freeNat s.free, Config.freeNat (s.free + 1), Config.freeNat (s.free + 2)]
  ({ s with free := s.free + 3 } : State).modPort p fun q =>
    { q with
      lstate := 2, speed := q.target, fails := 0, shake := .idle, buf := buf
      resent := q.resent + BitVec.ofNat 32 q.retry.length, retry := q.retry.map fun f => { f with sent := 1 } }

/-- The link-end identity of a port (R372). -/
def State.lid (s : State) (p : Nat) : BitVec 32 := BitVec.ofNat 32 (s.hub.module % 1024 * 2 ^ 14 + p % 256 * 2 ^ 6)

/-- The outcome record of an attempt (R371): its LMAP, which the PHY finds, is a free value (log 4). -/
def outcomeRecord (attempt : BitVec 16) (lmap : Nat) (speed : BitVec 2) : Word :=
  BitVec.ofNat 64 (attempt.toNat * 2 ^ 48 + lmap % 2 ^ 24 * 2 ^ 24 + 8 * 2 ^ 20 + speed.toNat * 2 ^ 16)

/-- Do two records agree in WIDTH, LMAP and SPEED (R373)? -/
def recordsAgree (a b : Word) : Bool := getField a 20 28 == getField b 20 28 && getField a 16 2 == getField b 16 2

/-- Does an end judge its attempt good: records agree, and in time (R373)? -/
def State.judge (s : State) (q : Port) (peer echo : Word) : Bool :=
  recordsAgree q.lrec peer && recordsAgree q.lrec echo && decide (s.cycle ≤ q.shakeFrom + 2 ^ 20)

/-- A record in a training frame (R372). -/
def frameWord (bs : List Byte) (o : Nat) : Word := BitVec.ofNat 64 (fieldOf bs o 8)

/-! Sending and receiving. -/

/-- Free slots of a class at the receiver (R370). -/
def Port.freeSlots (q : Port) (tc : Nat) : Nat :=
  q.buf.toList.getD tc 0 - (q.sent.toList.getD tc 0 - q.freedByPeer.toList.getD tc 0).toNat

/-- May a TC0 frame go: at most 16 of any 64 consecutive frames (R309)? -/
def Port.tc0Share (q : Port) : Bool := decide ((q.recent.filter (· == 0#2)).length < 16)

/-- Bytes of TC1 that a receiver has granted and that are not sent (R310). -/
def Port.grantedTo (q : Port) (peer : Nat) : Nat := (tableGet [] q.granted peer).sum

/-- Bytes taken from the grants held, the oldest first. -/
def spendGrants : Nat → List Nat → List Nat
  | n, g :: gs => if g ≤ n then spendGrants (n - g) gs else (g - n) :: gs
  | _, [] => []

/-- Can the link take one more frame (R369)? -/
def Port.ready (q : Port) : Bool := q.lstate == 2#2 && decide (q.retry.length < 512)

/-- The first frame of a class that waits, if it may go: its receiver has a slot, TC0 is within its share, and TC1 bytes are
granted (R309, R310, R370). -/
def Port.candidate (q : Port) (tc : Nat) : Option (Nat × Nat × List Byte) :=
  (q.wait.find? fun f => f.1 == tc).filter fun f =>
    decide (0 < q.freeSlots tc) && (tc != 0 || q.tc0Share) && (tc != 1 || decide (f.2.2.length ≤ q.grantedTo f.2.1))

/-- Of TC1 and TC2, which are both ready to go, is it the turn of TC2: were the last fifteen of their frames TC1 (R309)? -/
def Port.turnOfTc2 (q : Port) : Bool :=
  let last := (q.recent.filter fun c => c == 1#2 || c == 2#2).take 15
  last.length == 15 && last.all (· == 1#2)

/-- The frame that a port's arbiter serves next: TC0 ahead of the others, TC1 and TC2 in proportion 15 to 1 (R309). -/
def Port.nextFrame (q : Port) : Option (Nat × Nat × List Byte) :=
  match q.candidate 0, q.candidate 1, q.candidate 2 with
  | some f, _, _ => some f
  | none, some f, some g => some (if q.turnOfTc2 then g else f)
  | none, some f, none => some f
  | none, none, g => g

/-- A frame sent and kept (R369). -/
def Port.sendFrame (q : Port) (kind tc : BitVec 2) (data : List Byte) : Port :=
  { q with
    seq := q.seq + 1, retry := q.retry ++ [{ seq := q.seq + 1, tc := tc, kind := kind, data := data, sent := 1 }]
    recent := ((if kind = 0#2 then tc else 3#2) :: q.recent).take 63 }

/-- A data frame served: it takes a slot of its class, and one of TC1 bytes that its receiver has granted. -/
def Port.serve (q : Port) (f : Nat × Nat × List Byte) : Port :=
  let (tc, peer, data) := f
  { (q.sendFrame 0#2 (BitVec.ofNat 2 tc) data) with
    wait := q.wait.erase f
    sent := q.sent.mapFinIdx fun i n _ => if i = tc then n + 1 else n
    granted := if tc = 1 then tableSet q.granted peer (spendGrants data.length (tableGet [] q.granted peer)) else q.granted }

/-- One turn of a port's arbiter: the next data frame, else an idle frame where one is asked for. -/
def Port.arbitrate (q : Port) (idle : Bool) (data : List Byte) : Port :=
  if !q.ready then q
  else
    match q.nextFrame with
    | some f => q.serve f
    | none => if idle then q.sendFrame 1#2 0#2 data else q

/-- The class of a frame (R309): of a peer access that a core has under way, TC1 for a copy's or gather's and TC0 otherwise;
of other traffic the class that it has. None where there is no such access or class. -/
def State.frameClass (s : State) : Traffic → Option Nat
  | .other tc => if tc < 3 then some tc else none
  | .access core seq =>
    match s.pathEntry core seq with
    | some e =>
      (match e.acc.loc.home with
        | .peer _ _ => some (if e.acc.bulk then 1 else 0)
        | _ => none)
    | none => none

/-- LINK_FRAME_SEND (R309, R369): a data frame is ready to go, for an access of a core or other traffic, or none is (kind 1);
the port's arbiter then serves one frame. -/
def execLinkFrameSend (port kind : Nat) (tc : Traffic) (peer : Nat) (data : List Byte) : State → Result := fun s =>
  match s.frameClass tc with
  | none => .next s
  | some tc =>
    if 236 < data.length || 1 < kind then .next s
    else
      .next (s.modPort port fun q =>
        (if kind = 0 then { q with wait := q.wait ++ [(tc, peer, data)] } else q).arbitrate (kind == 1) data)

/-- The retry buffer without what an ACK covers (R369). -/
def Port.acknowledge (q : Port) (ack : BitVec 12) : List Frame := q.retry.filter fun f => decide (1 ≤ (f.seq - ack).toNat ∧ (f.seq - ack).toNat ≤ 2047)

/-- A frame accepted (R369, R370): ACK, slots returned by the peer, frames sent again on a NAK, and its own slot freed,
since the gateway takes it at once (log 38). -/
def Port.accept (q : Port) (h : Header) : Port :=
  let kept := q.acknowledge (BitVec.ofNat 12 h.ack)
  { q with
    ack := q.ack + 1, nak := false
    freedByPeer := #v[BitVec.ofNat 16 (h.freed.getD 0 0), BitVec.ofNat 16 (h.freed.getD 1 0), BitVec.ofNat 16 (h.freed.getD 2 0)]
    retry := if h.nak then kept.map Frame.again else kept
    resent := if h.nak then q.resent + BitVec.ofNat 32 kept.length else q.resent
    freed := if h.kind = 0 then q.freed.mapFinIdx fun i n _ => if i = h.tc then n + 1 else n else q.freed }

/-- LINK_FRAME_RECEIVE (R369): 256 bytes as they arrive; `good` is false where the PHY could not correct them. -/
def execLinkFrameReceive (port : Nat) (good : Bool) (bytes : List Byte) : State → Result := fun s =>
  let q := s.port port
  if q.lstate != 2#2 then .next s
  else
    let h := headerOf bytes
    if good && frameGood bytes && h.seq == (q.ack + 1).toNat then .next (s.modPort port fun q => q.accept h)
    else .next (s.modPort port fun q => { q with nak := true })

/-- LINK_REPLAY_LIMIT (R369): a frame sent 16 times without being acknowledged. -/
def execLinkReplayLimit (port : Nat) : State → Result := fun s =>
  let q := s.port port
  if q.lstate == 2#2 && q.retry.any fun f => decide (16 ≤ f.sent) then
    .next ((s.logLink port 7).modPort port fun q => q.retrain q.speed (s.linkAssisted port))
  else .next s

/-- PHY_LOCK_LOSS (R371): retraining at the speed that the link has (DEDUCED, log 38). -/
def execPhyLockLoss (port : Nat) : State → Result := fun s =>
  if (s.port port).lstate == 2#2 then .next (s.modPort port fun q => q.retrain q.speed (s.linkAssisted port)) else .next s

/-! The handshake. -/

/-- PHY_TRAIN_COMPLETE (R371, R372): the handshake begins, with a first HELLO. -/
def execPhyTrainComplete (port : Nat) : State → Result := fun s =>
  if (s.port port).lstate == 1#2 && (s.port port).shake == .phy then
    let (n, s) := s.nextFree
    .next (s.modPort port fun q =>
      { q with shake := .hello, shakeFrom := s.cycle, lastHello := s.cycle, lrec := outcomeRecord q.attempt (Config.freeNat n) q.target })
  else .next s

/-- HELLO_SEND (R372). -/
def execHelloSend (port : Nat) : State → Result := fun s =>
  let q := s.port port
  if q.shake == .hello && q.peerLid.isNone && decide (q.lastHello + 1024 ≤ s.cycle) then
    .next (s.modPort port fun q => { q with lastHello := s.cycle })
  else .next s

/-- HELLO_RECEIVE (R372): the end with the lower LID sends OFFER; with equal LIDs neither does. -/
def execHelloReceive (port : Nat) (lid : BitVec 32) : State → Result := fun s =>
  let q := s.port port
  if q.shake == .hello && q.peerLid.isNone then
    .next (s.modPort port fun q => { q with peerLid := some lid, shake := if (s.lid port).toNat < lid.toNat then .offered else .hello })
  else .next s

/-- OFFER_RECEIVE (R371, R373): answered; an end that is UP counts its last attempt as failed. -/
def execOfferReceive (port : Nat) (bytes : List Byte) : State → Result := fun s =>
  let q := s.port port
  if q.lstate == 2#2 then .next (s.failAttempt port)
  else if q.shake == .hello then
    .next (s.modPort port fun q =>
      { q with shake := .answered, prec := frameWord bytes 16, peerLid := some (BitVec.ofNat 32 (fieldOf bytes 32 4)) })
  else .next s

/-- ANSWER_RECEIVE (R373): the end that offered judges the attempt; if it is good it sends CONFIRM. -/
def execAnswerReceive (port : Nat) (bytes : List Byte) : State → Result := fun s =>
  let q := s.port port
  if q.shake == .offered then
    let s := s.modPort port fun q => { q with prec := frameWord bytes 16 }
    if s.judge q (frameWord bytes 16) (frameWord bytes 24) then .next (s.goodAttempt port) else .next (s.failAttempt port)
  else .next s

/-- CONFIRM_RECEIVE (R373): the end that answered judges the attempt. -/
def execConfirmReceive (port : Nat) (bytes : List Byte) : State → Result := fun s =>
  let q := s.port port
  if q.shake == .answered then
    let s := s.modPort port fun q => { q with prec := frameWord bytes 16 }
    if s.judge q (frameWord bytes 16) (frameWord bytes 24) then .next (s.goodAttempt port) else .next (s.failAttempt port)
  else .next s

/-- TRAINING_TIMEOUT (R373): 2^20 cycles after the handshake began. -/
def execTrainingTimeout (port : Nat) : State → Result := fun s =>
  let q := s.port port
  let shaking := q.shake == .hello || q.shake == .offered || q.shake == .answered
  if q.lstate == 1#2 && shaking && decide (q.shakeFrom + 2 ^ 20 < s.cycle) then .next (s.failAttempt port) else .next s

/-! LCMD. -/

/-- The port of a store to LCMD. -/
def portOfAccess (a : Access) : Nat := (a.loc.off - 0x100000) / 0x100

/-- LCMD_STEP (R340, R375): the next attempt of a link that waits for the kernel. -/
def execLcmdStep (core seq : Nat) : State → Result :=
  serveStore .lcmdStep core seq fun s a _ => s.modPort (portOfAccess a) fun q => if q.stepWait then q.beginAttempt else q

/-- LCMD_RETRAIN (R375): at 212.5 Gb/s; a command begins a count of its own (DEDUCED, log 38). -/
def execLcmdRetrain (core seq : Nat) : State → Result :=
  serveStore .lcmdRetrain core seq fun s a _ =>
    s.modPort (portOfAccess a) fun q => ({ q with fails := 0 } : Port).retrain 0 false

/-- LCMD_DOWN (R375). -/
def execLcmdDown (core seq : Nat) : State → Result :=
  serveStore .lcmdDown core seq fun s a _ => s.modPort (portOfAccess a) fun q => { q with lstate := 0, shake := .idle, stepWait := false }

end Sys2Proof.Machine
end

