-- ==== Sys2Proof/Machine/Lms.lean ====
section
/-! DEFINITION. SHA-256 (FIPS 180-4) and the check of an LMS signature (RFC 8554, LMS_SHA256_M32_H20 with
LMOTS_SHA256_N32_W8), which R376 and R377 name. Both standards stand outside the spec: PRESUMED (log 39). -/

namespace Sys2Proof.Machine

/-! SHA-256. Its constants are fractions of roots of primes, and are computed as such. -/

/-- The greatest number below 2^n, above a base, whose power e is at most x. -/
def rootBits (x e : Nat) : Nat → Nat → Nat
  | 0, r => r
  | n + 1, r => rootBits x e n (if (r + 2 ^ n) ^ e ≤ x then r + 2 ^ n else r)

/-- The first 32 bits of the fraction of the e-th root of a number. -/
def rootFraction (e p : Nat) : Word32 := BitVec.ofNat 32 (rootBits (p * 2 ^ (32 * e)) e 40 0)

/-- The primes below 312, of which there are 64. -/
def primes : List Nat := (List.range 312).filter fun n => 2 ≤ n && (List.range n).all fun d => d < 2 || n % d != 0

/-- The exclusive or of rotations of a word to the right. -/
def spun (x : Word32) (ns : List Nat) : Word32 := ns.foldr (fun n y => x.rotateRight n ^^^ y) 0

/-- The chaining value: the last four words of each of the two sequences that the rounds grow, latest first. -/
structure Chain where
  upper : List Word32
  lower : List Word32
  deriving DecidableEq, Repr

/-- The chaining value of the empty message: from the square roots of the first eight primes. -/
def Chain.start : Chain :=
  let roots := (primes.take 8).map (rootFraction 2)
  { upper := roots.take 4, lower := roots.drop 4 }

/-- One round, for the sum of its constant and its word of the schedule. -/
def Chain.round (c : Chain) (kw : Word32) : Chain :=
  match c.upper, c.lower with
  | [u1, u2, u3, u4], [l1, l2, l3, l4] =>
    let choose := l3 ^^^ (l1 &&& (l2 ^^^ l3))
    let most := (u1 &&& (u2 ||| u3)) ||| (u2 &&& u3)
    let sum := kw + l4 + choose + spun l1 [6, 11, 25]
    { upper := [most + spun u1 [2, 13, 22] + sum, u1, u2, u3], lower := [u4 + sum, l1, l2, l3] }
  | _, _ => c

/-- The word of the schedule that follows sixteen, latest first. -/
def scheduleNext (last : List Word32) : Word32 :=
  let back (n : Nat) : Word32 := last.getD (n - 1) 0
  back 16 + back 7 + (back 15 >>> 3 ^^^ spun (back 15) [7, 18]) + (back 2 >>> 10 ^^^ spun (back 2) [17, 19])

/-- The rounds of one block, one for each constant, with the sixteen words of the schedule before each, latest first. -/
def Chain.rounds : List Nat → List Word32 → Chain → Chain
  | [], _, c => c
  | p :: ps, last, c =>
    Chain.rounds ps ((scheduleNext last :: last).take 16) (c.round (rootFraction 3 p + last.getD 15 0))

/-- The number that bytes hold, highest first. -/
def natOfBE (bs : List Byte) : Nat := natOfBytes bs.reverse

/-- n bytes of a number, highest first. -/
def bytesBE (n x : Nat) : List Byte := (bytesOfNat n x).reverse

/-- The chaining value after a block of 64 bytes. -/
def Chain.block (c : Chain) (block : List Byte) : Chain :=
  let words := (List.range 16).map fun i => BitVec.ofNat 32 (natOfBE ((block.drop (4 * i)).take 4))
  let e := Chain.rounds primes words.reverse c
  { upper := List.zipWith (· + ·) c.upper e.upper, lower := List.zipWith (· + ·) c.lower e.lower }

/-- The chaining value after n blocks. -/
def Chain.blocks : Nat → List Byte → Chain → Chain
  | 0, _, c => c
  | n + 1, bs, c => Chain.blocks n (bs.drop 64) (c.block (bs.take 64))

/-- SHA-256 of bytes. -/
def sha256 (bs : List Byte) : List Byte :=
  let padded := bs ++ [0x80#8] ++ List.replicate ((119 - bs.length % 64) % 64) 0#8 ++ bytesBE 8 (8 * bs.length)
  let c := Chain.start.blocks (padded.length / 64) padded
  (c.upper ++ c.lower).flatMap fun w => bytesBE 4 w.toNat

/-! LMS. -/

/-- The hash of RFC 8554 under a key's identifier, a number, a marker or an index, and data. -/
def lmsHash (ident : List Byte) (number mark : Nat) (data : List Byte) : List Byte :=
  sha256 (ident ++ bytesBE 4 number ++ bytesBE 2 mark ++ data)

/-- A Winternitz chain continued from step j, n steps more. -/
def otsChain (ident : List Byte) (leaf i : Nat) : Nat → Nat → List Byte → List Byte
  | 0, _, v => v
  | n + 1, j, v => otsChain ident leaf i n (j + 1) (lmsHash ident leaf i (bytesBE 1 j ++ v))

/-- The one-time public key that a one-time signature gives for a message: C and 34 values. -/
def otsCandidate (ident : List Byte) (leaf : Nat) (sig message : List Byte) : List Byte :=
  let digest := lmsHash ident leaf 0x8181 (sig.take 32 ++ message)
  let digits := digest ++ bytesBE 2 (digest.map fun b => 255 - b.toNat).sum
  lmsHash ident leaf 0x8080 (digits.zipIdx.flatMap fun d =>
    otsChain ident leaf d.2 (255 - d.1.toNat) d.1.toNat ((sig.drop (32 + 32 * d.2)).take 32))

/-- The root that a path from a node leads to, one level for each of n. -/
def lmsRoot (ident : List Byte) : Nat → Nat → List Byte → List Byte → List Byte
  | 0, _, v, _ => v
  | n + 1, node, v, path =>
    let other := path.take 32
    lmsRoot ident n (node / 2) (lmsHash ident (node / 2) 0x8383 (if node % 2 = 1 then other ++ v else v ++ other))
      (path.drop 32)

/-- Is a signature good for a message under a public key: type 8 with one-time type 4, 20 levels? -/
def lmsVerifies (key sig message : List Byte) : Bool :=
  let ident := (key.drop 8).take 16
  let leaf := natOfBE (sig.take 4)
  let ots := (sig.drop 8).take 1120
  let node := 2 ^ 20 + leaf
  key.length == 56 && natOfBE (key.take 4) == 8 && natOfBE ((key.drop 4).take 4) == 4 &&
  sig.length == 1772 && decide (leaf < 2 ^ 20) && natOfBE ((sig.drop 4).take 4) == 4 &&
  natOfBE ((sig.drop 1128).take 4) == 8 &&
  lmsRoot ident 20 node (lmsHash ident node 0x8282 (otsCandidate ident leaf ots message)) (sig.drop 1132) == key.drop 24

end Sys2Proof.Machine
end

