-- ==== Sys2Proof/Machine/Boot.lean ====
section
/-! DEFINITION. Boot, measurement, attestation, the stop and the reset of the module (R36, R376 to R378). -/

namespace Sys2Proof.Machine

/-! Boot. -/

/-- Does an image pass the checks of R376: its LMS signature under the public key whose digest is fused, its version at
least the floor? Where an image carries the three and what its signature covers is not stated (log 39). -/
def Hub.imageGood (h : Hub) (image : List Byte) : Bool :=
  sha256 (Config.imageKey image) == h.otpKey &&
    lmsVerifies (Config.imageKey image) (Config.imageSignature image) (Config.imageSigned image) &&
    decide (h.otpFloor ≤ (Config.imageVersion image).toNat)

/-- A digest extends the measurement log (R377). -/
def Hub.extend (h : Hub) (digest : List Byte) : Hub := { h with log := h.log ++ [digest], running := sha256 (h.running ++ digest) }

/-- The image measured and started on control core 0 (R376). Where it starts is not stated: a free value
that is a multiple of 4 (R61; log 4). -/
def State.startImage (s : State) (image : List Byte) : State :=
  let (n, s) := s.nextFree
  let s : State := { s with hub := { s.hub.extend (sha256 image) with booted := true, recovery := false } }
  (s.modStrand (8 * 4096) fun t => { t with pc := Config.freeWord n &&& ~~~3#64, mode := .m }).wake (8 * 4096)

/-- BOOT (R10, R376): the image that the boot flash holds, and the module number that management sets. -/
def execBoot (image : List Byte) (number : BitVec 10) : State → Result := fun s =>
  if s.hub.booted || s.hub.recovery then .next s
  else
    let s : State := { s with hub := { s.hub with module := number.toNat } }
    if s.hub.imageGood image then .next (s.startImage image)
    else .next (({ s with hub := { s.hub with recovery := true } } : State).logError 8 0 0 7 0x0A)

/-- RECOVERY_IMAGE_RECEIVE (R376): an image that fails is not started. -/
def execRecoveryImageReceive (image : List Byte) : State → Result := fun s =>
  if s.hub.recovery && s.hub.imageGood image then .next (s.startImage image) else .next s

/-- ATTESTATION_REQUEST (R377): the leaf counter goes on before the signature leaves; refused once 2^20 leaves are
spent. -/
def execAttestationRequest (nonce : List Byte) : State → Result := fun s =>
  if nonce.length = 32 ∧ s.hub.leaf < 2 ^ 20 then
    .next { s with hub := { s.hub with leaf := s.hub.leaf + 1, attested := some (sha256 (s.hub.running ++ nonce), s.hub.leaf) } }
  else .next { s with hub := { s.hub with attested := none } }

/-! Stop and reset. -/

/-- The management controller stops the module and logs the cause (R378): what the entry holds beside SOURCE 7 is not
stated, free values (log 4). -/
def State.stopModule (s : State) : State :=
  let (n, s) := s.nextFree
  let s := s.logError 8 (Config.freeWord n) 0 7 (Config.freeNat n % 256)
  { s with hub := { s.hub with stopped := true } }

/-- JUNCTION_TRIP (R378): of a die of the module. -/
def execJunctionTrip (die : Nat) : State → Result := fun s => if die ≤ 8 then .next s.stopModule else .next s

/-- COOLANT_LIMIT_STOP (R378). -/
def execCoolantLimitStop : State → Result := fun s => .next s.stopModule

/-- DESIGN CHOICE. MODULE_RESET (R36): the state right after reset; memory and its tags are left, and so are the fuses and
the leaf counter (R376, R377), the parts disabled (R9), time, and the model's own counters (log 43). -/
def execModuleReset : State → Result := fun s =>
  let r := State.reset
  .next { r with
    mem := s.mem, tags := s.tags, agenda := s.agenda, free := s.free, nextUid := s.nextUid, cycle := s.cycle, time := s.time
    hub := { r.hub with otpKey := s.hub.otpKey, otpFloor := s.hub.otpFloor, leaf := s.hub.leaf, absent := s.hub.absent
                        peerSlices := s.hub.peerSlices } }

end Sys2Proof.Machine
end

