-- ==== Sys2Proof/Machine/Branch.lean ====
section
/-! DEFINITION. Branches, jumps and LOOP (R103 to R109). -/

namespace Sys2Proof.Machine

/-- The target of an offset in words (R41). -/
def wordTarget {n : Nat} (pc : Word) (o : BitVec n) : Word := pc + (immWord o <<< 2)

/-- A conditional branch (R103). -/
def execBranch (i : Instr) (a b : BitVec 5) (o : BitVec 14) (c : Word → Word → Bool) : State → Result :=
  issue i fun s =>
    let t := s.me
    if c (t.getX a) (t.getX b) then .next (s.jumpTo (wordTarget t.pc o)) else .next s.retire

/-- BEQ (R103). -/
def execBeq (a b : BitVec 5) (o : BitVec 14) : State → Result := execBranch (.beq a b o) a b o (fun x y => x == y)
/-- BNE (R103). -/
def execBne (a b : BitVec 5) (o : BitVec 14) : State → Result := execBranch (.bne a b o) a b o (fun x y => x != y)
/-- BLT (R103). -/
def execBlt (a b : BitVec 5) (o : BitVec 14) : State → Result := execBranch (.blt a b o) a b o (fun x y => x.slt y)
/-- BGE (R103). -/
def execBge (a b : BitVec 5) (o : BitVec 14) : State → Result := execBranch (.bge a b o) a b o (fun x y => !x.slt y)
/-- BLTU (R103). -/
def execBltu (a b : BitVec 5) (o : BitVec 14) : State → Result := execBranch (.bltu a b o) a b o (fun x y => x.ult y)
/-- BGEU (R103). -/
def execBgeu (a b : BitVec 5) (o : BitVec 14) : State → Result := execBranch (.bgeu a b o) a b o (fun x y => !x.ult y)

/-- JAL (R104). -/
def execJal (d : BitVec 5) (o : BitVec 19) : State → Result :=
  issue (.jal d o) fun s =>
    let pc := s.me.pc
    .next ((s.modMe fun t => t.setX d (pc + 4)).jumpTo (wordTarget pc o))

/-- JALR (R61, R104). -/
def execJalr (d a : BitVec 5) (i : BitVec 14) : State → Result :=
  issue (.jalr d a i) fun s =>
    let pc := s.me.pc
    let target := s.me.getX a + immWord i
    if target.extractLsb' 0 2 = 0#2 then .next ((s.modMe fun t => t.setX d (pc + 4)).jumpTo target)
    else .next (s.takeTrap s.cur (trapALIGN target))

/-- Does the address lie in unit instruction scratch (R27, R62)? -/
def inUnitCode (a : Nat) : Bool := decide (unitBase + 0x20000 ≤ a ∧ a < unitBase + 0x28000)

/-- The words of a loop body and their poison, as they stand in memory (R63, R65). -/
def State.loopWords (s : State) (first : Word) (n : Nat) : List (Word32 × Bool) :=
  (List.range n).map fun i =>
    let l : Loc := { home := .unit s.here, off := first.toNat - unitBase + 4 * i }
    (BitVec.ofNat 32 (s.natAt l 4), (s.tagAt l).poison)

/-- LOOP (R107). -/
def execLoop (a : BitVec 5) (n : BitVec 14) : State → Result :=
  issue (.loop a n) fun s =>
    let t := s.me
    let count := t.getX a
    let first := t.pc + 4
    let last := t.pc + BitVec.ofNat 64 (4 * n.toNat)
    if isControl s.here || !inUnitCode first.toNat || !inUnitCode last.toNat then
      .next (s.takeTrap s.cur (trapACCERR first 0))
    else if count = 0#64 then .next (s.jumpTo (last + 4))
    else
      .next (s.modMe fun t => { (t.goTo first) with
        lcnt := count, lbody := BitVec.ofNat 64 (n.toNat * 2 ^ 18 + (first.toNat - unitBase))
        loopBuf := s.loopWords first n.toNat, unusable := t.clearCsrs [8, 9] })

end Sys2Proof.Machine
end

