-- ==== Sys2Proof/Machine/Integer.lean ====
section
/-! DEFINITION. The integer register and immediate instructions, LUI and AUIPC (R98 to R102). -/

namespace Sys2Proof.Machine

/-- An integer register instruction: `f` of rs1 and rs2 in 64 bits, or in 32 under W, to rd (R98). -/
def execInt (i : Instr) (d a b : BitVec 5) (w : BitVec 1) (f : (n : Nat) → BitVec n → BitVec n → BitVec n) :
    State → Result :=
  issue i fun s => complete (fun t => t.setX d (underW w f (t.getX a) (t.getX b))) s

/-- An immediate instruction: `f` of rs1 and the immediate to rd (R101). -/
def execImm (i : Instr) (d a : BitVec 5) (f : Word → Word → Word) (k : Word) : State → Result :=
  issue i fun s => complete (fun t => t.setX d (f (t.getX a) k)) s

/-- ADD (R98). -/
def execAdd (d a b : BitVec 5) (w : BitVec 1) : State → Result := execInt (.add d a b w) d a b w opAdd
/-- SUB (R98). -/
def execSub (d a b : BitVec 5) (w : BitVec 1) : State → Result := execInt (.sub d a b w) d a b w opSub
/-- AND (R98). -/
def execAnd (d a b : BitVec 5) (w : BitVec 1) : State → Result := execInt (.and d a b w) d a b w opAnd
/-- OR (R98). -/
def execOr (d a b : BitVec 5) (w : BitVec 1) : State → Result := execInt (.or d a b w) d a b w opOr
/-- XOR (R98). -/
def execXor (d a b : BitVec 5) (w : BitVec 1) : State → Result := execInt (.xor d a b w) d a b w opXor
/-- SLL (R98). -/
def execSll (d a b : BitVec 5) (w : BitVec 1) : State → Result := execInt (.sll d a b w) d a b w opSll
/-- SRL (R98). -/
def execSrl (d a b : BitVec 5) (w : BitVec 1) : State → Result := execInt (.srl d a b w) d a b w opSrl
/-- SRA (R98). -/
def execSra (d a b : BitVec 5) (w : BitVec 1) : State → Result := execInt (.sra d a b w) d a b w opSra
/-- MUL (R98). -/
def execMul (d a b : BitVec 5) (w : BitVec 1) : State → Result := execInt (.mul d a b w) d a b w opMul
/-- SLT (R98). -/
def execSlt (d a b : BitVec 5) (w u : BitVec 1) : State → Result := execInt (.slt d a b w u) d a b w (opSlt u)
/-- MIN (R98). -/
def execMin (d a b : BitVec 5) (w u : BitVec 1) : State → Result := execInt (.min d a b w u) d a b w (opMin u)
/-- MAX (R98). -/
def execMax (d a b : BitVec 5) (w u : BitVec 1) : State → Result := execInt (.max d a b w u) d a b w (opMax u)
/-- MULH (R98). -/
def execMulh (d a b : BitVec 5) (w u : BitVec 1) : State → Result := execInt (.mulh d a b w u) d a b w (opMulh u)
/-- DIV (R99). -/
def execDiv (d a b : BitVec 5) (w u : BitVec 1) : State → Result := execInt (.div d a b w u) d a b w (opDiv u)
/-- REM (R99). -/
def execRem (d a b : BitVec 5) (w u : BitVec 1) : State → Result := execInt (.rem d a b w u) d a b w (opRem u)
/-- CLZ (R98). -/
def execClz (d a : BitVec 5) (w : BitVec 1) : State → Result := execInt (.clz d a w) d a 0#5 w opClz
/-- CTZ (R98). -/
def execCtz (d a : BitVec 5) (w : BitVec 1) : State → Result := execInt (.ctz d a w) d a 0#5 w opCtz
/-- POPC (R98). -/
def execPopc (d a : BitVec 5) (w : BitVec 1) : State → Result := execInt (.popc d a w) d a 0#5 w opPopc
/-- BFX (R100). -/
def execBfx (d a b : BitVec 5) (s w : BitVec 1) : State → Result :=
  issue (.bfx d a b s w) (complete fun t => t.setX d (bitField s w (t.getX a) (t.getX b)))

/-- ADDI (R101). -/
def execAddi (d a : BitVec 5) (i : BitVec 14) : State → Result := execImm (.addi d a i) d a ((· + ·)) (immWord i)
/-- ANDI (R101). -/
def execAndi (d a : BitVec 5) (i : BitVec 14) : State → Result := execImm (.andi d a i) d a ((· &&& ·)) (immWord i)
/-- ORI (R101). -/
def execOri (d a : BitVec 5) (i : BitVec 14) : State → Result := execImm (.ori d a i) d a ((· ||| ·)) (immWord i)
/-- XORI (R101). -/
def execXori (d a : BitVec 5) (i : BitVec 14) : State → Result := execImm (.xori d a i) d a ((· ^^^ ·)) (immWord i)
/-- SLLI (R101). -/
def execSlli (d a : BitVec 5) (i : BitVec 14) : State → Result := execImm (.slli d a i) d a (fun x k => x <<< k.toNat) (immWord i)
/-- SRLI (R101). -/
def execSrli (d a : BitVec 5) (i : BitVec 14) : State → Result := execImm (.srli d a i) d a (fun x k => x >>> k.toNat) (immWord i)
/-- SRAI (R101). -/
def execSrai (d a : BitVec 5) (i : BitVec 14) : State → Result := execImm (.srai d a i) d a (fun x k => x.sshiftRight k.toNat) (immWord i)
/-- SLTI (R101). -/
def execSlti (d a : BitVec 5) (i : BitVec 14) : State → Result := execImm (.slti d a i) d a (fun x k => if x.slt k then 1#64 else 0#64) (immWord i)
/-- LUI (R102). -/
def execLui (d : BitVec 5) (i : BitVec 19) : State → Result :=
  issue (.lui d i) (complete fun t => t.setX d (upperImm i))
/-- AUIPC (R102). -/
def execAuipc (d : BitVec 5) (i : BitVec 19) : State → Result :=
  issue (.auipc d i) (complete fun t => t.setX d (t.pc + upperImm i))

end Sys2Proof.Machine
end

