-- ==== Sys2Proof/Machine/Interp.lean ====
section
/-! DEFINITION. INTERP: the Whitney interpolant at the barycentre of each owned top cell (R180). -/

namespace Sys2Proof.Machine

/-- A vector of space with exact components. -/
structure Vec3 where
  x : Rat
  y : Rat
  z : Rat
  deriving DecidableEq, Repr

/-- Difference. -/
def Vec3.sub (a b : Vec3) : Vec3 := { x := a.x - b.x, y := a.y - b.y, z := a.z - b.z }
/-- Sum. -/
def Vec3.add (a b : Vec3) : Vec3 := { x := a.x + b.x, y := a.y + b.y, z := a.z + b.z }
/-- Scalar multiple. -/
def Vec3.scale (q : Rat) (a : Vec3) : Vec3 := { x := q * a.x, y := q * a.y, z := q * a.z }
/-- Scalar product. -/
def Vec3.dot (a b : Vec3) : Rat := a.x * b.x + a.y * b.y + a.z * b.z
/-- Vector product. -/
def Vec3.cross (a b : Vec3) : Vec3 :=
  { x := a.y * b.z - a.z * b.y, y := a.z * b.x - a.x * b.z, z := a.x * b.y - a.y * b.x }
/-- Zero. -/
def Vec3.zero : Vec3 := { x := 0, y := 0, z := 0 }
/-- Component 0, 1 or 2. -/
def Vec3.comp (a : Vec3) (c : Nat) : Rat := if c = 0 then a.x else if c = 1 then a.y else a.z

/-- The determinant of a matrix of one, two or three rows. -/
def det : List (List Rat) → Rat
  | [[a]] => a
  | [[a, b], [c, d]] => a * d - b * c
  | [[a, b, c], [d, e, f], [g, h, i]] => a * (e * i - f * h) - b * (d * i - f * g) + c * (d * h - e * g)
  | _ => 0

/-- The Gram matrix of the edges of a cell from its first vertex: its determinant is (n! vol)^2. -/
def gram (edges : List Vec3) : List (List Rat) := edges.map fun a => edges.map fun b => a.dot b

/-- The gradients of the barycentric coordinates of a cell's vertices, in its affine hull (R180): the solution of
∇λ_i · e_j = 1 where i = j and 0 elsewhere, by Cramer's rule; those of all vertices add up to 0. -/
def gradients (edges : List Vec3) : List Vec3 :=
  let g := gram edges
  let n := edges.length
  let unit_ (i : Nat) : List Rat := (List.range n).map fun j => if j = i then 1 else 0
  let grad (i : Nat) : Vec3 :=
    edges.zipIdx.foldl (fun v e => v.add (e.1.scale (det (g.set e.2 (unit_ i)) / det g))) Vec3.zero
  let gs := (List.range n).map grad
  Vec3.zero.sub (gs.foldl Vec3.add Vec3.zero) :: gs

/-- φ(f) at the barycentre for a face of degree 1 or 2 with the vertex positions given (R180). -/
def whitney (n : Nat) (gs : List Vec3) (pos : List Nat) : Vec3 :=
  let g (i : Nat) : Vec3 := gs.getD (pos.getD i 0) Vec3.zero
  if pos.length = 2 then ((g 1).sub (g 0)).scale (1 / ((n + 1 : Nat) : Rat))
  else (((g 1).cross (g 2)).sub ((g 0).cross (g 2)) |>.add ((g 0).cross (g 1))).scale (1 / 2)

/-- The vertices of a cell in order (R144). -/
def cellVerts (d : List Byte) : Nat → Nat → M (List Nat)
  | 0, j => return [j]
  | k + 1, j => do
    let es ← bndEntries d (k + 1) j
    let face (i : Nat) : Nat := (es.getD i (false, 0)).2
    if k = 0 then return [face 1, face 0]
    else
      let a ← cellVerts d k (face (k + 1))
      let b ← cellVerts d k (face 0)
      return a ++ [b.getLastD 0]

/-- The faces one degree down of cells with their vertex positions: entry i leaves out position i (R144). -/
def facesOf (d : List Byte) (m : Nat) : List (Nat × List Nat) → M (List (Nat × List Nat))
  | [] => return []
  | (j, pos) :: r => do
    let es ← bndEntries d m j
    let rest ← facesOf d m r
    return es.zipIdx.map (fun e => (e.1.2, pos.eraseIdx e.2)) ++ rest

/-- The faces of a top cell `steps` degrees below degree m, each position list once. -/
def facesDown (d : List Byte) : Nat → Nat → List (Nat × List Nat) → M (List (Nat × List Nat))
  | 0, _, fs => return fs
  | k + 1, m, fs => do
    let gs ← facesOf d m fs
    let once := gs.foldl (fun acc f => if acc.any fun g => g.2 == f.2 then acc else acc ++ [f]) []
    facesDown d k (m - 1) once

/-- A coordinate of a vertex (R146). -/
def coordOf (d : List Byte) (v c : Nat) : M Num :=
  return unpack .f64 (BitVec.ofNat 64 (← peekNat (cxCoord d + 24 * v + 8 * c) 8))

/-- The positions of vertices; none where a coordinate is not finite. -/
def positions (d : List Byte) : List Nat → M (Option (List Vec3))
  | [] => return some []
  | v :: vs => do
    let x ← coordOf d v 0
    let y ← coordOf d v 1
    let z ← coordOf d v 2
    let rest ← positions d vs
    let finite : Num → Bool
      | .nan _ => false | .inf _ => false | _ => true
    if finite x && finite y && finite z then
      return rest.map fun r => { x := x.toRat, y := y.toRat, z := z.toRat } :: r
    else return none

/-- A value of ca on a primal cell: for a dual ca, divided by METRIC[k] (R180). -/
def whitneyValue (c : CochainReg) (d : List Byte) (k f cell : Nat) : M Quot := do
  let v ← val c f cell
  if c.dual then return quotient v (← weight d k f)
  else
    match v with
    | .fin _ _ _ => return .rational v.toRat
    | v => return .special v 0#5

/-- A value times a real weight: a number that is not finite and nonzero, with flags; or an exact one. -/
def whitneyTerm (q : Quot) (phi : Rat) : Quot :=
  match q with
  | .special (.inf n) fl => if phi = 0 then .special (.nan false) (fl ||| flagNV) else .special (.inf (n != decide (phi < 0))) fl
  | .special (.zero n) fl => .special (.zero (n != decide (phi < 0))) fl
  | .special x fl => .special x fl
  | .rational r => if r * phi = 0 then .special (.zero (decide (r < 0) != decide (phi < 0))) 0#5 else .rational (r * phi)

/-- The sum of whitneyTerm values, rounded once; special values as R68 and R69 say. -/
def sumWeighted (rm : Rm) (f : Fmt) (ts : List Quot) : Word × FlagSet :=
  let fl := orFlags (ts.map fun
    | .special _ g => g
    | .rational _ => 0#5)
  let specials : List Num := ts.filterMap fun
    | .special x _ => some x
    | .rational _ => none
  let exact : Rat := (ts.map fun
    | .rational q => q
    | .special _ _ => 0).sum
  let s := sumExact rm specials
  let stops := match s.2 with
    | .nan _ => true
    | .inf _ => true
    | _ => false
  if stops || specials.length == ts.length then
    let (w, g) := deliverMarked rm f s
    (w, g ||| fl)
  else
    let (w, g) := deliverRat rm f (rm == .rdn) exact
    (w, g ||| fl)

/-- A value over the measure of a cell of degree n, whose Gram determinant is D: v n! / sqrt D, rounded once. -/
def overMeasure (rm : Rm) (f : Fmt) (q : Quot) (n : Nat) (D : Rat) : Word × FlagSet :=
  match q with
  | .special x fl =>
    let (w, g) := deliver rm f x
    (w, g ||| fl)
  | .rational v =>
    let fact : Nat := if n = 1 then 1 else if n = 2 then 2 else 6
    let r : Rat := v * v * ((fact * fact : Nat) : Rat) / D
    let num := r.num.natAbs
    let k := 68 + (Nat.log2 r.den + 2 - Nat.log2 num) / 2
    let scaled := num * 2 ^ (2 * k)
    let root := isqrt (scaled / r.den)
    roundNum rm f (decide (v < 0)) root (-(k : Int)) (root * root * r.den != scaled)

/-- The result of a top cell (R180). DESIGN CHOICE. Its boundary entries are read first, then the element values with their weights,
then COORD, of a cell of measure 0 too (log 16). Where a coordinate is not finite, no rule states it: a free value (log 4). -/
def interpCell (c x : CochainReg) (rm : Rm) (d : List Byte) (k comp cell : Nat) : M Elem := do
  let n := cxDim d
  let vs ← cellVerts d n cell
  let fs ← facesDown d (n - k) n [(cell, List.range (n + 1))]
  let values ← eachM (fun f => whitneyValue x d k f.1 cell) fs
  match ← positions d vs with
  | none =>
    let w ← pass2Word none
    return some (w, 0#5)
  | some ps =>
    let p0 := ps.headD Vec3.zero
    let edges := ps.tail.map fun p => p.sub p0
    let D := det (gram edges)
    if D = 0 then return some (c.flt.nan, flagNV)
    else if k = n then return some (overMeasure rm c.flt (values.headD (.special (.zero false) 0#5)) n D)
    else if k = 0 then
      return some (sumWeighted rm c.flt (values.map fun v => whitneyTerm v (1 / ((n + 1 : Nat) : Rat))))
    else
      let gs := gradients edges
      return some (sumWeighted rm c.flt ((values.zip fs).map fun e => whitneyTerm e.1 ((whitney n gs e.2.2).comp comp)))

/-- INTERP (R176, R180). -/
def execInterp (c a : BitVec 4) (r : BitVec 3) (comp : BitVec 2) : State → Result := fun s =>
  let d := s.me.getC c
  let x := s.me.getC a
  let primal (ds : List Byte) : Nat := if x.dual then cxDim ds - x.deg.toNat else x.deg.toNat
  cochain (.interp c a r comp) 0x77 [c, a]
    (fun ds => !d.dual && d.deg.toNat == cxDim ds && !d.isInt &&
      (comp == 0#2 || (primal ds != 0 && primal ds != cxDim ds))) (fun _ => d.count.toNat)
    (fun w ds => do
      let rm ← rmOf r
      passes 0x77 w d fun i => interpCell d x rm ds (primal ds) comp.toNat i) s

end Sys2Proof.Machine
end

