-- ==== Sys2Proof/Machine/Scalar.lean ====
section
/-! DEFINITION. The scalar floating-point instructions (R110 to R118). -/

namespace Sys2Proof.Machine

/-- An instruction that delivers an FP result with its flags to an f register (R38, R73). -/
def execFp (i : Instr) (d : BitVec 5) (f : Strand → Word × FlagSet) : State → Result :=
  issue i fun s => deliverFlags (f s.me).2 0 (fun t => t.setF d (f s.me).1) s

/-- An instruction that delivers an integer with flags to an x register (R73). -/
def execFpX (i : Instr) (d : BitVec 5) (f : Strand → Word × FlagSet) : State → Result :=
  issue i fun s => deliverFlags (f s.me).2 0 (fun t => t.setX d (f s.me).1) s

/-- The format of a one-bit fmt1 (R42). -/
def fmt1 (f : BitVec 1) : Fmt := if f = 1#1 then .f64 else .f32

/-- FADD (R111). -/
def execFadd (d a b : BitVec 5) (r : BitVec 3) (f : BitVec 2) : State → Result :=
  execFp (.fadd d a b r f) d fun t => fpAdd (Fmt.ofCode f) (t.rm r) (t.getF a) (t.getF b)
/-- FSUB (R111). -/
def execFsub (d a b : BitVec 5) (r : BitVec 3) (f : BitVec 2) : State → Result :=
  execFp (.fsub d a b r f) d fun t => fpSub (Fmt.ofCode f) (t.rm r) (t.getF a) (t.getF b)
/-- FMUL (R111). -/
def execFmul (d a b : BitVec 5) (r : BitVec 3) (f : BitVec 2) : State → Result :=
  execFp (.fmul d a b r f) d fun t => fpMul (Fmt.ofCode f) (t.rm r) (t.getF a) (t.getF b)
/-- FDIV (R111). -/
def execFdiv (d a b : BitVec 5) (r : BitVec 3) (f : BitVec 2) : State → Result :=
  execFp (.fdiv d a b r f) d fun t => fpDiv (Fmt.ofCode f) (t.rm r) (t.getF a) (t.getF b)
/-- FSQRT (R111). -/
def execFsqrt (d a : BitVec 5) (r : BitVec 3) (f : BitVec 2) : State → Result :=
  execFp (.fsqrt d a r f) d fun t => fpSqrt (Fmt.ofCode f) (t.rm r) (t.getF a)
/-- FMA (R112). -/
def execFma (d a b c : BitVec 5) (f : BitVec 1) (r : BitVec 3) : State → Result :=
  execFp (.fma d a b c f r) d fun t => fpFma (fmt1 f) (t.rm r) false (t.getF a) (t.getF b) (t.getF c)
/-- FNMA (R112). -/
def execFnma (d a b c : BitVec 5) (f : BitVec 1) (r : BitVec 3) : State → Result :=
  execFp (.fnma d a b c f r) d fun t => fpFma (fmt1 f) (t.rm r) true (t.getF a) (t.getF b) (t.getF c)
/-- FMIN (R113). -/
def execFmin (d a b : BitVec 5) (f : BitVec 2) (p : BitVec 1) : State → Result :=
  execFp (.fmin d a b f p) d fun t => fpMinMax (Fmt.ofCode f) false (p == 1#1) (t.getF a) (t.getF b)
/-- FMAX (R113). -/
def execFmax (d a b : BitVec 5) (f : BitVec 2) (p : BitVec 1) : State → Result :=
  execFp (.fmax d a b f p) d fun t => fpMinMax (Fmt.ofCode f) true (p == 1#1) (t.getF a) (t.getF b)

/-- The condition of FCMP's sub-op (R110). -/
def fcmpCond (c : BitVec 2) : FpCond := if c = 0#2 then .eq else if c = 1#2 then .lt else if c = 2#2 then .le else .un

/-- FCMP (R114). -/
def execFcmp (d a b : BitVec 5) (f c : BitVec 2) : State → Result :=
  execFpX (.fcmp d a b f c) d fun t =>
    let r := fpCompare (Fmt.ofCode f) (fcmpCond c) (t.getF a) (t.getF b)
    (if r.1 then 1#64 else 0#64, r.2)
/-- FCLASS (R115). -/
def execFclass (d a : BitVec 5) (f : BitVec 2) : State → Result :=
  issue (.fclass d a f) (complete fun t => t.setX d (fpClass (Fmt.ofCode f) (t.getF a)))
/-- FCVT (R116). -/
def execFcvt (d a : BitVec 5) (r : BitVec 3) (f s : BitVec 2) : State → Result :=
  execFp (.fcvt d a r f s) d fun t => fpConvert (Fmt.ofCode s) (Fmt.ofCode f) (t.rm r) (t.getF a)

/-- The range of an integer of width n, signed or unsigned under U. -/
def intRange (n : Nat) (u : BitVec 1) : Int × Int :=
  if u = 1#1 then (0, 2 ^ n - 1) else (-(2 ^ (n - 1)), 2 ^ (n - 1) - 1)

/-- FCVTI (R76, R116). -/
def execFcvti (d a : BitVec 5) (r : BitVec 3) (f : BitVec 2) (w u : BitVec 1) : State → Result :=
  execFpX (.fcvti d a r f w u) d fun t =>
    let n := if w = 1#1 then 32 else 64
    let v := fpToInt (Fmt.ofCode f) (t.rm r) (intRange n u).1 (intRange n u).2 (t.getF a)
    ((BitVec.ofInt n v.1).signExtend 64, v.2)

/-- FCVTF's source: 64 or 32 bits, signed or unsigned (R116). -/
def intSource (w u : BitVec 1) (x : Word) : Int :=
  if w = 1#1 then (if u = 1#1 then ((x.setWidth 32).toNat : Int) else (x.setWidth 32).toInt)
  else if u = 1#1 then (x.toNat : Int) else x.toInt

/-- FCVTF (R116). -/
def execFcvtf (d a : BitVec 5) (r : BitVec 3) (f : BitVec 2) (w u : BitVec 1) : State → Result :=
  execFp (.fcvtf d a r f w u) d fun t => fpOfInt (Fmt.ofCode f) (t.rm r) (intSource w u (t.getX a))

/-- The low bits of a word, as many as a format has (R117). -/
def lowBits (f : Fmt) (x : Word) : Word := BitVec.ofNat 64 (x.toNat % 2 ^ f.width)

/-- FMV (R117). -/
def execFmv (d a : BitVec 5) (f s : BitVec 2) : State → Result :=
  issue (.fmv d a f s) (complete fun t =>
    if s = 0#2 then t.setX d (lowBits (Fmt.ofCode f) (t.getF a))
    else if s = 1#2 then t.setF d (lowBits (Fmt.ofCode f) (t.getX a))
    else t.setF d (lowBits (Fmt.ofCode f) (t.getF a)))
/-- FSGNJ (R117). -/
def execFsgnj (d a b : BitVec 5) (f s : BitVec 2) : State → Result :=
  issue (.fsgnj d a b f s) (complete fun t => t.setF d (fpSignInject (Fmt.ofCode f) s (t.getF a) (t.getF b)))
/-- FEXP (R85, R118). -/
def execFexp (d a : BitVec 5) (r : BitVec 3) (f : BitVec 1) : State → Result :=
  execFp (.fexp d a r f) d fun t => fpFun 0 (fmt1 f) (t.rm r) (t.getF a)
/-- FLOG (R85, R118). -/
def execFlog (d a : BitVec 5) (r : BitVec 3) (f : BitVec 1) : State → Result :=
  execFp (.flog d a r f) d fun t => fpFun 1 (fmt1 f) (t.rm r) (t.getF a)
/-- FERF (R85, R118). -/
def execFerf (d a : BitVec 5) (r : BitVec 3) (f : BitVec 1) : State → Result :=
  execFp (.ferf d a r f) d fun t => fpFun 2 (fmt1 f) (t.rm r) (t.getF a)
/-- FAPX (R87, R88, R118). -/
def execFapx (d a : BitVec 5) (r : BitVec 3) (f : BitVec 2) (s : BitVec 3) : State → Result :=
  execFp (.fapx d a r f s) d fun t => fpApx t.version s.toNat (Fmt.ofCode f) (t.rm r) (t.getF a)

end Sys2Proof.Machine
end

