-- ==== Sys2Proof/Machine/Serve.lean ====
section
/-! DEFINITION. What the device does by itself for any access and any strand: performing at a home, retries, walks, the
ends of waits and turns, interrupts, scrubbing (R219 to R221, R231, R235, R275, R279, R285, R288, R318, R327, R343, R360). -/

namespace Sys2Proof.Machine

/-! Homes. -/

/-- An access served by HOME_PERFORM: memory, a peer module, an event or channel unit's plain words, loads of privileged
blocks, PCIe. -/
def State.serveHome (s : State) (c : Nat) (e : PathEntry) (peer : List Byte) (code : Nat) : Served :=
  let a := e.acc
  match a.loc.home with
  | .peer _ _ => s.servePeer c e.path a peer code
  | .event k => s.serveEvent k a
  | .chan _ => s.serveChan a
  | .priv b =>
    if b = 8 then
      match pcieRegion a.loc.off with
      | some (r, aperture, o) => s.servePcie a r aperture o
      | none => .done s (wordAns (s.hubRead a.loc.off))
    else .done s (wordAns (s.privRead b a.loc.off))
  | _ =>
    if s.seamHeld c a e.seq then .waits none else if s.forwardedFirst a then .notNow else s.serveMemory c a

/-- Has the home performed the access? -/
def Served.performed : Served → Bool
  | .done _ _ => true
  | _ => false

/-- HOME_PERFORM (R218, R221): the access of a core with this serial number, if it is the oldest of its path queue for
its home and may be performed; one that waits at a peer module may be answered later. `peer` and `code` are the answer of
a peer module. -/
def execHomePerform (core seq : Nat) (peer : List Byte) (code : Nat) : State → Result := fun s =>
  match s.pathEntry core seq, s.retryEntry core seq with
  | some e, _ =>
    if rowOf e.acc == .perform && s.mayPerform core e then
      let r := s.serveHome core e peer code
      let t := s.settle core e r
      .next (if r.performed then t.newPass e.acc else t)
    else .next s
  | none, some e =>
    (match e.acc.loc.home with
      | .peer _ _ => .next (s.settle core e (s.serveHome core e peer code))
      | _ => .next s)
  | none, none => .next s

/-- A plain store served (R318): privileged registers without behaviour of their own. -/
def State.serveRegister (s : State) (a : Access) (v : Word) : State :=
  let b := blockOfAccess a
  if b = 8 then s.hubWrite a.loc.off v else s.privWrite b a.loc.off v

/-- REGISTER_WRITE (R318). -/
def execRegisterWrite (core seq : Nat) : State → Result := serveStore .register core seq fun s a v => s.serveRegister a v

/-- An entry of the retry lists tried again: memory, event units, receives. -/
def State.serveRetry (s : State) (c : Nat) (e : PathEntry) : Served :=
  match e.acc.loc.home with
  | .event k => s.serveEvent k e.acc
  | .chan _ => if rowOf e.acc == .chanRecv then s.serveRecv e.acc else .notNow
  | .priv _ => .notNow
  | .peer _ _ => .notNow
  | _ => if s.scOpen c e && !s.seamHeld c e.acc e.seq then s.serveMemory c e.acc else .notNow

/-- Does what a home gives let the access go? -/
def Served.goes : Served → Bool
  | .waits _ => false
  | .notNow => false
  | _ => true

/-- Would an older entry that waits on one of the same words, and that the pass under way has not gone by, be performed now
(R231)? -/
def State.olderGoes (s : State) (k : Nat) (e : PathEntry) : Bool :=
  (s.retry.take k).any fun o =>
    !o.2.acc.armed && !o.2.passed && sameWords o.2.acc e.acc && (s.serveRetry o.1 o.2).goes

/-- The pass goes by the entries before entry k for its words, and is to come to those behind it (R231). -/
def State.passBy (s : State) (k : Nat) (e : PathEntry) : State :=
  { s with retry := s.retry.mapIdx fun i o =>
      if sameWords o.2.acc e.acc && i != k then (o.1, { o.2 with passed := decide (i < k) }) else o }

/-- RETRY_LIST_RETRY (R231): entry k of the retry lists, if its test now holds and no older one for its words that the pass
has not gone by would be performed; where its test does not hold, its strand's wait begins, unless it is in it. -/
def execRetryListRetry (k : Nat) : State → Result := fun s =>
  match s.retry[k]? with
  | none => .next s
  | some (c, e) =>
    if e.acc.armed || s.olderGoes k e then .next s
    else
      match s.serveRetry c e with
      | .waits kind => .next (s.startWait e.acc kind)
      | .notNow => .next s
      | _ =>
        let s := s.passBy k e
        .next (s.settle c e (s.serveRetry c e))

/-! Walks. -/

/-- What a strand of this ASID that is parked on the walk, or joined it, needs (R327). -/
def State.joined (s : State) (w : Walk) (asid : Nat) (t : Strand) : Option Need :=
  match t.status with
  | .parked (.walk va write fetch) =>
    if s.walkCovers w asid va then some (if fetch then .fetch else if write then .write else .read) else none
  | _ => none

/-- The address of a strand's lookup. -/
def Strand.walkAddress (t : Strand) : Word :=
  match t.status with
  | .parked (.walk va _ _) => va
  | _ => 0

/-- The strands of a cluster. -/
def strandsOf (k : Nat) : List Nat := (List.range 8).flatMap fun i => (List.range 6).map fun n => 8 * (8 * k + i) + n

/-- The strands of a cluster that joined a walk, each with its need. -/
def State.joiners (s : State) (k : Nat) (w : Walk) : List (Nat × Need) :=
  (strandsOf k).filterMap fun h =>
    (s.joined w ((s.core (coreOf h)).asid.toNat % 65536) (s.strand h)).map fun need => (h, need)

/-- A walk's end for one strand that joined it: it is ready, or takes the fault. -/
def State.endWalk (s : State) (k : Nat) (w : Walk) (h : Nat) (need : Need) : State :=
  let t := s.strand h
  match s.walkNow k w.asid w.root t.mode t.walkAddress need true with
  | (.fault tr, s) => s.answer h (.trap tr)
  | (_, s) => s.wake h

/-- CTU_WALK_COMPLETE (R327): walk k of a cluster, one of the 64 in flight. -/
def execCtuWalkComplete (cluster k : Nat) : State → Result := fun s =>
  match (s.cluster cluster).walks[k]? with
  | none => .next s
  | some w =>
    if 64 ≤ k then .next s
    else
      let mode : Mode := if w.user then .u else .s
      let t := (s.walkNow cluster w.asid w.root mode w.va (if w.write then .write else .read) w.setsA).2
      let t := t.modCluster cluster fun q => { q with walks := q.walks.eraseIdx k }
      .next ((s.joiners cluster w).foldl (fun t j => t.endWalk cluster w j.1 j.2) t)

/-! Waits, turns, interrupts. -/

/-- Does the LIMIT of a wait pass before the t of its timed form (R285, R288)? -/
def Wait.limited (w : Wait) : Bool :=
  match w.timed with
  | some t => decide (w.limit < t)
  | none => true

/-- WAIT_LIMIT_EXPIRY (R279, R281): of the strand named, once the cycle is over in which the limit was reached. -/
def execWaitLimitExpiry : State → Result := fun s =>
  match s.me.waiting? with
  | none => .next s
  | some w => if w.limited && decide (w.start + w.limit < s.cycle) then .next (s.trapWait s.cur (trapWAITTO w.kind w.badva)) else .next s

/-- What a timed form returns when its t cycles pass (R285, R288). -/
def Wait.timeoutValue (w : Wait) : Word := if w.kind = 2 then 1 else 0

/-- TIMED_WAIT_EXPIRY (R281, R285, R288): t cycles, no more than the limit, have passed for the strand named, and the cycle
in which they had. -/
def execTimedWaitExpiry : State → Result := fun s =>
  match s.me.waiting? with
  | none => .next s
  | some w =>
    match w.timed with
    | none => .next s
    | some t => if t ≤ w.limit ∧ w.start + t < s.cycle then .next (s.answer s.cur (wordAns w.timeoutValue)) else .next s

/-- QUANTUM_END (R274, R275): the turn of the strand named is over: what it would issue no longer fits in its budget. No
instruction takes more than 64 cycles. -/
def execQuantumEnd : State → Result := fun s =>
  let c := s.core s.here
  if s.runs s.here && c.run == s.cur % 8 && decide (c.turnStart + getField c.qmax 0 24 < s.cycle + 64) then .next (s.giveUp s.here)
  else .next s

/-- TIMECMP_MATCH (R343, R344): TMR follows its condition; a WFI of the strand named ends. -/
def execTimecmpMatch : State → Result := fun s => .next (s.wakeWfi s.cur)

/-- May the strand take an interrupt here: at an instruction boundary, or in a wait, which it leaves once the interrupt has
been pending since an earlier cycle (R281, R282, R343)? -/
def Strand.interruptible (t : Strand) : Bool := (t.isReady && t.inst.isNone) || t.waiting?.any Wait.leaving

/-- INTERRUPT_TAKE (R282, R343, R352): the highest enabled pending interrupt of the strand named. -/
def execInterruptTake : State → Result := fun s =>
  match s.interruptDue s.cur with
  | none => .next s
  | some c =>
    if s.me.interruptible then
      let s := if s.me.waiting?.isSome then (s.wake s.cur).leaveWait s.cur else s
      .next (s.trapEntry s.cur true { code := c, badva := 0, tval2 := 0 } s.me.pc)
    else .next s

/-! Scrubbing. -/

/-- SCRUB_LINE (R360): a line is read, and what was corrected is written back: no write for R218, R231 and R287, and
nothing that reads differently. -/
def execScrubLine (slice off : Nat) : State → Result := fun s =>
  let l : Loc := { home := .slice slice, off := off / 64 * 64 }
  .next (s.putRaw l (s.bytesAt l 64))

end Sys2Proof.Machine
end

