-- ==== Sys2Proof/Machine/Vector.lean ====
section
/-! DEFINITION. The vector instructions (R119 to R135). -/

namespace Sys2Proof.Machine

/-- An instruction on the active lanes of width w of vd: `f` of the strand and the lane number (R34, R122). -/
def execLanes (i : Instr) (w : Nat) (d : BitVec 5) (p : BitVec 3) (f : Strand → Nat → LaneResult) : State → Result :=
  issue i fun s =>
    let t := s.me
    let r := mapLanes w (t.getP p) (t.getV d) (f t)
    deliverLanes r.2 (fun t => t.setV d r.1) s

/-- `f` of the lanes of vs1 and vs2 (R119, R123). -/
def execLanes2 (i : Instr) (d a b : BitVec 5) (p t : BitVec 3) (f : Strand → Word → Word → LaneResult) :
    State → Result :=
  execLanes i (laneWidth t) d p fun st j =>
    f st (laneAt (laneWidth t) (st.getV a) j) (laneAt (laneWidth t) (st.getV b) j)

/-- VADD (R119, R123). -/
def execVadd (d a b : BitVec 5) (p t r : BitVec 3) : State → Result :=
  execLanes2 (.vadd d a b p t r) d a b p t fun st x y => laneAdd t r (st.rm r) x y
/-- VSUB (R119, R123). -/
def execVsub (d a b : BitVec 5) (p t r : BitVec 3) : State → Result :=
  execLanes2 (.vsub d a b p t r) d a b p t fun st x y => laneSub t r (st.rm r) x y
/-- VMUL (R119, R123). -/
def execVmul (d a b : BitVec 5) (p t r : BitVec 3) : State → Result :=
  execLanes2 (.vmul d a b p t r) d a b p t fun st x y => laneMul t r (st.rm r) x y
/-- VMIN (R119, R123). -/
def execVmin (d a b : BitVec 5) (p t r : BitVec 3) : State → Result :=
  execLanes2 (.vmin d a b p t r) d a b p t fun _ x y => laneMinMax t r false x y
/-- VMAX (R119, R123). -/
def execVmax (d a b : BitVec 5) (p t r : BitVec 3) : State → Result :=
  execLanes2 (.vmax d a b p t r) d a b p t fun _ x y => laneMinMax t r true x y
/-- VFMA (R119, R123). -/
def execVfma (d a b : BitVec 5) (p t r : BitVec 3) : State → Result :=
  execLanes (.vfma d a b p t r) (laneWidth t) d p fun st j =>
    laneFma t (st.rm r) (laneAt (laneWidth t) (st.getV a) j) (laneAt (laneWidth t) (st.getV b) j)
      (laneAt (laneWidth t) (st.getV d) j)
/-- VBIT (R124). -/
def execVbit (d a b : BitVec 5) (p t v : BitVec 3) : State → Result :=
  execLanes2 (.vbit d a b p t v) d a b p t fun _ x y => quiet (laneBit (laneWidth t) v x y)
/-- VSH (R124). -/
def execVsh (d a b : BitVec 5) (p t v : BitVec 3) : State → Result :=
  execLanes2 (.vsh d a b p t v) d a b p t fun _ x y => quiet (laneShift (laneWidth t) v x y)

/-- VCMP (R125). -/
def execVcmp (c : BitVec 2) (q : BitVec 3) (a b : BitVec 5) (p t v : BitVec 3) : State → Result :=
  issue (.vcmp c q a b p t v) fun s =>
    let st := s.me
    let w := laneWidth t
    let r (j : Nat) := laneCompare t v c (laneAt w (st.getV a) j) (laneAt w (st.getV b) j)
    let fls := (List.range (512 / w)).map fun j => if laneActive (st.getP p) j then (r j).2 else 0#5
    deliverLanes fls (fun st' => st'.setP q (mapPredicate (512 / w) (st.getP p) (st.getP q) fun j => (r j).1)) s

/-- VSEL (R126). -/
def execVsel (d a b : BitVec 5) (p t q : BitVec 3) : State → Result :=
  execLanes (.vsel d a b p t q) (laneWidth t) d p fun st j =>
    quiet (laneAt (laneWidth t) (if laneActive (st.getP q) j then st.getV a else st.getV b) j)

/-- VCVT (R127). -/
def execVcvt (d a : BitVec 5) (q : BitVec 2) (s p t r : BitVec 3) : State → Result :=
  issue (.vcvt d a q s p t r) fun st =>
    let m := st.me
    let res := vecConvert s t r q (m.rm r) (m.getP p) (m.getV a) (m.getV d)
    deliverLanes res.2 (fun x => x.setV d res.1) st

/-- VFUN (R128). -/
def execVfun (d a f : BitVec 5) (p t r : BitVec 3) : State → Result :=
  execLanes (.vfun d a f p t r) (laneWidth t) d p fun st j =>
    laneFunction f t (st.rm r) st.version (laneAt (laneWidth t) (st.getV a) j)

/-- VRED (R129). -/
def execVred (d a o : BitVec 5) (p t v : BitVec 3) : State → Result :=
  issue (.vred d a o p t v) fun s =>
    let m := s.me
    let r := vecReduce o t v (m.rm v) (m.getP p) (m.getV a)
    deliverFlags r.2 0 (fun x => x.setV d (vecOfLanes (laneWidth t) [r.1])) s

/-- VSPLAT (R130). -/
def execVsplat (d a : BitVec 5) (p t r : BitVec 3) : State → Result :=
  execLanes (.vsplat d a p t r) (laneWidth t) d p fun st _ => quiet (if isFloatType t then st.getF a else st.getX a)

/-- VPERM (R130). -/
def execVperm (d a b : BitVec 5) (p t v : BitVec 3) : State → Result :=
  execLanes (.vperm d a b p t v) (laneWidth t) d p fun st j =>
    quiet (lanePermute (laneWidth t) v (st.getV a) (st.getV b) j)

/-- VEXTR (R130). -/
def execVextr (d a b : BitVec 5) (t v : BitVec 3) : State → Result :=
  issue (.vextr d a b t v) (complete fun st =>
    let w := laneWidth t
    let x := laneAt w (st.getV a) ((st.getX b).toNat % (512 / w))
    if isFloatType t then st.setF d x else st.setX d (if v = 1#3 then x else laneOfInt 64 (laneInt w x)))

/-- VHASH (R131). -/
def execVhash (d a b : BitVec 5) (p v : BitVec 3) : State → Result :=
  execLanes (.vhash d a b p v) 64 d p fun st j =>
    quiet (hash64 (if v = 1#3 then st.getX a + BitVec.ofNat 64 j else laneAt 64 (st.getV a) j) (st.getX b))

/-- VBMAND (R132). -/
def execVbmand (d a b : BitVec 5) (p q : BitVec 3) : State → Result :=
  issue (.vbmand d a b p q) (complete fun st =>
    let x (j : Nat) := laneAt 64 (st.getV a) j &&& laneAt 64 (st.getV b) j
    let r := mapLanes 64 (st.getP p) (st.getV d) fun j => quiet (x j)
    (st.setV d r.1).setP q (mapPredicate 8 (st.getP p) (st.getP q) fun j => x j != 0#64))

/-- VPFX (R133). -/
def execVpfx (d a : BitVec 5) (p v : BitVec 3) : State → Result :=
  execLanes (.vpfx d a p v) 64 d p fun st j =>
    quiet (BitVec.ofNat 64 (prefixOnes (st.getV a) (if v = 1#3 then j + 1 else j)))

/-- VISECT (R134). -/
def execVisect (d a b : BitVec 5) (p : BitVec 3) (q : BitVec 2) : State → Result :=
  execLanes (.visect d a b p q) 16 d p fun st j =>
    quiet (laneIntersect q (laneAt 64 (st.getV a) 0) (laneAt 64 (st.getV b) 0) j)

/-- VDOT (R135). -/
def execVdot (d a b : BitVec 5) (p t v : BitVec 3) : State → Result :=
  execLanes (.vdot d a b p t v) 32 d p fun st j => laneDot t v (st.rm v) (st.getV a) (st.getV b) (st.getV d) j

end Sys2Proof.Machine
end

