-- ==== Sys2Proof/Machine/Dispatch.lean ====
section
/-! DEFINITION. What each instruction and each step of the device does: one arm per constructor. -/

namespace Sys2Proof.Machine

/-- The effect of an instruction on the strand whose turn it is, or of a step of the device. -/
def exec (i : Instr) (s : State) : Host.Outcome State Fault Refusal :=
  match i with
  | .add d a b w => Sys2Proof.Machine.execAdd d a b w s
  | .sub d a b w => Sys2Proof.Machine.execSub d a b w s
  | .and d a b w => Sys2Proof.Machine.execAnd d a b w s
  | .or d a b w => Sys2Proof.Machine.execOr d a b w s
  | .xor d a b w => Sys2Proof.Machine.execXor d a b w s
  | .sll d a b w => Sys2Proof.Machine.execSll d a b w s
  | .srl d a b w => Sys2Proof.Machine.execSrl d a b w s
  | .sra d a b w => Sys2Proof.Machine.execSra d a b w s
  | .slt d a b w u => Sys2Proof.Machine.execSlt d a b w u s
  | .min d a b w u => Sys2Proof.Machine.execMin d a b w u s
  | .max d a b w u => Sys2Proof.Machine.execMax d a b w u s
  | .mul d a b w => Sys2Proof.Machine.execMul d a b w s
  | .mulh d a b w u => Sys2Proof.Machine.execMulh d a b w u s
  | .div d a b w u => Sys2Proof.Machine.execDiv d a b w u s
  | .rem d a b w u => Sys2Proof.Machine.execRem d a b w u s
  | .clz d a w => Sys2Proof.Machine.execClz d a w s
  | .ctz d a w => Sys2Proof.Machine.execCtz d a w s
  | .popc d a w => Sys2Proof.Machine.execPopc d a w s
  | .bfx d a b s1 w => Sys2Proof.Machine.execBfx d a b s1 w s
  | .addi d a im => Sys2Proof.Machine.execAddi d a im s
  | .andi d a im => Sys2Proof.Machine.execAndi d a im s
  | .ori d a im => Sys2Proof.Machine.execOri d a im s
  | .xori d a im => Sys2Proof.Machine.execXori d a im s
  | .slli d a im => Sys2Proof.Machine.execSlli d a im s
  | .srli d a im => Sys2Proof.Machine.execSrli d a im s
  | .srai d a im => Sys2Proof.Machine.execSrai d a im s
  | .slti d a im => Sys2Proof.Machine.execSlti d a im s
  | .lui d im => Sys2Proof.Machine.execLui d im s
  | .auipc d im => Sys2Proof.Machine.execAuipc d im s
  | .beq a b o => Sys2Proof.Machine.execBeq a b o s
  | .bne a b o => Sys2Proof.Machine.execBne a b o s
  | .blt a b o => Sys2Proof.Machine.execBlt a b o s
  | .bge a b o => Sys2Proof.Machine.execBge a b o s
  | .bltu a b o => Sys2Proof.Machine.execBltu a b o s
  | .bgeu a b o => Sys2Proof.Machine.execBgeu a b o s
  | .jal d o => Sys2Proof.Machine.execJal d o s
  | .jalr d a im => Sys2Proof.Machine.execJalr d a im s
  | .loop a n => Sys2Proof.Machine.execLoop a n s
  | .ld d a w im => Sys2Proof.Machine.execLd d a w im s
  | .st b a w im => Sys2Proof.Machine.execSt b a w im s
  | .fld d a w im => Sys2Proof.Machine.execFld d a w im s
  | .fst b a w im => Sys2Proof.Machine.execFst b a w im s
  | .vld d a im => Sys2Proof.Machine.execVld d a im s
  | .vst b a im => Sys2Proof.Machine.execVst b a im s
  | .vldx d a b p t h => Sys2Proof.Machine.execVldx d a b p t h s
  | .vstx d a b p t h => Sys2Proof.Machine.execVstx d a b p t h s
  | .ldo d a w o s1 => Sys2Proof.Machine.execLdo d a w o s1 s
  | .sto b a w o s1 => Sys2Proof.Machine.execSto b a w o s1 s
  | .lds d a m s1 => Sys2Proof.Machine.execLds d a m s1 s
  | .sts b a m s1 => Sys2Proof.Machine.execSts b a m s1 s
  | .tpf a im => Sys2Proof.Machine.execTpf a im s
  | .amo d a b s1 o f => Sys2Proof.Machine.execAmo d a b s1 o f s
  | .cas d a b e s1 o => Sys2Proof.Machine.execCas d a b e s1 o s
  | .fence s1 => Sys2Proof.Machine.execFence s1 s
  | .xfence a b => Sys2Proof.Machine.execXfence a b s
  | .mwatch d a => Sys2Proof.Machine.execMwatch d a s
  | .mwait d t => Sys2Proof.Machine.execMwait d t s
  | .mbxwait d t => Sys2Proof.Machine.execMbxwait d t s
  | .mbxpop d e => Sys2Proof.Machine.execMbxpop d e s
  | .barrive d a s1 => Sys2Proof.Machine.execBarrive d a s1 s
  | .cpset a b g => Sys2Proof.Machine.execCpset a b g s
  | .cpgo d => Sys2Proof.Machine.execCpgo d s
  | .gxpost d a => Sys2Proof.Machine.execGxpost d a s
  | .tmov d a b => Sys2Proof.Machine.execTmov d a b s
  | .reloc d a b t => Sys2Proof.Machine.execReloc d a b t s
  | .relocRet d a t => Sys2Proof.Machine.execRelocRet d a t s
  | .msweep d a b => Sys2Proof.Machine.execMsweep d a b s
  | .fadd d a b r f => Sys2Proof.Machine.execFadd d a b r f s
  | .fsub d a b r f => Sys2Proof.Machine.execFsub d a b r f s
  | .fmul d a b r f => Sys2Proof.Machine.execFmul d a b r f s
  | .fdiv d a b r f => Sys2Proof.Machine.execFdiv d a b r f s
  | .fsqrt d a r f => Sys2Proof.Machine.execFsqrt d a r f s
  | .fma d a b c f r => Sys2Proof.Machine.execFma d a b c f r s
  | .fnma d a b c f r => Sys2Proof.Machine.execFnma d a b c f r s
  | .fmin d a b f p => Sys2Proof.Machine.execFmin d a b f p s
  | .fmax d a b f p => Sys2Proof.Machine.execFmax d a b f p s
  | .fcmp d a b f c => Sys2Proof.Machine.execFcmp d a b f c s
  | .fclass d a f => Sys2Proof.Machine.execFclass d a f s
  | .fcvt d a r f s1 => Sys2Proof.Machine.execFcvt d a r f s1 s
  | .fcvti d a r f w u => Sys2Proof.Machine.execFcvti d a r f w u s
  | .fcvtf d a r f w u => Sys2Proof.Machine.execFcvtf d a r f w u s
  | .fmv d a f s1 => Sys2Proof.Machine.execFmv d a f s1 s
  | .fsgnj d a b f s1 => Sys2Proof.Machine.execFsgnj d a b f s1 s
  | .fexp d a r f => Sys2Proof.Machine.execFexp d a r f s
  | .flog d a r f => Sys2Proof.Machine.execFlog d a r f s
  | .ferf d a r f => Sys2Proof.Machine.execFerf d a r f s
  | .fapx d a r f s1 => Sys2Proof.Machine.execFapx d a r f s1 s
  | .vadd d a b p t r => Sys2Proof.Machine.execVadd d a b p t r s
  | .vsub d a b p t r => Sys2Proof.Machine.execVsub d a b p t r s
  | .vmul d a b p t r => Sys2Proof.Machine.execVmul d a b p t r s
  | .vfma d a b p t r => Sys2Proof.Machine.execVfma d a b p t r s
  | .vmin d a b p t r => Sys2Proof.Machine.execVmin d a b p t r s
  | .vmax d a b p t r => Sys2Proof.Machine.execVmax d a b p t r s
  | .vbit d a b p t v => Sys2Proof.Machine.execVbit d a b p t v s
  | .vsh d a b p t v => Sys2Proof.Machine.execVsh d a b p t v s
  | .vcmp c q a b p t v => Sys2Proof.Machine.execVcmp c q a b p t v s
  | .vsel d a b p t s1 => Sys2Proof.Machine.execVsel d a b p t s1 s
  | .vcvt d a q s1 p t r => Sys2Proof.Machine.execVcvt d a q s1 p t r s
  | .vfun d a f p t r => Sys2Proof.Machine.execVfun d a f p t r s
  | .vred d a o p t v => Sys2Proof.Machine.execVred d a o p t v s
  | .vsplat d a p t r => Sys2Proof.Machine.execVsplat d a p t r s
  | .vperm d a b p t v => Sys2Proof.Machine.execVperm d a b p t v s
  | .vextr d a b t v => Sys2Proof.Machine.execVextr d a b t v s
  | .vhash d a b p v => Sys2Proof.Machine.execVhash d a b p v s
  | .vbmand d a b p q => Sys2Proof.Machine.execVbmand d a b p q s
  | .vpfx d a p v => Sys2Proof.Machine.execVpfx d a p v s
  | .visect d a b p q => Sys2Proof.Machine.execVisect d a b p q s
  | .vdot d a b p t v => Sys2Proof.Machine.execVdot d a b p t v s
  | .cxload s1 x d => Sys2Proof.Machine.execCxload s1 x d s
  | .cxedit s1 x d => Sys2Proof.Machine.execCxedit s1 x d s
  | .cxinfo c x d s1 g => Sys2Proof.Machine.execCxinfo c x d s1 g s
  | .cxinfoSetexp c x => Sys2Proof.Machine.execCxinfoSetexp c x s
  | .cbind c x g f u e s1 => Sys2Proof.Machine.execCbind c x g f u e s1 s
  | .cq c a r => Sys2Proof.Machine.execCq c a r s
  | .cdq c a r => Sys2Proof.Machine.execCdq c a r s
  | .dext c a r => Sys2Proof.Machine.execDext c a r s
  | .dcob c a r => Sys2Proof.Machine.execDcob c a r s
  | .hstar c a r => Sys2Proof.Machine.execHstar c a r s
  | .wedge c a b r s1 => Sys2Proof.Machine.execWedge c a b r s1 s
  | .interp c a r n => Sys2Proof.Machine.execInterp c a r n s
  | .clin c a b r p q => Sys2Proof.Machine.execClin c a b r p q s
  | .cseamSend c l => Sys2Proof.Machine.execCseamSend c l s
  | .cseamRelease c => Sys2Proof.Machine.execCseamRelease c s
  | .cseamLand c l => Sys2Proof.Machine.execCseamLand c l s
  | .cred c x d r w => Sys2Proof.Machine.execCred c x d r w s
  | .mcfg d a s1 => Sys2Proof.Machine.execMcfg d a s1 s
  | .mma n k a b t r s1 => Sys2Proof.Machine.execMma n k a b t r s1 s
  | .mconst n k a b t r c e => Sys2Proof.Machine.execMconst n k a b t r c e s
  | .maccZero n k => Sys2Proof.Machine.execMaccZero n k s
  | .maccLoad n k a f => Sys2Proof.Machine.execMaccLoad n k a f s
  | .maccStore n k a r f => Sys2Proof.Machine.execMaccStore n k a r f s
  | .maccAdd n k j r f => Sys2Proof.Machine.execMaccAdd n k j r f s
  | .rtdef h a => Sys2Proof.Machine.execRtdef h a s
  | .hfold d a h e => Sys2Proof.Machine.execHfold d a h e s
  | .hscan d a h e => Sys2Proof.Machine.execHscan d a h e s
  | .hzip d a h e => Sys2Proof.Machine.execHzip d a h e s
  | .houter d a h e => Sys2Proof.Machine.execHouter d a h e s
  | .colput d v g => Sys2Proof.Machine.execColput d v g s
  | .colget d g => Sys2Proof.Machine.execColget d g s
  | .ssync d a => Sys2Proof.Machine.execSsync d a s
  | .launch d a => Sys2Proof.Machine.execLaunch d a s
  | .launchQuery d a l => Sys2Proof.Machine.execLaunchQuery d a l s
  | .launchJob d a => Sys2Proof.Machine.execLaunchJob d a s
  | .cancel d a l => Sys2Proof.Machine.execCancel d a l s
  | .csrrw d a n => Sys2Proof.Machine.execCsrrw d a n s
  | .csrrs d a n => Sys2Proof.Machine.execCsrrs d a n s
  | .csrrc d a n => Sys2Proof.Machine.execCsrrc d a n s
  | .ctuinv a b r k => Sys2Proof.Machine.execCtuinv a b r k s
  | .boot image number => Sys2Proof.Machine.execBoot image number s
  | .recoveryImageReceive image => Sys2Proof.Machine.execRecoveryImageReceive image s
  | .attestationRequest nonce => Sys2Proof.Machine.execAttestationRequest nonce s
  | .junctionTrip die => Sys2Proof.Machine.execJunctionTrip die s
  | .unitDispatch job => Sys2Proof.Machine.execUnitDispatch job s
  | .matrixWaitExpiry core => Sys2Proof.Machine.execMatrixWaitExpiry core s
  | .postedStoreMove core k => Sys2Proof.Machine.execPostedStoreMove core k s
  | .homePerform core seq peer code => Sys2Proof.Machine.execHomePerform core seq peer code s
  | .retryListRetry k => Sys2Proof.Machine.execRetryListRetry k s
  | .slipMarkHop core seq => Sys2Proof.Machine.execSlipMarkHop core seq s
  | .ctuWalkComplete cluster k => Sys2Proof.Machine.execCtuWalkComplete cluster k s
  | .relocBegin core id => Sys2Proof.Machine.execRelocBegin core id s
  | .relocCopy core id => Sys2Proof.Machine.execRelocCopy core id s
  | .relocInstall core id => Sys2Proof.Machine.execRelocInstall core id s
  | .relocCompletion core id => Sys2Proof.Machine.execRelocCompletion core id s
  | .relocRetirementStep core id => Sys2Proof.Machine.execRelocRetirementStep core id s
  | .copyRow core id src dst => Sys2Proof.Machine.execCopyRow core id src dst s
  | .copyCompletion core id => Sys2Proof.Machine.execCopyCompletion core id s
  | .gatherRow core id src dst => Sys2Proof.Machine.execGatherRow core id src dst s
  | .gatherMark core id => Sys2Proof.Machine.execGatherMark core id s
  | .gatherCompletion core id => Sys2Proof.Machine.execGatherCompletion core id s
  | .mailboxPlace core => Sys2Proof.Machine.execMailboxPlace core s
  | .matrixTileStep cluster => Sys2Proof.Machine.execMatrixTileStep cluster s
  | .sprueHop cluster k => Sys2Proof.Machine.execSprueHop cluster k s
  | .hotOperationCompletion core engine id elem code => Sys2Proof.Machine.execHotOperationCompletion core engine id elem code s
  | .collectiveCombine core group => Sys2Proof.Machine.execCollectiveCombine core group s
  | .collectiveResultArrival core group => Sys2Proof.Machine.execCollectiveResultArrival core group s
  | .collectiveQueueRecord core group => Sys2Proof.Machine.execCollectiveQueueRecord core group s
  | .collectiveGo core seq => Sys2Proof.Machine.execCollectiveGo core seq s
  | .groupTableWrite core seq => Sys2Proof.Machine.execGroupTableWrite core seq s
  | .chanSend core seq => Sys2Proof.Machine.execChanSend core seq s
  | .chanEntryWrite core seq => Sys2Proof.Machine.execChanEntryWrite core seq s
  | .chanRecv core seq => Sys2Proof.Machine.execChanRecv core seq s
  | .chanHeadWrite core seq => Sys2Proof.Machine.execChanHeadWrite core seq s
  | .chanCfgWrite core seq => Sys2Proof.Machine.execChanCfgWrite core seq s
  | .seamQueueTake core queue => Sys2Proof.Machine.execSeamQueueTake core queue s
  | .barrierCfgWrite core seq => Sys2Proof.Machine.execBarrierCfgWrite core seq s
  | .barrierChildArrival cluster obj => Sys2Proof.Machine.execBarrierChildArrival cluster obj s
  | .barrierParentFlip cluster obj => Sys2Proof.Machine.execBarrierParentFlip cluster obj s
  | .phaseWait core seq => Sys2Proof.Machine.execPhaseWait core seq s
  | .mutexAcquire core seq => Sys2Proof.Machine.execMutexAcquire core seq s
  | .mutexRelease core seq => Sys2Proof.Machine.execMutexRelease core seq s
  | .eventLineWait core seq => Sys2Proof.Machine.execEventLineWait core seq s
  | .eventLineSignal core seq => Sys2Proof.Machine.execEventLineSignal core seq s
  | .eventPeekSet core seq => Sys2Proof.Machine.execEventPeekSet core seq s
  | .scheduleChoice job => Sys2Proof.Machine.execScheduleChoice job s
  | .pourBegin job => Sys2Proof.Machine.execPourBegin job s
  | .pourEntrySend job k => Sys2Proof.Machine.execPourEntrySend job k s
  | .pourDeliveryStage job k => Sys2Proof.Machine.execPourDeliveryStage job k s
  | .ssyncCommit job => Sys2Proof.Machine.execSsyncCommit job s
  | .jobEnd job => Sys2Proof.Machine.execJobEnd job s
  | .ansaResume core seq => Sys2Proof.Machine.execAnsaResume core seq s
  | .ansaEnd core seq => Sys2Proof.Machine.execAnsaEnd core seq s
  | .engactRetry core seq => Sys2Proof.Machine.execEngactRetry core seq s
  | .engactEnd core seq => Sys2Proof.Machine.execEngactEnd core seq s
  | .pctlNotice core seq => Sys2Proof.Machine.execPctlNotice core seq s
  | .pctlPreempt core seq => Sys2Proof.Machine.execPctlPreempt core seq s
  | .coreSaveComplete core => Sys2Proof.Machine.execCoreSaveComplete core s
  | .pctlResume core seq => Sys2Proof.Machine.execPctlResume core seq s
  | .pctlWithdraw core seq => Sys2Proof.Machine.execPctlWithdraw core seq s
  | .spillDrain core => Sys2Proof.Machine.execSpillDrain core s
  | .extintWrite core seq => Sys2Proof.Machine.execExtintWrite core seq s
  | .icmdInsert core seq => Sys2Proof.Machine.execIcmdInsert core seq s
  | .icmdMstore core seq => Sys2Proof.Machine.execIcmdMstore core seq s
  | .registerWrite core seq => Sys2Proof.Machine.execRegisterWrite core seq s
  | .gatewayRequest die src hub strand path key va len op data => Sys2Proof.Machine.execGatewayRequest die src hub strand path key va len op data s
  | .tc1Announce port receives peer bytes => Sys2Proof.Machine.execTc1Announce port receives peer bytes s
  | .tc1Grant port receives peer => Sys2Proof.Machine.execTc1Grant port receives peer s
  | .linkFrameSend port kind tc peer data => Sys2Proof.Machine.execLinkFrameSend port kind tc peer data s
  | .linkFrameReceive port good bytes => Sys2Proof.Machine.execLinkFrameReceive port good bytes s
  | .linkReplayLimit port => Sys2Proof.Machine.execLinkReplayLimit port s
  | .phyLockLoss port => Sys2Proof.Machine.execPhyLockLoss port s
  | .phyTrainComplete port => Sys2Proof.Machine.execPhyTrainComplete port s
  | .helloSend port => Sys2Proof.Machine.execHelloSend port s
  | .helloReceive port lid => Sys2Proof.Machine.execHelloReceive port lid s
  | .offerReceive port bytes => Sys2Proof.Machine.execOfferReceive port bytes s
  | .answerReceive port bytes => Sys2Proof.Machine.execAnswerReceive port bytes s
  | .confirmReceive port bytes => Sys2Proof.Machine.execConfirmReceive port bytes s
  | .trainingTimeout port => Sys2Proof.Machine.execTrainingTimeout port s
  | .lcmdStep core seq => Sys2Proof.Machine.execLcmdStep core seq s
  | .lcmdRetrain core seq => Sys2Proof.Machine.execLcmdRetrain core seq s
  | .lcmdDown core seq => Sys2Proof.Machine.execLcmdDown core seq s
  | .pcieInboundMemoryRequest root rid addr write poisoned len data => Sys2Proof.Machine.execPcieInboundMemoryRequest root rid addr write poisoned len data s
  | .msiMessage root rid addr data => Sys2Proof.Machine.execMsiMessage root rid addr data s
  | .vstatClear core seq => Sys2Proof.Machine.execVstatClear core seq s
  | .pcieCompletion root k ok poisoned data => Sys2Proof.Machine.execPcieCompletion root k ok poisoned data s
  | .pcieCompletionTimeout root k => Sys2Proof.Machine.execPcieCompletionTimeout root k s
  | .rpcmdRetrain core seq => Sys2Proof.Machine.execRpcmdRetrain core seq s
  | .rpcmdHotReset core seq => Sys2Proof.Machine.execRpcmdHotReset core seq s
  | .rpcmdDisable core seq => Sys2Proof.Machine.execRpcmdDisable core seq s
  | .rpcmdEnable core seq => Sys2Proof.Machine.execRpcmdEnable core seq s
  | .scrubLine slice off => Sys2Proof.Machine.execScrubLine slice off s
  | .superstepReplay job => Sys2Proof.Machine.execSuperstepReplay job s
  | .reservedOpcode word => Sys2Proof.Machine.execReservedOpcode word s
  | .rootPortLinkUp root width rate => Sys2Proof.Machine.execRootPortLinkUp root width rate s
  | .rootPortLinkLoss root => Sys2Proof.Machine.execRootPortLinkLoss root s
  | .yield => Sys2Proof.Machine.execYield s
  | .yieldEnd => Sys2Proof.Machine.execYieldEnd s
  | .ecall => Sys2Proof.Machine.execEcall s
  | .ebreak => Sys2Proof.Machine.execEbreak s
  | .eret => Sys2Proof.Machine.execEret s
  | .wfi => Sys2Proof.Machine.execWfi s
  | .moduleReset => Sys2Proof.Machine.execModuleReset s
  | .powerThrottle => Sys2Proof.Machine.execPowerThrottle s
  | .quantumEnd => Sys2Proof.Machine.execQuantumEnd s
  | .timecmpMatch => Sys2Proof.Machine.execTimecmpMatch s
  | .interruptTake => Sys2Proof.Machine.execInterruptTake s
  | .waitLimitExpiry => Sys2Proof.Machine.execWaitLimitExpiry s
  | .timedWaitExpiry => Sys2Proof.Machine.execTimedWaitExpiry s
  | .drainComplete => Sys2Proof.Machine.execDrainComplete s
  | .accessResponse => Sys2Proof.Machine.execAccessResponse s
  | .cancelReturn => Sys2Proof.Machine.execCancelReturn s
  | .faultQueueEntry => Sys2Proof.Machine.execFaultQueueEntry s
  | .coolantLimitStop => Sys2Proof.Machine.execCoolantLimitStop s

end Sys2Proof.Machine
end

