-- ==== Sys2Proof/Machine/Issue.lean ====
section
/-! DEFINITION. The end of a cycle (R274, R281, R282), instruction fetch (R61 to R65), what a strand does at an instruction boundary (R351), and how a core
issues (R274 to R276). -/

namespace Sys2Proof.Machine

/-! The end of a cycle. -/

/-- What has come to a waiting strand in the cycle that ends, and did not end its wait (R281, R282, R300): a pre-emption or a
CANCEL withdraws the wait, and an interrupt will. -/
def State.endStrand (s : State) (h : Nat) : State :=
  match (s.strand h).waiting? with
  | none => s
  | some w =>
    if (s.core (coreOf h)).pstate == .saving then s.leaveForSave h
    else if s.cancelledBy h (s.cycle + 1) then s.leaveWait h
    else if (s.interruptDue h).isSome then s.modStrand h fun t => { t with status := .parked (.wait { w with leaving := true }) }
    else s

/-- A core as a cycle ends: one that runs no strand takes the first in ring order of those that have become ready (R274). -/
def State.endCore (s : State) (c : Nat) : State :=
  let s := (List.range 6).foldl (fun s k => s.endStrand (8 * c + k)) s
  if s.runs c then s else s.choose c

/-- Cycles and nanoseconds pass. -/
def State.pass (s : State) (cycles ns : Nat) : State :=
  let s := if cycles = 0 then s else ((s.strands.map fun e => coreOf e.1).eraseDups).foldl State.endCore s
  { s with cycle := s.cycle + cycles, time := s.time + BitVec.ofNat 64 ns }

/-! Fetch. -/

/-- What a fetch gives: a word with the poison of its 8-byte word; a trap; or the strand parks for the block. -/
inductive Fetched where
  | word (w : Word32) (poison : Bool) (s : State)
  | trap (t : Trap) (s : State)
  | parks (s : State)

/-- The words of a 64-byte block, lowest address first (R2, R62). -/
def wordsOfBlock (v : Vec) : List Word32 := (List.range 16).map fun i => v.extractLsb' (32 * i) 32

/-- Which of a block's 8-byte words hold poison (R63). -/
def State.blockPoison (s : State) (l : Loc) : List Bool := (wordsOf l 64).map fun w => (s.tagAt w).poison

/-- A stream buffer filled with a block (R63). -/
def bufferOf (base : Word) (v : Vec) (poison : List Bool) : StreamBuffer :=
  { base := base, words := wordsOfBlock v, poison := poison }

/-- The block address of an instruction's address. -/
def blockOf (pc : Word) : Word := pc &&& ~~~63#64

/-- The word at an address in a stream buffer, with its poison. -/
def StreamBuffer.at_ (b : StreamBuffer) (pc : Word) : Word32 × Bool :=
  let i := (pc - b.base).toNat
  (b.words.getD (i / 4) 0#32, b.poison.getD (i / 8) false)

/-- The refill of a core's strand from a place: at once from the own unit scratch, else as a load on the CORE path
(R63, R219). -/
def State.refill (s : State) (pc : Word) (l : Loc) : Fetched :=
  let b := blockOf pc
  let place : Loc := { l with off := l.off / 64 * 64 }
  if l.home == .unit s.here then
    let buf := bufferOf b (vecOfBytes (s.bytesAt place 64)) (s.blockPoison place)
    let (w, p) := buf.at_ pc
    .word w p (s.modMe fun t => { t with stream := some buf })
  else
    let a := s.accessOf true b place 64 (.load .plain true)
    let s := s.movePosted s.here (· == place.home)
    .parks ((s.enterPath s.here .core a).park s.cur .answer)

/-- Does the place lie in a replay area, which no access of a DET job may reach (R362)? -/
def State.inReplayArea (s : State) (c : Nat) (l : Loc) : Bool :=
  (s.jobOf c).any (·.det) &&
    (match l.home with
      | .die _ => decide (0x800000 ≤ l.off)
      | _ => false)

/-- A fetch outside the buffers: regions and guards on a compute core (R62, R321, R362), translation on a control core
(R326). -/
def State.fetchMiss (s : State) : Fetched :=
  let t := s.me
  let c := s.here
  if isControl c then
    if 2 ^ 55 ≤ t.pc.toNat then .trap (trapACCERR t.pc 0) s
    else
      match s.lookup c t.mode t.pc .fetch with
      | .ok l _ => s.refill t.pc l
      | .fault tr => .trap tr s
      | .miss => .parks ((s.startWalk c t.mode t.pc false true).park s.cur (.walk t.pc false true))
  else
    match fetchPlace c t.pc.toNat with
    | none => .trap (trapACCERR t.pc 0) s
    | some l =>
      if s.inReplayArea c l then .trap (trapACCERR t.pc 6) s
      else if guardsPass (s.core c) t.mode t.pc.toNat 4 .fetch then s.refill t.pc l else .trap (trapGUARD t.pc) s

/-- The fetch from the stream buffer, or by a refill (R63). -/
def State.fetchStream (s : State) (t : Strand) : Fetched :=
  match t.stream with
  | some b => if b.base = blockOf t.pc then let (w, p) := b.at_ t.pc; .word w p s else s.fetchMiss
  | none => s.fetchMiss

/-- The stream buffer of a strand whose execution passes to a word of the own unit scratch: refilled where the word lies
outside its block (R63). -/
def State.streamAt (s : State) (l : Loc) (pc : Word) (b : Option StreamBuffer) : StreamBuffer :=
  let place : Loc := { l with off := l.off / 64 * 64 }
  let fresh := bufferOf (blockOf pc) (vecOfBytes (s.bytesAt place 64)) (s.blockPoison place)
  match b with
  | some b => if b.base = blockOf pc then b else fresh
  | none => fresh

/-- The fetch of the word at PC: from the pinned body of the active loop, from the stream buffer, or by a refill (R62,
R63, R65, R109). A loop is pinned in unit instruction scratch, where no control core fetches. -/
def State.fetch (s : State) : Fetched :=
  let t := s.me
  match t.loopBody with
  | some (first, _) =>
    if t.inLoopBody t.pc && !isControl s.here then
      match fetchPlace s.here t.pc.toNat with
      | none => .trap (trapACCERR t.pc 0) s
      | some l =>
        let i := (t.pc - first).toNat / 4
        let body := if t.loopBuf.isEmpty then s.loopWords first (getField t.lbody 18 7) else t.loopBuf
        let (w, p) := body.getD i (0#32, false)
        if guardsPass (s.core s.here) t.mode t.pc.toNat 4 .fetch then
          .word w p (s.modMe fun q => { q with loopBuf := body, stream := some (s.streamAt l t.pc t.stream) })
        else .trap (trapGUARD t.pc) s
    else s.fetchStream t
  | none => s.fetchStream t

/-- The breakpoint that matches the instruction at PC (R366, R367). -/
def Strand.breakpoint (t : Strand) : Option Nat :=
  if t.skipBreak then none
  else (List.range 4).find? fun n =>
    let b := t.ibp.toList.getD n 0
    b.getLsbD 63 && (t.mode == .u || b.getLsbD 62) && b.extractLsb' 2 55 == t.pc.extractLsb' 2 55

/-- The fetch of the word at STVEC fails (R353): the unit ends. -/
def State.endAtEntry (s : State) : State :=
  let (n, s) := s.nextFree
  let s := s.logError (dieOf s.here) s.me.stvec (s.endpoint s.here) (Config.freeNat n % 8) 0x0B
  s.endUnit s.cur .faulted

/-- A trap of the instruction at PC before it runs; a fetch trap at trap entry ends the unit (R353). -/
def State.fetchTrap (s : State) (t : Trap) : State :=
  if s.me.atEntry && s.me.unit.isSome then s.endAtEntry else s.takeTrap s.cur t

/-! Registers whose two copies both fail parity (R359). -/

/-- Does an access to the address begin a wait where it is not served at once: a load that takes a mutex or waits on a line
or a phase, a receive, a send (R278, R289, R293)? -/
def waitsAt (a : Word) (store : Bool) : Bool :=
  let (w, o) := windowOf a.toNat
  match w with
  | .event => !store && (decide (0x800 ≤ o ∧ o < 0xA00) || decide (0xB00 ≤ o))
  | .chan => o % 4096 == (if store then 0x800 else 0x20)
  | _ => false

/-- Is it an instruction that captures WLIM: one that may wait, or a matrix command (R200, R278, R279)? -/
def capturesLimit (t : Strand) (i : Instr) : Bool :=
  match i with
  | .mwait _ _ => true
  | .mbxwait _ _ => true
  | .barrive _ _ _ => true
  | .lds _ _ _ _ => true
  | .sts _ _ _ _ => true
  | .colget _ _ => true
  | .ssync _ _ => true
  | .mma _ _ _ _ _ _ _ => true
  | .ld _ a _ k => waitsAt (t.getX a + immWord k) false
  | .ldo _ a _ _ _ => waitsAt (t.getX a) false
  | .st _ a _ k => waitsAt (t.getX a + immWord k) true
  | .vst _ a k => waitsAt (t.getX a + (immWord k <<< 6)) true
  | .cxinfo _ _ _ sel _ => sel.toNat != 8
  | i => readsProgress i

/-- The CSRs that a COLPUT reads: FRM under RM 111 and for a routine that rounds in FRM, FNVER with a routine, and where the
host combines (R306, R307, R333). -/
def colputReads (e : Word) (rt : Option Routine) (hosted : Bool) : List (Nat × Nat) :=
  let routine := getField e 28 4 == 6
  (if getField e 22 3 = 7 ∨ (routine ∧ rt.any (·.usesDyn)) then [(5, 2)] else []) ++ if routine || hosted then [(5, 4)] else []

/-- DEDUCED. THE REGISTERS THAT AN INSTRUCTION READS BESIDE (R359): FTE and FFLAGS where it delivers flags, FFLAGS for the
flags of MBXPOP and COLGET, CIPROG of a cochain instruction, WLIM of an instruction that may wait or captures it, what a
higher-order operation captures, FRM under RM 111 of a copy and of a group, what ERET restores from, what a forward records
(R332), IEN and IPEND of WFI, MIEN and MIPEND on a control core. The loop's own use of LCNT and LBODY (R107, R108) is no read of the instruction (log 49). -/
def csrsRead (s : State) (i : Instr) : List (Nat × Nat) :=
  let t := s.me
  (if deliversFlags i then [(5, 3), (5, 1)] else []) ++ (if readsProgress i then [(5, 0xA)] else []) ++
  (if capturesLimit t i then [(5, 5)] else []) ++
  (match i with
    | .mbxpop _ _ => [(5, 1)]
    | .colget _ _ => [(5, 1)]
    | .colput _ _ g =>
      let e := (s.core s.here).groups.toList.getD g.toNat 0
      colputReads e (t.handles.toList.getD (getField e 32 4) none) (!(s.die (dieOf s.here)).mgmt.getLsbD 2)
    | .hfold _ _ _ _ => [(5, 2), (5, 3), (5, 4)]
    | .hscan _ _ _ _ => [(5, 2), (5, 3), (5, 4)]
    | .hzip _ _ _ _ => [(5, 2), (5, 3), (5, 4)]
    | .houter _ _ _ _ => [(5, 2), (5, 3), (5, 4)]
    | .cpgo _ => if getField t.shadow[12] 6 3 = 7 then [(5, 2)] else []
    | .ecall =>
      if t.mode = .s ∧ !isControl s.here then [(0, 10), (5, 0x302), (5, 0x303), (5, 0x304), (5, 0x305)] else []
    | .wfi => [(5, 0x307), (5, 0x308)] ++ if isControl s.here then [(5, 0x707), (5, 0x708)] else []
    | .eret => if t.mode = .m then [(5, 0x702), (5, 0x700)] else [(5, 0x302), (5, 0x300)]
    | _ => [])

/-- The first register that the instruction reads and whose two copies fail parity (R359). DESIGN CHOICE. Where several
have failed, the first of this list is the one reported (log 49). -/
def State.badRead (s : State) (i : Instr) : Option (Nat × Nat) :=
  (readsOf i ++ csrsRead s i).find? fun r => r ∈ s.me.unusable

/-- Does an #ILL of the instruction come from the value of x[rs1], and not from its field codes (R195, R313, R345)? A read-only
CSR, an M-mode CSR on a compute core, a number and a selector that are not listed draw it by their codes. -/
def illByValue (i : Instr) (control : Bool) : Bool :=
  let csr (n : BitVec 14) : Bool := csrListed n.toNat && n.toNat / 256 != 1 && (control || decide (n.toNat < 0x700))
  match i with
  | .mcfg _ _ sel => decide (sel.toNat ≤ 4)
  | .csrrw _ _ n => csr n
  | .csrrs _ _ n => csr n
  | .csrrc _ _ n => csr n
  | _ => false

/-- Is the trap one of steps 1 to 9 of R59, which come before #POISON? DEDUCED. An #ILL that a value of x[rs1] draws is not,
and a #CTYPE is where it checks register state (log 49). -/
def earlyTrap (i : Instr) (control : Bool) (code : Nat) (tval2 : Word) : Bool :=
  code ∈ [2, 3, 4, 5, 6, 7, 9, 0xC] || (code == 0xB && tval2 == 0#64) || (code == 1 && !illByValue i control)

/-- Has the current strand, by the run of an instruction, taken a trap of steps 1 to 9 of R59, or is it parked in them, for
a walk? -/
def stopsEarly (i : Instr) (s t : State) : Bool :=
  let q := t.me
  match q.status with
  | .parked (.walk _ _ _) => true
  | .ready =>
    q.inst.isNone && q.atEntry && t.free != s.free &&
      (if q.mode = .m then earlyTrap i (isControl s.here) (getField q.m.mcause 0 8) q.m.mtval2
       else earlyTrap i (isControl s.here) (getField q.cause 0 8) q.tval2)
  | _ => false

/-- The #POISON of a register that the instruction reads; in a compute phase of a DET job a replay (R359, R363). -/
def State.takeBadRegister (s : State) (r : Nat × Nat) : State :=
  match (s.core s.here).job, s.jobOf s.here with
  | some jn, some j =>
    if s.inCompute s.here then
      if s.canReplay j then s.replay jn (some (.reg s.cur r.1 r.2)) else (s.replay jn none).takeTrap s.cur (trapBadRegister r)
    else s.takeTrap s.cur (trapBadRegister r)
  | _, _ => s.takeTrap s.cur (trapBadRegister r)

/-- An instruction runs, unless a register that it reads is unusable and none of its earlier checks fails (R59, R359). Once an
access of it has been performed its registers are not looked at again. -/
def issueInstr (run : Instr → State → Result) (i : Instr) (s : State) : Result :=
  if s.me.log.all fun a => match a with
    | .place _ _ _ _ => true
    | _ => false
  then
    match s.badRead i with
    | none => run i s
    | some r =>
      match run i s with
      | .next t => if stopsEarly i s t then .next t else .next (s.takeBadRegister r)
      | o => o
  else run i s

/-- A word issued: decoded, then run. -/
def issueWord (run : Instr → State → Result) (w : Word32) (s : State) : Result :=
  match decode w with
  | .error _ => .next (s.takeTrap s.cur (trapILL w))
  | .ok i => issueInstr run i s

/-- The answer that a refill has had is put into the stream buffer (R63). -/
def Strand.takeBlock (t : Strand) : Strand :=
  match t.log with
  | [.block v p] => { t with stream := some (bufferOf (blockOf t.pc) v p), log := [] }
  | _ => t

/-- Is YIELD.END the instruction that the strand comes to? -/
def State.yieldNext (s : State) : Bool :=
  match (s.modMe Strand.takeBlock).fetch with
  | .word w false _ =>
    (match decode w with
      | .ok .yieldEnd => true
      | _ => false)
  | _ => false

/-- A strand's turn at an instruction boundary (R351). A unit that a CANCEL has covered ends there, unless it completes a
YIELD.END in the cycle in which the CANCEL reaches it (R300). -/
def boundary (run : Instr → State → Result) (s : State) : Result :=
  let t := s.me
  if s.cancelled s.cur || (s.covered s.cur && !s.yieldNext) then .next (s.endUnit s.cur .cancelled)
  else if (s.interruptDue s.cur).isSome then run .interruptTake s
  else
    match t.breakpoint with
    | some n => .next (s.takeTrap s.cur (trapBRK t.pc (BitVec.ofNat 64 (n + 1))))
    | none =>
      match t.log with
      | [.trap tr] => .next (s.fetchTrap tr)
      | _ =>
        match (s.modMe Strand.takeBlock).fetch with
        | .trap tr s => .next (s.fetchTrap tr)
        | .parks s => .next s
        | .word w poison s =>
          if poison then .next (s.fetchTrap (trapPOISON (s.me.pc &&& ~~~7#64)))
          else issueWord run w (s.modMe fun t => { t with skipBreak := false })

/-- A ready strand's turn: an instruction under way goes on, else the boundary. -/
def strandTurn (run : Instr → State → Result) (s : State) : Result :=
  match s.me.inst with
  | some w =>
    match decode w with
    | .ok i => issueInstr run i s
    | .error _ => .next (s.takeTrap s.cur (trapILL w))
  | none => boundary run s

/-- The strand of a core that is being saved which still has an instruction to bring to its end (R336). -/
def State.unfinished (s : State) (c : Nat) : Option Nat :=
  (List.range 6).find? fun k => (s.strand (8 * c + k)).isReady && (s.strand (8 * c + k)).inst.isSome

/-- Has the running strand of a core spent its budget (R275)? -/
def State.spent (s : State) (c : Nat) : Bool :=
  decide ((s.core c).turnStart + getField (s.core c).qmax 0 24 ≤ s.cycle)

/-- The core with the strand that issues next (R274, R275): the running strand while it has budget left, else the next ready
one in ring order. A core that runs none takes one as the cycle ends. -/
def State.nextTurn (s : State) (c : Nat) : State := if s.runs c && s.spent c then s.choose c else s

/-- A core issues (R274). Where no strand is ready, and on a core that is saved, a cycle passes; on one that is being saved,
only instructions under way go on; one that is disabled issues nothing (R9). -/
def issueCore (run : Instr → State → Result) (c : Nat) (s : State) : Result :=
  let idle : Result := .next (s.pass 1 0)
  if (s.core c).pstate == .saved || s.hub.absent.contains c then idle
  else if (s.core c).pstate == .saving then
    match s.unfinished c with
    | some k => strandTurn run { s with cur := 8 * c + k }
    | none => idle
  else
    let t := s.nextTurn c
    if t.runs c then strandTurn run { t with cur := 8 * c + (t.core c).run } else idle

end Sys2Proof.Machine
end

