-- ==== Sys2Proof/Machine/Moves.lean ====
section
/-! DEFINITION. What comes next: the agenda's moves, and what happens to the module from outside (R356 to R361). -/

namespace Sys2Proof.Machine

/-- The job in whose compute phase a core wrote one of the words (R363). -/
def State.writtenInPhase (s : State) (ws : List Loc) : Option Nat :=
  (s.cores.find? fun e => s.inCompute e.1 && ws.any fun w => decide (w ∈ e.2.wrote)).bind fun e => e.2.job

/-- An uncorrectable error of memory strikes (R356, R363). -/
def State.poison (s : State) (l : Loc) : State := s.strikeJob (s.writtenInPhase (struckWords l)) (.word l)

/-- A parity error of an accumulator (R358, R363). -/
def State.poisonAcc (s : State) (k n : Nat) : State :=
  let owner := (List.range 8).find? fun i => s.inCompute (8 * k + i) && (s.core (8 * k + i)).maccmask.getLsbD n
  s.strikeJob (owner.bind fun i => (s.core (8 * k + i)).job) (.acc k n)

/-- Compute cores disabled: they keep their numbers and are absent (R9). -/
def State.disable (s : State) (cs : List Nat) : State :=
  { s with hub := { s.hub with absent := s.hub.absent ++ cs.filter fun c => !isControl c && !s.hub.absent.contains c } }

/-- A contribution from beyond a die's mesh arrives at an edge router, at its port EXT (R305). -/
def State.externalContribution (s : State) (c g : Nat) (x : Contribution) : State := s.contribute c g 5 x

/-- The result of a round whose root lies beyond this module comes down to a core's router (R305). -/
def State.externalResult (s : State) (c g : Nat) (lanes : List Word) (flags : BitVec 5) : State :=
  s.modCore c fun t =>
    { t with rounds := t.rounds.map fun r =>
        if r.group = g ∧ r.opened ∧ r.result.isNone then { r with coming := some (lanes, flags) } else r }

/-- One move. An event that has a word is an instruction, which a strand issues and no device takes. -/
def State.move (run : Instr → State → Result) (s : State) : Move → Result
  | .event h i => if (encode i).isSome then .next s else run i { s with cur := h }
  | .issue c n => issueCore run c { s with slice := n }
  | .tick n m => .next (s.pass n m)
  | .badRegister h file n =>
    .next (s.strike (.reg h file n))
  | .badCopy h _ _ =>
    let e := s.endpoint (coreOf h)
    .next (s.logError (dieOf (coreOf h)) (BitVec.ofNat 64 e) e 4 4)
  | .poisonWord l => .next (s.poison l)
  | .correctable l => .next (s.logAt l 1)
  | .badAccumulator k n => .next (s.poisonAcc k n)
  | .evict k n => .next (s.modCluster k fun q => { q with ctu := q.ctu.eraseIdx n })
  | .disableCore c => .next (s.disable [c])
  | .disableCluster k => .next (s.disable ((List.range 8).map fun i => 8 * k + i))
  | .peerSlice b n => .next { s with hub := { s.hub with peerSlices := tableSet s.hub.peerSlices b n } }
  | .extContribution c g x => .next (s.externalContribution c g x)
  | .extResult c g lanes flags => .next (s.externalResult c g lanes flags)

/-- What the module takes next: its agenda's first move, else the core of the current strand issues. -/
def State.takeMove (run : Instr → State → Result) (s : State) : Result :=
  match s.agenda with
  | [] => issueCore run s.here { s with slice := none }
  | m :: ms => State.move run { s with agenda := ms } m

/-- Is the next move the module reset? -/
def State.resetNext (s : State) : Bool :=
  match s.agenda with
  | .event _ .moduleReset :: _ => true
  | _ => false

end Sys2Proof.Machine
end

