-- ==== Sys2Proof/Machine/Step.lean ====
section
/-! DEFINITION. One step of the module, and how a word is placed where the next step fetches. -/

namespace Sys2Proof.Machine

/-- One step: the agenda's first move, else an instruction of the current strand's core. A module that its management
controller has stopped takes nothing but the module reset (R378). -/
def step (s : State) : Host.Outcome State Fault Refusal :=
  if s.hub.stopped && !s.resetNext then .fault .moduleStopped else s.takeMove exec

/-- A strand that is about to fetch the first word of unit instruction scratch. -/
def Strand.atUnitCode (t : Strand) : Strand :=
  { t with pc := BitVec.ofNat 64 (unitBase + 0x20000), status := .ready, inst := none, log := [], stream := none }

/-- The guard that lets U mode fetch from unit instruction scratch: 32 KiB at offset 0x2_0000 (R320). -/
def codeGuard : Word := BitVec.ofNat 64 (0xC000000000000000 + unitBase + 0x20000 + 0x7FC0)

/-- A program is loaded from outside (log 3): the word stands in the current strand's unit instruction scratch, a guard
lets it be fetched, and the strand is ready there. -/
def State.withFetchWord (s : State) (nbits w : Nat) : State :=
  let s := { s with agenda := [] }.putRaw { home := .unit s.here, off := 0x20000 } (bytesOfNat (nbits / 8) w)
  let s := s.modCore s.here fun c => { c with run := s.cur % 8, active := true, guards := c.guards.set 0 codeGuard }
  s.modMe Strand.atUnitCode

end Sys2Proof.Machine
end

