-- ==== Sys2Proof/Safety.lean ====
section
/-! DEFINITION. What a safe run is, in the terms that claims use. -/

namespace Sys2Proof

/-- A run of n steps that neither faults nor is refused: every failure of a program is a trap, a completion status or a
logged event, so a run is safe as long as the module is not stopped and takes no step without a meaning. -/
def SafeRun (n : Nat) (s : Machine.State) : Prop := ∃ t, Host.Core.run core n s = .next t

end Sys2Proof
end

