-- ==== Sys2Proof/WellFormed.lean ====
section
/-! DEFINITION. Well-formed instructions: every field code is one that the spec lists (R42 to R58). -/

namespace Sys2Proof

/-- The instruction has a word, and step 1 of R59 finds nothing wrong with its fields. -/
abbrev Instr.WellFormed (i : Instr) : Prop := Machine.legal i = true ∧ (encode i).isSome = true

end Sys2Proof
end

