-- ==== Sys2Proof/Certificates/Slice0/Obligations.lean ====
section
/-! DEFINITION. The statements: what the spec's rules say of the instructions, of the device's own steps and of the machine
as a whole. -/

/-! Words used by the statements. -/

namespace Sys2Proof.Claims

open Sys2Proof.Machine

/-- The instruction completes: the strand whose turn it is changed by `f`, then past the instruction (R107 at the end of
a loop body). -/
def done (s : State) (f : Strand → Strand) : Result := .next (s.modMe f).retire

/-- The instruction takes the trap. -/
def traps (s : State) (tr : Trap) : Result := .next (s.takeTrap s.cur tr)

/-- 64-bit arithmetic, or under W = 1 32-bit arithmetic on bits [31:0] with the result sign-extended (R98). -/
def inWidth (w : BitVec 1) (f : (n : Nat) → BitVec n → BitVec n → BitVec n) (x y : Word) : Word :=
  if w = 0#1 then f 64 x y else (f 32 (x.extractLsb' 0 32) (y.extractLsb' 0 32)).signExtend 64

/-- The order of the signed or, under U = 1, the unsigned reading. -/
def below (u : BitVec 1) {n : Nat} (x y : BitVec n) : Bool :=
  if u = 0#1 then decide (x.toInt < y.toInt) else decide (x.toNat < y.toNat)

/-- A register-only instruction of the integer family: it reads x registers and the pc, and writes rd. -/
def integerDest : Instr → Option (BitVec 5)
  | .add d _ _ _ => some d | .sub d _ _ _ => some d | .and d _ _ _ => some d | .or d _ _ _ => some d
  | .xor d _ _ _ => some d | .sll d _ _ _ => some d | .srl d _ _ _ => some d | .sra d _ _ _ => some d
  | .slt d _ _ _ _ => some d | .min d _ _ _ _ => some d | .max d _ _ _ _ => some d | .mul d _ _ _ => some d
  | .mulh d _ _ _ _ => some d | .div d _ _ _ _ => some d | .rem d _ _ _ _ => some d | .clz d _ _ => some d
  | .ctz d _ _ => some d | .popc d _ _ => some d | .bfx d _ _ _ _ => some d | .addi d _ _ => some d
  | .andi d _ _ => some d | .ori d _ _ => some d | .xori d _ _ => some d | .slli d _ _ => some d
  | .srli d _ _ => some d | .srai d _ _ => some d | .slti d _ _ => some d | .lui d _ => some d | .auipc d _ => some d
  | _ => none

/-- R73: flags raised are merged into FFLAGS; where FTE enables one of them the instruction takes #FPX with nothing written,
the flags in TVAL2 [4:0] and the lane in [13:8]; else `put` writes the results and the instruction completes. -/
def delivers (s : State) (fl : FlagSet) (lane : Nat) (put : Strand → Strand) : Result :=
  let s' := s.modMe fun t => { t with fflags := t.fflags ||| fl.setWidth 64 }
  if fl &&& s.me.fte.extractLsb' 0 5 = 0#5 then done s' put
  else traps s' { code := 0x0A, badva := 0, tval2 := BitVec.ofNat 64 (lane % 64 * 256 + fl.toNat) }

/-- R73, R122: a lane-wise instruction: `f i` in every active lane i, the flags of all active lanes, and for a trap the
lowest of them that raised an enabled flag. -/
def lanewise (s : State) (w : Nat) (d : BitVec 5) (p : BitVec 3) (f : Nat → Word × FlagSet) : Result :=
  let r := mapLanes w (s.me.getP p) (s.me.getV d) f
  delivers s (orFlags r.2) ((firstEnabledLane s.me.fte 0 r.2).getD 0) fun t => t.setV d r.1

/-- The value of a number that is no NaN: below, among or above the rationals, and which of them; both zeros are 0 (R66). -/
def numValue : Machine.Num → Int × Rat
  | .inf neg => (if neg then -1 else 1, 0)
  | .fin neg m e => (0, (if neg then -(m : Rat) else (m : Rat)) * (2 : Rat) ^ e)
  | _ => (0, 0)

/-- The order of such values. -/
def valueLess (x y : Int × Rat) : Prop := x.1 < y.1 ∨ (x.1 = y.1 ∧ x.2 < y.2)

/-- An access of the strand whose turn it is, as it leaves the strand. -/
def accessOf (s : State) (answers : Bool) (va : Word) (l : Loc) (n : Nat) (k : AccKind) : Access :=
  { strand := s.cur, answers := answers, op := none, va := va, loc := l, len := n, kind := k, sc := none, hops := [],
    asid := (s.core s.here).asid.toNat % 65536 }

/-- Where an access of the strand whose turn it is goes (steps 6 to 9 of R59). -/
def place (s : State) (f : Form) (va : Word) (n : Nat) : Resolved := s.resolve s.here s.me.mode f va n

/-- The state with the base register rewritten by an access's hops (R238). -/
def rebased (s : State) (a : BitVec 5) (hops : List Hop) : State :=
  s.modMe fun t => if hops.isEmpty then t else t.setX a (rewriteBase (t.getX a) hops)

/-- R219, R245: how a load of n bytes at `va` ends: in the own unit scratch at once, with the value that the home gives; at
any other place it parks until the answer has come, and completes with that; a check of R59 that fails is its trap. -/
def loads (s : State) (i : Instr) (f : Form) (a : BitVec 5) (va : Word) (n : Nat) (put : Vec → Strand → Strand) : Prop :=
  refusal i s = none →
    (∀ l view m t v, s.me.log = [] → place s f va n = .ok l view m → l.home = .unit s.here →
      s.perform s.here (accessOf s true va l n (.load view false)) = .done t v → exec i s = done t (put v)) ∧
    (∀ l view m k, s.me.log = [] → place s f va n = .ok l view m → l.home = .unit s.here →
      s.perform s.here (accessOf s true va l n (.load view false)) = .poisoned k →
      exec i s = traps s { code := 0x11, badva := va + BitVec.ofNat 64 k, tval2 := 0 }) ∧
    (∀ l view m, s.me.log = [] → place s f va n = .ok l view m → l.home ≠ .unit s.here →
      ∃ t, exec i s = .next t ∧ t.me.status = .parked .answer ∧ t.me.pc = s.me.pc ∧
        ((t.core s.here).path.getLast?).map PathEntry.acc = some (accessOf s true va l n (.load view false))) ∧
    (∀ l view m v hops, s.me.log = [.place va l view m, .val v hops] → exec i s = done (rebased s a hops) (put v)) ∧
    (∀ tr, s.me.log = [] → place s f va n = .trap tr → exec i s = traps s tr)

/-- R219, R245, R355: how a store ends: performed at once in the own unit scratch; posted, where the place takes posted stores and
the queue has room, but for a value that a control word refuses; else answered, and complete with that. -/
def stores (s : State) (i : Instr) (f : Form) (a : BitVec 5) (va : Word) (bs : List Byte) : Prop :=
  refusal i s = none →
    (∀ l view m t v, s.me.log = [] → place s f va bs.length = .ok l view m → l.home = .unit s.here →
      s.perform s.here (accessOf s true va l bs.length (.store bs none false)) = .done t v → exec i s = .next t.retire) ∧
    (∀ l view m, s.me.log = [] → place s f va bs.length = .ok l view m → l.home ≠ .unit s.here → storePosts l m = true →
      (s.core s.here).posted.length < 16 → s.chanTrap va l (storeKind l bs) = none →
      ∃ t, exec i s = .next t ∧ t.me = s.retire.me ∧ t.mem = s.mem ∧ t.tags = s.tags ∧
        (t.core s.here).posted = (s.core s.here).posted ++ [accessOf s false va l bs.length (storeKind l bs)]) ∧
    (∀ l view m tr, s.me.log = [] → place s f va bs.length = .ok l view m → storePosts l m = true →
      (s.core s.here).posted.length < 16 → s.chanTrap va l (storeKind l bs) = some tr →
      exec i s = traps s tr) ∧
    (∀ l view m v hops, s.me.log = [.place va l view m, .val v hops] → l.home ≠ .unit s.here → storePosts l m = false →
      ∃ t, exec i s = .next t ∧ t.me = (rebased s a hops).retire.me ∧ t.mem = s.mem ∧ t.tags = s.tags) ∧
    (∀ tr, s.me.log = [] → place s f va bs.length = .trap tr → exec i s = traps s tr)

/-- Mode, status and trap registers are as they were, or as the entry of a trap leaves them (R352, R354). -/
def trapsOrKeeps (s t : State) : Prop :=
  let like (u : Strand) : Prop :=
    t.me.mode = u.mode ∧ t.me.sstatus = u.sstatus ∧ t.me.cause = u.cause ∧ t.me.epc = u.epc ∧ t.me.badva = u.badva ∧
    t.me.tval2 = u.tval2 ∧ t.me.m = u.m
  like s.me ∨ ∃ tr, like (s.takeTrap s.cur tr).me

/-- The CSRs of a strand that neither a load nor a store nor a trap writes, with its other per-strand state; LCNT and LBODY
where no loop is active (R107). -/
def quietCsrs (s t : State) : Prop :=
  t.me.fflags = s.me.fflags ∧ t.me.frm = s.me.frm ∧ t.me.fte = s.me.fte ∧ t.me.fnver = s.me.fnver ∧ t.me.wlim = s.me.wlim ∧
  t.me.ciprog = s.me.ciprog ∧ t.me.cpstat = s.me.cpstat ∧ t.me.stvec = s.me.stvec ∧ t.me.sscratch = s.me.sscratch ∧
  t.me.ien = s.me.ien ∧ t.me.ipend = s.me.ipend ∧ t.me.timecmp = s.me.timecmp ∧ t.me.ibp = s.me.ibp ∧
  t.me.shadow = s.me.shadow ∧ t.me.mcfg = s.me.mcfg ∧ t.me.pendFlags = s.me.pendFlags ∧ t.me.coHeld = s.me.coHeld ∧
  t.me.handles = s.me.handles ∧ t.me.unit = s.me.unit ∧
  (s.me.loopBody = none → t.me.lcnt = s.me.lcnt ∧ t.me.lbody = s.me.lbody)

/-- An access of core c with this serial number stands in a path queue and may be performed now (R221, R233): it is `e`, for
the word at offset `o` of `h`. -/
abbrev offered (s : State) (c seq : Nat) (e : PathEntry) (h : Home) (o : Nat) : Prop :=
  s.pathEntry c seq = some e ∧ s.mayPerform c e = true ∧ e.acc.loc = { home := h, off := o }

/-- It is a plain load. -/
abbrev reads (s : State) (c seq : Nat) (e : PathEntry) (h : Home) (o : Nat) : Prop :=
  offered s c seq e h o ∧ e.acc.kind = .load .plain false

/-- It is a store of the word v. -/
abbrev writes (s : State) (c seq : Nat) (e : PathEntry) (h : Home) (o : Nat) (v : Word) : Prop :=
  offered s c seq e h o ∧ e.acc.stored = some v

/-- R218, R219: an access of core c leaves its queue, performed, and its answer goes to its strand. -/
def answered (s : State) (c : Nat) (e : PathEntry) (x : Ans) : State := (s.takeOut c e).respond c e.acc x

/-- The form of memory and of its word tags: keys rise strictly, and no entry is what an unlisted one reads as. -/
def Canonical (s : State) : Prop := Memory.wf s.mem = true ∧ tableCanon WordTag.blank s.tags = true

end Sys2Proof.Claims

section Claims

open Sys2Proof Sys2Proof.Machine Sys2Proof.Claims
/-! Encoding. -/

/-- Words that the spec writes out (the tables of encodings of sections 02, 03 and 05, and R131, R208, R249 to R251, R254,
R268, R272, R284 to R302), at least one for every family of instructions, decode to what they stand for; words with a
reserved bit set are refused (R42). -/
def Obligations.DecodesSpecWords : Prop :=
  (∀ e ∈ [(0x01318A00#32, Instr.add 6 6 5 0), (0x0E3A1201#32, .div 7 8 9 0 1), (0x13298E06#32, .bfx 5 6 7 1 1),
      (0x14297FFF#32, .addi 5 5 0x3FFF), (0x1C392345#32, .lui 7 0x12345), (0x1F283FFE#32, .bne 5 0 0x3FFE),
      (0x24080010#32, .jal 1 16), (0x26014002#32, .loop 5 2)], decode e.1 = .ok e.2) ∧
  (∀ e ∈ [(0x27521800#32, Instr.ld 10 8 3 0), (0x2F2A1A40#32, .ldo 5 8 3 1 1), (0x342A4CE1#32, .amo 5 9 6 3 2 1),
      (0x352A4C7C#32, .cas 5 9 6 7 3 0), (0x36000040#32, .fence 1), (0x3E014C00#32, .cpset 5 6 0), (0x402A0000#32, .gxpost 5 8),
      (0x414A1400#32, .tmov 9 8 10), (0x432A1200#32, .msweep 5 8 9)], decode e.1 = .ok e.2) ∧
  (∀ e ∈ [(0x382A0000#32, Instr.mwatch 5 8), (0x39281200#32, .mwait 5 9), (0x3A601200#32, .mbxwait 12 9),
      (0x3B280006#32, .mbxpop 5 6), (0x3C2A0040#32, .barrive 5 8 1), (0x8428C00E#32, .colput 5 3 7), (0x8520000E#32, .colget 4 7),
      (0x862A0000#32, .ssync 5 8), (0x882A4000#32, .cancel 5 9 0)], decode e.1 = .ok e.2) ∧
  (∀ e ∈ [(0x49204438#32, Instr.fma 4 1 2 3 1 0), (0x4F104020#32, .fcvt 2 1 0 2 0), (0x5050C052#32, .fcvti 10 3 1 1 1 0),
      (0x5B18427F#32, .vfma 3 1 1 1 7 7), (0x6088C23F#32, .vcmp 2 1 3 1 0 7 7), (0x684B1A19#32, .vhash 9 12 13 0 1),
      (0x6B204409#32, .visect 4 1 2 0 1), (0x73210E00#32, .dext 2 1 7), (0x7A200DC0#32, .cred 2 0 6 7 0),
      (0x7B298002#32, .mcfg 5 6 2), (0x7E100000#32, .maccZero 0 2), (0x7F1A0000#32, .rtdef 3 8), (0x802A4060#32, .hfold 5 9 3 0)],
    decode e.1 = .ok e.2) ∧
  (∀ e ∈ [(0x89000000#32, Instr.ecall), (0x8A000000#32, .ebreak), (0x8B000000#32, .eret), (0x90000000#32, .wfi)],
    decode e.1 = .ok e.2) ∧
  (∀ w ∈ [0x0E3A1209#32, 0x6B20440D#32], decode w = .error (.noRow w))

/-- R41 to R58: the decoder reads back every well-formed instruction from the word that the encoder gives it. -/
def Obligations.DecodeOfEncode : Prop :=
  ∀ (i : Instr) (w : Word32), i.WellFormed → encode i = some w → decode w = .ok i

/-- R41 to R58: a word has one meaning: the encoder gives back the word that an instruction was decoded from. -/
def Obligations.EncodeOfDecode : Prop :=
  ∀ (i : Instr) (w : Word32), decode w = .ok i → encode i = some w

/-- R57, R58: a word of opcode 0x00 or 0x91 to 0xFF decodes to the reserved-opcode instruction, which takes #ILL with the
word in the trap's value and 0 as its address, the pc as EPC. R58, R59: an instruction with an illegal field takes #ILL with
its word, whatever the mode and the state, and does nothing else. R56, R59: the privileged encodings take #PRIV in U mode,
with the instruction's word. R45, R59: an instruction with an rm field takes #ILL where the field is 101 or 110, or is DYN
while FRM holds 101, 110 or 111. -/
def Obligations.RefusedEncodings : Prop :=
  (∀ (w : Word32) (s : State),
      (w.extractLsb' 24 8 = 0#8 ∨ 0x91 ≤ (w.extractLsb' 24 8).toNat) →
      decode w = .ok (.reservedOpcode w) ∧
      exec (.reservedOpcode w) s =
        .next (s.trapEntry s.cur false { code := 1, badva := 0, tval2 := w.setWidth 64 } s.me.pc)) ∧
  (∀ (i : Instr) (w : Word32) (s : State),
      encode i = some w → legal i = false →
      exec i s = traps s { code := 1, badva := 0, tval2 := w.setWidth 64 }) ∧
  (∀ (i : Instr) (w : Word32) (s : State),
      encode i = some w → privileged i = true → legal i = true → s.me.mode = .u →
      exec i s = traps s { code := 2, badva := 0, tval2 := w.setWidth 64 }) ∧
  (∀ (i : Instr) (r : BitVec 3) (s : State),
      rmField i = some r → legal i = true →
      (r ≠ 5#3 ∧ r ≠ 6#3) ∧
      (r = 7#3 → 5 ≤ (s.me.frm.extractLsb' 0 3).toNat →
        exec i s =
          traps s { code := 1, badva := 0, tval2 := (wordOf i).setWidth 64 }))

/-! The integer family. -/

/-- R98, R100: what the integer register instructions write, with W, U and S. R100: BFX takes l bits of rs1 from position p
on, as many as lie below the width, extended with zeros or, under S = 1, with the field's own top bit. -/
def Obligations.IntegerRegisterResults : Prop :=
  (∀ (s : State) (d a b : BitVec 5) (w u : BitVec 1),
      let x := s.me.getX a
      let writes (f : (n : Nat) → BitVec n → BitVec n → BitVec n) : Result :=
        done s fun t => t.setX d (inWidth w f (t.getX a) (t.getX b))
      exec (.add d a b w) s = writes (fun _ p q => p + q) ∧
      exec (.sub d a b w) s = writes (fun _ p q => p - q) ∧
      exec (.and d a b w) s = writes (fun _ p q => p &&& q) ∧
      exec (.or d a b w) s = writes (fun _ p q => p ||| q) ∧
      exec (.xor d a b w) s = writes (fun _ p q => p ^^^ q) ∧
      exec (.sll d a b w) s = writes (fun n p q => p <<< (q.toNat % n)) ∧
      exec (.srl d a b w) s = writes (fun n p q => p >>> (q.toNat % n)) ∧
      exec (.sra d a b w) s = writes (fun n p q => p.sshiftRight (q.toNat % n)) ∧
      exec (.mul d a b w) s = writes (fun n p q => BitVec.ofNat n (p.toNat * q.toNat)) ∧
      exec (.mulh d a b w 1#1) s = writes (fun n p q => BitVec.ofNat n (p.toNat * q.toNat / 2 ^ n)) ∧
      exec (.mulh d a b w 0#1) s = writes (fun n p q => BitVec.ofInt n (p.toInt * q.toInt / 2 ^ n)) ∧
      exec (.slt d a b w u) s = writes (fun n p q => if below u p q then 1#n else 0#n) ∧
      exec (.min d a b w u) s = writes (fun _ p q => if below u p q then p else q) ∧
      exec (.max d a b w u) s = writes (fun _ p q => if below u p q then q else p) ∧
      (∃ z ≤ 64, exec (.clz d a 0#1) s = done s (fun t => t.setX d (BitVec.ofNat 64 z)) ∧
        (∀ n < z, x.getMsbD n = false) ∧ (z < 64 → x.getMsbD z = true)) ∧
      (∃ z ≤ 32, exec (.clz d a 1#1) s = done s (fun t => t.setX d (BitVec.ofNat 64 z)) ∧
        (∀ n < z, (x.extractLsb' 0 32).getMsbD n = false) ∧ (z < 32 → (x.extractLsb' 0 32).getMsbD z = true)) ∧
      (∃ z ≤ 64, exec (.ctz d a 0#1) s = done s (fun t => t.setX d (BitVec.ofNat 64 z)) ∧
        (∀ n < z, x.getLsbD n = false) ∧ (z < 64 → x.getLsbD z = true)) ∧
      (∃ z ≤ 32, exec (.ctz d a 1#1) s = done s (fun t => t.setX d (BitVec.ofNat 64 z)) ∧
        (∀ n < z, x.getLsbD n = false) ∧ (z < 32 → x.getLsbD z = true)) ∧
      exec (.popc d a w) s =
        done s (fun t => t.setX d (BitVec.ofNat 64
          ((List.range (if w = 0#1 then 64 else 32)).filter fun k => x.getLsbD k).length))) ∧
  (∀ (s : State) (d a b : BitVec 5) (k w : BitVec 1),
      exec (.bfx d a b k w) s =
        done s fun t => t.setX d
          (inWidth w
            (fun n p q =>
              let pos := (q.extractLsb' 0 6).toNat
              let len := min (q.extractLsb' 6 7).toNat (n - pos)
              if k = 1#1 then (p.extractLsb' pos len).signExtend n else (p.extractLsb' pos len).setWidth n)
            (t.getX a) (t.getX b)))

/-- R99: the division rule, on the values of the width: by zero, at the overflow corner, and otherwise truncated toward
zero. -/
def Obligations.DivisionRule : Prop :=
  ∀ (s : State) (d a b : BitVec 5) (w u : BitVec 1),
    let quotient (n : Nat) (p q : BitVec n) : BitVec n :=
      if q = 0#n then BitVec.allOnes n
      else if u = 0#1 ∧ p = BitVec.intMin n ∧ q.toInt = -1 then BitVec.intMin n
      else if u = 0#1 then BitVec.ofInt n (p.toInt.tdiv q.toInt) else BitVec.ofNat n (p.toNat / q.toNat)
    let remainder (n : Nat) (p q : BitVec n) : BitVec n :=
      if q = 0#n then p
      else if u = 0#1 ∧ p = BitVec.intMin n ∧ q.toInt = -1 then 0#n
      else if u = 0#1 then BitVec.ofInt n (p.toInt.tmod q.toInt) else BitVec.ofNat n (p.toNat % q.toNat)
    exec (.div d a b w u) s =
      done s (fun t => t.setX d (inWidth w quotient (t.getX a) (t.getX b))) ∧
    exec (.rem d a b w u) s =
      done s (fun t => t.setX d (inWidth w remainder (t.getX a) (t.getX b)))

/-- R101: what the I-format instructions write, and that a shift amount above 63 takes #ILL (R54). -/
def Obligations.ImmediateResults : Prop :=
  ∀ (s : State) (d a : BitVec 5) (i : BitVec 14),
    let k := i.signExtend 64
    let writes (v : Word → Word) : Result :=
      done s fun t => t.setX d (v (t.getX a))
    exec (.addi d a i) s = writes (fun x => x + k) ∧
    exec (.andi d a i) s = writes (fun x => x &&& k) ∧
    exec (.ori d a i) s = writes (fun x => x ||| k) ∧
    exec (.xori d a i) s = writes (fun x => x ^^^ k) ∧
    (i.toNat < 64 →
      exec (.slli d a i) s = writes (fun x => x <<< i.toNat) ∧
      exec (.srli d a i) s = writes (fun x => x >>> i.toNat) ∧
      exec (.srai d a i) s = writes (fun x => x.sshiftRight i.toNat)) ∧
    (64 ≤ i.toNat → ∀ j ∈ [Instr.slli d a i, .srli d a i, .srai d a i],
      exec j s = traps s (trapILL (wordOf j))) ∧
    exec (.slti d a i) s = writes (fun x => if x.toInt < k.toInt then 1#64 else 0#64)

/-- R102: LUI and AUIPC. -/
def Obligations.UpperImmediateResults : Prop :=
  ∀ (s : State) (d : BitVec 5) (i : BitVec 19),
    exec (.lui d i) s =
      done s (fun t => t.setX d (BitVec.ofInt 64 (i.toInt * 2 ^ 13))) ∧
    exec (.auipc d i) s =
      done s (fun t => t.setX d (t.pc + BitVec.ofInt 64 (i.toInt * 2 ^ 13)))

/-- R36, R98 to R102: the frame of the integer family: when it answers a next state without taking #ILL, every byte of
memory, every word tag, every other strand, the other tables of the module, and in the strand every register but rd, every
flag, the watch, and every CSR but those of the loop (LCNT and LBODY, R107) are as before. -/
def Obligations.IntegerFrame : Prop :=
  ∀ (i : Instr) (d : BitVec 5) (s t : State),
    integerDest i = some d → legal i = true → exec i s = .next t →
    (∀ l, t.byteAt l = s.byteAt l) ∧ t.tags = s.tags ∧ (∀ h, h ≠ s.cur → t.strand h = s.strand h) ∧
    t.cores = s.cores ∧ t.clusters = s.clusters ∧ t.dies = s.dies ∧ t.hub = s.hub ∧ t.jobs = s.jobs ∧ t.retry = s.retry ∧
    t.cur = s.cur ∧ t.cycle = s.cycle ∧ t.time = s.time ∧
    (∀ r, r ≠ d → t.me.getX r = s.me.getX r) ∧ t.me.f = s.me.f ∧ t.me.v = s.me.v ∧ t.me.p = s.me.p ∧ t.me.c = s.me.c ∧
    t.me.mode = s.me.mode ∧ t.me.fflags = s.me.fflags ∧ t.me.frm = s.me.frm ∧ t.me.fte = s.me.fte ∧
    t.me.fnver = s.me.fnver ∧ t.me.sstatus = s.me.sstatus ∧ t.me.stvec = s.me.stvec ∧ t.me.epc = s.me.epc ∧
    t.me.cause = s.me.cause ∧ t.me.badva = s.me.badva ∧ t.me.tval2 = s.me.tval2 ∧ t.me.sscratch = s.me.sscratch ∧
    t.me.ien = s.me.ien ∧ t.me.ipend = s.me.ipend ∧ t.me.timecmp = s.me.timecmp ∧ t.me.wlim = s.me.wlim ∧
    t.me.ciprog = s.me.ciprog ∧ t.me.cpstat = s.me.cpstat ∧ t.me.ibp = s.me.ibp ∧ t.me.m = s.me.m ∧ t.me.watch = s.me.watch ∧
    t.me.shadow = s.me.shadow ∧ t.me.mcfg = s.me.mcfg ∧ t.me.pendFlags = s.me.pendFlags ∧ t.me.coHeld = s.me.coHeld ∧
    t.me.handles = s.me.handles ∧ t.me.unit = s.me.unit ∧ t.me.status = s.me.status

/-! Control flow. -/

/-- R103: the conditional branches, outside an active loop body: to PC + 4 × off14 where the condition holds, else to PC +
4. -/
def Obligations.BranchResults : Prop :=
  ∀ (s : State) (a b : BitVec 5) (o : BitVec 14),
    s.me.inLoopBody s.me.pc = false →
    let x := s.me.getX a
    let y := s.me.getX b
    let goes (c : Bool) : Result :=
      .next (s.jumpTo (if c then s.me.pc + 4#64 * o.signExtend 64 else s.me.pc + 4#64))
    exec (.beq a b o) s = goes (decide (x = y)) ∧
    exec (.bne a b o) s = goes (decide (x ≠ y)) ∧
    exec (.blt a b o) s = goes (decide (x.toInt < y.toInt)) ∧
    exec (.bge a b o) s = goes (decide (y.toInt ≤ x.toInt)) ∧
    exec (.bltu a b o) s = goes (decide (x.toNat < y.toNat)) ∧
    exec (.bgeu a b o) s = goes (decide (y.toNat ≤ x.toNat))

/-- R61, R104: JAL and JALR, outside an active loop body: the return address to rd, the target from the value that rs1 held
before; a misaligned JALR target takes #ALIGN with the target in BADVA, and writes nothing. -/
def Obligations.JumpResults : Prop :=
  ∀ (s : State) (d a : BitVec 5) (o : BitVec 19) (i : BitVec 14),
    s.me.inLoopBody s.me.pc = false →
    let t := s.me.getX a + i.signExtend 64
    exec (.jal d o) s =
      .next ((s.modMe fun q => q.setX d (s.me.pc + 4#64)).jumpTo (s.me.pc + 4#64 * o.signExtend 64)) ∧
    (t.toNat % 4 = 0 →
      exec (.jalr d a i) s = .next ((s.modMe fun q => q.setX d (s.me.pc + 4#64)).jumpTo t)) ∧
    (t.toNat % 4 ≠ 0 →
      exec (.jalr d a i) s = traps s { code := 3, badva := t, tval2 := 0 })

/-- R107: LOOP on a compute core, outside an active body, with its first and last word in unit instruction scratch: it
passes the body where the count is 0, else it starts the loop there; otherwise #ACCERR with the first word's address. R107:
where a strand goes when it completes the last word of an active loop's body, and what the loop state becomes. R108: a
branch, jump or LOOP fetched from within the active body takes #ILL. -/
def Obligations.LoopRule : Prop :=
  (∀ (s : State) (a : BitVec 5) (n : BitVec 14),
      s.me.inLoopBody s.me.pc = false → 1 ≤ n.toNat → n.toNat ≤ 64 → isControl s.here = false →
      let first := s.me.pc + 4#64
      let last := s.me.pc + BitVec.ofNat 64 (4 * n.toNat)
      let inside (w : Word) : Prop := 0x0100000000020000 ≤ w.toNat ∧ w.toNat < 0x0100000000028000
      (inside first → inside last → s.me.getX a = 0#64 →
        exec (.loop a n) s = .next (s.jumpTo (last + 4#64))) ∧
      (inside first → inside last → s.me.getX a ≠ 0#64 →
        ∃ t, exec (.loop a n) s = .next t ∧ t.me.pc = first ∧ t.me.lcnt = s.me.getX a ∧
          t.me.lbody = BitVec.ofNat 64 (n.toNat * 2 ^ 18 + (first.toNat - 0x0100000000000000)) ∧ t.me.x = s.me.x ∧
          t.mem = s.mem) ∧
      (¬ (inside first ∧ inside last) →
        exec (.loop a n) s = traps s { code := 9, badva := first, tval2 := 0 })) ∧
  (∀ (t : Strand) (start : Nat) (n : Nat),
      1 ≤ n → n ≤ 64 → 0x20000 ≤ start → start < 0x28000 → t.lbody = BitVec.ofNat 64 (n * 2 ^ 18 + start) →
      t.pc = BitVec.ofNat 64 (0x0100000000000000 + start + 4 * (n - 1)) →
      (1 < t.lcnt.toNat → t.advance.pc = BitVec.ofNat 64 (0x0100000000000000 + start) ∧ t.advance.lcnt = t.lcnt - 1#64 ∧
        t.advance.lbody = t.lbody) ∧
      (t.lcnt = 1#64 → t.advance.pc = BitVec.ofNat 64 (0x0100000000000000 + start + 4 * n) ∧ t.advance.lcnt = 0#64 ∧
        t.advance.lbody = 0#64)) ∧
  (∀ (s : State) (i : Instr),
      isControlFlow i = true → s.me.inLoopBody s.me.pc = true →
      exec i s =
        traps s { code := 1, badva := 0, tval2 := (wordOf i).setWidth 64 })

/-! Traps, and the return from one. -/

/-- R352: trap entry on a compute strand: what each register holds after it, and that every register file, the numeric CSRs,
the loop state, the watch and the handles, all of memory and every other strand are as before. R354: on a control core, an
exception from U or S mode goes to S mode where MDELEG has its bit, an interrupt where bit 32 + c is set, and otherwise to M
mode, as everything that arises in M mode does; M-mode entry writes the M registers and leaves the S registers. -/
def Obligations.TrapEntry : Prop :=
  (∀ (s : State) (h : Nat) (int : Bool) (tr : Trap) (epc : Word),
      h / 8 < 4096 →
      let o := s.strand h
      let t := (s.trapEntry h int tr epc).strand h
      t.cause = BitVec.ofNat 64 (tr.code + if int then 2 ^ 63 else 0) ∧ t.epc = epc ∧ t.badva = tr.badva ∧
      t.tval2 = tr.tval2 ∧ t.sstatus.getLsbD 3 = (o.mode == .s) ∧ t.sstatus.getLsbD 2 = (o.mode == .s) ∧
      t.sstatus.getLsbD 1 = o.sstatus.getLsbD 0 ∧ t.sstatus.getLsbD 0 = false ∧
      (∀ k, 4 ≤ k → t.sstatus.getLsbD k = o.sstatus.getLsbD k) ∧ t.mode = .s ∧ t.pc = o.stvec ∧
      t.x = o.x ∧ t.f = o.f ∧ t.v = o.v ∧ t.p = o.p ∧ t.c = o.c ∧ t.fflags = o.fflags ∧ t.frm = o.frm ∧ t.fte = o.fte ∧
      t.fnver = o.fnver ∧ t.wlim = o.wlim ∧ t.lcnt = o.lcnt ∧ t.lbody = o.lbody ∧ t.watch = o.watch ∧
      t.handles = o.handles ∧ t.stvec = o.stvec ∧ t.ien = o.ien ∧ t.sscratch = o.sscratch ∧ t.m = o.m ∧
      (s.trapEntry h int tr epc).mem = s.mem ∧ (s.trapEntry h int tr epc).tags = s.tags ∧
      (s.trapEntry h int tr epc).cores = s.cores ∧ ∀ k, k ≠ h → (s.trapEntry h int tr epc).strand k = s.strand k) ∧
  (∀ (s : State) (h : Nat) (int : Bool) (tr : Trap) (epc : Word),
      4096 ≤ h / 8 →
      let o := s.strand h
      let t := (s.trapEntry h int tr epc).strand h
      let bit := if int then 32 + tr.code else tr.code
      (o.mode ≠ .m → o.m.mdeleg.getLsbD bit = true → t.mode = .s ∧ t.pc = o.stvec ∧ t.epc = epc ∧ t.m = o.m) ∧
      (o.mode = .m ∨ o.m.mdeleg.getLsbD bit = false →
        t.mode = .m ∧ t.pc = o.m.mtvec ∧ t.m.mcause = BitVec.ofNat 64 (tr.code + if int then 2 ^ 63 else 0) ∧
        t.m.mepc = epc ∧ t.m.mbadva = tr.badva ∧ t.m.mtval2 = tr.tval2 ∧ t.m.mstatus.getLsbD 0 = false ∧
        t.m.mstatus.getLsbD 1 = o.m.mstatus.getLsbD 0 ∧
        t.m.mstatus.extractLsb' 2 2 = (match o.mode with | .u => 0#2 | .s => 1#2 | .m => 3#2) ∧
        t.m.mstatus.getLsbD 4 = (o.mode == .m) ∧ t.cause = o.cause ∧ t.epc = o.epc ∧ t.badva = o.badva ∧
        t.tval2 = o.tval2 ∧ t.sstatus = o.sstatus ∧ t.x = o.x))

/-- R344: the effect of ERET in S and in M mode: the pc, the mode and the status; PIE stays, the stream buffer is refilled
at the next fetch, an active loop goes on only where the target lies within its body (R108). -/
def Obligations.EretReturns : Prop :=
  ∀ (s : State),
    (s.me.mode = .s → ∃ t, exec .eret s = .next t ∧ t.me.pc = s.me.epc ∧
      t.me.mode = (if s.me.sstatus.getLsbD 2 then .s else .u) ∧ t.me.sstatus.getLsbD 0 = s.me.sstatus.getLsbD 1 ∧
      t.me.sstatus.getLsbD 1 = s.me.sstatus.getLsbD 1 ∧ t.me.sstatus.getLsbD 2 = false ∧
      t.me.sstatus.getLsbD 3 = false ∧ t.me.stream = none ∧ t.me.x = s.me.x ∧ t.me.epc = s.me.epc ∧ t.mem = s.mem ∧
      (s.me.loopBody.isSome = true → s.me.inLoopBody s.me.epc = true → t.me.lcnt = s.me.lcnt ∧ t.me.lbody = s.me.lbody) ∧
      (s.me.loopBody.isSome = true → s.me.inLoopBody s.me.epc = false → t.me.lcnt = 0#64 ∧ t.me.lbody = 0#64)) ∧
    (s.me.mode = .m → ∃ t, exec .eret s = .next t ∧ t.me.pc = s.me.m.mepc ∧
      (s.me.m.mstatus.extractLsb' 2 2 = 0#2 → t.me.mode = .u) ∧ (s.me.m.mstatus.extractLsb' 2 2 = 1#2 → t.me.mode = .s) ∧
      (s.me.m.mstatus.extractLsb' 2 2 = 3#2 → t.me.mode = .m) ∧ t.me.m.mstatus.getLsbD 0 = s.me.m.mstatus.getLsbD 1 ∧
      t.me.m.mstatus.extractLsb' 2 3 = 0#3 ∧ t.me.sstatus = s.me.sstatus ∧ t.me.x = s.me.x ∧ t.mem = s.mem)

/-- R344, R331, R332: EBREAK takes #BRK with 0 and 0; ECALL takes #ECALLU in U mode, on a control core #ECALLS in S mode and
#ILL in M mode; on a compute strand in S mode it forwards to the kernel: the strand parks; where its die's fault queue has a
free record, the record is written there, TAIL goes on, and the control core that MGMTMODE names gets IPEND.EXT; where it
has none, the queue stays as it is. -/
def Obligations.SystemCalls : Prop :=
  ∀ (s : State),
    let die := dieOf s.here
    let tail := (s.die die).fqTail
    exec .ebreak s = traps s { code := 0x12, badva := 0, tval2 := 0 } ∧
    (s.me.mode = .u → exec .ecall s = traps s { code := 0x13, badva := 0, tval2 := 0 }) ∧
    (s.me.mode = .m → exec .ecall s = traps s { code := 1, badva := 0, tval2 := 0x89000000 }) ∧
    (s.me.mode = .s → 4096 ≤ s.here →
      exec .ecall s = traps s { code := 0x14, badva := 0, tval2 := 0 }) ∧
    (s.me.mode = .s → s.here < 4096 →
      ∃ t, exec .ecall s = .next t ∧ t.me.status = .parked (.forward (decide (0 < (s.die die).faultRoom))) ∧
        t.me.pc = s.me.pc ∧ t.me.x = s.me.x ∧ t.mem = s.mem ∧
        (0 < (s.die die).faultRoom →
          (t.die die).fqTail = tail + 1 ∧
          tableGet [] (t.die die).fqRecs (tail.toNat % 1024) =
            [BitVec.ofNat 64 (s.endpoint s.here % 2 ^ 22 + s.cur % 8 * 2 ^ 24), s.me.cause, s.me.epc, s.me.badva, s.me.tval2,
              s.me.getX 10#5, (s.core s.here).asid &&& 0xFFFF#64, 0#64] ∧
          ∀ h, s.manager die = some h → (t.strand h).ipend.getLsbD 5 = true) ∧
        ((s.die die).faultRoom = 0 → t.dies = s.dies))

/-- R343, R351, R354: an interrupt that is due, on a strand that can take one now and does not wait, is taken with EPC the
pc and its code in the cause. R343: which interrupt is due on a compute strand: the highest code whose bit stands in IEN and
IPEND, in U mode or with SSTATUS.IE set. -/
def Obligations.InterruptRule : Prop :=
  (∀ (s : State) (c : Nat),
      s.interruptDue s.cur = some c → s.me.status = .ready → s.me.inst = none →
      exec .interruptTake s =
        .next (s.trapEntry s.cur true { code := c, badva := 0, tval2 := 0 } s.me.pc)) ∧
  (∀ (s : State) (h c : Nat),
      h / 8 < 4096 → (s.strand h).mode ≠ .m →
      (s.interruptDue h = some c ↔
        1 ≤ c ∧ c ≤ 5 ∧ (s.strand h).ien.getLsbD c = true ∧ (s.ipend h).getLsbD c = true ∧
        ((s.strand h).mode = .u ∨ (s.strand h).sstatus.getLsbD 0 = true) ∧
        ∀ k, c < k → k ≤ 5 → ¬ ((s.strand h).ien.getLsbD k = true ∧ (s.ipend h).getLsbD k = true)))

/-! The CSRs. -/

/-- R345, R347: CSRRW, CSRRS and CSRRC of a listed number that the mode may access: the old value to rd, and the new value,
unless the CSR's own rule refuses it, by the CSR's write rule; a pure read writes nothing. R32, R61, R72, R86, R91, R169,
R279, R320, R322, R343, R347, R349, R354: what the CSRs that software writes read as after a write: the value written,
without the reserved bits of the CSR's map; of IPEND and MIPEND SW takes the value, EXT can only be cleared, and the other
bits keep what they were; MORD is the order in effect, and a write orders the next phase (log 40). R345: a pure read of a
read-only CSR gives its value, and a write of one takes #ILL with the instruction's word. -/
def Obligations.CsrResults : Prop :=
  (∀ (s : State) (d a : BitVec 5) (n : BitVec 14),
      csrListed n.toNat = true →
      (n.toNat < 0x100 ∨ (0x200 ≤ n.toNat ∧ n.toNat < 0x700 ∧ s.me.mode ≠ .u) ∨ (s.me.mode = .m ∧ 4096 ≤ s.here)) →
      (n.toNat < 0x100 ∨ 0x200 ≤ n.toNat) →
      let old := s.csrRead n.toNat
      let x := s.me.getX a
      let writes (v : Word) : Result :=
        done (s.csrWrite n.toNat v) fun t => { (t.setX d old) with unusable := (t.setX d old).clearMark 5 n.toNat }
      (csrRefuses n.toNat x = false → exec (.csrrw d a n) s = writes x) ∧
      (a ≠ 0#5 → csrRefuses n.toNat (old ||| x) = false →
        exec (.csrrs d a n) s = writes (old ||| x)) ∧
      (a ≠ 0#5 → csrRefuses n.toNat (old &&& ~~~x) = false →
        exec (.csrrc d a n) s = writes (old &&& ~~~x)) ∧
      (a = 0#5 → exec (.csrrs d a n) s = done s (fun t => t.setX d old) ∧
        exec (.csrrc d a n) s = done s (fun t => t.setX d old)) ∧
      (csrRefuses n.toNat x = true →
        exec (.csrrw d a n) s =
          traps s (trapILL (wordOf (.csrrw d a n))))) ∧
  (∀ (s : State) (v : Word) (k : Nat) (j : Job),
      (∀ e ∈ [(0x001, 0x1F#64), (0x002, 0x7#64), (0x003, 0x1F#64), (0x004, BitVec.allOnes 64), (0x005, BitVec.allOnes 64),
          (0x008, BitVec.allOnes 64), (0x009, 0x1FFFFFF#64), (0x00A, 0xFFE0000000DFFFFF#64), (0x201, BitVec.allOnes 64), (0x202, 0xFFFFFFFF#64), (0x203, 0xFFFF#64),
          (0x300, 0xF#64), (0x301, ~~~3#64), (0x302, ~~~3#64), (0x303, 0x80000000000000FF#64), (0x304, BitVec.allOnes 64),
          (0x305, BitVec.allOnes 64), (0x306, BitVec.allOnes 64), (0x307, 0x3E#64), (0x309, BitVec.allOnes 64),
          (0x330, 0xFFFF#64), (0x331, 0x1FFFFFFF000#64), (0x700, 0x1F#64), (0x701, ~~~3#64), (0x702, ~~~3#64),
          (0x706, BitVec.allOnes 64), (0x707, 0x3E#64), (0x709, BitVec.allOnes 64)],
        (s.csrWrite e.1 v).csrRead e.1 = v &&& e.2) ∧
      (∀ k, k < 4 → (s.csrWrite (0x310 + k) v).csrRead (0x310 + k) = v &&& 0xC1FFFFFFFFFFFFFC#64) ∧
      (∀ k, k < 8 → (s.csrWrite (0x320 + k) v).csrRead (0x320 + k) = v &&& 0xF1FFFFFFFFFFFFC0#64) ∧
      (∀ n ∈ [0x308, 0x708], ((s.csrWrite n v).csrRead n).getLsbD k =
        if k = 1 then v.getLsbD 1 else if k = 5 then (s.csrRead n).getLsbD 5 && v.getLsbD 5 else (s.csrRead n).getLsbD k) ∧
      (s.jobOf s.here = some j → (s.csrWrite 0x200 v).csrRead 0x200 = s.csrRead 0x200 ∧
        ((s.csrWrite 0x200 v).jobOf s.here).map Job.nextOrd = some (v.getLsbD 0))) ∧
  (∀ (s : State) (d a : BitVec 5) (n : BitVec 14),
      0x100 ≤ n.toNat → n.toNat ≤ 0x103 →
      let old := s.csrRead n.toNat
      exec (.csrrs d 0#5 n) s = done s (fun t => t.setX d old) ∧ exec (.csrrc d 0#5 n) s = done s (fun t => t.setX d old) ∧
      exec (.csrrw d a n) s = traps s (trapILL (wordOf (.csrrw d a n))) ∧
      (a ≠ 0#5 → exec (.csrrs d a n) s = traps s (trapILL (wordOf (.csrrs d a n))) ∧
        exec (.csrrc d a n) s = traps s (trapILL (wordOf (.csrrc d a n)))))

/-- R345, R347: a CSR instruction leaves memory, every register file but rd, and every CSR that it does not name as they
were: here for the strand's own CSRs, in pairs. -/
def Obligations.CsrFrame : Prop :=
  ∀ (s : State) (n : Nat) (v : Word),
    let t := s.csrWrite n v
    t.mem = s.mem ∧ t.tags = s.tags ∧ t.cur = s.cur ∧ t.me.x = s.me.x ∧ t.me.f = s.me.f ∧ t.me.v = s.me.v ∧ t.me.p = s.me.p ∧
    t.me.c = s.me.c ∧ t.me.pc = s.me.pc ∧ t.me.mode = s.me.mode ∧ (∀ h, h ≠ s.cur → t.strand h = s.strand h) ∧
    ∀ k ∈ [0x001, 0x002, 0x003, 0x004, 0x005, 0x008, 0x009, 0x00A, 0x300, 0x301, 0x302, 0x303, 0x304, 0x305, 0x306, 0x307,
        0x309, 0x310, 0x311, 0x312, 0x313, 0x700, 0x701, 0x702, 0x703, 0x704, 0x705, 0x706, 0x707, 0x709],
      k ≠ n → t.csrRead k = s.csrRead k

/-! Floating point and vectors. -/

/-- R73, R111, R112, R113, R116, R118: the scalar instructions that deliver a floating-point result with its flags: each is
its function of the operands' values, in its format and in the mode that its rm field or FRM names. R73, R114 to R117: the
scalar instructions that write an integer or move bits: FCMP, which compares the operands' values, and FCVTI with their
flags, FCLASS, FMV and FSGNJ without. -/
def Obligations.FpResults : Prop :=
  (∀ (s : State) (d a b c : BitVec 5) (r : BitVec 3) (f : BitVec 2) (g : BitVec 1),
      let x := s.me.getF a
      let y := s.me.getF b
      let k := Fmt.ofCode f
      let k1 : Fmt := if g = 0#1 then .f32 else .f64
      let m := s.me.rm r
      let gives (i : Instr) (v : Word × FlagSet) : Prop :=
        refusal i s = none →
          exec i s = delivers s v.2 0 fun t => t.setF d v.1
      gives (.fadd d a b r f) (fpAdd k m x y) ∧
      gives (.fsub d a b r f) (fpSub k m x y) ∧
      gives (.fmul d a b r f) (fpMul k m x y) ∧
      gives (.fdiv d a b r f) (fpDiv k m x y) ∧
      gives (.fsqrt d a r f) (fpSqrt k m x) ∧
      gives (.fma d a b c g r) (fpFma k1 m false x y (s.me.getF c)) ∧
      gives (.fnma d a b c g r) (fpFma k1 m true x y (s.me.getF c)) ∧
      gives (.fmin d a b f g) (fpMinMax k false (g == 1#1) x y) ∧
      gives (.fmax d a b f g) (fpMinMax k true (g == 1#1) x y) ∧
      (∀ q, gives (.fcvt d a r f q) (fpConvert (Fmt.ofCode q) k m x)) ∧
      gives (.fcvtf d a r f 0#1 0#1) (fpOfInt k m (s.me.getX a).toInt) ∧
      gives (.fcvtf d a r f 0#1 1#1) (fpOfInt k m (s.me.getX a).toNat) ∧
      gives (.fcvtf d a r f 1#1 0#1) (fpOfInt k m ((s.me.getX a).setWidth 32).toInt) ∧
      gives (.fcvtf d a r f 1#1 1#1) (fpOfInt k m ((s.me.getX a).setWidth 32).toNat) ∧
      gives (.fexp d a r g) (fpFun 0 k1 m x) ∧
      gives (.flog d a r g) (fpFun 1 k1 m x) ∧
      gives (.ferf d a r g) (fpFun 2 k1 m x) ∧
      (∀ q : BitVec 3, gives (.fapx d a r f q) (fpApx (s.me.fnver.toNat % 256) q.toNat k m x))) ∧
  (∀ (s : State) (d a b : BitVec 5) (r : BitVec 3) (f : BitVec 2),
      let x := s.me.getF a
      let y := s.me.getF b
      let k := Fmt.ofCode f
      let num (v : Word) := unpack k v
      let truth (c : Bool) (fl : FlagSet) : Result :=
        delivers s fl 0 fun t => t.setX d (if c then 1#64 else 0#64)
      let nan := (num x).isNan || (num y).isNan
      let quietly := if (num x).isSnan || (num y).isSnan then 0x10#5 else 0#5
      (nan = true →
        exec (.fcmp d a b f 0#2) s = truth false quietly ∧
        exec (.fcmp d a b f 1#2) s = truth false 0x10#5 ∧
        exec (.fcmp d a b f 2#2) s = truth false 0x10#5 ∧
        exec (.fcmp d a b f 3#2) s = truth true quietly) ∧
      (nan = false → exec (.fcmp d a b f 3#2) s = truth false 0#5 ∧
        (∃ c0 c1 c2, exec (.fcmp d a b f 0#2) s = truth c0 0#5 ∧
          exec (.fcmp d a b f 1#2) s = truth c1 0#5 ∧
          exec (.fcmp d a b f 2#2) s = truth c2 0#5 ∧
          (c0 = true ↔ numValue (num x) = numValue (num y)) ∧ (c1 = true ↔ valueLess (numValue (num x)) (numValue (num y))) ∧
          (c2 = true ↔ valueLess (numValue (num x)) (numValue (num y)) ∨ numValue (num x) = numValue (num y)))) ∧
      exec (.fclass d a f) s =
        done s (fun t => t.setX d (fpClass k x)) ∧
      exec (.fmv d a f 0#2) s =
        done s (fun t => t.setX d (BitVec.ofNat 64 (x.toNat % 2 ^ k.width))) ∧
      exec (.fmv d a f 1#2) s =
        done s (fun t => t.setF d (BitVec.ofNat 64 ((s.me.getX a).toNat % 2 ^ k.width))) ∧
      exec (.fmv d a f 2#2) s =
        done s (fun t => t.setF d (BitVec.ofNat 64 (x.toNat % 2 ^ k.width))) ∧
      (∀ q : BitVec 2, q ≠ 3#2 → ∃ z : Word,
        exec (.fsgnj d a b f q) s = done s (fun t => t.setF d z) ∧
        (∀ n < k.width - 1, z.getLsbD n = x.getLsbD n) ∧
        z.getLsbD (k.width - 1) =
          (if q = 0#2 then y.getLsbD (k.width - 1) else if q = 1#2 then !y.getLsbD (k.width - 1)
           else x.getLsbD (k.width - 1) != y.getLsbD (k.width - 1)) ∧
        ∀ n, k.width ≤ n → z.getLsbD n = false) ∧
      (∀ w u : BitVec 1, refusal (.fcvti d a r f w u) s = none →
        ∃ (v : Int) (fl : FlagSet),
          (v, fl) = fpToInt k (s.me.rm r)
            (if u = 1#1 then 0 else if w = 1#1 then -2 ^ 31 else -2 ^ 63)
            (if u = 1#1 then (if w = 1#1 then 2 ^ 32 - 1 else 2 ^ 64 - 1) else if w = 1#1 then 2 ^ 31 - 1 else 2 ^ 63 - 1) x ∧
          exec (.fcvti d a r f w u) s = delivers s fl 0 fun t =>
            t.setX d (if w = 1#1 then (BitVec.ofInt 32 v).signExtend 64 else BitVec.ofInt 64 v)))

/-- R68: a NaN operand of FADD, FSUB, FMUL, FDIV or FSQRT delivers the canonical NaN of the format, with NV exactly where an
operand is a signalling NaN. R66, R68, R111: in FP64, a finite nonzero value divided by a zero is an infinity of the XORed
sign with DZ, zero by zero the canonical NaN with NV; the square root of a zero is that zero, of minus infinity the
canonical NaN with NV. -/
def Obligations.FpSpecialOperands : Prop :=
  (∀ (k : Fmt) (m : Rm) (x y : Word),
      let num (v : Word) := unpack k v
      let nv := if (num x).isSnan || (num y).isSnan then 0x10#5 else 0#5
      ((num x).isNan || (num y).isNan) = true →
        fpAdd k m x y = (k.nan, nv) ∧ fpSub k m x y = (k.nan, nv) ∧
        fpMul k m x y = (k.nan, nv) ∧ fpDiv k m x y = (k.nan, nv) ∧
        ((num x).isNan = true →
          fpSqrt k m x = (k.nan, if (num x).isSnan then 0x10#5 else 0#5))) ∧
  (∀ (m : Rm) (x y : BitVec 64),
      let e := (x.extractLsb' 52 11).toNat
      y.extractLsb' 0 63 = 0#63 →
        (e ≠ 2047 → x.extractLsb' 0 63 ≠ 0#63 →
          fpDiv .f64 m x y =
            (BitVec.ofBool (x.getLsbD 63 != y.getLsbD 63) ++ 0x7FF0000000000000#63, 0x08#5)) ∧
        (x.extractLsb' 0 63 = 0#63 → fpDiv .f64 m x y = (0x7FF8000000000000#64, 0x10#5)) ∧
        fpSqrt .f64 m y = (y, 0#5) ∧
        fpSqrt .f64 m 0xFFF0000000000000#64 = (0x7FF8000000000000#64, 0x10#5))

/-- R119 to R135: the lane-wise vector instructions: what each active lane gets. R125, R127, R129, R130, R132: the vector
instructions that write a predicate, a converted part, a reduction or a scalar. -/
def Obligations.VectorResults : Prop :=
  (∀ (s : State) (d a b : BitVec 5) (p t r : BitVec 3),
      let w := laneWidth t
      let x := laneAt w (s.me.getV a)
      let y := laneAt w (s.me.getV b)
      let z := laneAt w (s.me.getV d)
      let m := s.me.rm r
      let lanes (i : Instr) (n : Nat) (f : Nat → Word × FlagSet) : Prop :=
        refusal i s = none → exec i s = lanewise s n d p f
      lanes (.vadd d a b p t r) w (fun j => laneAdd t r m (x j) (y j)) ∧
      lanes (.vsub d a b p t r) w (fun j => laneSub t r m (x j) (y j)) ∧
      lanes (.vmul d a b p t r) w (fun j => laneMul t r m (x j) (y j)) ∧
      lanes (.vfma d a b p t r) w (fun j => laneFma t m (x j) (y j) (z j)) ∧
      lanes (.vmin d a b p t r) w (fun j => laneMinMax t r false (x j) (y j)) ∧
      lanes (.vmax d a b p t r) w (fun j => laneMinMax t r true (x j) (y j)) ∧
      lanes (.vbit d a b p t 0#3) w (fun j => (x j &&& y j, 0#5)) ∧
      lanes (.vbit d a b p t 1#3) w (fun j => (x j ||| y j, 0#5)) ∧
      lanes (.vbit d a b p t 2#3) w (fun j => (x j ^^^ y j, 0#5)) ∧
      lanes (.vbit d a b p t 3#3) w (fun j => (x j &&& ~~~y j, 0#5)) ∧
      lanes (.vbit d a 0#5 p t 4#3) w
        (fun j => (BitVec.ofNat 64 ((List.range w).filter fun k => (x j).getLsbD k).length, 0#5)) ∧
      lanes (.vsh d a b p t 0#3) w (fun j => (BitVec.ofNat 64 ((x j).toNat * 2 ^ ((y j).toNat % w) % 2 ^ w), 0#5)) ∧
      lanes (.vsh d a b p t 1#3) w (fun j => (BitVec.ofNat 64 ((x j).toNat / 2 ^ ((y j).toNat % w)), 0#5)) ∧
      lanes (.vsh d a b p t 2#3) w
        (fun j => (BitVec.ofNat 64 ((BitVec.ofNat w (x j).toNat).sshiftRight ((y j).toNat % w)).toNat, 0#5)) ∧
      (∀ q, lanes (.vsel d a b p t q) w (fun j => (if (s.me.getP q).getLsbD j then x j else y j, 0#5))) ∧
      (∀ f, lanes (.vfun d a f p t r) w (fun j => laneFunction f t m (s.me.fnver.toNat % 256) (x j))) ∧
      (3 < t.toNat → lanes (.vsplat d a p t r) w (fun _ => (s.me.getF a, 0#5))) ∧
      (t.toNat ≤ 3 → lanes (.vsplat d a p t r) w (fun _ => (s.me.getX a, 0#5))) ∧
      lanes (.vperm d a b p t 0#3) w (fun j => (x ((y j).toNat % (512 / w)), 0#5)) ∧
      lanes (.vperm d a b p t 1#3) w
        (fun j => (if 512 / w ≤ (y j).toNat then 0#64 else x ((y j).toNat % (512 / w)), 0#5)) ∧
      lanes (.vhash d a b p 0#3) 64
        (fun j => (hash64 (laneAt 64 (s.me.getV a) j) (s.me.getX b), 0#5)) ∧
      lanes (.vhash d a b p 1#3) 64 (fun j => (hash64 (s.me.getX a + BitVec.ofNat 64 j) (s.me.getX b), 0#5)) ∧
      lanes (.vpfx d a p 0#3) 64 (fun j => (BitVec.ofNat 64 (prefixOnes (s.me.getV a) j), 0#5)) ∧
      lanes (.vpfx d a p 1#3) 64 (fun j => (BitVec.ofNat 64 (prefixOnes (s.me.getV a) (j + 1)), 0#5)) ∧
      (∀ q, lanes (.visect d a b p q) 16
        (fun j => (laneIntersect q (laneAt 64 (s.me.getV a) 0)
          (laneAt 64 (s.me.getV b) 0) j, 0#5))) ∧
      lanes (.vdot d a b p t r) 32 (fun j => laneDot t r m (s.me.getV a) (s.me.getV b) (s.me.getV d) j)) ∧
  (∀ (s : State) (d a b : BitVec 5) (p t r : BitVec 3),
      let w := laneWidth t
      let x := laneAt w (s.me.getV a)
      let y := laneAt w (s.me.getV b)
      let act := s.me.getP p
      (∀ (c : BitVec 2) (q : BitVec 3), refusal (.vcmp c q a b p t r) s = none →
        let test (j : Nat) := laneCompare t r c (x j) (y j)
        let fls := (List.range (512 / w)).map fun j => if act.getLsbD j then (test j).2 else 0#5
        exec (.vcmp c q a b p t r) s =
          delivers s (orFlags fls)
            ((firstEnabledLane s.me.fte 0 fls).getD 0)
            fun u => u.setP q (mapPredicate (512 / w) act (s.me.getP q) fun j => (test j).1)) ∧
      (∀ (q : BitVec 2) (e : BitVec 3), refusal (.vcvt d a q e p t r) s = none →
        let v := vecConvert e t r q (s.me.rm r) act (s.me.getV a) (s.me.getV d)
        exec (.vcvt d a q e p t r) s =
          delivers s (orFlags v.2)
            ((firstEnabledLane s.me.fte 0 v.2).getD 0) fun u => u.setV d v.1) ∧
      (∀ o : BitVec 5, refusal (.vred d a o p t r) s = none →
        let v := vecReduce o t r (s.me.rm r) act (s.me.getV a)
        exec (.vred d a o p t r) s =
          delivers s v.2 0 fun u => u.setV d (BitVec.ofNat 512 (v.1.toNat % 2 ^ w))) ∧
      (refusal (.vextr d a b t r) s = none →
        let l := x ((s.me.getX b).toNat % (512 / w))
        (3 < t.toNat → exec (.vextr d a b t r) s = done s fun u => u.setF d l) ∧
        (t.toNat ≤ 3 → r = 1#3 → exec (.vextr d a b t r) s = done s fun u => u.setX d l) ∧
        (t.toNat ≤ 3 → r = 0#3 → exec (.vextr d a b t r) s =
          done s fun u => u.setX d (BitVec.ofInt 64 (BitVec.ofNat w l.toNat).toInt))) ∧
      (∀ q : BitVec 3,
        let both (j : Nat) := laneAt 64 (s.me.getV a) j &&& laneAt 64 (s.me.getV b) j
        exec (.vbmand d a b p q) s = done s fun u =>
          (u.setV d (mapLanes 64 act (s.me.getV d) fun j => (both j, 0#5)).1).setP q
            (mapPredicate 8 act (s.me.getP q) fun j => both j != 0#64)))

/-- R34, R122: a lane-wise result: active lanes hold what the operation gives, modulo the lane's width, inactive lanes the
old value; inactive lanes raise nothing; a predicate result holds nothing above its lanes. -/
def Obligations.LaneRule : Prop :=
  ∀ (w : Nat) (p : Word) (old : Vec) (f : Nat → LaneResult) (j : Nat),
    (w = 8 ∨ w = 16 ∨ w = 32 ∨ w = 64) → j < 512 / w →
    let r := mapLanes w p old f
    (p.getLsbD j = true → laneAt w r.1 j = BitVec.ofNat 64 ((f j).1.toNat % 2 ^ w) ∧ r.2[j]? = some (f j).2) ∧
    (p.getLsbD j = false → laneAt w r.1 j = laneAt w old j ∧ r.2[j]? = some 0#5) ∧
    (∀ (g : Nat → Bool) (q : Word) (k : Nat),
      (mapPredicate (512 / w) p q g).getLsbD k =
        (decide (k < 512 / w) && if p.getLsbD k then g k else q.getLsbD k))

/-! Memory. -/

/-- R219, R240, R245: LD, FLD and VLD: address, width and extension, and how each ends. -/
def Obligations.LoadResults : Prop :=
  ∀ (s : State) (d a : BitVec 5) (w : BitVec 3) (i : BitVec 11),
    let va := s.me.getX a + i.signExtend 64
    let n := 2 ^ (w.toNat % 4)
    loads s (.ld d a w i) (.load w) a va n
      (fun v t => t.setX d (if w.toNat < 3 then (v.setWidth (8 * n)).signExtend 64 else (v.setWidth (8 * n)).setWidth 64)) ∧
    loads s (.fld d a w i) (.fload n) a va n (fun v t => t.setF d (v.setWidth 64)) ∧
    loads s (.vld d a i) .vload a (s.me.getX a + 64#64 * i.signExtend 64) 64 (fun v t => t.setV d v)

/-- R219, R240, R245: ST, FST and VST: address and bytes, and how each ends. -/
def Obligations.StoreResults : Prop :=
  ∀ (s : State) (b a : BitVec 5) (w : BitVec 3) (i : BitVec 11),
    let va := s.me.getX a + i.signExtend 64
    let n := 2 ^ (w.toNat % 4)
    stores s (.st b a w i) (.store n) a va (bytesOfNat n (s.me.getX b).toNat) ∧
    stores s (.fst b a w i) .fstore a va (bytesOfNat n (s.me.getF b).toNat) ∧
    stores s (.vst b a i) .vstore a (s.me.getX a + 64#64 * i.signExtend 64) (bytesOfNat 64 (s.me.getV b).toNat)

/-- R217, R242, R245, R352, R354: the frame of LD, FLD and VLD, however they end: every byte of memory and every word tag
reads as before, and in the strand nothing but rd (of LD an x register, of FLD an f, of VLD a v register), the base register
of an access that met a slip mark (R238), the pc, and what a trap or a park writes. R245, R287, R317, R321, R352, R354: the
frame of ST, FST and VST at their issue: every byte of memory outside the bytes at the place that the address resolves to
reads as before; where it resolves to none, and where the store is posted, every byte does; every register of the strand,
every CSR but what a trap writes, and every other strand's registers are as before; a watch on a word stored to may fire. -/
def Obligations.LoadAndStoreFrame : Prop :=
  (∀ (i : Instr) (d a : BitVec 5) (w : BitVec 3) (o : BitVec 11) (s t : State),
      i ∈ [Instr.ld d a w o, .fld d a w o, .vld d a o] → exec i s = .next t →
      let hopless := ∀ (v : Vec) (hops : List Hop), Ans.val v hops ∈ s.me.log → hops = []
      (∀ l, t.byteAt l = s.byteAt l) ∧ t.tags = s.tags ∧ t.hub = s.hub ∧ t.jobs = s.jobs ∧ t.dies = s.dies ∧
      (∀ r, (r ≠ d ∨ i ≠ .ld d a w o) → (r ≠ a ∨ hopless) → t.me.getX r = s.me.getX r) ∧
      (∀ r, (r ≠ d ∨ i ≠ .fld d a w o) → t.me.getF r = s.me.getF r) ∧
      (∀ r, (r ≠ d ∨ i ≠ .vld d a o) → t.me.getV r = s.me.getV r) ∧ t.me.p = s.me.p ∧ t.me.c = s.me.c ∧
      quietCsrs s t ∧ t.me.watch = s.me.watch ∧ trapsOrKeeps s t ∧ ∀ h, h ≠ s.cur → t.strand h = s.strand h) ∧
  (∀ (i : Instr) (f : Form) (va : Word) (n : Nat) (b a : BitVec 5) (w : BitVec 3) (o : BitVec 11) (s t : State),
      (i, f, va, n) ∈ [(Instr.st b a w o, Form.store (2 ^ (w.toNat % 4)), s.me.getX a + o.signExtend 64, 2 ^ (w.toNat % 4)),
        (.fst b a w o, .fstore, s.me.getX a + o.signExtend 64, 2 ^ (w.toNat % 4)),
        (.vst b a o, .vstore, s.me.getX a + 64#64 * o.signExtend 64, 64)] →
      s.me.log = [] → exec i s = .next t →
      (∀ l view m, place s f va n = .ok l view m → ∀ q, ¬ (l.key ≤ q.key ∧ q.key < l.key + n) → t.byteAt q = s.byteAt q) ∧
      (∀ l view m, place s f va n = .ok l view m → l.home ≠ .unit s.here → ∀ q, t.byteAt q = s.byteAt q) ∧
      ((∀ l view m, place s f va n ≠ .ok l view m) → ∀ q, t.byteAt q = s.byteAt q) ∧
      t.me.x = s.me.x ∧ t.me.f = s.me.f ∧ t.me.v = s.me.v ∧ t.me.p = s.me.p ∧ t.me.c = s.me.c ∧ quietCsrs s t ∧
      (t.me.watch = s.me.watch ∨ ∃ q, t.me.watch = .fired q) ∧ trapsOrKeeps s t ∧ t.hub = s.hub ∧ t.jobs = s.jobs ∧
      ∀ h, h ≠ s.cur → (t.strand h).x = (s.strand h).x ∧ (t.strand h).f = (s.strand h).f ∧ (t.strand h).v = (s.strand h).v ∧
        (t.strand h).p = (s.strand h).p ∧ (t.strand h).c = (s.strand h).c ∧ (t.strand h).pc = (s.strand h).pc ∧
        (t.strand h).mode = (s.strand h).mode)

/-- R218, R242: what a plain load of memory gives: the bytes at the place, little-endian, or, where a byte read is poisoned,
the offset of the lowest such byte; and what a store within a word does: the bytes written read back, every other byte as
before. -/
def Obligations.MemoryReadsWhatWasWritten : Prop :=
  ∀ (s : State) (c : Nat) (a : Access) (bs : List Byte),
    s.movingAt a.loc = none → (s.tagAt a.loc).slip = none →
    (a.kind = .load .plain false → (∀ k < a.len, (s.tagAt (a.loc.plus k)).poison = false) →
      s.perform c a = .done s (BitVec.ofNat 512 (s.natAt a.loc a.len))) ∧
    (∀ k < a.len, a.kind = .load .plain false → (s.tagAt (a.loc.plus k)).poison = true →
      (∀ j < k, (s.tagAt (a.loc.plus j)).poison = false) → s.perform c a = .poisoned k) ∧
    (a.kind = .store bs none false → a.len = bs.length → a.loc.off % 8 + bs.length ≤ 8 → (s.tagAt a.loc).poison = false →
      ∃ t, s.perform c a = .done t 0 ∧ t.bytesAt a.loc a.len = bs ∧
        ∀ q, ¬ (a.loc.key ≤ q.key ∧ q.key < a.loc.key + a.len) → t.byteAt q = s.byteAt q)

/-- R229, R251, R252: what an atomic and a synchronising access do at their word when it is not poisoned: the old word is
the value; the word gets the operation's result; the full/empty test decides whether the access is performed, and what the
bit becomes. -/
def Obligations.AtomicsAndSyncAtHome : Prop :=
  ∀ (s : State) (c : Nat) (a : Access),
    s.movingAt a.loc = none → (s.tagAt a.loc).slip = none → (s.tagAt a.loc).poison = false → a.loc.off % 8 = 0 →
    let old := s.wordAt a.loc
    let full := (s.tagAt a.loc).full
    let leaves (v : Vec) (w : Word) (b : Bool) : Prop :=
      ∃ t, s.perform c a = .done t v ∧ t.wordAt a.loc = w ∧ (t.tagAt a.loc).full = b ∧ (t.tagAt a.loc).poison = false
    (∀ x, a.kind = .amo 0#4 x → leaves (old.setWidth 512) x full) ∧
    (∀ x, a.kind = .amo 1#4 x → leaves (old.setWidth 512) (old + x) full) ∧
    (∀ x, a.kind = .amo 2#4 x → leaves (old.setWidth 512) (old &&& x) full) ∧
    (∀ x, a.kind = .amo 3#4 x → leaves (old.setWidth 512) (old ||| x) full) ∧
    (∀ x, a.kind = .amo 4#4 x → leaves (old.setWidth 512) (old ^^^ x) full) ∧
    (∀ x, a.kind = .amo 5#4 x → leaves (old.setWidth 512) (if x.toInt < old.toInt then x else old) full) ∧
    (∀ x, a.kind = .amo 6#4 x → leaves (old.setWidth 512) (if old.toInt < x.toInt then x else old) full) ∧
    (∀ x, a.kind = .amo 7#4 x → leaves (old.setWidth 512) (if x.toNat < old.toNat then x else old) full) ∧
    (∀ x, a.kind = .amo 8#4 x → leaves (old.setWidth 512) (if old.toNat < x.toNat then x else old) full) ∧
    (∀ e n, a.kind = .cas e n → leaves (old.setWidth 512) (if old = e then n else old) full) ∧
    (∀ x, a.kind = .sync .readLeave x → full = true → leaves (old.setWidth 512) old true) ∧
    (∀ x, a.kind = .sync .readTake x → full = true → leaves (old.setWidth 512) old false) ∧
    (∀ x, a.kind = .sync .writeFill x → full = false → leaves 0 x true) ∧
    (∀ x, a.kind = .sync .setFull x → leaves 0 x true) ∧
    (∀ x, a.kind = .sync .setEmpty x → leaves 0 x false) ∧
    (∀ x, (a.kind = .sync .readLeave x ∨ a.kind = .sync .readTake x) → full = false → s.perform c a = .waits) ∧
    (∀ x, a.kind = .sync .writeFill x → full = true → s.perform c a = .waits)

/-- R219, R224, R229, R232, R248 to R253: LDO, STO, LDS, STS, AMO and CAS with every answer that they need had: the value to
rd, the base register rewritten by the access's hops, and the instruction complete. STO, and STO.rel once the earlier stores
are drained, is posted where its place takes posted stores, and completes at once. -/
def Obligations.OrderedAndSyncResults : Prop :=
  ∀ (s : State) (d a b e : BitVec 5) (w c : BitVec 3) (o m : BitVec 2) (f : BitVec 4) (l l' : Loc) (v : Vec) (hops : List Hop)
    (u : Vec) (k : BitVec 2) (moves moved : Bool),
    let va := s.me.getX a
    let n := 2 ^ (w.toNat % 4)
    let direct : List Ans := [.place va l .plain false, .val v hops]
    let drained : List Ans := [.place va l' .plain false, .val u [], .place va l .plain false, .val v hops]
    let drains := decide (2 ^ 55 ≤ va.toNat ∧ va.toNat < 2 ^ 56) || c != 0#3
    let drainsCas := decide (2 ^ 55 ≤ va.toNat ∧ va.toNat < 2 ^ 56) || k != 0#2
    let result (i : Instr) (answers : List Ans) (put : Strand → Strand) : Prop :=
      refusal i s = none → s.me.log = answers → exec i s = done (rebased s a hops) put
    let value (t : Strand) : Strand :=
      t.setX d (if w.toNat < 3 then (v.setWidth (8 * n)).signExtend 64 else (v.setWidth (8 * n)).setWidth 64)
    let word (t : Strand) : Strand := t.setX d (v.setWidth 64)
    let kind := storeKind l (bytesOfNat n (s.me.getX b).toNat)
    let release := o = 1#2 ∧ c ≠ 0#3
    let answered := l.home = .unit s.here ∨ storePosts l false = false
    let posts (first : List Ans) : Prop := refusal (.sto b a w o c) s = none → s.me.log = first ++ [.place va l .plain moves] →
      l.home ≠ .unit s.here → storePosts l moves = true → (s.core s.here).posted.length < 16 → s.chanTrap va l kind = none →
      ∃ t, exec (.sto b a w o c) s = .next t ∧ t.me = s.retire.me ∧ t.mem = s.mem ∧ t.tags = s.tags ∧
        (t.core s.here).posted = (s.core s.here).posted ++ [accessOf s false va l n kind]
    (o ≠ 3#2 → result (.ldo d a w o c) direct value) ∧ result (.ldo d a w 3#2 c) drained value ∧
    (o ≠ 3#2 → ¬ release → answered → result (.sto b a w o c) direct id) ∧
    (release → answered → result (.sto b a w o c) drained id) ∧
    (o ≠ 3#2 → ¬ release → posts []) ∧ (release → posts [.place va l' .plain moved, .val u []]) ∧
    result (.sto b a w 3#2 c) drained id ∧
    result (.lds d a m c) direct word ∧ result (.sts b a m c) drained id ∧
    (o ≠ 3#2 → (o ≠ 2#2 ∨ drains = false) → result (.amo d a b c o f) direct word) ∧
    (o = 3#2 ∨ (o = 2#2 ∧ drains = true) → result (.amo d a b c o f) drained word) ∧
    (o ≠ 3#2 → (o ≠ 2#2 ∨ drainsCas = false) → result (.cas d a b e k o) direct word) ∧
    (o = 3#2 ∨ (o = 2#2 ∧ drainsCas = true) → result (.cas d a b e k o) drained word)

/-- R34, R247: VLDX and VSTX with the places of all their active lanes and the answers to all their accesses had, lowest
lane first: each active lane of VLDX gets its value; VSTX is complete, behind the checks of its lanes at a peer module (log
7), and neither changes memory by itself. -/
def Obligations.IndexedResults : Prop :=
  ∀ (s : State) (d a b : BitVec 5) (p t h : BitVec 3) (places : List (Word × Loc)) (vals : List Vec),
    let act := (List.range (512 / laneWidth t)).filter fun k => (s.me.getP p).getLsbD k
    let found : List Ans := places.map fun q => Ans.place q.1 q.2 .plain false
    let none_ : Ans := .val 0 []
    let checks := places.filter fun q => match q.2.home with
      | .peer _ _ => true
      | _ => false
    let stored (q : Word × Loc) : List Ans :=
      if q.2.home = .unit s.here ∨ storePosts q.2 false = false then [none_] else [none_, none_]
    places.length = act.length →
    (vals.length = act.length → s.me.log = found ++ vals.map (fun v => Ans.val v []) → refusal (.vldx d a b p t h) s = none → ∃ r, exec (.vldx d a b p t h) s = done s (fun q => q.setV d r) ∧
      (∀ k (lane : Nat), act[k]? = some lane → laneAt (laneWidth t) r lane =
        BitVec.ofNat 64 ((vals.getD k 0).toNat % 2 ^ laneWidth t)) ∧
      ∀ lane < 512 / laneWidth t, lane ∉ act → laneAt (laneWidth t) r lane = laneAt (laneWidth t) (s.me.getV d) lane) ∧
    (s.me.log = found ++ checks.map (fun _ => none_) ++ places.flatMap stored → refusal (.vstx d a b p t h) s = none →
      ∃ q, exec (.vstx d a b p t h) s = .next q ∧ q.me = s.retire.me ∧ q.mem = s.mem)

/-- R224, R227, R250, R254: FENCE with no store of the strand pending, or of scope 0, completes and drops the stream buffer;
otherwise it parks; XFENCE places its mark behind what its core has placed, posted stores too where a is CORE: for a path b
other than CORE it completes, and for CORE once nothing before the mark is pending on a, else it parks; TPF never faults: it
completes whatever the address. -/
def Obligations.FenceResults : Prop :=
  ∀ (s : State) (a : BitVec 5) (c b : BitVec 3) (i : BitVec 11),
    let u := if c = 0#3 then s.movePosted s.here fun _ => true else s
    let mark : FenceMark := { num := (u.core s.here).seq, a := pathOfCode c, b := .core, seq := (u.core s.here).seq }
    s.me.log = [] →
    (c.toNat ≤ 4 → (c = 0#3 ∨ s.storesPending s.cur = false) →
      exec (.fence c) s = done s (fun t => { t with stream := none })) ∧
    (c.toNat ≤ 4 → c ≠ 0#3 → s.storesPending s.cur = true →
      ∃ t, exec (.fence c) s = .next t ∧ t.me.status = .parked .drain ∧ t.me.pc = s.me.pc) ∧
    (c.toNat ≤ 5 → b.toNat ≤ 5 → b ≠ 0#3 →
      ∃ t, exec (.xfence c b) s = .next t ∧ t.me = s.retire.me ∧ t.mem = s.mem ∧
        ((t.core s.here).fences.getLast?).map (fun m => (m.a, m.b)) = some (pathOfCode c, pathOfCode b)) ∧
    (c.toNat ≤ 5 →
      ∃ t, exec (.xfence c 0#3) s = .next t ∧ t.mem = s.mem ∧ (t.core s.here).fences.getLast? = some mark ∧
        if u.fencePending s.here mark then t.me.status = .parked (.fence mark.num) ∧ t.me.pc = s.me.pc
        else t.me = s.retire.me) ∧
    ∃ t, exec (.tpf a i) s = .next t ∧ t.me = s.retire.me ∧ t.mem = s.mem ∧ t.tags = s.tags ∧ t.cores = s.cores

/-- R60: a misaligned access takes #ALIGN with its first address: every form of one access. R240, R301, R318: the privileged
window refuses U mode with #ACCERR, whatever the form, unless an earlier check of R59 stops the access; in a superstep's
compute phase GLOBAL, peers, DIE and CHAN refuse with #ACCERR and reason 6; an address at 2^57 or above is refused. -/
def Obligations.AccessChecks : Prop :=
  (∀ (s : State) (c : Nat) (mode : Mode) (f : Form) (va : Word) (n : Nat),
      va.toNat % n ≠ 0 → s.resolve c mode f va n = .trap { code := 3, badva := va, tval2 := 0 }) ∧
  (∀ (s : State) (c : Nat) (mode : Mode) (f : Form) (va : Word) (n : Nat),
      va.toNat % n = 0 →
      ((windowOf va.toNat).1 = .priv → va.toNat < 2 ^ 57 →
        s.resolve c .u f va n = .trap { code := 9, badva := va, tval2 := 0 }) ∧
      (s.inCompute c = true → va.toNat < 2 ^ 57 →
        ((windowOf va.toNat).1 ∈ [Window.global, .die, .chan] ∨ (2 ^ 55 ≤ va.toNat ∧ va.toNat < 2 ^ 56)) →
        s.resolve c mode f va n = .trap { code := 9, badva := va, tval2 := 6 }) ∧
      (2 ^ 57 ≤ va.toNat → s.resolve c mode f va n = .trap { code := 9, badva := va, tval2 := 0 }))

/-! Waits and the system instructions. -/

/-- R277, R285 to R288, R292: MWATCH and BARRIVE with the answer of the home had; MWAIT on a watch that has fired, or after
its time has passed; MBXWAIT with messages, or under a time of 0; MBXPOP outside a recorded phase, with a message and
without; YIELD and, of a strand that runs no unit, YIELD.END give up the core (the latter is the model's choice, log 23),
and YIELD.END ends a unit; memory stays, unless a message of its launch is spilled for a core that is away (R337). R274,
R275, R279, R281, R285, R288, R343, R344: once the cycle in which a limit is reached is over, it traps its strand with
#WAITTO, in a timed form where t is above it; a time t no greater than the limit that passes ends a timed wait with 1 for
MWAIT and 0 for MBXWAIT; a turn may end once fewer than 64 cycles of its budget are left, the most that an instruction takes
(R275); TMR that is due and enabled ends a WFI. That the end of the same cycle comes first, and that a turn may end while
some of its budget is left, is how log 45 reads R281 and R275. -/
def Obligations.WaitResults : Prop :=
  (∀ (s : State) (d x a e : BitVec 5) (c : BitVec 3) (va : Word) (l : Loc) (view : View) (m : Bool) (v u : Vec)
      (hops gone : List Hop) (msg : Msg) (ms : List Msg),
      let n := (s.messages s.cur).length
      let atOnce := x ≠ 0#5 ∧ s.me.getX x = 0#64
      (s.me.log = [.place va l view m, .val v hops] →
        exec (.mwatch d a) s = done s (fun t => t.setX d (v.setWidth 64)) ∧
        exec (.barrive d a 0#3) s = done s (fun t => t.setX d (v.setWidth 64))) ∧
      (c.toNat ≤ 4 → c ≠ 0#3 → s.me.log = [.place va l view m, .val u gone, .val v hops] →
        exec (.barrive d a c) s = done s (fun t => t.setX d (v.setWidth 64))) ∧
      (s.me.log = [] → s.me.watch = .fired va →
        exec (.mwait d x) s = done s (fun t => { t with watch := .off }.setX d 0#64)) ∧
      (s.me.log = [] → s.me.watch = .armed va l → atOnce → exec (.mwait d x) s = done s (fun t => t.setX d 1#64)) ∧
      (s.me.log = [] → s.me.watch = .off → exec (.mwait d x) s = traps s { code := 0x0F, badva := 0, tval2 := 2 + 2 * 2 ^ 8 }) ∧
      (s.me.log = [.val v hops] → exec (.mwait d x) s = done s (fun t => t.setX d (v.setWidth 64)) ∧
        exec (.mbxwait d x) s = done s (fun t => t.setX d (v.setWidth 64))) ∧
      (s.me.log = [] → 1 ≤ n ∨ atOnce → n < 2 ^ 64 →
        exec (.mbxwait d x) s = done s (fun t => t.setX d (BitVec.ofNat 64 n))) ∧
      ((s.core s.here).toReturn = [] → s.inCompute s.here = false → d ≠ e → s.messages s.cur = [] →
        exec (.mbxpop d e) s = done s (fun t => (t.setX d 0#64).setX e 0#64)) ∧
      ((s.core s.here).toReturn = [] → s.inCompute s.here = false → d ≠ e → s.messages s.cur = msg :: ms →
        exec (.mbxpop d e) s =
          done (s.modCore s.here fun q => { q with mailbox := dropFirst s.cur q.mailbox })
            (fun t => let t := (t.setX d msg.word0).setX e msg.word1
              { t with fflags := t.fflags ||| (msg.word0.extractLsb' 48 5).setWidth 64 })) ∧
      exec .yield s = .next (s.retire.giveUp s.here) ∧
      (s.me.unit = none → exec .yieldEnd s = .next (s.retire.giveUp s.here)) ∧
      (s.me.unit ≠ none → ∃ t, exec .yieldEnd s = .next t ∧ t.me.unit = none ∧ t.me.status = .idle ∧ t.me.watch = .off ∧
        ((∀ k, (s.core k).diverts = false) → t.mem = s.mem))) ∧
  (∀ (s : State) (w : Wait) (t : Nat),
      let waits := s.me.status = .parked (.wait w)
      let limited := w.timed.all (fun u => decide (w.limit < u)) = true
      let timed := w.timed = some t ∧ t ≤ w.limit
      (waits → limited → w.start + w.limit < s.cycle →
        ∃ u, exec .waitLimitExpiry s = .next u ∧ u.me.status = .ready ∧ u.me.pc = s.me.pc ∧
          u.me.log = s.me.log ++ [.trap (trapWAITTO w.kind w.badva)] ∧ u.mem = s.mem) ∧
      (waits → timed ∨ s.cycle ≤ w.start + w.limit → exec .waitLimitExpiry s = .next s) ∧
      (waits → timed → w.start + t < s.cycle →
        ∃ u, exec .timedWaitExpiry s = .next u ∧ u.me.status = .ready ∧ u.me.pc = s.me.pc ∧
          u.me.log = s.me.log ++ [wordAns (if w.kind = 2 then 1 else 0)] ∧ u.mem = s.mem) ∧
      (waits → limited → exec .timedWaitExpiry s = .next s) ∧
      ((s.core s.here).active = true → s.me.status = .ready → (s.core s.here).run = s.cur % 8 →
        (s.core s.here).turnStart + (s.core s.here).qmax.toNat % 2 ^ 24 < s.cycle + 64 →
        exec .quantumEnd s = .next (s.giveUp s.here)) ∧
      (s.me.status = .parked .wfi → s.here < 4096 → s.me.ien &&& s.ipend s.cur ≠ 0 →
        ∃ u, exec .timecmpMatch s = .next u ∧ u.me.status = .ready ∧ u.me.pc = s.me.pc ∧ u.mem = s.mem) ∧
      (s.me.status = .parked .wfi → s.here < 4096 → s.me.ien &&& s.ipend s.cur = 0 → exec .timecmpMatch s = .next s))

/-- R344, R346: WFI completes where a bit stands in IEN and IPEND, else it parks; CTUINV, once its earlier stores are
performed, drops every entry of the clusters in reach that it names, and completes when no access that used one is left. -/
def Obligations.SystemResults : Prop :=
  ∀ (s : State) (a b : BitVec 5) (r : BitVec 3) (k : BitVec 2) (u w : Ans),
    (refusal .wfi s = none → s.me.log = [] → s.here < 4096 → s.me.ien &&& s.ipend s.cur ≠ 0 →
      exec .wfi s = done s id) ∧
    (refusal .wfi s = none → s.me.log = [] → s.here < 4096 → s.me.ien &&& s.ipend s.cur = 0 →
      ∃ t, exec .wfi s = .next t ∧ t.me.status = .parked .wfi ∧ t.me.pc = s.me.pc) ∧
    (refusal (.ctuinv a b r k) s = none → s.me.log = [u, w] → (∀ t, u ≠ .trap t ∧ w ≠ .trap t) →
      exec (.ctuinv a b r k) s = done s fun t => { t with stream := none }) ∧
    (refusal (.ctuinv a b r k) s = none → s.me.log = [] → s.storesPending s.cur = false →
      ∃ t, exec (.ctuinv a b r k) s = .next t ∧ t.me.x = s.me.x ∧ t.mem = s.mem ∧
        (t.me.pc = s.retire.me.pc ∨ ∃ p q r, t.me.status = .parked (.ctuinv p q r)) ∧
        ∀ n e, (r = 0#3 → n = clusterOf s.here) → (r = 1#3 → n / 64 = dieOf s.here) → e ∈ (t.cluster n).ctu →
          ¬ (k = 0#2 ∨ (e.asid = (s.me.getX b).toNat % 65536 ∧
            (k = 1#2 ∨ e.page = (s.me.getX a).toNat / 2 ^ sizeExp e.size))))

/-! Engines, routines, launches and collectives at issue. -/

/-- R257 to R266, R395: CPSET's registers; what CPGO reports, and the transfer that it starts with a snapshot of the shadow
set and the rounding mode in effect; GXPOST's record read, and the request that it starts or the CPSTAT of its rejection,
FULL, BADCFG or BADGEOM. -/
def Obligations.CopyAndGatherStarts : Prop :=
  ∀ (s : State) (d a b : BitVec 5) (g : BitVec 4),
    let q := s.core s.here
    let full := 256 ≤ q.ops.length
    let rejects (stat : Nat) : Result := done s fun t => (t.setX d 0#64).putCpstat (BitVec.ofNat 64 stat)
    let starts (i : Instr) (kind : OpKind) : Prop :=
      ∃ t, exec i s = .next t ∧ t.me.cpstat = 0#64 ∧ (d ≠ 0#5 → t.me.getX d = BitVec.ofNat 64 q.newId) ∧
        (t.core s.here).idCounter = q.newId ∧ t.mem = s.mem ∧ t.tags = s.tags ∧ t.me.pc = s.retire.me.pc ∧
        ((t.core s.here).ops.getLast?).map (fun o => (o.id, o.strand, o.mode, o.kind, o.done, o.parked)) =
          some (q.newId, s.cur, s.me.mode, kind, none, false)
    let rm := (s.me.shadow[12]).extractLsb' 6 3
    let va := s.me.getX a
    let bs := s.bytesAt { home := .unit s.here, off := va.toNat - 0x0100000000000000 } 64
    let readable := s.here < 4096 ∧ va.toNat % 64 = 0 ∧ 0x0100000000000000 ≤ va.toNat ∧
      va.toNat + 64 ≤ 0x0100000000020000 ∧ guardsPass q s.me.mode va.toNat 64 .read = true ∧
      s.firstPoison { home := .unit s.here, off := va.toNat - 0x0100000000000000 } 64 = none
    let takes := readable ∧ ¬ full ∧ s.gathersHeld (clusterOf s.here) < 32
    let r := gatherOf bs
    let fields := 1 ≤ r.nrow ∧ r.nrow ≤ 65536 ∧ 1 ≤ r.rowb ∧ r.rowb ≤ 16384 ∧ r.rowb ≤ r.dstride ∧ r.dstride ≤ 2 ^ 24 ∧
      fieldOf bs 0x2C 2 / 32 % 1024 = 0 ∧ fieldOf bs 0x2E 1 / 4 = 0 ∧ zeroField bs 0x2F 17 = true
    let within (base len lo n : Nat) := base ≤ lo ∧ lo + n ≤ base + len
    let index := r.idx.toNat % 4 = 0 ∧ (inUnitData r.idx.toNat (4 * r.nrow) = true ∨
      within clusterBase 0x400000 r.idx.toNat (4 * r.nrow))
    let marks := r.mark = true → r.dst.toNat % 8 = 0 ∧ 8 ≤ r.rowb
    let rows := ∀ k < r.nrow, within clusterBase 0x400000 (r.dst.toNat + k * r.dstride) r.rowb
    (g.toNat ≤ 12 → b = 0#5 →
      exec (.cpset a b g) s = done s fun t => { t with shadow := t.shadow.setIfInBounds g.toNat (t.getX a) }) ∧
    (g.toNat ≤ 4 ∨ (6 ≤ g.toNat ∧ g.toNat ≤ 10) → b ≠ 0#5 →
      exec (.cpset a b g) s = done s fun t =>
        { t with shadow := (t.shadow.setIfInBounds g.toNat (t.getX a)).setIfInBounds (g.toNat + 1) (t.getX b) }) ∧
    (full → exec (.cpgo d) s = rejects 1) ∧
    (¬ full → ctlBad s.me.shadow s.me.frm = true → exec (.cpgo d) s = rejects 3) ∧
    (¬ full → ctlBad s.me.shadow s.me.frm = false → geomBad s.me.shadow = true → exec (.cpgo d) s = rejects 2) ∧
    (¬ full → ctlBad s.me.shadow s.me.frm = false → geomBad s.me.shadow = false →
      starts (.cpgo d) (.copy s.me.shadow (if rm = 7#3 then s.me.frm.extractLsb' 0 3 else rm) 0 0)) ∧
    (readable → full ∨ 32 ≤ s.gathersHeld (clusterOf s.here) → exec (.gxpost d a) s = rejects 1) ∧
    (takes → ¬ fields ∨ ¬ index ∨ ¬ marks → exec (.gxpost d a) s = rejects 3) ∧
    (takes → fields → index → marks → ¬ rows → exec (.gxpost d a) s = rejects 2) ∧
    (takes → fields → index → marks → rows →
      starts (.gxpost d a) (.gather (gatherOf bs) 0 none none)) ∧
    (va.toNat % 64 ≠ 0 → exec (.gxpost d a) s = traps s { code := 3, badva := va, tval2 := 0 })

/-- R238, R268, R270 to R272: TMOV of no byte, and of one piece with its answers had: the bytes read are put on the CORE
path as one write to the destination, and with that performed it completes; RELOC and RELOC_RET of tiles whose places are
had: the move that they enter in the engine of the old home's die, its ID and CPSTAT; MSWEEP of one word that leads to no
slip mark, and of one that leads to one. -/
def Obligations.MoveStarts : Prop :=
  ∀ (s : State) (d a b : BitVec 5) (k : BitVec 3) (lo ln l2 : Loc) (view v2 : View) (m m2 : Bool) (x y u w q : Vec)
    (h1 h2 : List Hop) (va vb : Word),
    let src := s.me.getX a
    let dst := s.me.getX d
    let n := s.me.getX b
    let far := ∀ p i, l2.home ≠ .peer p i
    let size := 4096 * 2 ^ k.toNat
    let number := (s.core s.here).newId
    let die := lo.home.dieOf
    let aligned (v : Word) := v.toNat % size = 0 ∧ v.toNat < 2 ^ 55
    let plain := (s.core s.here).toReturn = [] ∧ s.inCompute s.here = false
    let room := (s.core s.here).ops.length < 256 ∧ (s.die die).barchan.length < 16
    let enters (i : Instr) (new : Loc) (newVa : Word) (retire : Bool) : Prop :=
      (room → ∃ t, exec i s = .next t ∧ t.me.cpstat = 0#64 ∧ (d ≠ 0#5 → t.me.getX d = BitVec.ofNat 64 number) ∧ t.mem = s.mem ∧
        t.tags = s.tags ∧ (t.die die).barchan = (s.die die).barchan ++
          [{ core := s.here, id := number, old := lo, new := new, oldVa := src, newVa := newVa, size := size, phase := none,
             retire := retire, asid := (s.core s.here).asid.toNat % 65536 }]) ∧
      (¬ room → exec i s = done s fun t => (t.setX d 0#64).putCpstat 1#64)
    (s.me.log = [.val u [], .val w [], .val q []] → n = 0#64 → exec (.tmov d a b) s = done s id) ∧
    (1 ≤ n.toNat → pieces src.toNat n.toNat = [(src.toNat, n.toNat)] → pieces dst.toNat n.toNat = [(dst.toNat, n.toNat)] →
      far → m2 = false → l2.home ≠ .unit s.here → n.toNat ≤ 512 →
      s.me.log = [.val u [], .place va lo view m, .place vb l2 v2 m2, .val x h1, .val w []] →
      ∃ t, exec (.tmov d a b) s = .next t ∧ t.mem = s.mem ∧ ((t.core s.here).path.getLast?).map PathEntry.acc =
        some (accessOf s false dst l2 n.toNat (.store (bytesOfNat n.toNat x.toNat) none false))) ∧
    (1 ≤ n.toNat → pieces src.toNat n.toNat = [(src.toNat, n.toNat)] → pieces dst.toNat n.toNat = [(dst.toNat, n.toNat)] →
      far → m2 = false → l2.home ≠ .unit s.here →
      s.me.log = [.val u [], .place va lo view m, .place vb l2 v2 m2, .val x h1, .val w [], .val y h2, .val q []] →
      exec (.tmov d a b) s = done (rebased s a h1) id) ∧
    (plain → refusal (.reloc d a b k) s = none → aligned src → aligned n →
      s.me.log = [.place va lo view true, .place vb ln v2 true] →
      ¬ (lo.home = ln.home ∧ lo.off < ln.off + size ∧ ln.off < lo.off + size) → enters (.reloc d a b k) ln n false) ∧
    (plain → refusal (.relocRet d a k) s = none → aligned src → s.me.log = [.place va lo view true] →
      enters (.relocRet d a k) lo src true) ∧
    (n = 0#64 → s.me.log = [.val u []] → exec (.msweep d a b) s = done s fun t => t.setX d 0#64) ∧
    (n = 1#64 → s.me.log = [.val u [], .place va lo view m, .place vb l2 v2 m2, .val x h1, .val q []] →
      exec (.msweep d a b) s = done (rebased s a h1) fun t => t.setX d 0#64) ∧
    (n = 1#64 → y.getLsbD 64 = true → y.setWidth 64 ≠ 0#64 →
      s.me.log = [.val u [], .place va lo view m, .place vb l2 v2 m2, .val x h1, .place (x.setWidth 64) ln .plain true,
        .val y [], .val q [], .val x h2] →
      exec (.msweep d a b) s = done (rebased s a (h1 ++ h2)) fun t => t.setX d 1#64)

/-- R190, R194 to R197, R203, R204, R210: MCFG's value and its write; a matrix command whose checks pass waits while the
core's queue holds four, and else is entered at its end with the next MSEQ, the fields of its word and the values of its
registers and modes at that time. A macc.zero of an accumulator that MACCMASK does not name takes #ACCERR, with a BADVA of 0
that is the model's reading (log 8). -/
def Obligations.MatrixIssue : Prop :=
  ∀ (s : State) (n e : BitVec 1) (k j : BitVec 4) (d a b : BitVec 5) (t r f c3 : BitVec 3) (c : BitVec 2),
    let x := s.me.getX a
    let y := s.me.getX b
    let code := if r = 7#3 then s.me.frm.extractLsb' 0 3 else r
    let seq := if (s.me.mcfg.mseq.toNat + 1) % 65536 = 0 then 1 else (s.me.mcfg.mseq.toNat + 1) % 65536
    let enters (i : Instr) (rm : BitVec 3) (kind : MatrixKind) : Prop :=
      refusal i s = none → s.me.log = [] →
      ((s.core s.here).cmds.length < 4 →
        ∃ z, exec i s = .next z ∧ z.me.mcfg.mseq = BitVec.ofNat 64 seq ∧ z.mem = s.mem ∧ z.tags = s.tags ∧ z.me.x = s.me.x ∧
          z.me.pc = s.retire.me.pc ∧ (z.core s.here).cmds.length = (s.core s.here).cmds.length + 1 ∧
          ((z.core s.here).cmds.getLast?).map (fun q => (q.id, q.strand, q.k, q.notify, q.rm, q.kind, q.started, q.done)) =
            some (seq, s.cur, k.toNat, n == 1#1, rm, kind, false, none)) ∧
      (4 ≤ (s.core s.here).cmds.length → ∃ z, exec i s = .next z ∧ z.me.status = .parked .matrixFull ∧ z.me.pc = s.me.pc)
    let word := s.me.mcfg.get c3.toNat
    (c3.toNat ≤ 5 → a = 0#5 → exec (.mcfg d a c3) s = done s fun q => q.setX d word) ∧
    (a ≠ 0#5 → c3 = 0#3 → 1 ≤ x.toInt → x.toInt ≤ 256 →
      exec (.mcfg d a c3) s = done s fun q => { q with mcfg := { q.mcfg with kblocks := x } }.setX d word) ∧
    (a ≠ 0#5 → c3 = 5#3 → exec (.mcfg d a c3) s = traps s (trapILL (wordOf (.mcfg d a c3)))) ∧
    (s.mmaTrap (.mma n k a b t r c) k.toNat x y t c = none →
      enters (.mma n k a b t r c) code (.mma t (c.setWidth 3) x y)) ∧
    (s.accTrap k.toNat (t == 3#3) = none → x.toNat % matrixWidth t = 0 → s.me.mcfg.sb.toNat % matrixWidth t = 0 →
      s.rowsTrap { n := 32 * matrixWidth t, cluster := true, q4 := t == 0#3, write := false } x s.me.mcfg.sb 32 = none →
      (c = 1#2 → s.rowTrap { n := 32, cluster := false, q4 := false, write := false } y = none) →
      enters (.mconst n k a b t r c e) code (.mconst t c (e == 1#1) x y)) ∧
    ((s.core s.here).maccmask.getLsbD k.toNat = true → enters (.maccZero n k) 0#3 .zero) ∧
    ((s.core s.here).maccmask.getLsbD k.toNat = false → refusal (.maccZero n k) s = none →
      exec (.maccZero n k) s = traps s { code := 9, badva := 0, tval2 := 0 }) ∧
    (s.maccTrap k.toNat f x false = none → enters (.maccLoad n k a f) 0#3 (.load f x)) ∧
    (s.maccTrap k.toNat f x true = none → enters (.maccStore n k a r f) code (.store f x)) ∧
    (s.accTrap k.toNat (f == 7#3) = none → s.accTrap j.toNat (f == 7#3) = none →
      enters (.maccAdd n k j r f) code (.add f j.toNat))

/-- R207 to R212: RTDEF copies a well-formed record into its handle; the higher-order instructions on a routine and a record
in range start an operation on the copy engine, or enter a command, and return its ID; an empty handle takes #CTYPE with 0.
-/
def Obligations.RoutineStarts : Prop :=
  ∀ (s : State) (d a : BitVec 5) (h : BitVec 4) (rt : Routine),
    let q := s.core s.here
    let va := s.me.getX a
    let place : Loc := { home := .unit s.here, off := va.toNat - 0x0100000000000000 }
    let readable (n : Nat) := s.here < 4096 ∧ 0x0100000000000000 ≤ va.toNat ∧ va.toNat + n ≤ 0x0100000000020000 ∧
      guardsPass q s.me.mode va.toNat n .read = true ∧ s.firstPoison place n = none
    let hd := s.bytesAt place 16
    let len := 16 + 4 * fieldOf hd 0 1
    let ws := wordsOfBytes ((s.bytesAt place len).drop 16)
    let bs := s.bytesAt place 64
    let r := hotRecOf bs
    let held := s.me.handles.toList.getD h.toNat none
    (va.toNat % 16 = 0 → readable 16 → readable len → headerReason hd = none →
      wordsReason (BitVec.ofNat 3 (fieldOf hd 3 1)) 0 ws = none →
      exec (.rtdef h a) s = done s fun t => { t with handles := t.handles.setIfInBounds h.toNat (some (routineOf hd ws)) }) ∧
    ∀ i ∈ [(0x80, Instr.hfold d a h), (0x81, Instr.hscan d a h), (0x82, Instr.hzip d a h), (0x83, Instr.houter d a h)],
      (held = none → ∀ e : BitVec 2, e.toNat ≤ 1 → exec (i.2 e) s = traps s (trapCTYPE 0)) ∧
      (held = some rt → va.toNat % 64 = 0 → readable 64 → s.me.frm = 0#64 → hotReject i.1 bs rt = none →
        (s.streamsTrap false (laneWidth rt.type / 8) (r.inputs i.1 rt) (r.outputs i.1 rt) = none → q.ops.length < 256 →
          ∃ t, exec (i.2 0#2) s = .next t ∧ (d ≠ 0#5 → t.me.getX d = BitVec.ofNat 64 q.newId) ∧ t.mem = s.mem ∧
            ((t.core s.here).ops.getLast?).map (fun o => (o.id, o.kind)) = some (q.newId, .hot i.1 h.toNat rt r .start)) ∧
        (s.streamsTrap false (laneWidth rt.type / 8) (r.inputs i.1 rt) (r.outputs i.1 rt) = none → 256 ≤ q.ops.length →
          exec (i.2 0#2) s = done s fun t => t.setX d 0#64) ∧
        (s.streamsTrap true (laneWidth rt.type / 8) (r.inputs i.1 rt) (r.outputs i.1 rt) = none → q.cmds.length < 4 →
          ∃ t, exec (i.2 1#2) s = .next t ∧ (d ≠ 0#5 → t.me.getX d = t.me.mcfg.mseq) ∧ t.mem = s.mem ∧
            ((t.core s.here).cmds.getLast?).map MatrixCmd.kind = some (.hot i.1 h.toNat rt r .start)))

/-- R295, R299, R300, R302, R306, R308, R362, R364: outside a replay COLPUT opens a round or, with one open, returns 0;
COLGET collects a result; LAUNCH of a record in range adds its launch to the job and returns its ticket; QUERY returns the
counter of its level; CANCEL returns the units discarded, or ends with its own unit where it covers that; in a replay
LAUNCH, its query, its job form and CANCEL return what they returned before (readings: logs 12 and 44); SSYNC parks once its
core has drained, and after the commit returns the schedule. -/
def Obligations.LaunchAndCollectiveResults : Prop :=
  ∀ (s : State) (d a v : BitVec 5) (g : BitVec 6) (c : BitVec 2) (jn : Nat) (j : Job) (lanes : List Word) (fl : BitVec 5) (k : Nat)
    (r : Round) (u w : Word),
    let q := s.core s.here
    let e := q.groupEntry g.toNat
    let plain := q.toReturn = [] ∧ s.inCompute s.here = false
    let va := s.me.getX a
    let place : Loc := { home := .unit s.here, off := va.toNat - 0x0100000000000000 }
    let readable (n : Nat) := s.here < 4096 ∧ va.toNat % 64 = 0 ∧ 0x0100000000000000 ≤ va.toNat ∧
      va.toNat + n ≤ 0x0100000000020000 ∧ guardsPass q s.me.mode va.toNat n .read = true ∧ s.firstPoison place n = none
    let bs := s.bytesAt place 64
    let returns (i : Instr) (x : Word) : Prop :=
      ∃ t, exec i s = .next t ∧ (d ≠ 0#5 → t.me.getX d = x) ∧ t.me.pc = s.retire.me.pc ∧ t.mem = s.mem
    (plain → (q.openRound g.toNat).isSome = true → colputIll e (s.me.handles.toList.getD (groupHandle e) none) s.me.frm = false →
      returns (.colput d v g) 0#64) ∧
    (plain → q.openRound g.toNat = none → groupValid e = true → groupOper e ≠ 6 → colputIll e none s.me.frm = false →
      (s.die (dieOf s.here)).mgmt.getLsbD 2 = true → q.rounds = [] →
      returns (.colput d v g) 1#64 ∧ ∃ t, exec (.colput d v g) s = .next t ∧ ((t.core s.here).openRound g.toNat).isSome = true) ∧
    (plain → s.me.log = [] → q.openRound g.toNat = some r → r.result = some (lanes, fl) →
      ∃ t, exec (.colget d g) s = .next t ∧ t.me.fflags = s.me.fflags ||| fl.setWidth 64 ∧
        t.me.getV d = vecOfLanes (laneWidth (groupFmt e)) (lanes.take (groupLen e)) ∧ (t.core s.here).openRound g.toNat = none) ∧
    (plain → readable 64 → q.job = some jn → s.jobOf s.here = some j → badField (launchFields j.cores.length bs) = none →
      fieldOf bs 0x2A 2 = 0 → j.launches.length < 4096 →
      let ticket := freeTicket (j.launches.map Launch.ticket) s.free
      returns (.launch d a) (BitVec.ofNat 64 ticket) ∧ ∃ t j', exec (.launch d a) s = .next t ∧ t.job? jn = some j' ∧
        j'.launches.map Launch.ticket = j.launches.map Launch.ticket ++ [ticket]) ∧
    (plain → s.jobOf s.here = some j → returns (.launchQuery d a c) (BitVec.ofNat 64 (j.counter c va.toNat))) ∧
    (s.here < 4096 → q.toReturn = [(s.cur, 0x87, [u])] →
      returns (.launch d a) u ∧ returns (.launchQuery d a c) u ∧ (s.me.mode ≠ .u → returns (.launchJob d a) u)) ∧
    (q.toReturn = [(s.cur, 0x88, [w])] → s.covered s.cur = false → returns (.cancel d a c) w) ∧
    (plain → s.me.log = [.val (BitVec.ofNat 512 k) []] → s.covered s.cur = false → returns (.cancel d a c) (BitVec.ofNat 64 k)) ∧
    (plain → s.me.log = [.val (BitVec.ofNat 512 k) []] → s.covered s.cur = true →
      exec (.cancel d a c) s = .next (s.endUnit s.cur .cancelled)) ∧
    (plain → s.me.log = [] → q.job = some jn → s.jobOf s.here = some j →
      let x := s.cancelLaunches jn j (j.covered c va.toNat)
      x.2.1 = [] → x.2.2.covered s.cur = false → returns (.cancel d a c) (BitVec.ofNat 64 x.1)) ∧
    (s.me.synced = some k → exec (.ssync d a) s = done s fun t => { t.setX d (BitVec.ofNat 64 k) with synced := none }) ∧
    (s.me.synced = none → s.me.arrived = some u → s.me.log = [.val 0 []] → (s.jobOf s.here).any Job.det = true →
      ∃ t w, exec (.ssync d a) s = .next t ∧ t.me.status = .parked (.wait w) ∧ t.me.pc = s.me.pc ∧ t.mem = s.mem)

/-- R342: LAUNCH's job form with the words of its core table and guard set had: it returns the ticket of the job that it
starts, or 0; the job stands on the cores of its table, with the root, ASID, key and form of its record, in the given order,
and one launch; where a core of the table serves another job none is started. -/
def Obligations.JobStarts : Prop :=
  ∀ (s : State) (d a : BitVec 5) (bs : List Byte) (table guards : List Word) (es : List CoreEntry) (l : Loc) (c : Nat),
    let va := s.me.getX a
    let place : Loc := { home := .unit s.here, off := va.toNat - 0x0100000000000000 }
    let loaded (ws : List Word) : List Ans := ws.flatMap fun w => [.place 0 l .plain false, .val (w.setWidth 512) []]
    let r := s.startJob bs es guards
    ((s.core s.here).toReturn = [] → s.inCompute s.here = false → refusal (.launchJob d a) s = none → s.here < 4096 →
      va.toNat % 64 = 0 → 0x0100000000000000 ≤ va.toNat → va.toNat + 128 ≤ 0x0100000000020000 →
      guardsPass (s.core s.here) s.me.mode va.toNat 128 .read = true → s.firstPoison place 128 = none →
      bs = s.bytesAt place 128 → badField (launchFields (fieldOf bs 0x58 4) bs ++ jobFields bs) = none →
      fieldOf bs 0x2A 2 = 0 → table.length = 4 * fieldOf bs 0x58 4 → guards.length = 8 →
      es = coreEntries (s.hub.module % 1024) table → es.all CoreEntry.good = true → s.me.log = loaded table ++ loaded guards →
      ∃ t, exec (.launchJob d a) s = .next t ∧ (d ≠ 0#5 → t.me.getX d = r.1) ∧ t.jobs = r.2.jobs ∧ t.mem = s.mem) ∧
    ((∃ e ∈ es, (s.core e.core).job.isSome = true) → r = (0#64, s)) ∧
    ((∀ e ∈ es, (s.core e.core).job = none) → c ∈ es.map CoreEntry.core →
      ∃ jn j, (r.2.core c).job = some jn ∧ r.2.job? jn = some j ∧ j.cores = es.map CoreEntry.core ∧
        (r.2.core c).ptroot = BitVec.ofNat 64 (fieldOf bs 0x40 8) ∧ (r.2.core c).asid = BitVec.ofNat 64 (fieldOf bs 0x48 2) ∧
        j.det = (fieldOf bs 0x4A 1 % 2 == 1) ∧ j.key = BitVec.ofNat 24 (fieldOf bs 0x4C 4) ∧ j.launches.length = 1 ∧
        r.2.mem = s.mem)

/-! Complexes and cochains. -/

/-- R138, R140, R170 to R175: with no progress held and the slots not BUSY: CXINFO's values, SETEXP, CBIND of a loaded slot;
CXLOAD and CXEDIT behind their last element: the slot is LOADED and held no longer, the status is 0; CXEDIT, with its record
and the descriptor in unit scratch, then writes the counts, seams and generation of the descriptor. -/
def Obligations.ComplexResults : Prop :=
  ∀ (s : State) (c : BitVec 4) (x g d sel : BitVec 5) (k : BitVec 4) (f e n : BitVec 2) (u : BitVec 1) (p : Prog),
    let clean (t : Strand) : Strand := t.endProgress
    let fresh := s.me.log = [] ∧ s.me.ciprog.getLsbD 63 = false
    let r := s.me.getC c
    let free (m : Nat) := (s.slotAt m).state ≠ .busy
    let base := s.me.getX x
    let ghosts := if g = 0#5 then 0#64 else s.me.getX g
    let sl := s.slotAt n.toNat
    let deg := if u = 1#1 then cxDim sl.desc - e.toNat else e.toNat
    let land := (s.core s.here).landing.toList.getD k.toNat Landing.reset
    let unit (o : Nat) : Loc := { home := .unit s.here, off := o }
    (fresh → cxinfoOk c 0#5 sel k = true → sel.toNat ≤ 7 → free c.toNat →
      exec (.cxinfo c 0#5 d sel k) s = done s fun t => clean (t.setX d (slotInfo (s.slotAt c.toNat) sel.toNat k.toNat))) ∧
    (fresh → exec (.cxinfo 0#4 0#5 d 8#5 k) s =
      done s fun t => clean (t.setX d ((if land.valid then 1#64 else 0#64) + if land.err then 2#64 else 0#64))) ∧
    (fresh → 16 ≤ sel.toNat → sel.toNat ≤ 19 → r.bound = true → free r.slot.toNat → (s.slotAt r.slot.toNat).gen = r.gen →
      exec (.cxinfo c 0#5 d sel 0#4) s = done s fun t => clean (t.setX d (r.bits.extractLsb' (64 * (sel.toNat % 4)) 64))) ∧
    (fresh → r.bound = true → r.fmt = 0#2 → free r.slot.toNat → (s.slotAt r.slot.toNat).gen = r.gen →
      exec (.cxinfoSetexp c x) s = done s fun t => clean (t.setC c { r with exp := base.setWidth 16 })) ∧
    (fresh → f ≠ 3#2 → sl.state = .loaded → e.toNat ≤ cxDim sl.desc → (g = 0#5 → cxNghost sl.desc deg = 0) →
      base.toNat % 8 = 0 → ghosts.toNat % 8 = 0 → base.toNat < 2 ^ 57 → ghosts.toNat < 2 ^ 57 →
      exec (.cbind c x g f u e n) s = done s fun t => clean (t.setC c
        { bound := true, fmt := f, dual := u == 1#1, deg := e, slot := n, gen := sl.gen, exp := 0
          gcount := BitVec.ofNat 21 (cxNghost sl.desc deg), count := BitVec.ofNat 21 (cxNown sl.desc deg)
          gbase := ghosts.setWidth 57, dbase := base.setWidth 57 })) ∧
    (s.me.log = [.progress p] → p.began = true → progPass p.start = 1 → progDeg p.start = cxDim sl.desc →
      progNext p.start = cxNseam sl.desc (cxDim sl.desc) →
      ∃ t, exec (.cxload n x d) s = .next t ∧ (d ≠ 0#5 → t.me.getX d = 0#64) ∧ t.me.ciprog = 0#64 ∧ t.mem = s.mem ∧
        (t.slotAt n.toNat).state = .loaded ∧ (t.slotAt n.toNat).gen = sl.gen ∧ (t.slotAt n.toNat).desc = sl.desc ∧
        (t.slotAt n.toNat).holder = none) ∧
    (s.me.log = [.progress p] → p.began = true → progPass p.start = 1 → progNext p.start = 0 → s.me.mode ≠ .u →
      (∀ q, s.movingAt q = none ∧ (s.tagAt q).slip = none) → s.here < 4096 → base.toNat % 64 = 0 → 0x0100000000000000 ≤ base.toNat → base.toNat + 128 ≤ 0x0100000000020000 →
      s.firstPoison (unit (base.toNat - 0x0100000000000000)) 128 = none →
      s.natAt (unit (base.toNat - 0x0100000000000000)) 4 = 0 → sl.addr.toNat % 64 = 0 →
      0x0100000000000000 ≤ sl.addr.toNat → sl.addr.toNat + 256 ≤ 0x0100000000020000 →
      ∃ t, exec (.cxedit n x d) s = .next t ∧ (d ≠ 0#5 → t.me.getX d = 0#64) ∧ t.me.ciprog = 0#64 ∧
        (t.slotAt n.toNat).state = .loaded ∧ (t.slotAt n.toNat).gen = sl.gen ∧
        (t.slotAt n.toNat).desc = editedDesc sl.desc (s.bytesAt (unit (base.toNat - 0x0100000000000000)) 128) ∧
        ∀ q : Loc, ¬ ((unit (sl.addr.toNat - 0x0100000000000000)).key ≤ q.key ∧
          q.key < (unit (sl.addr.toNat - 0x0100000000000000)).key + 256) → t.byteAt q = s.byteAt q)

/-- R166, R168, R169, R177 to R185: a cochain instruction behind its last element completes with CIPROG 0, and for DEXT,
DCOB and WEDGE on CI64 with the result's EXP; CSEAM LAND makes the landing register valid; CRED of CI64 elements whose
values are had writes their sum. R93, R166 to R168, R177, R178, R182: what an element of CQ, CDQ and CLIN becomes in pass 2:
the operands read, the result rounded once to the destination's format, and a store of it to its place. In the own unit
scratch that is performed at once, and with the last one the instruction completes; elsewhere 'An off-core access parks the
strand as a load does' (R167), which log 61 reads as of stores too, and the instruction completes with the answer. -/
def Obligations.CochainResults : Prop :=
  (∀ (s : State) (c a b l p q : BitVec 4) (d : BitVec 5) (r : BitVec 3) (m : BitVec 2) (sh : BitVec 7) (g : Prog)
      (vs : List Word) (va : Word) (pl : Loc),
      let clean (t : Strand) : Strand := t.endProgress
      let steady (k : BitVec 4) := (s.slotAt (s.me.getC k).slot.toNat).state ≠ .busy ∧
        (s.slotAt (s.me.getC k).slot.toNat).gen = (s.me.getC k).gen
      let rc := s.me.getC c
      let ra := s.me.getC a
      let rb := s.me.getC b
      let ends (i : Instr) (next : Nat) (f : Strand → Strand) : Prop :=
        refusal i s = none → s.me.log = [.progress g] → progPass g.start = 1 → progNext g.start = next → exec i s = done s f
      let setExp (e : BitVec 16) (t : Strand) : Strand := clean (if rc.isInt then t.setC c { rc with exp := e } else t)
      let ds := (s.slotAt rc.slot.toNat).desc
      (steady c → steady a →
        ends (.cq c a r) rc.count.toNat clean ∧ ends (.cdq c a r) rc.count.toNat clean ∧
        ends (.hstar c a r) rc.count.toNat clean ∧ ends (.interp c a r m) rc.count.toNat clean ∧
        ends (.dext c a r) rc.count.toNat (setExp ra.exp) ∧ ends (.dcob c a r) rc.count.toNat (setExp ra.exp)) ∧
      (steady c → steady a → steady b →
        ends (.clin c a b r p q) rc.count.toNat clean ∧
        ends (.wedge c a b r sh) rc.count.toNat (setExp (BitVec.ofInt 16 (ra.exp.toInt + rb.exp.toInt + sh.toNat)))) ∧
      (steady c →
        ends (.cseamRelease c) rc.gcount.toNat clean ∧
        ends (.cseamSend c l) (cxNseam ds (if rc.dual then cxDim ds - rc.deg.toNat else rc.deg.toNat)) clean ∧
        (s.me.log = [.progress g] → ∃ t, exec (.cseamLand c l) s = .next t ∧ t.me.ciprog = 0#64 ∧ t.mem = s.mem ∧
          (t.core s.here).landing.toList.getD l.toNat Landing.reset = { valid := true, err := false, reg := rc }) ∧
        (refusal (.cred c 0#5 d r 0#1) s = none → rc.isInt = true → vs.length = rc.count.toNat →
          s.me.log = .progress g ::
            vs.flatMap (fun v => [.place va pl .plain false, .val (v.setWidth 512) []]) →
          inCI64 (vs.map BitVec.toInt).sum = true →
          exec (.cred c 0#5 d r 0#1) s = done s fun t => clean (t.setX d (BitVec.ofInt 64 (vs.map BitVec.toInt).sum))))) ∧
  (∀ (s : State) (c a b p q : BitVec 4) (r : BitVec 3) (g : Prog) (x y : Word) (l l2 l3 : Loc) (va vb vd : Word) (m m2 : Bool),
      let rc := s.me.getC c
      let ra := s.me.getC a
      let rb := s.me.getC b
      let steady (k : BitVec 4) := (s.slotAt (s.me.getC k).slot.toNat).state ≠ .busy ∧
        (s.slotAt (s.me.getC k).slot.toNat).gen = (s.me.getC k).gen
      let rm := (effectiveRm r s.me.frm).getD .rne
      let own := l3.home = .unit s.here
      let stores (i : Instr) (had : List Ans) (e : Option (Word × FlagSet)) : Prop :=
        ∀ v, e = some v →
          let put := accessOf s true (rc.elemAddr (rc.count.toNat - 1)) l3 rc.size (.store (bytesOfNat rc.size v.1.toNat) none false)
          (s.me.log = had → ¬ own → ∃ t, exec i s = .next t ∧ t.me.status = .parked .answer ∧ t.me.pc = s.me.pc ∧ t.mem = s.mem ∧
            ((t.core s.here).path.getLast?).map PathEntry.acc = some put) ∧
          (∀ z h, s.me.log = had ++ [.val z h] → ¬ own → exec i s = done s Strand.endProgress) ∧
          (∀ t z, s.me.log = had → own → s.perform s.here put = .done t z → exec i s = done t Strand.endProgress)
      let last := progPass g.start = 1 ∧ progNext g.start + 1 = rc.count.toNat ∧ rc.count.toNat ≤ ra.count.toNat ∧
        rc.count.toNat ≤ rb.count.toNat
      let head : Ans := .progress g
      let val1 : List Ans := [.place va l .plain m, .val (x.setWidth 512) []]
      let val2 : List Ans := [.place vb l2 .plain m, .val (y.setWidth 512) []]
      let place : Ans := .place vd l3 .plain m2
      last → steady c → steady a → steady b →
      (refusal (.cq c a r) s = none → ra.isInt = false →
        stores (.cq c a r) (head :: val1 ++ [place]) (qround rm rc.exp.toInt (unpack ra.flt x))) ∧
      (refusal (.cdq c a r) s = none → ra.isInt = true → rc.isInt = false →
        stores (.cdq c a r) (head :: val1 ++ [place]) (some (deliver rm rc.flt (numOfInt x.toInt ra.exp.toInt)))) ∧
      (refusal (.clin c a b r p q) s = none → rc.isInt = true → ra.isInt = true →
        rb.isInt = true → ra.exp = 0#16 → rb.exp = 0#16 → rc.exp = 0#16 →
        stores (.clin c a b r p q) (head :: val1 ++ val2 ++ [place]) (ci64 (p.toInt * x.toInt + q.toInt * y.toInt) 0#5)))

/-! The device's own steps. -/

/-- R289 to R291, R296: an event unit's words. CFG written; a mutex free or held; a line with a count or without; a line
signalled, and set through its peek word; a phase wait that PHASE satisfies or not; an arrival that reaches a parent, below
its COUNT and at it; one that completes a root object, which flips and tells its children; a flip that reaches an object:
PHASE goes on by 1 and ARRIVED and HOLD are clear. An arrival never counts at a parent in a cluster of another job, as log
63 reads R7. -/
def Obligations.EventUnitResults : Prop :=
  ∀ (s : State) (core seq k n j h : Nat) (e : PathEntry) (v : Word),
    let b := s.barrier k n
    let held := (s.cluster k).mutexes.toList.getD n none
    let line := s.lineCount k n
    let setMutex (x : Option Nat) : State := s.modCluster k fun q => { q with mutexes := q.mutexes.setIfInBounds n x }
    let setLine (c : BitVec 32) : State := s.modCluster k fun q => { q with lines := q.lines.setIfInBounds n c }
    let takes (o : Nat) := reads s core seq e (.event k) o
    let puts (o : Nat) := writes s core seq e (.event k) o v
    let p := s.barrier b.parent.1 b.parent.2
    let joined := k = b.parent.1 ∨ ∃ j ∈ s.jobs, (∃ c ∈ j.2.cores, clusterOf c = k) ∧ ∃ c ∈ j.2.cores, clusterOf c = b.parent.1
    let told := s.modBarrier k n fun o => { o with rising := false }
    let arrives (f : Barrier → Barrier) : State := told.modBarrier b.parent.1 b.parent.2 fun o =>
      f { o with arrived := o.arrived + 1, children := o.children ++ [(k, n)] }
    n < 32 →
    (puts (64 * n) → exec (.barrierCfgWrite core seq) s = .next (answered ((s.modBarrier k n fun o =>
      { o with cfg := v &&& 0x1FFFC00FFFF#64, phase := 0, arrived := 0, children := [], hold := false, rising := false }).recheckCluster k)
        core e Ans.unit)) ∧
    (takes (0x800 + 8 * n) → held = none → s.waitsBefore e.acc = false →
      exec (.mutexAcquire core seq) s = .next (answered (setMutex (some e.acc.strand)) core e (wordAns 1))) ∧
    (takes (0x800 + 8 * n) → held = some h → exec (.mutexAcquire core seq) s = .next (s.settle core e (.waits (some 3)))) ∧
    (puts (0x800 + 8 * n) → exec (.mutexRelease core seq) s = .next (answered (setMutex none) core e Ans.unit)) ∧
    (takes (0x900 + 8 * n) → line ≠ 0 → s.waitsBefore e.acc = false →
      exec (.eventLineWait core seq) s = .next (answered (setLine (line - 1)) core e (wordAns (line.setWidth 64)))) ∧
    (takes (0x900 + 8 * n) → line = 0 → exec (.eventLineWait core seq) s = .next (s.settle core e (.waits (some 3)))) ∧
    (puts (0x900 + 8 * n) → exec (.eventLineSignal core seq) s =
      .next (answered (setLine (BitVec.ofNat 32 (min (line.toNat + v.toNat % 2 ^ 32) (2 ^ 32 - 1)))) core e Ans.unit)) ∧
    (puts (0xA00 + 8 * n) → exec (.eventPeekSet core seq) s = .next (answered (setLine (v.setWidth 32)) core e Ans.unit)) ∧
    (j < 32 → takes (0x2000 + 256 * n + 8 * j) → b.phase.toNat % 32 ≠ j →
      exec (.phaseWait core seq) s = .next (answered s core e (wordAns (b.phase.setWidth 64)))) ∧
    (j < 32 → takes (0x2000 + 256 * n + 8 * j) → b.phase.toNat % 32 = j →
      exec (.phaseWait core seq) s = .next (s.settle core e (.waits (some 3)))) ∧
    (b.rising = true → joined → p.hold = false → p.arrived + 1 < p.count → exec (.barrierChildArrival k n) s = .next (arrives id)) ∧
    (b.rising = true → joined → p.hold = false → 0 < p.count → p.count ≤ p.arrived + 1 → p.hasParent = true →
      exec (.barrierChildArrival k n) s = .next (arrives fun o => { o with hold := true, rising := true })) ∧
    (b.rising = true → joined → p.hold = false → 0 < p.count → p.count ≤ p.arrived + 1 → p.hasParent = false →
      ∃ t, exec (.barrierChildArrival k n) s = .next t ∧ t.mem = s.mem ∧ (t.barrier k n).falling = true ∧
        let r := t.barrier b.parent.1 b.parent.2
        r.phase = p.phase + 1 ∧ r.arrived = 0 ∧ r.hold = false ∧ r.children = [] ∧ r.cfg = p.cfg) ∧
    (b.rising = true → p.hold = true ∨ ¬ joined → exec (.barrierChildArrival k n) s = .next s) ∧
    (b.falling = true → ∃ t, exec (.barrierParentFlip k n) s = .next t ∧ t.mem = s.mem ∧
      (t.barrier k n).phase = b.phase + 1 ∧ (t.barrier k n).arrived = 0 ∧ (t.barrier k n).hold = false ∧
      (t.barrier k n).cfg = b.cfg)

/-- R293, R355, R184: a channel's words and sends. RECV of a queue with an entry and of an empty one; HEAD and CFG written,
a posted store having been checked at issue (log 59), or refused with #CHAN; a send into a queue of the sender's job with an
entry free, at once or for the oldest send that waits, with the message of a queue with NOTIFY, and one into a full queue;
the head of a seam queue, whose entries have 16 bytes (log 32), sent on as a write-when-empty on the CORE path of the
receiver (log 18), once its landing register is VALID and agrees, or taken with the register's ERR set where it disagrees.
The ring's place at BASE is the model's choice (log 33). -/
def Obligations.ChannelResults : Prop :=
  ∀ (s : State) (core seq c q : Nat) (e : PathEntry) (v : Word) (bs : List Byte) (va : Word) (l : Loc),
    let k := s.chanQueue c q
    let word (o : Nat) : Nat := 4096 * q + o
    let d := (v.setWidth 32 - k.tail).toNat
    let slot : Loc := { home := .unit c, off := (k.base.toNat + k.tail.toNat % k.entries * (8 * 2 ^ k.sizeCode)) % 0x20000 }
    let sent := (s.core c).job.isSome = true ∧ (s.core c).job = (s.core core).job ∧ 0 < k.entries ∧
      bs.length = 8 * 2 ^ k.sizeCode ∧ (s.core c).pstate = .running
    let appended := (s.write c slot bs).modChan c q fun k =>
      { k with tail := k.tail + 1, senders := ((k.tail, e.acc.strand) :: k.senders).take k.entries }
    let owner := 8 * c + (k.notify - 1)
    let told := if k.notify = 0 then appended else appended.post
      { msg := { strand := owner, uid := ((s.strand owner).unit.map UnitRef.uid).getD 0, word1 := 0
                 word0 := messageWord 0x32 0 0#5 0 0 0 (q + 1) }
        op := none, cmd := false }
    let m := seamOfBytes (k.sender k.head) (s.bytesAt (k.place c k.head) 16)
    let land := s.landing c m
    q < 16 →
    (reads s core seq e (.chan c) (word 0x20) → k.head ≠ k.tail →
      exec (.chanRecv core seq) s = .next (answered s core e (wordAns (k.tail.setWidth 64)))) ∧
    (reads s core seq e (.chan c) (word 0x20) → k.head = k.tail →
      exec (.chanRecv core seq) s = .next (s.settle core e (.waits (some 9)))) ∧
    (writes s core seq e (.chan c) (word 0x10) v → ¬ (1 ≤ d ∧ d ≤ 2 ^ 31) ∨ e.acc.answers = false →
      exec (.chanHeadWrite core seq) s =
        .next (answered (s.modChan c q fun k => { k with head := v.setWidth 32 }) core e Ans.unit)) ∧
    (writes s core seq e (.chan c) (word 0x10) v → 1 ≤ d ∧ d ≤ 2 ^ 31 → e.acc.answers = true →
      exec (.chanHeadWrite core seq) s = .next (answered s core e (.trap (trapCHAN e.acc.va v)))) ∧
    (writes s core seq e (.chan c) (word 8) v → chanCfgOk k v = true ∨ e.acc.answers = false →
      exec (.chanCfgWrite core seq) s =
        .next (answered ((s.modChan c q fun k => { k with cfg := v }).recheckCore c) core e Ans.unit)) ∧
    (writes s core seq e (.chan c) (word 8) v → chanCfgOk k v = false → e.acc.answers = true →
      exec (.chanCfgWrite core seq) s = .next (answered s core e (.trap (trapCHAN e.acc.va v)))) ∧
    (offered s core seq e (.chan c) (word 0x800) → e.acc.kind = .send bs false → sent → k.held < k.entries →
      (∀ w ∈ s.retry, rowOf w.2.acc ≠ .chanSend) → exec (.chanSend core seq) s = .next (answered told core e Ans.unit)) ∧
    (offered s core seq e (.chan c) (word 0x800) → e.acc.kind = .send bs false → sent → k.entries ≤ k.held →
      exec (.chanSend core seq) s = .next (s.settle core e (.waits (some 10)))) ∧
    (s.retryEntry core seq = some e → e.acc.loc = { home := .chan c, off := word 0x800 } → e.acc.kind = .send bs false → sent →
      k.held < k.entries → s.retry.head? = some (core, e) →
      exec (.chanEntryWrite core seq) s = .next (answered told core e Ans.unit)) ∧
    (q = 15 → 0 < k.entries → k.sizeCode = 1 → k.head ≠ k.tail → (s.core c).pstate ≠ .saved → land.valid = true →
      s.seamPlace c m = (some (va, l), s) →
      ∃ t, exec (.seamQueueTake c q) s = .next t ∧ (t.chanQueue c q).head = k.head + 1 ∧ t.mem = s.mem ∧
        ((t.core c).path.getLast?).map (fun p => (p.path, p.acc.loc, p.acc.kind)) =
          some (.core, l, .seam m)) ∧
    (q = 15 → 0 < k.entries → k.sizeCode = 1 → k.head ≠ k.tail → (s.core c).pstate ≠ .saved → land.valid = true →
      land.agrees m = false →
      ∃ t, exec (.seamQueueTake c q) s = .next t ∧ (t.chanQueue c q).head = k.head + 1 ∧ (t.landing c m).err = true ∧
        t.mem = s.mem)

/-- R94, R305 to R308, R332, R333: a group table entry written, or refused; a router with a contribution from each CHILD
combines its round and sends it on to PARENT's neighbour, or, at the root, the result (here the integer sum of one leaf)
down to its leaves; a result that comes arrives and COLGET can collect it; the records of a contribution are written
together once the fault queue has room. GO in host-assisted mode at the root of a group with a round open sends words 0 to
7, as the group's LEN elements, and FLAGS to every leaf, where they arrive; elsewhere, and with no round open, it is ignored
and logged with cause 6, and in hardware mode ignored. That FLAGS reads back is log 34's choice, and what else the logged
event names log 42's. -/
def Obligations.CollectiveDeviceResults : Prop :=
  ∀ (s : State) (core seq b c g p : Nat) (e : PathEntry) (v : Word) (r : Round) (x : Contribution) (lanes : List Word)
    (res : List Word × BitVec 5) (recs : List (List Word)),
    let at_ := 512 * b + c
    let entry := (s.core core).groupEntry g
    let inWait := ∃ rest, (s.core core).rounds = r :: rest ∧ r.group = g
    let go := writes s core seq e (.priv b) (0x600000 + 0x2000 * c + 0x80 * g + 0x40) v ∧ v.getLsbD 63 = true
    let hosted := (s.die b).mgmt.getLsbD 2 = false
    let tree := (s.core at_).groupEntry g
    let isRoot := tree.getLsbD 0 = true ∧ groupParent tree = 7
    let awaits (t : State) (n : Nat) : Bool := ((t.core n).openRound g).any fun r => r.coming.isNone && r.result.isNone
    let leaves := s.treeLeaves g 384 at_
    let sent : List Word :=
      (lanesOf (laneWidth (groupFmt tree)) (BitVec.ofNat 512 (natOfBytes ((((s.die b).result at_ g).take 8).flatMap fun w =>
        bytesOfNat 8 w.toNat)))).take (groupLen tree)
    b < 8 → c < 512 → g < 64 →
    (writes s core seq e (.priv b) (0x300000 + 512 * c + 8 * g) v → groupRefused v = false →
      exec (.groupTableWrite core seq) s = .next (answered ((s.modCore at_ fun t =>
        { t with groups := t.groups.setIfInBounds g (v &&& 0xFFFF07FFFFFFE001#64) }).recheckCore at_) core e Ans.unit)) ∧
    (writes s core seq e (.priv b) (0x300000 + 512 * c + 8 * g) v → groupRefused v = true →
      exec (.groupTableWrite core seq) s = .next (answered s core e Ans.unit)) ∧
    (inWait → r.sent = false → r.hosted = none → r.ports = [(0, x)] → groupValid entry = true → groupChildren entry = [0] →
      (s.die (dieOf core)).mgmt.getLsbD 2 = true → groupParent entry ≠ 7 → neighbour core (groupParent entry) = some p →
      ∃ t, exec (.collectiveCombine core g) s = .next t ∧ t.mem = s.mem ∧ t.strands = s.strands ∧
        (p ≠ core → (t.core p).rounds = addPort g (oppositePort (groupParent entry)) x (s.core p).rounds)) ∧
    (inWait → r.sent = false → r.hosted = none → r.ports = [(0, x)] → r.opened = true → r.coming = none → r.result = none →
      groupValid entry = true → groupChildren entry = [0] → (s.die (dieOf core)).mgmt.getLsbD 2 = true → groupParent entry = 7 →
      groupLeaves entry = 1 → x.agrees = true → groupOper entry = 0 → isFloatType (groupFmt entry) = false →
      x.leaves = [(s.endpoint core, lanes)] → lanes.length = groupLen entry →
      lanes.all (fun w => decide (w.toNat < 2 ^ laneWidth (groupFmt entry))) = true → core < 4096 →
      ∃ t, exec (.collectiveCombine core g) s = .next t ∧ t.mem = s.mem ∧
        ((t.core core).rounds.head?).map Round.coming = some (some (lanes, 0#5))) ∧
    (inWait → r.coming = some res → ∃ t, exec (.collectiveResultArrival core g) s = .next t ∧ t.mem = s.mem ∧
      ((t.core core).rounds.head?).map (fun w => (w.group, w.result, w.coming)) = some (g, some res, none)) ∧
    (inWait → r.hosted = some recs → recs.length ≤ (s.die (dieOf core)).faultRoom →
      ∃ t, exec (.collectiveQueueRecord core g) s = .next t ∧ t.mem = s.mem ∧
        ((t.core core).rounds.head?).map Round.hosted = some none ∧
        (t.die (dieOf core)).fqTail = (s.die (dieOf core)).fqTail + BitVec.ofNat 32 recs.length) ∧
    (go → ¬ hosted → exec (.collectiveGo core seq) s = .next (answered s core e Ans.unit)) ∧
    (go → hosted → ¬ isRoot ∨ (∀ n ∈ leaves, awaits s n = false) → exec (.collectiveGo core seq) s =
      .next (answered (s.logViolation b 0 (s.endpoint at_) false 7 4 6) core e Ans.unit)) ∧
    (go → hosted → isRoot → (∃ n ∈ leaves, awaits s n = true) →
      ∃ t, exec (.collectiveGo core seq) s = .next t ∧ t.mem = s.mem ∧ t.strands = (answered s core e Ans.unit).strands ∧
        t.die b = (s.die b).setResult at_ g 8 (v &&& 0x1F#64) ∧
        ∀ n ∈ leaves, awaits s n = true → ((t.core n).openRound g).bind Round.coming = some (sent, v.extractLsb' 0 5))

/-- R218 to R221, R230, R231, R236, R292, R318, R327, R360: a posted store moves into its path queue; an access to memory
that its home performs, with its answer, one that waits and one that meets a slip mark; BARRIVE below COUNT; a retry whose
test now holds, and one whose does not, with which its strand's wait begins; a slip-mark hop, to translated memory and to a
peer module, and a fifth, which traps the strand, fails an engine's read, or ends the operation of an engine's write with
status 9, but for a checked store of a strand, which goes on (log 7); an engine's write whose new address does not
translate, which parks its operation; an answer that reaches its strand; the end of a drain; the end of a walk, with which
the strands that joined it are ready; a register written; a scrubbed line, which reads as before. -/
def Obligations.HomeResults : Prop :=
  ∀ (s t : State) (core seq k b n slice off size : Nat) (e : PathEntry) (a : Access) (v : Vec)
    (x : Ans) (w d : Word) (hop : Hop) (l : Loc) (m : Bool) (wk : Walk) (peer : List Byte) (code id : Nat) (fin : Outcome) (p : EngineOp)
    (tr : Trap),
    let o := s.barrier k n
    let ready := s.pathEntry core seq = some e ∧ s.mayPerform core e = true ∧ e.acc.loc.home.isMemory = true ∧
      s.forwardedFirst e.acc = false ∧ s.seamHeld core e.acc e.seq = false
    let plain := e.acc.isFetch = false ∧ ∀ view, e.acc.kind ≠ .load view true
    let pass := s.passBy k e
    let out := s.modCore core fun q => { q with slipped := q.slipped.filter fun p => p.1.seq != seq }
    let slipped := (s.core core).slipped.find? (fun p => p.1.seq == seq) = some (e, hop)
    let va := e.acc.va + hop.delta
    let goes (u : State) (l : Loc) := ((u.core core).path.getLast?).map
        (fun p => (p.path, p.seq, p.acc.va, p.acc.loc, p.acc.kind, p.acc.hops)) =
      some (e.path, e.seq, va, l, e.acc.kind, e.acc.hops ++ [hop])
    let inside := e.acc.root = none ∧ core < 4132
    let more := e.acc.hops.length < 4 ∨ (e.acc.sure = true ∧ e.acc.ending = none)
    let here := ∀ p, (windowOf va.toNat).1 ≠ .peer p
    ((s.core core).posted[k]? = some a → (∀ p ∈ (s.core core).posted.take k, p.loc.home ≠ a.loc.home) →
      ∃ t, exec (.postedStoreMove core k) s = .next t ∧ (t.core core).posted = (s.core core).posted.eraseIdx k ∧
        ((t.core core).path.getLast?).map (fun p => (p.path, p.acc)) = some (.core, a) ∧ t.mem = s.mem) ∧
    (ready → plain → s.perform core e.acc = .done t v →
      exec (.homePerform core seq peer code) s = .next ((answered t core e (.val v e.acc.hops)).newPass e.acc)) ∧
    (ready → s.perform core e.acc = .slip d size →
      ∃ t, exec (.homePerform core seq peer code) s = .next t ∧ t.mem = s.mem ∧ t.tags = s.tags ∧
        (t.core core).path = (s.core core).path.erase e ∧
        (t.core core).slipped = (s.core core).slipped ++ [(e, hopAt e.acc.va d size)]) ∧
    (ready → s.perform core e.acc = .waits → e.acc.answers = false →
      s.retryCount e.acc.loc.home < e.acc.loc.home.retryCap → e ∈ (s.core core).path →
      ∃ t, exec (.homePerform core seq peer code) s = .next t ∧ t.mem = s.mem ∧ t.tags = s.tags ∧
        (t.core core).path = (s.core core).path.erase e ∧ t.retry.getLast? = some (core, e)) ∧
    (n < 32 → offered s core seq e (.event k) (64 * n) → e.acc.kind = .barrive n → o.hold = false → o.arrived + 1 < o.count →
      exec (.homePerform core seq peer code) s =
        .next ((answered (s.modBarrier k n fun q => { q with arrived := q.arrived + 1 })
          core e (wordAns (o.phase.setWidth 64))).newPass e.acc)) ∧
    (s.retry[k]? = some (core, e) → e.acc.armed = false → s.olderGoes k e = false → (s.serveRetry core e).goes = true →
      e.acc.loc.home.isMemory = true → pass.scOpen core e = true → pass.seamHeld core e.acc e.seq = false → plain →
      pass.perform core e.acc = .done t v →
      exec (.retryListRetry k) s = .next (answered t core e (.val v e.acc.hops))) ∧
    (slipped → inside → more → here →
      s.translate core (s.modeOf core e.acc) va e.acc.kind.need = (.ok l m, t) →
      ∃ u, exec (.slipMarkHop core seq) s = .next u ∧ u.mem = t.mem ∧ goes u l) ∧
    (slipped → inside → more → windowOf va.toNat = (.peer n, off) →
      ∃ u, exec (.slipMarkHop core seq) s = .next u ∧ u.mem = s.mem ∧ goes u (s.peerPlace n off)) ∧
    (slipped → inside → ¬ more → e.acc.isFetch = false → e.acc.ending = none → (∀ m, e.acc.kind ≠ .seam m) →
      exec (.slipMarkHop core seq) s = .next (out.respond core e.acc (.trap (trapMCHAIN e.acc.va)))) ∧
    ((s.core s.here).answers.find? (fun p => p.1 == s.cur) = some (s.cur, x) → s.me.status = .parked .answer →
      ∃ t, exec .accessResponse s = .next t ∧ t.me.status = .ready ∧ t.me.log = s.me.log ++ [x] ∧ t.me.pc = s.me.pc ∧
        (t.core s.here).answers = (s.core s.here).answers.erase (s.cur, x) ∧ t.mem = s.mem) ∧
    (s.me.status = .parked .drain → s.storesPending s.cur = false →
      ∃ t, exec .drainComplete s = .next t ∧ t.me.status = .ready ∧ t.me.log = s.me.log ∧ t.me.pc = s.me.pc ∧ t.mem = s.mem) ∧
    (k < 64 → (s.cluster n).walks[k]? = some wk →
      ∃ t, exec (.ctuWalkComplete n k) s = .next t ∧ (t.cluster n).walks = (s.cluster n).walks.eraseIdx k ∧
        ∀ h ∈ strandsOf n, (s.joined wk ((s.core (coreOf h)).asid.toNat % 65536) (s.strand h)).isSome = true →
          (t.strand h).status = .ready) ∧
    (b < 8 → writes s core seq e (.priv b) 0 w → exec (.registerWrite core seq) s =
      .next (answered (s.modDie b fun q => { q with mgmt := w &&& 0x0FFF001F#64 }) core e Ans.unit)) ∧
    (b < 8 → writes s core seq e (.priv b) 0x20000 w → exec (.registerWrite core seq) s =
      .next (answered (s.modDie b fun q => { q with fqHead := w.setWidth 32 }) core e Ans.unit)) ∧
    (∃ t, exec (.scrubLine slice off) s = .next t ∧ t.tags = s.tags ∧ t.strands = s.strands ∧
      ∀ l, t.byteAt l = s.byteAt l) ∧
    (slipped → inside → ¬ more → e.acc.isFetch = true →
      exec (.slipMarkHop core seq) s = .next (out.noteFetch core e.seq (Got.failed 9 none))) ∧
    (slipped → inside → ¬ more → e.acc.isFetch = false → e.acc.op = some id → e.acc.ending = some fin → (∀ m, e.acc.kind ≠ .seam m) →
      exec (.slipMarkHop core seq) s = .next (out.failWrite core id { fin with status := 9 } e.acc)) ∧
    (slipped → inside → more → here → e.acc.sure = true →
      s.translate core (s.modeOf core e.acc) va e.acc.kind.need = (.fault tr, t) → (t.core core).openOp e.acc = some p →
      exec (.slipMarkHop core seq) s = .next (if p.parked then t else t.parkOp p core tr)) ∧
    (s.retry[k]? = some (core, e) → e.acc.armed = false → s.olderGoes k e = false → s.serveRetry core e = .waits (some 4) →
      e.acc.answers = true → (s.strand e.acc.strand).status = .parked .answer →
      ∃ u, exec (.retryListRetry k) s = .next u ∧ u.mem = s.mem ∧ u.retry = s.retry ∧
        (u.strand e.acc.strand).waiting? = some (s.newWait e.acc.strand 4 e.acc.va none))

/-- R216, R222, R223, R241, R256, R262 to R267: while an engine operation has accesses planned, each event of it puts the
first on its path. With none planned: an empty copy; a copy's row whose reads are planned, and whose writes are once the
reads have come back: the last row, one before it, and a poisoned one; a row that fails a check, one of which a read fails,
and one whose destination a peer module refuses, which is logged where that module is absent; what one read and one write of
a row are, with the end that each write of a row names where it would need a fifth hop; its completion's message. An
operation that is parked goes no further (R334). A gather: the read of a row's index and what it gives, or its failure, the
row's reads and writes, the mark, and its end without a message and with one; the event, once every write is performed. -/
def Obligations.CopyAndGatherSteps : Prop :=
  ∀ (s t : State) (core id row pos st n good a b : Nat) (o : EngineOp) (os : List EngineOp) (g : Vector Word 13) (rm : BitVec 3)
    (fl : FlagSet) (q : GatherRec) (w : Word) (j : Int) (first : Option Word) (got : Got) (gs : List Got) (out : Outcome)
    (from_ into : Nat) (ws : List Access) (next : Access) (rest : List Access),
    let step : Instr := .copyRow core id from_ into
    let gather : Instr := .gatherRow core id from_ into
    let r := copyRowOf g rm row
    let row_ := s.stepRow (copySender core o g) o r from_ into
    let held := (s.core core).ops = o :: os ∧ o.id = id
    let running := held ∧ o.todo = [] ∧ o.done = none ∧ o.parked = false
    let copying := running ∧ o.kind = .copy g rm row pos
    let gathering (index : Option Int) (first : Option Word) := running ∧ o.kind = .gather q row index first
    let src := (q.base.toNat : Int) + j * q.stride.toInt
    let grow := s.stepRow (gatherSender core o) o (gatherRowOf q row src.toNat) from_ into
    let ends (t : State) (status : Nat) (word1 : Word) (fl : FlagSet) : State :=
      t.modOp core id fun o => { o with reads := [], done := some { status := status, word1 := word1, flags := fl } }
    let unit : Loc := { home := .unit core, off := a }
    let cluster : Loc := { home := .cluster (clusterOf core), off := b }
    let one : Row := { src := 0x0100000000000000 + a, n := n, dst := clusterBase + b, nd := n, skip := 0, fe := false, conv := fun bs => (bs, []) }
    let fromUnit := core < 4096 ∧ 0 < n ∧ a % 64 + n ≤ 64 ∧ a + n ≤ 0x20000
    let inOne := fromUnit ∧ b % 64 + n ≤ 64 ∧ b + n ≤ 0x400000
    let access (va : Nat) (l : Loc) (k : AccKind) (checked : Bool) : Access :=
      { strand := o.strand, answers := false, op := some o.id, va := BitVec.ofNat 64 va, loc := l, len := n, kind := k, sc := none
        hops := [], bulk := !(geomReg g 12).getLsbD 5, sure := checked, asid := (s.core core).asid.toNat % 65536 }
    let back := ∃ seq, o.reads = [{ seq := seq, got := some got }]
    let posts (i : Instr) (opc path : Nat) := (s.core core).held = [] → coreOf o.strand = core → (s.core core).diverts = false →
      (s.core core).mailbox = [] → s.unitLives o.strand o.uid = true →
      ∃ t, exec i s = .next t ∧ t.mem = s.mem ∧
        (t.core core).mailbox = [{ strand := o.strand, uid := o.uid, word1 := out.word1, shared := false
                                   word0 := messageWord opc path out.flags 0 0 out.status id }] ∧
        (t.core core).ops = os.filter fun p => p.id != id
    let ended := held ∧ o.todo = [] ∧ o.done = some out ∧ o.parked = false
    let chased (word1 : Word) (fl : FlagSet) (ws : List Access) : List Access :=
      ws.map fun a => { a with ending := some { status := 9, word1 := word1, flags := fl } }
    (∀ i ∈ [step, gather, .copyCompletion core id, .gatherMark core id, .gatherCompletion core id], held → o.parked = false →
      o.todo = next :: rest →
      ∃ t, exec i s = .next t ∧ t.mem = s.mem ∧ ((t.core core).path.getLast?).map (fun e => (e.path, e.acc)) = some (o.kind.path, next) ∧
        ((t.core core).op? id).map EngineOp.todo = some rest) ∧
    (copying → geomEmpty g = true → exec step s = .next (ends s 0 0 0#5)) ∧
    (copying → geomEmpty g = false → row_ = none → exec step s = .next s) ∧
    (copying → geomEmpty g = false → row_ = some (.reads t) → exec step s = .next t) ∧
    (copying → geomEmpty g = false → row_ = some (.moved t ws n n fl) → row + 1 = rowCount g →
      exec step s = .next (ends (t.planOp core id (chased (BitVec.ofNat 64 pos) o.flags ws)) 0 (BitVec.ofNat 64 (pos + (geomReg g 2).toNat)) (o.flags ||| fl))) ∧
    (copying → geomEmpty g = false → row_ = some (.moved t ws n n fl) → row + 1 ≠ rowCount g →
      exec step s = .next ((t.planOp core id (chased (BitVec.ofNat 64 pos) o.flags ws)).modOp core id fun p =>
        { p with flags := o.flags ||| fl, kind := .copy g rm (row + 1) (pos + (geomReg g 2).toNat) })) ∧
    (copying → geomEmpty g = false → row_ = some (.moved t ws n good fl) → good < n →
      exec step s = .next (ends (t.planOp core id (chased (BitVec.ofNat 64 pos) o.flags ws)) 1 (BitVec.ofNat 64 (pos + good)) (o.flags ||| fl))) ∧
    (copying → geomEmpty g = false → row_ = some (.status st t) →
      exec step s = .next (ends t st (BitVec.ofNat 64 pos) o.flags)) ∧
    (fromUnit → o.reads = [] → guardsPass (s.core core) o.mode one.src n .read = true → 2 ^ 55 ≤ b → b % 2 ^ 45 + n ≤ 2 ^ 45 →
      b + n ≤ 2 ^ 56 → guardsPass (s.core core) o.mode b n .write = true → s.inCompute core = false →
      into ≠ 0 ∨ s.allDown = true →
      ∃ t, s.stepRow (copySender core o g) o { one with dst := b } from_ into = some (.status 10 t) ∧ t.mem = s.mem ∧
        (t.core core).path = (s.core core).path ∧
        (t.die (dieOf core)).vlog = (if into = 1 ∨ s.allDown = true then (s.die (dieOf core)).vlog.push 256
          [s.time, BitVec.ofNat 64 b, BitVec.ofNat 64 (s.endpoint core % 2 ^ 22 + 7 * 2 ^ 24 + 2 ^ 28), 1#64]
          else (s.die (dieOf core)).vlog)) ∧
    (inOne → o.reads = [] → guardsPass (s.core core) o.mode one.src n .read = true → guardsPass (s.core core) o.mode one.dst n .write = true →
      s.stepRow (copySender core o g) o one from_ into =
        some (.reads (s.planOp core o.id [access one.src unit (.fetch .plain) false]))) ∧
    (inOne → back → got.status = 0 → got.fault = none → got.line = false → got.data.length = n →
      s.stepRow (copySender core o g) o one from_ into =
        some (.moved s [access one.dst cluster (.store got.data none false) true] n n 0#5)) ∧
    (back → got.status ≠ 0 → got.fault = none → s.stepRow (copySender core o g) o one from_ into = some (.status got.status s)) ∧
    (ended → o.kind = .copy g rm row pos → posts (.copyCompletion core id) 0x3F 1) ∧
    (gathering none first → row < q.nrow → o.reads = [] → s.readIndex core o q row = .ok t →
      exec gather s = .next t) ∧
    (gathering none first → row < q.nrow → back → got.status = 0 →
      got.poison.any (fun p => p) = false → exec gather s = .next (s.modOp core id fun p =>
        { p with reads := [], kind := .gather q row (some (laneInt 32 (BitVec.ofNat 64 (natOfBytes got.data)))) first })) ∧
    (gathering (some j) first → row < q.nrow → 0 ≤ src → src + q.rowb - 1 < 2 ^ 57 → grow = some (.reads t) →
      exec gather s = .next t) ∧
    (gathering (some j) first → row < q.nrow → 0 ≤ src → src + q.rowb - 1 < 2 ^ 57 → grow = some (.moved t ws n n fl) →
      readsDone o.reads = some gs →
      exec gather s = .next ((t.planOp core id (chased (BitVec.ofNat 64 (row * q.rowb)) 0#5 ws)).modOp core id fun p =>
        let word := if q.mark = true ∧ row = 0 then some (BitVec.ofNat 64 (natOfBytes ((gs.flatMap Got.data).take 8))) else first
        { p with kind := .gather q (row + 1) none word })) ∧
    (gathering (some j) first → row < q.nrow → src < 0 ∨ 2 ^ 57 ≤ src + q.rowb - 1 →
      exec gather s = .next (ends s 6 (BitVec.ofNat 64 (row * q.rowb)) 0#5)) ∧
    (gathering none first → row < q.nrow → back → got.status ≠ 0 →
      exec gather s = .next (ends s got.status (BitVec.ofNat 64 (row * q.rowb)) 0#5)) ∧
    (gathering none (some w) → q.nrow ≤ row → s.opPending core id (s.core core).seq = false →
      ∃ t, exec (.gatherMark core id) s = .next t ∧ t.mem = s.mem ∧
        ((t.core core).path.getLast?).map (fun p => (p.path, p.acc.loc, p.acc.kind)) =
          some (.gather, { home := .cluster (clusterOf core), off := q.dst.toNat - clusterBase }, .sync .setFull w)) ∧
    (gathering none first → q.nrow ≤ row → q.mark = false ∨ first = none → q.msg = true → q.evt = none →
      exec (.gatherCompletion core id) s = .next (ends s 0 (BitVec.ofNat 64 (q.nrow * q.rowb)) 0#5)) ∧
    (ended → o.kind = .gather q row none first → posts (.gatherCompletion core id) 0x40 2) ∧
    (gathering none first → q.nrow ≤ row → q.mark = false ∨ first = none → q.msg = false → q.evt = some st →
      ∃ t, exec (.gatherCompletion core id) s = .next t ∧ t.mem = s.mem ∧ (t.core core).ops = os.filter (fun p => p.id != id) ∧
        (t.core core).events = (s.core core).events ++ [(id, st, (s.core core).seq)]) ∧
    ((s.core core).ops = [] → (s.core core).events = [(id, st, n)] → s.opPending core id n = false → st < 32 →
      ∃ t, exec (.gatherCompletion core id) s = .next t ∧ (t.core core).events = [] ∧
        (t.lineCount (clusterOf core) st).toNat = min ((s.lineCount (clusterOf core) st).toNat + 1) (2 ^ 32 - 1)) ∧
    (∀ i ∈ [step, gather, .copyCompletion core id, .gatherMark core id], held → o.parked = true → exec i s = .next s)

/-- R216, R222, R235, R270, R271, R287, R340: a move: MOVING, or refused with status 6; its reads, word by word, and once
they have come back its writes, with each word's tag, planned, and then put on the RELOC path one by one; with them
performed, slip marks in every word of the old tile, and status 0 with D; its message. A retirement: every slip mark of its
tile replaced with an empty 0, refused in host-assisted mode. -/
def Obligations.RelocationSteps : Prop :=
  ∀ (s : State) (core id d : Nat) (b : Barchan) (bs : List Barchan) (w : Loc) (o : EngineOp) (gs : List Got)
    (next : Access) (rest : List Access),
    let holds := s.dies = [(d, { s.die d with barchan := b :: bs })] ∧ b.core = core ∧ b.id = id
    let busy := s.tileBusy b.old b.size || s.tileBusy b.new b.size
    let phaseOf (t : State) : Option (Option MovePhase) := (t.barchan? core id).map fun e => e.2.phase
    let outcome (t : State) : Option (Option Outcome) := ((t.core core).op? id).map EngineOp.done
    let readsOf (t : State) : Option (List Fetch) := ((t.core core).op? id).map EngineOp.reads
    let known := (s.core core).op? id = some o
    let delta := b.newVa - b.oldVa
    let todoOf (t : State) : Option (List Access) := ((t.core core).op? id).map EngineOp.todo
    let access (i : Nat) (va : Word) (l : Loc) (k : AccKind) : Access :=
      { strand := 8 * core, answers := false, op := some id, va := va + BitVec.ofNat 64 (8 * i), loc := l.plus (8 * i), len := 8
        sc := none, hops := [], kind := k, sure := true, asid := (s.core core).asid.toNat % 65536 }
    let copying := b.retire = false ∧ b.phase = some .moving ∧ o.todo = []
    holds → known →
    (b.retire = false → b.phase = none → busy = false → exec (.relocBegin core id) s =
      .next (s.modDie d fun q => { q with barchan := q.barchan.map fun p =>
        if p.core = core ∧ p.id = id then { p with phase := some .moving } else p })) ∧
    (b.retire = false → b.phase = none → busy = true →
      ∃ t, exec (.relocBegin core id) s = .next t ∧ t.mem = s.mem ∧ t.tags = s.tags ∧ phaseOf t = some (some .refused) ∧
        outcome t = some (some { status := 6, word1 := 0, flags := 0#5 })) ∧
    (o.parked = false → o.todo = next :: rest →
      ∃ t, exec (.relocCopy core id) s = .next t ∧ t.mem = s.mem ∧ todoOf t = some rest ∧ phaseOf t = some b.phase ∧
        ((t.core core).path.getLast?).map (fun e => (e.path, e.acc)) = some (o.kind.path, next)) ∧
    (copying → o.reads = [] →
      ∃ t, exec (.relocCopy core id) s = .next t ∧ t.mem = s.mem ∧ phaseOf t = some (some .moving) ∧
        readsOf t = some (List.replicate (b.size / 8) { seq := none, got := none }) ∧
        todoOf t = some ((List.range (b.size / 8)).map fun i => access i b.oldVa b.old .lift)) ∧
    (copying → o.reads ≠ [] → readsDone o.reads = none → exec (.relocCopy core id) s = .next s) ∧
    (copying → o.reads ≠ [] → readsDone o.reads = some gs →
      ∃ t, exec (.relocCopy core id) s = .next t ∧ t.mem = s.mem ∧ phaseOf t = some (some .copied) ∧ readsOf t = some [] ∧
        todoOf t = some (gs.zipIdx.map fun g =>
          access g.2 b.newVa b.new (.place (BitVec.ofNat 64 (natOfBytes g.1.data)) (g.1.tags.headD WordTag.blank)))) ∧
    (b.phase = some .copied → o.todo = [] → s.opPending core id (s.core core).seq = false → s.retry = [] →
      ∃ t, exec (.relocInstall core id) s = .next t ∧ t.mem = s.mem ∧ phaseOf t = some (some .installed) ∧
        outcome t = some (some { status := 0, word1 := delta, flags := 0#5 }) ∧
        (w ∈ wordsOf b.old b.size → (t.tagAt w).slip = some (delta, b.size))) ∧
    (b.phase = some .installed ∨ b.phase = some .refused →
      ∃ t, exec (.relocCompletion core id) s = .next t ∧ t.barchan? core id = none) ∧
    (b.retire = true → b.phase = none → (s.die (dieOf core)).mgmt.getLsbD 4 = false →
      ∃ t, exec (.relocRetirementStep core id) s = .next t ∧ t.mem = s.mem ∧ t.tags = s.tags ∧
        outcome t = some (some { status := 6, word1 := 0, flags := 0#5 })) ∧
    (b.retire = true → b.phase = none → (s.die (dieOf core)).mgmt.getLsbD 4 = true →
      ∃ t, exec (.relocRetirementStep core id) s = .next t ∧
        outcome t = some (some { status := 0, word1 := 0, flags := 0#5 }) ∧
        (w ∈ wordsOf b.old b.size → w.off % 8 = 0 → (s.tagAt w).slip.isSome = true →
          t.wordAt w = 0#64 ∧ t.tagAt w = WordTag.blank))

/-- R19, R188, R190 to R192, R200 to R206, R216, R222: the slot that throttling leaves empty; a slot for which no core has a
step, which ends a turn; a granted step of an accumulator clear, which begins and, with no read to wait for, ends the
command and sets the accumulator to zeros; a step that puts its accesses on the path one by one, and waits for its reads; a
block that a command waits on longer than its limit, with status 3 (what its wait is: log 15); a published tile that goes
one place on. R210 to R213: a higher-order operation of the copy engine and of the matrix engine: all its reads, then its
run with its writes, as log 29 reads R211, and its message. -/
def Obligations.MatrixSteps : Prop :=
  ∀ (s t : State) (n i id op h blk since : Nat) (goesOn : Bool) (k : MatrixCmd) (ks : List MatrixCmd) (x : Transit) (o : EngineOp)
    (rt : Routine) (r : HotRec) (res : HotResult) (places : List (List Place)) (short : Option (Nat × HotEnd)) (gs : List Got)
    (ps : List (Place × Nat)) (fl : FlagSet) (st elem rtpc : Nat) (out : Outcome) (at_ code : Nat) (checked : List Nat)
    (next : Access) (rest : List Access),
    let c := 8 * n + i
    let head := (s.core c).cmds = k :: ks ∧ k.done = none
    let free := s.stepUnderWay n = none
    let target := n / 8 * 8 + (x.src + x.hop) % 8
    let cap (frm fte fnver : Word) : Captured := { frm := frm, fte := fte, fnver := fnver.toNat % 256 }
    let w := laneWidth rt.type / 8
    let inputs := hotReads op r.m w (r.inputs op rt)
    let hot : Instr := .hotOperationCompletion c false id at_ code
    let hotM : Instr := .hotOperationCompletion c true id at_ code
    let copyHot (stage : HotStage) := (s.core c).op? id = some o ∧ o.parked = false ∧ o.todo = [] ∧ o.done = none ∧
      o.kind = .hot op h rt r stage
    let matrixHot (stage : HotStage) := head ∧ k.id = id ∧ k.todo = [] ∧ k.kind = .hot op h rt r stage
    let put (t : State) (stage : HotStage) (as : List Access) : State := (t.planCmd c k as).modCore c fun q =>
      q.modCmd k fun k => { k with started := true, kind := .hot op h rt r stage }
    let goes (i : Instr) (p : Path) (left : State → Option (List Access)) : Prop :=
      ∃ t, exec i s = .next t ∧ t.mem = s.mem ∧ left t = some rest ∧
        ((t.core c).path.getLast?).map (fun e => (e.path, e.acc)) = some (p, next)
    let cmdLeft (t : State) : Option (List Access) := (t.core c).headCmd.map MatrixCmd.todo
    (free → s.hub.throttled = true → exec (.matrixTileStep n) s = .next { s with hub := { s.hub with throttled := false } }) ∧
    (free → s.hub.throttled = false → s.grant n = none → exec (.matrixTileStep n) s =
      .next (if s.runnable (8 * n + (s.cluster n).arbCore) then s else s.modCluster n fun q => { q with arbSteps := 16 })) ∧
    (free → s.hub.throttled = false → i < 8 → s.grant n = some (i, goesOn) → head → k.kind = .zero → k.started = false →
      ∃ t, exec (.matrixTileStep n) s = .next t ∧ t.mem = s.mem ∧
        (t.cluster n).arbCore = (if goesOn then (s.cluster n).arbCore else i) ∧
        (t.cluster n).arbSteps = (if goesOn then (s.cluster n).arbSteps + 1 else 1) ∧
        (t.core c).headCmd = some { k with started := true, seq := s.seqOrder c, accBad := false, step := some 0, reads := [], todo := [] }) ∧
    (i < 8 → s.stepUnderWay n = some (c, k, blk) → k.todo = next :: rest → goes (.matrixTileStep n) .matrix cmdLeft) ∧
    (i < 8 → s.stepUnderWay n = some (c, k, blk) → k.todo = [] → readsDone k.reads = none → exec (.matrixTileStep n) s = .next s) ∧
    (i < 8 → s.stepUnderWay n = some (c, k, blk) → k.todo = [] → readsDone k.reads = some gs → k.kind = .zero → k.k < 16 → k.notify = false →
      k.strand / 8 = c → s.inCompute c = false →
      ∃ t, exec (.matrixTileStep n) s = .next t ∧ t.mem = s.mem ∧
        (t.cluster n).accElems k.k false = List.replicate 1024 0#64 ∧
        (t.core c).cmds.all (fun q => !(q.strand == k.strand && q.uid == k.uid && q.id == k.id)) = true) ∧
    (head → (s.core c).pstate = .running → s.waitingBlock c k = some blk → k.step = none → k.waitFrom = some since → since + k.wlim < s.cycle →
      exec (.matrixWaitExpiry c) s = .next (s.finishCmd c k 3 blk 0 0#5)) ∧
    (head → k.waitFrom = some since → s.cycle ≤ since + k.wlim → exec (.matrixWaitExpiry c) s = .next s) ∧
    ((s.cluster n).transit = [x] → x.src < 8 → x.hop < 7 → (s.cluster target).sprue.toList.getD x.src none = none →
      ∃ t, exec (.sprueHop n 0) s = .next t ∧ t.mem = s.mem ∧ (t.cluster n).transit = [{ x with hop := x.hop + 1 }] ∧
        (t.cluster target).sprue.toList.getD x.src none = some x.tile) ∧
    (exec .powerThrottle s = .next { s with hub := { s.hub with throttled := true } }) ∧
    ((s.core c).op? id = some o → o.parked = false → o.todo = next :: rest →
      goes hot o.kind.path fun t => ((t.core c).op? id).map EngineOp.todo) ∧
    (copyHot .start → s.hotIns (hotSender c o) o.mode false w inputs = ((ps, short), t) →
      exec hot s = .next ((t.planOp c o.id (t.readsFor (hotSender c o) ps)).modOp c o.id fun o =>
        { o with kind := .hot op h rt r (.reading [] short) })) ∧
    (copyHot (.reading checked short) → readsDone o.reads = none → exec hot s = .next s) ∧
    (copyHot (.reading checked short) → readsDone o.reads = some gs →
      s.hotResult (hotSender c o) o.mode false (cap o.frm o.fte o.fnver) op rt r checked short gs at_ code = ((res, places), t) →
      let checks := t.checksFor (hotSender c o) (places.flatten.map (·, w))
      (checked = [] → checks ≠ [] → exec hot s = .next (t.modOp c o.id fun p =>
        { p with todo := checks, reads := o.reads ++ fetchesOf checks
                 kind := .hot op h rt r (.reading (checks.map fun a => a.va.toNat) short) })) ∧
      (checked ≠ [] ∨ checks = [] → res.stop = .status st →
        exec hot s = .next ((t.planOp c o.id (t.hotSureWrites (hotSender c o) w (places.zip res.outs)
          (r.ends op rt (cap o.frm o.fte o.fnver) checked short gs places.length))).stopOp c o.id st res.word1 res.flags))) ∧
    ((s.core c).op? id = some o → o.parked = false → o.todo = [] → o.done = some out → (∃ stage, o.kind = .hot op h rt r stage) →
      exec hot s = .next (s.completeOp c o.id)) ∧
    (head → k.id = id → k.todo = next :: rest → goes hotM .matrix cmdLeft) ∧
    (matrixHot .start → s.mayRun c k = true → s.hotIns (k.sender c) k.mode true w inputs = ((ps, short), t) →
      exec hotM s = .next (put t (.reading [] short) (t.readsFor (k.sender c) ps))) ∧
    (matrixHot .start → s.mayRun c k = false → exec hotM s = .next s) ∧
    (matrixHot (.reading checked short) → readsDone k.reads = some gs →
      s.hotResult (k.sender c) k.mode true (cap k.frm k.fte k.fnver) op rt r checked short gs 0 0 = ((res, places), t) → res.stop = .status st →
      exec hotM s =
        .next (put t (.ended st res.elem res.rtpc res.flags) (t.hotWrites (k.sender c) w (places.zip res.outs)))) ∧
    (matrixHot (.ended st elem rtpc fl) → exec hotM s = .next (s.finishCmd c k st elem rtpc fl))

/-- R283, R298, R300, R302 to R304, R363 to R365, R405, R406: a unit of the launch chosen, placed on the lowest-numbered
free strand of the core chosen; the end of a job; a CANCEL whose units are gone; a held message with room. A superstep: the
choice, once every strand that runs a unit has arrived and no unit can be placed, where the record has one schedule; the
pour's start in the third window from the last arrival (which arrival, that units which can be placed are waited for, and
whose plan is read: log 17), an entry sent and a delivery staged; the commit of one delivery, after which SSYNC has
returned; a replay that restores the commit, and one refused. -/
def Obligations.UnitAndSuperstepSteps : Prop :=
  ∀ (s : State) (job c n k i pick at_ : Nat) (j : Job) (l : Launch) (row : List Nat) (rc e : List Byte) (d : Staged) (m : Held)
    (ms : List Held) (us : List Nat) (p : Loc) (t0 : Strand) (w : Word),
    let h := 8 * c + n
    let now (t : State) (P : Job → Prop) : Prop := ∃ q, t.job? job = some q ∧ P q
    (s.job? job = some j → s.dispatchChoice j = some (l, c) → l.image = none → s.freeStrand c = some n →
      ∃ t, exec (.unitDispatch job) s = .next t ∧ t.mem = s.mem ∧ (t.strand h).status = .ready ∧ (t.strand h).mode = .u ∧
        (t.strand h).pc = l.entry ∧ (t.strand h).getX 10#5 = BitVec.ofNat 64 l.placed ∧ (t.strand h).getX 11#5 = l.arg ∧
        (t.strand h).stvec = j.stvec ∧ (∀ r : BitVec 5, r ≠ 10#5 → r ≠ 11#5 → (t.strand h).getX r = 0#64) ∧
        (t.strand h).unit = some { uid := s.nextUid, job := job, launch := l.ticket, index := l.placed }) ∧
    (s.job? job = some j → s.dispatchChoice j = none → exec (.unitDispatch job) s = .next s) ∧
    (s.job? job = some j → s.jobDone j = true →
      ∃ t, exec (.jobEnd job) s = .next t ∧ t.mem = s.mem ∧ t.job? job = none ∧
        ∀ c ∈ j.cores, (t.core c).job = none ∧ (t.core c).mailbox = [] ∧ (t.core c).ops = [] ∧
          (t.core c).slots = Vector.replicate 4 ComplexSlot.reset) ∧
    (s.job? job = some j → s.jobDone j = false → exec (.jobEnd job) s = .next s) ∧
    (s.me.status = .parked (.cancel us k) → s.anyLives us = false →
      ∃ t, exec .cancelReturn s = .next t ∧ t.me.status = .ready ∧ t.me.log = s.me.log ++ [.val (BitVec.ofNat 512 k) []] ∧
        t.me.pc = s.me.pc ∧ t.mem = s.mem) ∧
    ((s.core c).held = m :: ms → (s.core c).diverts = false → coreOf m.msg.strand = c → (s.core c).hasRoom m.msg.strand = true →
      s.unitLives m.msg.strand m.msg.uid = true → m.op = none → m.cmd = false →
      ∃ t, exec (.mailboxPlace c) s = .next t ∧ t.mem = s.mem ∧ (t.core c).held = ms ∧
        (t.core c).mailbox = (s.core c).mailbox ++ [{ m.msg with shared := !(s.core c).reservedFree m.msg.strand }]) ∧
    (s.job? job = some j → j.det = true → j.pouring = false → j.chosen = none → s.allArrived job j = true →
      j.cores.findSome? s.recordOf = some rc → fieldOf rc 0 1 = 1 →
      ∃ t, exec (.scheduleChoice job) s = .next t ∧ t.mem = s.mem ∧
        now t fun q => q.chosen.map Prod.fst = some 0 ∧ q.pourFrom = some ((j.lastArrival / 128 + 3) * 128)) ∧
    (s.job? job = some j → j.chosen = some (pick, row) → j.pourFrom = some at_ → j.pouring = false → at_ ≤ s.cycle →
      ∃ t, exec (.pourBegin job) s = .next t ∧ t.mem = s.mem ∧ (∀ c ∈ j.cores, (t.core c).outbox = []) ∧
        now t fun q => q.pouring = true ∧ q.toSend = j.cores.flatMap fun c => (s.planOf c pick).map fun e => (c, e)) ∧
    (s.job? job = some j → j.toSend[k]? = some (c, e) → j.pouring = true → j.slotOpen c s.cycle e = true →
      ∃ t, exec (.pourEntrySend job k) s = .next t ∧ t.mem = s.mem ∧
        now t fun q => q.toSend = j.toSend.eraseIdx k ∧ q.flying = j.flying ++ (s.delivery j c e).toList) ∧
    (s.job? job = some j → j.flying[k]? = some (c, d) → (∀ x ∈ j.flying.take k, x.1 ≠ c ∨ x.2.sameSender d = false) →
      ∃ t, exec (.pourDeliveryStage job k) s = .next t ∧ t.mem = s.mem ∧ (t.core c).staged = (s.core c).staged ++ [d] ∧
        now t fun q => q.flying = j.flying.eraseIdx k) ∧
    (s.job? job = some j → j.chosen = some (pick, row) → j.pouring = true → j.toSend = [] → j.flying = [] → j.cores = [c] →
      (s.core c).staged = [d] → d.loc = some p → d.poison = [] → s.anyPoison p d.data.length = false → n < 6 →
      ∃ t, exec (.ssyncCommit job) s = .next t ∧ t.bytesAt p d.data.length = d.data ∧ (t.core c).staged = [] ∧
        ((s.strand h).arrived = some w → (t.strand h).arrived = none ∧ (t.strand h).synced = some pick) ∧
        now t fun q => q.pouring = false ∧ q.chosen = none ∧ q.curSched = pick) ∧
    (s.job? job = some j → s.canReplay j = true → j.cores = [c] → c < 4096 → i < 6 → (s.core c).atCommit = [(i, t0)] →
      ∃ t, exec (.superstepReplay job) s = .next t ∧ t.strand (8 * c + i) = t0 ∧ (t.core c).path = [] ∧ (t.core c).ops = [] ∧
        (t.core c).mailbox = (s.core c).mailboxAt ∧ now t fun q => q.replays = j.replays + 1 ∧ q.struck = none) ∧
    (s.job? job = some j → s.canReplay j = false →
      exec (.superstepReplay job) s = .next (s.logReplay (j.cores.headD 0) 6))

/-- R327, R331 to R338, R341: ANSA 1 and 2 release a strand parked on a forward; ENGACT lets a parked operation go on, or
ends it with status 8, at its row or at the write that it is parked on, and is ignored where it names no parked operation;
EXTINT raises IPEND.EXT; a fault-queue entry that has freed takes the record of a forward. PCTL: notice and withdrawal, the
save's begin, with which a WFI ends at once and a wait as the cycle ends, its end, the resume and the drain of the spill
queue. ICMD: an entry inserted, one refused, and a word stored at its home. That EXT and SW count anew from the save on, and
that a higher-order operation reads its inputs again, are the model's choices (log 36, log 29); the root of an ASID is
found, and a store with none refused, as log 35 reads R341. -/
def Obligations.KernelWordResults : Prop :=
  ∀ (s t u : State) (core seq b c k kc x lv : Nat) (e : PathEntry) (v : Word) (o : EngineOp) (g : Vector Word 13) (rm : BitVec 3)
    (row pos : Nat) (f : Bool) (w : Wait) (sp : Spill) (r : List Spill) (root leaf : Word) (p : Loc) (y : Vec)
    (a : Access) (fin : Outcome),
    let n := 512 * b + c
    let h := 8 * n + k
    let control (i : Nat) : Nat := 0x200000 + 64 * c + i
    let puts (i : Nat) (v : Word) := writes s core seq e (.priv b) i v
    let insert (v : Word) := puts (0x500000 + 32 * kc + 0x18) v
    let m := 64 * b + kc
    let q := s.cluster m
    let size : BitVec 2 := q.iasid.extractLsb' 16 2
    let page := q.iva.toNat / 4096 * 4096
    let wrong := (if q.idata.getLsbD 1 then leafMalformed q.idata (sizeExp size) = true
      else sizeExp size < 21 ∨ tableMalformed q.idata = true) ∨ page % 2 ^ sizeExp size ≠ 0
    let setIcmd (s : State) (v : Word) : State := s.modCluster m fun q => { q with icmd := v }
    b < 8 → c < 512 → k < 6 → kc < 64 →
    (puts (0x100000 + 96 * c + 16 * k + 8) 1#64 → (s.strand h).status = .parked (.forward f) → (s.core n).pstate ≠ .saved →
      exec (.ansaResume core seq) s = .next (answered ((s.modStrand h fun t =>
        { (t.setX 10#5 t.ansv).advance with ansa := 0 }).wake h) core e Ans.unit)) ∧
    (puts (0x100000 + 96 * c + 16 * k + 8) 2#64 → (s.strand h).status = .parked (.forward f) → (s.core n).pstate ≠ .saved →
      exec (.ansaEnd core seq) s = .next (answered ((s.modStrand h fun t => { t with ansa := 0 }).endUnit h .faulted)
        core e Ans.unit)) ∧
    (puts (control 0x10) v → v.toNat / 2 ^ 16 % 4 = 1 → (s.core n).op? (v.toNat % 2 ^ 16) = some o → o.parked = true →
      exec (.engactRetry core seq) s = .next (answered (s.modOp n o.id fun o =>
        if o.done = none ∧ (readsDone o.reads).isSome = true then { o with parked := false, reads := [], kind := o.kind.again }
        else { o with parked := false }) core e Ans.unit)) ∧
    (puts (control 0x10) v → ((s.core n).op? (v.toNat % 2 ^ 16)).all (fun o => !o.parked) = true →
      (v.toNat / 2 ^ 16 % 4 = 1 → exec (.engactRetry core seq) s = .next (answered s core e Ans.unit)) ∧
      (v.toNat / 2 ^ 16 % 4 = 2 → exec (.engactEnd core seq) s = .next (answered s core e Ans.unit))) ∧
    (puts (control 0x10) v → v.toNat / 2 ^ 16 % 4 = 2 → (s.core n).op? (v.toNat % 2 ^ 16) = some o → o.parked = true →
      s.parkedWrite n o.id o.mode = none → o.done = none → o.kind = .copy g rm row pos → exec (.engactEnd core seq) s =
        .next (answered ((s.modOp n o.id fun o => { o with parked := false }).modOp n o.id fun p =>
          { p with reads := [], done := some { status := 8, word1 := BitVec.ofNat 64 pos, flags := o.flags } }) core e Ans.unit)) ∧
    (puts (control 0x18) v → ∃ t, exec (.extintWrite core seq) s = .next t ∧ t.mem = s.mem ∧
      (t.strand h).ipend = (s.strand h).ipend ||| (if v.getLsbD k then 0x20#64 else 0#64)) ∧
    (s.me.status = .parked (.forward false) → 1 ≤ (s.die (dieOf s.here)).faultRoom →
      ∃ t, exec .faultQueueEntry s = .next t ∧ t.me.status = .parked (.forward true) ∧ t.mem = s.mem ∧
        (t.die (dieOf s.here)).fqTail = (s.die (dieOf s.here)).fqTail + 1) ∧
    (puts (control 0) 1#64 → (s.core n).pstate = .running →
      ∃ t, exec (.pctlNotice core seq) s = .next t ∧ t.mem = s.mem ∧ (t.strand h).ipend.getLsbD 4 = true) ∧
    (puts (control 0) 4#64 → (s.core n).pstate = .running →
      ∃ t, exec (.pctlWithdraw core seq) s = .next t ∧ t.mem = s.mem ∧ (t.strand h).ipend.getLsbD 4 = false) ∧
    (puts (control 0) 2#64 → (s.core n).pstate = .running →
      ∃ t, exec (.pctlPreempt core seq) s = .next t ∧ t.mem = s.mem ∧ (t.core n).pstate = .saving ∧
        ((s.strand h).status = .parked .wfi → (t.strand h).status = .ready ∧ (t.strand h).inst = none) ∧
        ((s.strand h).status = .parked (.wait w) → (t.strand h).status = .parked (.wait w) ∧
          ((t.endStrand h).strand h).status = .ready ∧ ((t.endStrand h).strand h).inst = none ∧
          ((t.endStrand h).strand h).epc = (s.strand h).pc)) ∧
    (s.savable n = true → s.saveContext n = some u → u.pushFault (dieOf n) [u.savedRecord n] = some t →
      ∃ x, exec (.coreSaveComplete n) s = .next x ∧ (x.core n).pstate = .saved ∧ x.mem = t.mem ∧
        (x.core n).cmds.all (fun k => k.done.isSome || !k.started) = true ∧
        (x.strand h).ipend = (t.strand h).ipend &&& ~~~0x22#64) ∧
    (puts (control 0) 3#64 → (s.core n).pstate = .saved →
      ∃ t, exec (.pctlResume core seq) s = .next t ∧ ((t.core n).pstate = .restoring ∨ (t.core n).pstate = .running) ∧
        ((s.core n).spill ≠ [] → (t.core n).pstate = .restoring)) ∧
    ((s.core n).pstate = .restoring → (s.core n).spill = sp :: r → sp.msg = none → sp.queue < 16 →
      (s.chanQueue n sp.queue).held < (s.chanQueue n sp.queue).entries → (s.chanQueue n sp.queue).entryBytes = sp.size →
      (s.chanQueue n sp.queue).notify = 0 →
      ∃ t, exec (.spillDrain n) s = .next t ∧ (t.core n).spill = r ∧
        (t.core n).pstate = (if r.isEmpty then .running else .restoring) ∧
        (t.chanQueue n sp.queue).tail = (s.chanQueue n sp.queue).tail + 1) ∧
    (insert 1#64 → ¬ wrong → ∃ t, exec (.icmdInsert core seq) s = .next t ∧ t.mem = s.mem ∧ (t.cluster m).icmd = 0#64 ∧
      (t.cluster m).ctu = ctuInsert q.ctu
        { asid := q.iasid.toNat % 2 ^ 16, size := size, page := page / 2 ^ sizeExp size, leaf := q.idata }) ∧
    (insert 1#64 → wrong → exec (.icmdInsert core seq) s = .next (answered (setIcmd s 1#64) core e Ans.unit)) ∧
    (insert 2#64 → s.rootOfAsid b (q.iasid.toNat % 2 ^ 16) = some root → q.iva.toNat < 2 ^ 55 →
      s.walk root q.iva.toNat = .leaf leaf x lv p →
      let word : Access := { strand := 0, answers := false, op := none, va := q.iva, loc := leafPlace leaf x q.iva.toNat, len := 8
                             kind := .mstore q.idata, sc := none, hops := [] }
      s.perform core word = .done t y →
      exec (.icmdMstore core seq) s = .next (answered (setIcmd (t.newPass word) 0#64) core e Ans.unit)) ∧
    (insert 2#64 → s.rootOfAsid b (q.iasid.toNat % 2 ^ 16) = none →
      exec (.icmdMstore core seq) s = .next (answered (setIcmd s 1#64) core e Ans.unit)) ∧
    (puts (control 0x10) v → v.toNat / 2 ^ 16 % 4 = 2 → (s.core n).op? (v.toNat % 2 ^ 16) = some o → o.parked = true →
      s.parkedWrite n o.id o.mode = some a → a.ending = some fin → exec (.engactEnd core seq) s =
        .next (answered (s.failWrite n o.id { fin with status := 8 } a) core e Ans.unit))

/-- R309, R310, R340, R368 to R375: a frame sent, kept, counted and, of TC1, taken from its receiver's grants; a 17th TC0
frame of 64 held back; TC0 first, then TC1 and TC2 in proportion 15 to 1; the class of a peer access; a frame accepted, one
that is not, and a NAK; the replay limit and the loss of lock, which retrain; the handshake from the PHY's end to a good or
a failed attempt; LCMD. A good attempt returns to UP at the target speed; a failed one is retried at the next lower speed,
and the fourth leaves the link DOWN. The speed of the retraining after a loss of lock or at the replay limit, and the count
that LCMD's RETRAIN begins, are as log 38 reads R374 and R375. R328, R329, R241: a request from another module: no VALID
entry of the job table has its key, reason 2; it does not translate, with the reason; or it stands as an access to the place
where it translates, which its home performs in its turn, in the queue of its requester and path (that there are such queues
is the model's choice, log 64). -/
def Obligations.LinkResults : Prop :=
  (∀ (s : State) (port core seq tc peer sent n : Nat) (e : PathEntry) (data bytes : List Byte) (lid : BitVec 32)
      (rest : List (Nat × Nat)) (f g : Nat × Nat × List Byte),
      let q := s.port port
      let next (i : Instr) (P : Port → Prop) : Prop := ∃ t, exec i s = .next t ∧ t.mem = s.mem ∧ t.strands = s.strands ∧ P (t.port port)
      let makes (i : Instr) (p : Port) : Prop := exec i s = .next (s.modPort port fun _ => p)
      let up := q.lstate = 2#2
      let tc0 := (q.recent.filter (· == 0#2)).length
      let last := (q.recent.filter fun c => c == 1#2 || c == 2#2).take 15
      let slots := q.buf.toList.getD tc 0 - (q.sent.toList.getD tc 0 - q.freedByPeer.toList.getD tc 0).toNat
      let h := headerOf bytes
      let kept := q.retry.filter fun f => decide (1 ≤ (f.seq - BitVec.ofNat 12 h.ack).toNat ∧ (f.seq - BitVec.ofNat 12 h.ack).toNat ≤ 2047)
      let fits := frameGood bytes = true ∧ h.seq = (q.ack + 1).toNat
      let hardware := (s.die (port / 2)).mgmt.getLsbD 3 = true
      let attempts (p : Port) (target : BitVec 2) : Prop := p.lstate = 1#2 ∧ p.target = target ∧
        (hardware → p.shake = .phy ∧ p.attempt = q.attempt + 1 ∧ p.peerLid = none) ∧ (¬ hardware → p.shake = .idle ∧ p.stepWait = true)
      let fails (p : Port) : Prop := p.fails = q.fails + 1 ∧
        (q.fails < 3 → attempts p (if q.target.toNat < 2 then q.target + 1 else 2#2)) ∧ (3 ≤ q.fails → p.lstate = 0#2 ∧ p.shake = .idle)
      let good (p : Port) : Prop := p.lstate = 2#2 ∧ p.speed = q.target ∧ p.fails = 0 ∧ p.shake = .idle ∧
        p.retry.map (fun f => (f.seq, f.data)) = q.retry.map fun f => (f.seq, f.data)
      let peerRec := BitVec.ofNat 64 (fieldOf bytes 16 8)
      let judged := s.judge q peerRec (BitVec.ofNat 64 (fieldOf bytes 24 8))
      let command (v : Word) := writes s core seq e (.priv 8) (0x100000 + 0x100 * port + 0x18) v
      let left := tableGet 0 q.announced peer
      let have_ := tableGet [] q.granted peer
      port < 16 →
      (up → q.wait = [] → q.retry.length < 512 → data.length ≤ 236 → tc < 3 → 0 < slots → (tc = 0 → tc0 < 16) →
        (tc = 1 → data.length ≤ have_.sum) →
        ∃ t, exec (.linkFrameSend port 0 (.other tc) peer data) s = .next t ∧ (t.port port).wait = [] ∧ (t.port port).seq = q.seq + 1 ∧
          (t.port port).retry = q.retry ++ [{ seq := q.seq + 1, tc := BitVec.ofNat 2 tc, kind := 0#2, data := data, sent := 1 }] ∧
          (t.port port).sent.toList.getD tc 0 = q.sent.toList.getD tc 0 + 1 ∧
          (tc = 1 → (tableGet [] (t.port port).granted peer).sum = have_.sum - data.length)) ∧
      (q.wait = [] → 16 ≤ tc0 → data.length ≤ 236 →
        makes (.linkFrameSend port 0 (.other 0) peer data) { q with wait := [(0, peer, data)] }) ∧
      (q.ready = true → tc < 3 → data.length ≤ 236 → q.candidate 0 = some f →
        makes (.linkFrameSend port 1 (.other tc) peer data) (q.serve f)) ∧
      (q.ready = true → tc < 3 → data.length ≤ 236 → q.candidate 0 = none → q.candidate 1 = some f → q.candidate 2 = some g →
        makes (.linkFrameSend port 1 (.other tc) peer data)
          (q.serve (if last.length = 15 ∧ ∀ c ∈ last, c = 1#2 then g else f))) ∧
      (¬ up → s.pathEntry core seq = some e → (∃ m i, e.acc.loc.home = .peer m i) → data.length ≤ 236 →
        makes (.linkFrameSend port 0 (.access core seq) peer data)
          { q with wait := q.wait ++ [(if e.acc.bulk then 1 else 0, peer, data)] }) ∧
      (up → fits → next (.linkFrameReceive port true bytes) fun p => p.ack = q.ack + 1 ∧ p.nak = false ∧
        p.retry = (if h.nak then kept.map Frame.again else kept)) ∧
      (up → ¬ fits → makes (.linkFrameReceive port true bytes) { q with nak := true }) ∧
      (up → makes (.linkFrameReceive port false bytes) { q with nak := true }) ∧
      (up → (∃ f ∈ q.retry, 16 ≤ f.sent) → ∃ t, exec (.linkReplayLimit port) s = .next t ∧ attempts (t.port port) q.speed) ∧
      (up → (∀ f ∈ q.retry, f.sent < 16) → exec (.linkReplayLimit port) s = .next s) ∧
      (up → next (.phyLockLoss port) fun p => attempts p q.speed) ∧
      (q.lstate = 1#2 → q.shake = .phy → next (.phyTrainComplete port) fun p =>
        p.shake = .hello ∧ p.shakeFrom = s.cycle ∧ p.lastHello = s.cycle ∧ p.lrec.toNat / 2 ^ 48 = q.attempt.toNat) ∧
      (q.shake = .hello → q.peerLid = none → q.lastHello + 1024 ≤ s.cycle → makes (.helloSend port) { q with lastHello := s.cycle }) ∧
      (q.shake = .hello → q.peerLid = none → makes (.helloReceive port lid)
        { q with peerLid := some lid, shake := if (s.lid port).toNat < lid.toNat then .offered else .hello }) ∧
      (¬ up → q.shake = .hello → next (.offerReceive port bytes) fun p =>
        p.shake = .answered ∧ p.prec = peerRec ∧ p.peerLid = some (BitVec.ofNat 32 (fieldOf bytes 32 4))) ∧
      (up → ∃ t, exec (.offerReceive port bytes) s = .next t ∧ fails (t.port port)) ∧
      (q.shake = .offered → judged = true → next (.answerReceive port bytes) fun p => good p ∧ p.prec = peerRec) ∧
      (q.shake = .offered → judged = false → ∃ t, exec (.answerReceive port bytes) s = .next t ∧ fails (t.port port)) ∧
      (q.shake = .answered → judged = true → next (.confirmReceive port bytes) fun p => good p ∧ p.prec = peerRec) ∧
      (q.shake = .answered → judged = false → ∃ t, exec (.confirmReceive port bytes) s = .next t ∧ fails (t.port port)) ∧
      (q.lstate = 1#2 → q.shake = .hello ∨ q.shake = .offered ∨ q.shake = .answered → q.shakeFrom + 2 ^ 20 < s.cycle →
        ∃ t, exec (.trainingTimeout port) s = .next t ∧ fails (t.port port)) ∧
      (command 1#64 → q.stepWait = true → exec (.lcmdStep core seq) s = .next (answered (s.modPort port fun q =>
        { q with shake := .phy, attempt := q.attempt + 1, prec := 0, peerLid := none, stepWait := false }) core e Ans.unit)) ∧
      (command 2#64 → exec (.lcmdRetrain core seq) s = .next (answered (s.modPort port fun q =>
        { q with fails := 0, lstate := 1, target := 0, shake := .phy, attempt := q.attempt + 1, prec := 0, peerLid := none
                 stepWait := false }) core e Ans.unit)) ∧
      (command 3#64 → exec (.lcmdDown core seq) s = .next (answered (s.modPort port fun q =>
        { q with lstate := 0, shake := .idle, stepWait := false }) core e Ans.unit)) ∧
      next (.tc1Announce port false peer n) (fun p => tableGet 0 p.announced peer = left + n) ∧
      (q.sources = [] → 0 < n → next (.tc1Announce port true peer n) fun p => p.sources = [(peer, n)]) ∧
      (q.sources = (sent, n) :: rest → next (.tc1Grant port true peer) fun p =>
        p.sources = if n ≤ 4096 then rest else rest ++ [(sent, n - 4096)]) ∧
      (0 < left → have_.length < 64 → next (.tc1Grant port false peer) fun p =>
        tableGet 0 p.announced peer = left - 4096 ∧ tableGet [] p.granted peer = have_ ++ [min left 4096]) ∧
      (64 ≤ have_.length → makes (.tc1Grant port false peer) q)) ∧
  (∀ (s t : State) (die src strand path len op reason asid : Nat) (hub : Bool) (key : BitVec 24) (va root : Word) (data : List Byte)
      (k : AccKind) (l : Loc),
      let request : Instr := .gatewayRequest die src hub strand path key va len op data
      let a := va.toNat % 2 ^ 45
      let queue := 4132 + (src % 2 ^ 22 * 2 + if hub then 1 else 0) * 16 + path % 16
      let places := s.outsidePlaces root k.need true ((s.die die).mgmt.getLsbD 1) (pieces a len)
      let logged (s : State) (cause : Nat) : State := s.logViolation die va src hub (strand % 8) (path % 16) cause
      requestKind op data = some k →
      ((s.die die).jobEntry key = none → exec request s = .next (logged s 2)) ∧
      ((s.die die).jobEntry key = some (asid, root) → places = (.error reason, t) → exec request s = .next (logged t reason)) ∧
      ((s.die die).jobEntry key = some (asid, root) → places = (.ok [(l, len)], t) → data.length ≤ len →
        exec request s = .next (t.enterPath queue .core
          { strand := 8 * queue, answers := false, op := none, va := BitVec.ofNat 64 a, loc := l, len := len, kind := k, sc := none
            hops := [], asid := asid })))

/-- R22 to R26: a write from outside into memory, with its check before it, and a read, which stand as accesses in their
port's queue (log 64), and one of a requester that no entry names; interrupt messages, poisoned or not, and another write
into their window (that a poisoned one counts is log 53's choice); VSTAT cleared by a store with bit 0 clear (that its
reserved bits do not count is log 34's); a completion that is good, one that is an error or comes too late, and none in
time: all ones and a violation logged; RPCMD, and a link that comes up or is lost (what these leave in RPSTAT is presumed,
log 46). -/
def Obligations.PcieResults : Prop :=
  ∀ (s t : State) (root rid core seq k v len width rate asid : Nat) (e : PathEntry) (addr ptroot w : Word) (data : List Byte) (d : BitVec 32)
    (ps : List (Loc × Nat)) (l : Loc) (q : PcieReq) (ok poisoned : Bool),
    let r := s.root root
    let entry := tableGet 0 s.hub.vtab (d.toNat % 2048)
    let valid := entry.getLsbD 63 = true ∧ entry.toNat % 2 ^ 12 < 32
    let command (v : Word) := writes s core seq e (.priv 8) (0x2000000 + 0x10000 * root + 8) v
    let sets (v : Word) : State := s.modRoot root fun r => { r with rpstat := v }
    let ends (x : Ans) (t : State) : Prop := (t.root root).pending = r.pending.eraseIdx k ∧ t.mem = s.mem ∧
      (t.core (coreOf q.strand)).answers = (s.core (coreOf q.strand)).answers ++ [(q.strand, x)]
    let queue := 4128 + root
    let within := r.requester rid = some (asid, ptroot) ∧ addr.toNat + len ≤ 2 ^ 55
    let places (need : Need) := s.outsidePlaces ptroot need false true (pieces addr.toNat len)
    let part (t : State) (k : AccKind) (l : Loc) : Access :=
      { strand := 8 * queue, answers := false, op := some (t.core queue).seq, va := addr, loc := l, len := len, kind := k
        sc := none, hops := [], asid := asid, root := some ptroot }
    let ones : Ans := .val (vecOfBytes (List.replicate q.len 0xFF#8)) []
    root < 4 →
    (r.inWindow addr = false → within → len ≤ 512 → data.length = len → places .write = (.ok [(l, len)], t) →
      exec (.pcieInboundMemoryRequest root rid addr true poisoned len data) s =
        .next ((t.enterPath queue .core (part t .check l)).enterPath queue .core (part t (.store data none poisoned) l))) ∧
    (within → len ≤ 4096 → places .read = (.ok ps, t) →
      exec (.pcieInboundMemoryRequest root rid addr false poisoned len data) s =
        .next (t.enterPieces queue asid (some ptroot) (some (t.core queue).seq) (.load .plain false) ps addr.toNat)) ∧
    (r.inWindow addr = false → r.requester rid = none → len ≤ 512 →
      exec (.pcieInboundMemoryRequest root rid addr true poisoned len data) s = .next (s.logPcie root addr)) ∧
    (r.inWindow addr = true → exec (.pcieInboundMemoryRequest root rid addr true poisoned 4 data) s =
      exec (.msiMessage root rid addr (BitVec.ofNat 32 (fieldOf data 0 4))) s) ∧
    (r.inWindow addr = true → len ≤ 512 → len ≠ 4 →
      exec (.pcieInboundMemoryRequest root rid addr true poisoned len data) s = .next (s.logPcie root addr)) ∧
    (r.inWindow addr = true → valid →
      ∃ t, exec (.msiMessage root rid addr d) s = .next t ∧ t.mem = s.mem ∧ tableGet 0 t.hub.vstat (d.toNat % 2048) = 1#64 ∧
        (t.strand (8 * (4096 + entry.toNat % 2 ^ 12))).ipend.getLsbD 5 = true) ∧
    (r.inWindow addr = true → ¬ valid → exec (.msiMessage root rid addr d) s = .next (s.logPcie root addr)) ∧
    (v < 2048 → w.getLsbD 0 = false → writes s core seq e (.priv 8) (0x3004000 + 8 * v) w → exec (.vstatClear core seq) s =
      .next (answered { s with hub := { s.hub with vstat := tableErase s.hub.vstat v } } core e Ans.unit)) ∧
    (r.pending[k]? = some q → s.cycle < q.start + 65000000 → ∃ t, exec (.pcieCompletion root k true false data) s = .next t ∧
      ends (.val (vecOfBytes (data.take q.len)) []) t) ∧
    (r.pending[k]? = some q → s.cycle < q.start + 65000000 → q.write = false →
      ∃ t, exec (.pcieCompletion root k true true data) s = .next t ∧
      ends (.trap { code := 0x11, badva := q.va, tval2 := 0 }) t) ∧
    (r.pending[k]? = some q → ok = false ∨ q.start + 65000000 ≤ s.cycle → ∃ t, exec (.pcieCompletion root k ok poisoned data) s = .next t ∧ ends ones t ∧
      (t.die 8).vlog.head = (s.die 8).vlog.head + 1) ∧
    (r.pending[k]? = some q → q.start + 65000000 ≤ s.cycle →
      ∃ t, exec (.pcieCompletionTimeout root k) s = .next t ∧ ends ones t ∧ (t.die 8).vlog.head = (s.die 8).vlog.head + 1) ∧
    (r.pending[k]? = some q → s.cycle < q.start + 65000000 → exec (.pcieCompletionTimeout root k) s = .next s) ∧
    (command 1#64 → r.rpstat.toNat % 4 = 2 → exec (.rpcmdRetrain core seq) s = .next (answered (sets 1#64) core e Ans.unit)) ∧
    (command 2#64 → r.rpstat.toNat % 4 = 2 → exec (.rpcmdHotReset core seq) s = .next (answered (sets 1#64) core e Ans.unit)) ∧
    (command 3#64 → exec (.rpcmdDisable core seq) s = .next (answered (sets 0#64) core e Ans.unit)) ∧
    (command 4#64 → r.rpstat.toNat % 4 = 0 → exec (.rpcmdEnable core seq) s = .next (answered (sets 1#64) core e Ans.unit)) ∧
    (r.rpstat.toNat % 4 = 1 → width = 1 ∨ width = 4 ∨ width = 8 ∨ width = 16 → rate ≤ 5 →
      exec (.rootPortLinkUp root width rate) s =
        .next (sets (BitVec.ofNat 64 (2 + width * 2 ^ 2 + rate * 2 ^ 8 + (if rate = 5 then 2 ^ 11 else 0))))) ∧
    exec (.rootPortLinkLoss root) s = .next (sets 0#64)

/-- R36, R376 to R378: the image of the boot flash is started on control core 0 in M mode and measured if it passes, else
recovery mode is entered and event 0x0A logged in die 8; a recovery image likewise, and one that fails changes nothing; an
attestation request uses a leaf, and is refused with none left; a junction trip and a coolant limit stop the module; the
module reset. Where the image starts is free (log 4); what else the events name, that a failed recovery image changes
nothing, that the thermal stops log an event in die 8, and that a reset keeps memory are the model's choices (logs 1, 2 and
43). -/
def Obligations.ModuleResults : Prop :=
  ∀ (s : State) (image nonce : List Byte) (number : BitVec 10) (die : Nat),
    let starts (module : Nat) (t : State) : Prop := t.hub.booted = true ∧ t.hub.recovery = false ∧ t.hub.module = module ∧
      t.hub.log = s.hub.log ++ [sha256 image] ∧ t.hub.running = sha256 (s.hub.running ++ sha256 image) ∧
      (t.strand 32768).status = .ready ∧ (t.strand 32768).mode = .m
    (s.hub.booted = false → s.hub.recovery = false →
      ∃ t, exec (.boot image number) s = .next t ∧ t.mem = s.mem ∧
        if s.hub.imageGood image then starts number.toNat t
        else t.hub.recovery = true ∧ t.hub.booted = false ∧ (t.die 8).elog = ((s.logError 8 0#64 0 7 0x0A).die 8).elog) ∧
    (s.hub.recovery = true → ∃ t, exec (.recoveryImageReceive image) s = .next t ∧ t.mem = s.mem ∧
      if s.hub.imageGood image then starts s.hub.module t else t = s) ∧
    (nonce.length = 32 → s.hub.leaf < 2 ^ 20 → exec (.attestationRequest nonce) s =
      .next { s with hub := { s.hub with leaf := s.hub.leaf + 1, attested := some (sha256 (s.hub.running ++ nonce), s.hub.leaf) } }) ∧
    (2 ^ 20 ≤ s.hub.leaf → exec (.attestationRequest nonce) s = .next { s with hub := { s.hub with attested := none } }) ∧
    (die ≤ 8 → ∃ t, exec (.junctionTrip die) s = .next t ∧ t.hub.stopped = true ∧ t.mem = s.mem ∧ (t.die 8).elog ≠ (s.die 8).elog) ∧
    (∃ t, exec .coolantLimitStop s = .next t ∧ t.hub.stopped = true ∧ t.mem = s.mem ∧ (t.die 8).elog ≠ (s.die 8).elog) ∧
    ∃ t, exec .moduleReset s = .next t ∧ t.mem = s.mem ∧ t.tags = s.tags ∧ t.strands = [] ∧ t.cores = [] ∧ t.clusters = [] ∧
      t.dies = [] ∧ t.jobs = [] ∧ t.hub.stopped = false ∧ t.hub.booted = false

/-! The machine as a whole. -/

/-- R36, R86, R106, R137, R151, R169, R183, R188, R192, R258, R275, R279, R283, R290, R305, R320, R343, R349, R366 and R26:
the reset values that the spec states; and those of log 2 (the model's choice, where the spec states none): no unit, an
empty mailbox, the watch off, PSTATE RUNNING, free mutexes, event lines at 0, no job; and R36, R37: x0 and p0 read as a
constant and discard writes. Memory at reset has its canonical form, and so have the word tags. -/
def Obligations.ResetState : Prop :=
  (∀ h c k : Nat,
    let t := State.reset.strand h
    let q := State.reset.core c
    let n := State.reset.cluster k
    (∀ r, t.getX r = 0#64 ∧ t.getF r = 0#64 ∧ t.getV r = 0#512) ∧ (∀ r, r ≠ 0#3 → t.getP r = 0#64) ∧
    t.getP 0#3 = BitVec.allOnes 64 ∧ (∀ r, t.getC r = CochainReg.unbound) ∧ t.fflags = 0 ∧ t.frm = 0 ∧ t.fte = 0 ∧
    t.fnver = 3 ∧ t.wlim = 0x100000000#64 ∧ t.lcnt = 0 ∧ t.lbody = 0 ∧ t.ciprog = 0 ∧ t.cpstat = 0 ∧ t.sstatus = 0 ∧
    t.cause = 0 ∧ t.badva = 0 ∧ t.tval2 = 0 ∧ t.ien = 0 ∧ t.ipend = 0 ∧ t.timecmp = BitVec.allOnes 64 ∧
    t.ibp = Vector.replicate 4 0 ∧ t.unit = none ∧ t.watch = .off ∧ q.qmax = 0x10000#64 ∧ q.maccmask = 0 ∧
    q.guards = Vector.replicate 8 0 ∧ q.slots.toList.all (fun s => s.state == .empty && s.gen == 0) = true ∧
    q.landing.toList.all (fun l => !l.valid && !l.err) = true ∧ q.mailbox = [] ∧ q.groups = Vector.replicate 64 0 ∧
    q.pstate = .running ∧ n.acc.toList.all (fun a => a.bits == 0 && !a.poison) = true ∧ n.muwt = 0x11111111#64 ∧
    n.barriers = Vector.replicate 32 Barrier.reset ∧ n.mutexes = Vector.replicate 32 none ∧ n.lines = Vector.replicate 32 0 ∧
    State.reset.hub.vtab = [] ∧ State.reset.hub.vstat = [] ∧ State.reset.jobs = []) ∧
  Memory.wf State.reset.mem = true ∧ tableCanon WordTag.blank State.reset.tags = true ∧
  ∀ (t : Strand) (w : Word), t.getX 0#5 = 0#64 ∧ t.setX 0#5 w = t ∧ t.getP 0#3 = BitVec.allOnes 64 ∧ t.setP 0#3 w = t

/-- Every step keeps the canonical form of memory and of its tags, whatever the state that it starts from. -/
def Obligations.StepKeepsMemoryCanonical : Prop :=
  ∀ s t : State, Canonical s → step s = .next t → Canonical t

/-- R61, R63, R351: a step at an instruction boundary fetches and runs the word at the pc: on a compute core, from the own
unit scratch, with no event due, the bytes at the place of the pc as a little-endian word; the step is exec of what the word
decodes to, with the stream buffer filled by the block around it. A step whose instruction is under way goes on with it. A
device's move is exec of its instruction; time moves by what a tick says, and a cycle ends for the strands that wait. The
agenda of moves is the model's own (log 3). -/
def Obligations.StepRunsDecoded : Prop :=
  ∀ (s : State) (i : Instr) (w : Word32) (o h n m : Nat) (ms : List Move),
    let t := s.me
    let runs := s.agenda = [] ∧ s.slice = none ∧ s.hub.stopped = false ∧ (s.core s.here).pstate = .running ∧
      s.hub.absent.contains s.here = false ∧ (s.core s.here).active = true ∧ s.spent s.here = false ∧
      s.cur = 8 * s.here + (s.core s.here).run ∧ t.status = .ready
    let l : Loc := { home := .unit s.here, off := o }
    let block : Loc := { home := .unit s.here, off := o / 64 * 64 }
    (runs → t.inst = none → s.cancelled s.cur = false → s.interruptDue s.cur = none → t.breakpoint = none → t.log = [] →
      t.loopBody = none → t.stream = none → s.here < 4096 → t.pc = BitVec.ofNat 64 (0x0100000000000000 + o) →
      0x20000 ≤ o → o < 0x28000 → o % 4 = 0 → guardsPass (s.core s.here) t.mode t.pc.toNat 4 .fetch = true →
      (s.tagAt l).poison = false → s.natAt l 4 = w.toNat → decode w = .ok i →
      t.unusable = [] →
      step s = exec i (s.modMe fun t =>
        { t with stream := some (bufferOf (blockOf t.pc) (vecOfBytes (s.bytesAt block 64)) (s.blockPoison block)) })) ∧
    (runs → t.inst = some w → decode w = .ok i → step s = exec i s) ∧
    (s.hub.stopped = false → s.agenda = .event h i :: ms → encode i = none → step s = exec i { s with agenda := ms, cur := h }) ∧
    (s.hub.stopped = false → s.agenda = .tick n m :: ms →
      step s = .next ({ s with agenda := ms }.pass n m))

/-- R378 and the model's totality: every instruction has a next state in every state; and a step stops only where the
management controller has stopped the module and the next move is not its reset. That a stopped module takes no step is the
model's reading (log 3). -/
def Obligations.NoInstructionStops : Prop :=
  (∀ (i : Instr) (s : State), ∃ t, exec i s = .next t) ∧
  (∀ s : State, s.hub.stopped = false ∨ s.resetNext = true → ∃ t, step s = .next t) ∧
  ∀ s : State, s.hub.stopped = true → s.resetNext = false → step s = .fault .moduleStopped

end Claims
end

