-- ==== Sys2Proof/Laws/State.lean ====
section
/-! SUPPORT. What each update of the state and of a strand leaves alone: one lemma per field per update. -/

namespace Sys2Proof.Machine

/-! `setTag` changes `tags` only. -/

@[simp] theorem State.setTag_cur (s : State) (l : Loc) (t : WordTag) : (s.setTag l t).cur = s.cur := rfl
@[simp] theorem State.setTag_agenda (s : State) (l : Loc) (t : WordTag) : (s.setTag l t).agenda = s.agenda := rfl
@[simp] theorem State.setTag_slice (s : State) (l : Loc) (t : WordTag) : (s.setTag l t).slice = s.slice := rfl
@[simp] theorem State.setTag_cycle (s : State) (l : Loc) (t : WordTag) : (s.setTag l t).cycle = s.cycle := rfl
@[simp] theorem State.setTag_time (s : State) (l : Loc) (t : WordTag) : (s.setTag l t).time = s.time := rfl
@[simp] theorem State.setTag_free (s : State) (l : Loc) (t : WordTag) : (s.setTag l t).free = s.free := rfl
@[simp] theorem State.setTag_nextUid (s : State) (l : Loc) (t : WordTag) : (s.setTag l t).nextUid = s.nextUid := rfl
@[simp] theorem State.setTag_strands (s : State) (l : Loc) (t : WordTag) : (s.setTag l t).strands = s.strands := rfl
@[simp] theorem State.setTag_cores (s : State) (l : Loc) (t : WordTag) : (s.setTag l t).cores = s.cores := rfl
@[simp] theorem State.setTag_clusters (s : State) (l : Loc) (t : WordTag) : (s.setTag l t).clusters = s.clusters := rfl
@[simp] theorem State.setTag_dies (s : State) (l : Loc) (t : WordTag) : (s.setTag l t).dies = s.dies := rfl
@[simp] theorem State.setTag_hub (s : State) (l : Loc) (t : WordTag) : (s.setTag l t).hub = s.hub := rfl
@[simp] theorem State.setTag_jobs (s : State) (l : Loc) (t : WordTag) : (s.setTag l t).jobs = s.jobs := rfl
@[simp] theorem State.setTag_mem (s : State) (l : Loc) (t : WordTag) : (s.setTag l t).mem = s.mem := rfl
@[simp] theorem State.setTag_retry (s : State) (l : Loc) (t : WordTag) : (s.setTag l t).retry = s.retry := rfl

/-! `putRaw` changes `mem` only. -/

@[simp] theorem State.putRaw_cur (s : State) (l : Loc) (b : List Byte) : (s.putRaw l b).cur = s.cur := rfl
@[simp] theorem State.putRaw_agenda (s : State) (l : Loc) (b : List Byte) : (s.putRaw l b).agenda = s.agenda := rfl
@[simp] theorem State.putRaw_slice (s : State) (l : Loc) (b : List Byte) : (s.putRaw l b).slice = s.slice := rfl
@[simp] theorem State.putRaw_cycle (s : State) (l : Loc) (b : List Byte) : (s.putRaw l b).cycle = s.cycle := rfl
@[simp] theorem State.putRaw_time (s : State) (l : Loc) (b : List Byte) : (s.putRaw l b).time = s.time := rfl
@[simp] theorem State.putRaw_free (s : State) (l : Loc) (b : List Byte) : (s.putRaw l b).free = s.free := rfl
@[simp] theorem State.putRaw_nextUid (s : State) (l : Loc) (b : List Byte) : (s.putRaw l b).nextUid = s.nextUid := rfl
@[simp] theorem State.putRaw_strands (s : State) (l : Loc) (b : List Byte) : (s.putRaw l b).strands = s.strands := rfl
@[simp] theorem State.putRaw_cores (s : State) (l : Loc) (b : List Byte) : (s.putRaw l b).cores = s.cores := rfl
@[simp] theorem State.putRaw_clusters (s : State) (l : Loc) (b : List Byte) : (s.putRaw l b).clusters = s.clusters := rfl
@[simp] theorem State.putRaw_dies (s : State) (l : Loc) (b : List Byte) : (s.putRaw l b).dies = s.dies := rfl
@[simp] theorem State.putRaw_hub (s : State) (l : Loc) (b : List Byte) : (s.putRaw l b).hub = s.hub := rfl
@[simp] theorem State.putRaw_jobs (s : State) (l : Loc) (b : List Byte) : (s.putRaw l b).jobs = s.jobs := rfl
@[simp] theorem State.putRaw_tags (s : State) (l : Loc) (b : List Byte) : (s.putRaw l b).tags = s.tags := rfl
@[simp] theorem State.putRaw_retry (s : State) (l : Loc) (b : List Byte) : (s.putRaw l b).retry = s.retry := rfl

/-! `setStrand` changes `strands` only. -/

@[simp] theorem State.setStrand_cur (s : State) (h : Nat) (t : Strand) : (s.setStrand h t).cur = s.cur := rfl
@[simp] theorem State.setStrand_agenda (s : State) (h : Nat) (t : Strand) : (s.setStrand h t).agenda = s.agenda := rfl
@[simp] theorem State.setStrand_slice (s : State) (h : Nat) (t : Strand) : (s.setStrand h t).slice = s.slice := rfl
@[simp] theorem State.setStrand_cycle (s : State) (h : Nat) (t : Strand) : (s.setStrand h t).cycle = s.cycle := rfl
@[simp] theorem State.setStrand_time (s : State) (h : Nat) (t : Strand) : (s.setStrand h t).time = s.time := rfl
@[simp] theorem State.setStrand_free (s : State) (h : Nat) (t : Strand) : (s.setStrand h t).free = s.free := rfl
@[simp] theorem State.setStrand_nextUid (s : State) (h : Nat) (t : Strand) : (s.setStrand h t).nextUid = s.nextUid := rfl
@[simp] theorem State.setStrand_cores (s : State) (h : Nat) (t : Strand) : (s.setStrand h t).cores = s.cores := rfl
@[simp] theorem State.setStrand_clusters (s : State) (h : Nat) (t : Strand) : (s.setStrand h t).clusters = s.clusters := rfl
@[simp] theorem State.setStrand_dies (s : State) (h : Nat) (t : Strand) : (s.setStrand h t).dies = s.dies := rfl
@[simp] theorem State.setStrand_hub (s : State) (h : Nat) (t : Strand) : (s.setStrand h t).hub = s.hub := rfl
@[simp] theorem State.setStrand_jobs (s : State) (h : Nat) (t : Strand) : (s.setStrand h t).jobs = s.jobs := rfl
@[simp] theorem State.setStrand_mem (s : State) (h : Nat) (t : Strand) : (s.setStrand h t).mem = s.mem := rfl
@[simp] theorem State.setStrand_tags (s : State) (h : Nat) (t : Strand) : (s.setStrand h t).tags = s.tags := rfl
@[simp] theorem State.setStrand_retry (s : State) (h : Nat) (t : Strand) : (s.setStrand h t).retry = s.retry := rfl

/-! `modStrand` changes `strands` only. -/

@[simp] theorem State.modStrand_cur (s : State) (h : Nat) (f : Strand → Strand) : (s.modStrand h f).cur = s.cur := rfl
@[simp] theorem State.modStrand_agenda (s : State) (h : Nat) (f : Strand → Strand) : (s.modStrand h f).agenda = s.agenda := rfl
@[simp] theorem State.modStrand_slice (s : State) (h : Nat) (f : Strand → Strand) : (s.modStrand h f).slice = s.slice := rfl
@[simp] theorem State.modStrand_cycle (s : State) (h : Nat) (f : Strand → Strand) : (s.modStrand h f).cycle = s.cycle := rfl
@[simp] theorem State.modStrand_time (s : State) (h : Nat) (f : Strand → Strand) : (s.modStrand h f).time = s.time := rfl
@[simp] theorem State.modStrand_free (s : State) (h : Nat) (f : Strand → Strand) : (s.modStrand h f).free = s.free := rfl
@[simp] theorem State.modStrand_nextUid (s : State) (h : Nat) (f : Strand → Strand) : (s.modStrand h f).nextUid = s.nextUid := rfl
@[simp] theorem State.modStrand_cores (s : State) (h : Nat) (f : Strand → Strand) : (s.modStrand h f).cores = s.cores := rfl
@[simp] theorem State.modStrand_clusters (s : State) (h : Nat) (f : Strand → Strand) : (s.modStrand h f).clusters = s.clusters := rfl
@[simp] theorem State.modStrand_dies (s : State) (h : Nat) (f : Strand → Strand) : (s.modStrand h f).dies = s.dies := rfl
@[simp] theorem State.modStrand_hub (s : State) (h : Nat) (f : Strand → Strand) : (s.modStrand h f).hub = s.hub := rfl
@[simp] theorem State.modStrand_jobs (s : State) (h : Nat) (f : Strand → Strand) : (s.modStrand h f).jobs = s.jobs := rfl
@[simp] theorem State.modStrand_mem (s : State) (h : Nat) (f : Strand → Strand) : (s.modStrand h f).mem = s.mem := rfl
@[simp] theorem State.modStrand_tags (s : State) (h : Nat) (f : Strand → Strand) : (s.modStrand h f).tags = s.tags := rfl
@[simp] theorem State.modStrand_retry (s : State) (h : Nat) (f : Strand → Strand) : (s.modStrand h f).retry = s.retry := rfl

/-! `modMe` changes `strands` only. -/

@[simp] theorem State.modMe_cur (s : State) (f : Strand → Strand) : (s.modMe f).cur = s.cur := rfl
@[simp] theorem State.modMe_agenda (s : State) (f : Strand → Strand) : (s.modMe f).agenda = s.agenda := rfl
@[simp] theorem State.modMe_slice (s : State) (f : Strand → Strand) : (s.modMe f).slice = s.slice := rfl
@[simp] theorem State.modMe_cycle (s : State) (f : Strand → Strand) : (s.modMe f).cycle = s.cycle := rfl
@[simp] theorem State.modMe_time (s : State) (f : Strand → Strand) : (s.modMe f).time = s.time := rfl
@[simp] theorem State.modMe_free (s : State) (f : Strand → Strand) : (s.modMe f).free = s.free := rfl
@[simp] theorem State.modMe_nextUid (s : State) (f : Strand → Strand) : (s.modMe f).nextUid = s.nextUid := rfl
@[simp] theorem State.modMe_cores (s : State) (f : Strand → Strand) : (s.modMe f).cores = s.cores := rfl
@[simp] theorem State.modMe_clusters (s : State) (f : Strand → Strand) : (s.modMe f).clusters = s.clusters := rfl
@[simp] theorem State.modMe_dies (s : State) (f : Strand → Strand) : (s.modMe f).dies = s.dies := rfl
@[simp] theorem State.modMe_hub (s : State) (f : Strand → Strand) : (s.modMe f).hub = s.hub := rfl
@[simp] theorem State.modMe_jobs (s : State) (f : Strand → Strand) : (s.modMe f).jobs = s.jobs := rfl
@[simp] theorem State.modMe_mem (s : State) (f : Strand → Strand) : (s.modMe f).mem = s.mem := rfl
@[simp] theorem State.modMe_tags (s : State) (f : Strand → Strand) : (s.modMe f).tags = s.tags := rfl
@[simp] theorem State.modMe_retry (s : State) (f : Strand → Strand) : (s.modMe f).retry = s.retry := rfl

/-! `setCore` changes `cores` only. -/

@[simp] theorem State.setCore_cur (s : State) (c : Nat) (t : Core) : (s.setCore c t).cur = s.cur := rfl
@[simp] theorem State.setCore_agenda (s : State) (c : Nat) (t : Core) : (s.setCore c t).agenda = s.agenda := rfl
@[simp] theorem State.setCore_slice (s : State) (c : Nat) (t : Core) : (s.setCore c t).slice = s.slice := rfl
@[simp] theorem State.setCore_cycle (s : State) (c : Nat) (t : Core) : (s.setCore c t).cycle = s.cycle := rfl
@[simp] theorem State.setCore_time (s : State) (c : Nat) (t : Core) : (s.setCore c t).time = s.time := rfl
@[simp] theorem State.setCore_free (s : State) (c : Nat) (t : Core) : (s.setCore c t).free = s.free := rfl
@[simp] theorem State.setCore_nextUid (s : State) (c : Nat) (t : Core) : (s.setCore c t).nextUid = s.nextUid := rfl
@[simp] theorem State.setCore_strands (s : State) (c : Nat) (t : Core) : (s.setCore c t).strands = s.strands := rfl
@[simp] theorem State.setCore_clusters (s : State) (c : Nat) (t : Core) : (s.setCore c t).clusters = s.clusters := rfl
@[simp] theorem State.setCore_dies (s : State) (c : Nat) (t : Core) : (s.setCore c t).dies = s.dies := rfl
@[simp] theorem State.setCore_hub (s : State) (c : Nat) (t : Core) : (s.setCore c t).hub = s.hub := rfl
@[simp] theorem State.setCore_jobs (s : State) (c : Nat) (t : Core) : (s.setCore c t).jobs = s.jobs := rfl
@[simp] theorem State.setCore_mem (s : State) (c : Nat) (t : Core) : (s.setCore c t).mem = s.mem := rfl
@[simp] theorem State.setCore_tags (s : State) (c : Nat) (t : Core) : (s.setCore c t).tags = s.tags := rfl
@[simp] theorem State.setCore_retry (s : State) (c : Nat) (t : Core) : (s.setCore c t).retry = s.retry := rfl

/-! `modCore` changes `cores` only. -/

@[simp] theorem State.modCore_cur (s : State) (c : Nat) (f : Core → Core) : (s.modCore c f).cur = s.cur := rfl
@[simp] theorem State.modCore_agenda (s : State) (c : Nat) (f : Core → Core) : (s.modCore c f).agenda = s.agenda := rfl
@[simp] theorem State.modCore_slice (s : State) (c : Nat) (f : Core → Core) : (s.modCore c f).slice = s.slice := rfl
@[simp] theorem State.modCore_cycle (s : State) (c : Nat) (f : Core → Core) : (s.modCore c f).cycle = s.cycle := rfl
@[simp] theorem State.modCore_time (s : State) (c : Nat) (f : Core → Core) : (s.modCore c f).time = s.time := rfl
@[simp] theorem State.modCore_free (s : State) (c : Nat) (f : Core → Core) : (s.modCore c f).free = s.free := rfl
@[simp] theorem State.modCore_nextUid (s : State) (c : Nat) (f : Core → Core) : (s.modCore c f).nextUid = s.nextUid := rfl
@[simp] theorem State.modCore_strands (s : State) (c : Nat) (f : Core → Core) : (s.modCore c f).strands = s.strands := rfl
@[simp] theorem State.modCore_clusters (s : State) (c : Nat) (f : Core → Core) : (s.modCore c f).clusters = s.clusters := rfl
@[simp] theorem State.modCore_dies (s : State) (c : Nat) (f : Core → Core) : (s.modCore c f).dies = s.dies := rfl
@[simp] theorem State.modCore_hub (s : State) (c : Nat) (f : Core → Core) : (s.modCore c f).hub = s.hub := rfl
@[simp] theorem State.modCore_jobs (s : State) (c : Nat) (f : Core → Core) : (s.modCore c f).jobs = s.jobs := rfl
@[simp] theorem State.modCore_mem (s : State) (c : Nat) (f : Core → Core) : (s.modCore c f).mem = s.mem := rfl
@[simp] theorem State.modCore_tags (s : State) (c : Nat) (f : Core → Core) : (s.modCore c f).tags = s.tags := rfl
@[simp] theorem State.modCore_retry (s : State) (c : Nat) (f : Core → Core) : (s.modCore c f).retry = s.retry := rfl

/-! `setCluster` changes `clusters` only. -/

@[simp] theorem State.setCluster_cur (s : State) (k : Nat) (t : Cluster) : (s.setCluster k t).cur = s.cur := rfl
@[simp] theorem State.setCluster_agenda (s : State) (k : Nat) (t : Cluster) : (s.setCluster k t).agenda = s.agenda := rfl
@[simp] theorem State.setCluster_slice (s : State) (k : Nat) (t : Cluster) : (s.setCluster k t).slice = s.slice := rfl
@[simp] theorem State.setCluster_cycle (s : State) (k : Nat) (t : Cluster) : (s.setCluster k t).cycle = s.cycle := rfl
@[simp] theorem State.setCluster_time (s : State) (k : Nat) (t : Cluster) : (s.setCluster k t).time = s.time := rfl
@[simp] theorem State.setCluster_free (s : State) (k : Nat) (t : Cluster) : (s.setCluster k t).free = s.free := rfl
@[simp] theorem State.setCluster_nextUid (s : State) (k : Nat) (t : Cluster) : (s.setCluster k t).nextUid = s.nextUid := rfl
@[simp] theorem State.setCluster_strands (s : State) (k : Nat) (t : Cluster) : (s.setCluster k t).strands = s.strands := rfl
@[simp] theorem State.setCluster_cores (s : State) (k : Nat) (t : Cluster) : (s.setCluster k t).cores = s.cores := rfl
@[simp] theorem State.setCluster_dies (s : State) (k : Nat) (t : Cluster) : (s.setCluster k t).dies = s.dies := rfl
@[simp] theorem State.setCluster_hub (s : State) (k : Nat) (t : Cluster) : (s.setCluster k t).hub = s.hub := rfl
@[simp] theorem State.setCluster_jobs (s : State) (k : Nat) (t : Cluster) : (s.setCluster k t).jobs = s.jobs := rfl
@[simp] theorem State.setCluster_mem (s : State) (k : Nat) (t : Cluster) : (s.setCluster k t).mem = s.mem := rfl
@[simp] theorem State.setCluster_tags (s : State) (k : Nat) (t : Cluster) : (s.setCluster k t).tags = s.tags := rfl
@[simp] theorem State.setCluster_retry (s : State) (k : Nat) (t : Cluster) : (s.setCluster k t).retry = s.retry := rfl

/-! `modCluster` changes `clusters` only. -/

@[simp] theorem State.modCluster_cur (s : State) (k : Nat) (f : Cluster → Cluster) : (s.modCluster k f).cur = s.cur := rfl
@[simp] theorem State.modCluster_agenda (s : State) (k : Nat) (f : Cluster → Cluster) : (s.modCluster k f).agenda = s.agenda := rfl
@[simp] theorem State.modCluster_slice (s : State) (k : Nat) (f : Cluster → Cluster) : (s.modCluster k f).slice = s.slice := rfl
@[simp] theorem State.modCluster_cycle (s : State) (k : Nat) (f : Cluster → Cluster) : (s.modCluster k f).cycle = s.cycle := rfl
@[simp] theorem State.modCluster_time (s : State) (k : Nat) (f : Cluster → Cluster) : (s.modCluster k f).time = s.time := rfl
@[simp] theorem State.modCluster_free (s : State) (k : Nat) (f : Cluster → Cluster) : (s.modCluster k f).free = s.free := rfl
@[simp] theorem State.modCluster_nextUid (s : State) (k : Nat) (f : Cluster → Cluster) : (s.modCluster k f).nextUid = s.nextUid := rfl
@[simp] theorem State.modCluster_strands (s : State) (k : Nat) (f : Cluster → Cluster) : (s.modCluster k f).strands = s.strands := rfl
@[simp] theorem State.modCluster_cores (s : State) (k : Nat) (f : Cluster → Cluster) : (s.modCluster k f).cores = s.cores := rfl
@[simp] theorem State.modCluster_dies (s : State) (k : Nat) (f : Cluster → Cluster) : (s.modCluster k f).dies = s.dies := rfl
@[simp] theorem State.modCluster_hub (s : State) (k : Nat) (f : Cluster → Cluster) : (s.modCluster k f).hub = s.hub := rfl
@[simp] theorem State.modCluster_jobs (s : State) (k : Nat) (f : Cluster → Cluster) : (s.modCluster k f).jobs = s.jobs := rfl
@[simp] theorem State.modCluster_mem (s : State) (k : Nat) (f : Cluster → Cluster) : (s.modCluster k f).mem = s.mem := rfl
@[simp] theorem State.modCluster_tags (s : State) (k : Nat) (f : Cluster → Cluster) : (s.modCluster k f).tags = s.tags := rfl
@[simp] theorem State.modCluster_retry (s : State) (k : Nat) (f : Cluster → Cluster) : (s.modCluster k f).retry = s.retry := rfl

/-! `setDie` changes `dies` only. -/

@[simp] theorem State.setDie_cur (s : State) (d : Nat) (t : Die) : (s.setDie d t).cur = s.cur := rfl
@[simp] theorem State.setDie_agenda (s : State) (d : Nat) (t : Die) : (s.setDie d t).agenda = s.agenda := rfl
@[simp] theorem State.setDie_slice (s : State) (d : Nat) (t : Die) : (s.setDie d t).slice = s.slice := rfl
@[simp] theorem State.setDie_cycle (s : State) (d : Nat) (t : Die) : (s.setDie d t).cycle = s.cycle := rfl
@[simp] theorem State.setDie_time (s : State) (d : Nat) (t : Die) : (s.setDie d t).time = s.time := rfl
@[simp] theorem State.setDie_free (s : State) (d : Nat) (t : Die) : (s.setDie d t).free = s.free := rfl
@[simp] theorem State.setDie_nextUid (s : State) (d : Nat) (t : Die) : (s.setDie d t).nextUid = s.nextUid := rfl
@[simp] theorem State.setDie_strands (s : State) (d : Nat) (t : Die) : (s.setDie d t).strands = s.strands := rfl
@[simp] theorem State.setDie_cores (s : State) (d : Nat) (t : Die) : (s.setDie d t).cores = s.cores := rfl
@[simp] theorem State.setDie_clusters (s : State) (d : Nat) (t : Die) : (s.setDie d t).clusters = s.clusters := rfl
@[simp] theorem State.setDie_hub (s : State) (d : Nat) (t : Die) : (s.setDie d t).hub = s.hub := rfl
@[simp] theorem State.setDie_jobs (s : State) (d : Nat) (t : Die) : (s.setDie d t).jobs = s.jobs := rfl
@[simp] theorem State.setDie_mem (s : State) (d : Nat) (t : Die) : (s.setDie d t).mem = s.mem := rfl
@[simp] theorem State.setDie_tags (s : State) (d : Nat) (t : Die) : (s.setDie d t).tags = s.tags := rfl
@[simp] theorem State.setDie_retry (s : State) (d : Nat) (t : Die) : (s.setDie d t).retry = s.retry := rfl

/-! `modDie` changes `dies` only. -/

@[simp] theorem State.modDie_cur (s : State) (d : Nat) (f : Die → Die) : (s.modDie d f).cur = s.cur := rfl
@[simp] theorem State.modDie_agenda (s : State) (d : Nat) (f : Die → Die) : (s.modDie d f).agenda = s.agenda := rfl
@[simp] theorem State.modDie_slice (s : State) (d : Nat) (f : Die → Die) : (s.modDie d f).slice = s.slice := rfl
@[simp] theorem State.modDie_cycle (s : State) (d : Nat) (f : Die → Die) : (s.modDie d f).cycle = s.cycle := rfl
@[simp] theorem State.modDie_time (s : State) (d : Nat) (f : Die → Die) : (s.modDie d f).time = s.time := rfl
@[simp] theorem State.modDie_free (s : State) (d : Nat) (f : Die → Die) : (s.modDie d f).free = s.free := rfl
@[simp] theorem State.modDie_nextUid (s : State) (d : Nat) (f : Die → Die) : (s.modDie d f).nextUid = s.nextUid := rfl
@[simp] theorem State.modDie_strands (s : State) (d : Nat) (f : Die → Die) : (s.modDie d f).strands = s.strands := rfl
@[simp] theorem State.modDie_cores (s : State) (d : Nat) (f : Die → Die) : (s.modDie d f).cores = s.cores := rfl
@[simp] theorem State.modDie_clusters (s : State) (d : Nat) (f : Die → Die) : (s.modDie d f).clusters = s.clusters := rfl
@[simp] theorem State.modDie_hub (s : State) (d : Nat) (f : Die → Die) : (s.modDie d f).hub = s.hub := rfl
@[simp] theorem State.modDie_jobs (s : State) (d : Nat) (f : Die → Die) : (s.modDie d f).jobs = s.jobs := rfl
@[simp] theorem State.modDie_mem (s : State) (d : Nat) (f : Die → Die) : (s.modDie d f).mem = s.mem := rfl
@[simp] theorem State.modDie_tags (s : State) (d : Nat) (f : Die → Die) : (s.modDie d f).tags = s.tags := rfl
@[simp] theorem State.modDie_retry (s : State) (d : Nat) (f : Die → Die) : (s.modDie d f).retry = s.retry := rfl

/-! `modJob` changes `jobs` only. -/

@[simp] theorem State.modJob_cur (s : State) (j : Nat) (f : Job → Job) : (s.modJob j f).cur = s.cur := rfl
@[simp] theorem State.modJob_agenda (s : State) (j : Nat) (f : Job → Job) : (s.modJob j f).agenda = s.agenda := rfl
@[simp] theorem State.modJob_slice (s : State) (j : Nat) (f : Job → Job) : (s.modJob j f).slice = s.slice := rfl
@[simp] theorem State.modJob_cycle (s : State) (j : Nat) (f : Job → Job) : (s.modJob j f).cycle = s.cycle := rfl
@[simp] theorem State.modJob_time (s : State) (j : Nat) (f : Job → Job) : (s.modJob j f).time = s.time := rfl
@[simp] theorem State.modJob_free (s : State) (j : Nat) (f : Job → Job) : (s.modJob j f).free = s.free := rfl
@[simp] theorem State.modJob_nextUid (s : State) (j : Nat) (f : Job → Job) : (s.modJob j f).nextUid = s.nextUid := rfl
@[simp] theorem State.modJob_strands (s : State) (j : Nat) (f : Job → Job) : (s.modJob j f).strands = s.strands := rfl
@[simp] theorem State.modJob_cores (s : State) (j : Nat) (f : Job → Job) : (s.modJob j f).cores = s.cores := rfl
@[simp] theorem State.modJob_clusters (s : State) (j : Nat) (f : Job → Job) : (s.modJob j f).clusters = s.clusters := rfl
@[simp] theorem State.modJob_dies (s : State) (j : Nat) (f : Job → Job) : (s.modJob j f).dies = s.dies := rfl
@[simp] theorem State.modJob_hub (s : State) (j : Nat) (f : Job → Job) : (s.modJob j f).hub = s.hub := rfl
@[simp] theorem State.modJob_mem (s : State) (j : Nat) (f : Job → Job) : (s.modJob j f).mem = s.mem := rfl
@[simp] theorem State.modJob_tags (s : State) (j : Nat) (f : Job → Job) : (s.modJob j f).tags = s.tags := rfl
@[simp] theorem State.modJob_retry (s : State) (j : Nat) (f : Job → Job) : (s.modJob j f).retry = s.retry := rfl

/-! `retire` changes `strands` only. -/

@[simp] theorem State.retire_cur (s : State) : (s.retire).cur = s.cur := rfl
@[simp] theorem State.retire_agenda (s : State) : (s.retire).agenda = s.agenda := rfl
@[simp] theorem State.retire_slice (s : State) : (s.retire).slice = s.slice := rfl
@[simp] theorem State.retire_cycle (s : State) : (s.retire).cycle = s.cycle := rfl
@[simp] theorem State.retire_time (s : State) : (s.retire).time = s.time := rfl
@[simp] theorem State.retire_free (s : State) : (s.retire).free = s.free := rfl
@[simp] theorem State.retire_nextUid (s : State) : (s.retire).nextUid = s.nextUid := rfl
@[simp] theorem State.retire_cores (s : State) : (s.retire).cores = s.cores := rfl
@[simp] theorem State.retire_clusters (s : State) : (s.retire).clusters = s.clusters := rfl
@[simp] theorem State.retire_dies (s : State) : (s.retire).dies = s.dies := rfl
@[simp] theorem State.retire_hub (s : State) : (s.retire).hub = s.hub := rfl
@[simp] theorem State.retire_jobs (s : State) : (s.retire).jobs = s.jobs := rfl
@[simp] theorem State.retire_mem (s : State) : (s.retire).mem = s.mem := rfl
@[simp] theorem State.retire_tags (s : State) : (s.retire).tags = s.tags := rfl
@[simp] theorem State.retire_retry (s : State) : (s.retire).retry = s.retry := rfl

/-! `jumpTo` changes `strands` only. -/

@[simp] theorem State.jumpTo_cur (s : State) (pc : Word) : (s.jumpTo pc).cur = s.cur := rfl
@[simp] theorem State.jumpTo_agenda (s : State) (pc : Word) : (s.jumpTo pc).agenda = s.agenda := rfl
@[simp] theorem State.jumpTo_slice (s : State) (pc : Word) : (s.jumpTo pc).slice = s.slice := rfl
@[simp] theorem State.jumpTo_cycle (s : State) (pc : Word) : (s.jumpTo pc).cycle = s.cycle := rfl
@[simp] theorem State.jumpTo_time (s : State) (pc : Word) : (s.jumpTo pc).time = s.time := rfl
@[simp] theorem State.jumpTo_free (s : State) (pc : Word) : (s.jumpTo pc).free = s.free := rfl
@[simp] theorem State.jumpTo_nextUid (s : State) (pc : Word) : (s.jumpTo pc).nextUid = s.nextUid := rfl
@[simp] theorem State.jumpTo_cores (s : State) (pc : Word) : (s.jumpTo pc).cores = s.cores := rfl
@[simp] theorem State.jumpTo_clusters (s : State) (pc : Word) : (s.jumpTo pc).clusters = s.clusters := rfl
@[simp] theorem State.jumpTo_dies (s : State) (pc : Word) : (s.jumpTo pc).dies = s.dies := rfl
@[simp] theorem State.jumpTo_hub (s : State) (pc : Word) : (s.jumpTo pc).hub = s.hub := rfl
@[simp] theorem State.jumpTo_jobs (s : State) (pc : Word) : (s.jumpTo pc).jobs = s.jobs := rfl
@[simp] theorem State.jumpTo_mem (s : State) (pc : Word) : (s.jumpTo pc).mem = s.mem := rfl
@[simp] theorem State.jumpTo_tags (s : State) (pc : Word) : (s.jumpTo pc).tags = s.tags := rfl
@[simp] theorem State.jumpTo_retry (s : State) (pc : Word) : (s.jumpTo pc).retry = s.retry := rfl

/-! `trapEntry` changes `strands` only, and counts the free value that a trap may report. -/

@[simp] theorem State.trapEntry_cur (s : State) (h : Nat) (int : Bool) (tr : Trap) (epc : Word) : (s.trapEntry h int tr epc).cur = s.cur := rfl
@[simp] theorem State.trapEntry_agenda (s : State) (h : Nat) (int : Bool) (tr : Trap) (epc : Word) : (s.trapEntry h int tr epc).agenda = s.agenda := rfl
@[simp] theorem State.trapEntry_slice (s : State) (h : Nat) (int : Bool) (tr : Trap) (epc : Word) : (s.trapEntry h int tr epc).slice = s.slice := rfl
@[simp] theorem State.trapEntry_cycle (s : State) (h : Nat) (int : Bool) (tr : Trap) (epc : Word) : (s.trapEntry h int tr epc).cycle = s.cycle := rfl
@[simp] theorem State.trapEntry_time (s : State) (h : Nat) (int : Bool) (tr : Trap) (epc : Word) : (s.trapEntry h int tr epc).time = s.time := rfl
@[simp] theorem State.trapEntry_free (s : State) (h : Nat) (int : Bool) (tr : Trap) (epc : Word) : (s.trapEntry h int tr epc).free = s.free + 1 := rfl
@[simp] theorem State.trapEntry_nextUid (s : State) (h : Nat) (int : Bool) (tr : Trap) (epc : Word) : (s.trapEntry h int tr epc).nextUid = s.nextUid := rfl
@[simp] theorem State.trapEntry_cores (s : State) (h : Nat) (int : Bool) (tr : Trap) (epc : Word) : (s.trapEntry h int tr epc).cores = s.cores := rfl
@[simp] theorem State.trapEntry_clusters (s : State) (h : Nat) (int : Bool) (tr : Trap) (epc : Word) : (s.trapEntry h int tr epc).clusters = s.clusters := rfl
@[simp] theorem State.trapEntry_dies (s : State) (h : Nat) (int : Bool) (tr : Trap) (epc : Word) : (s.trapEntry h int tr epc).dies = s.dies := rfl
@[simp] theorem State.trapEntry_hub (s : State) (h : Nat) (int : Bool) (tr : Trap) (epc : Word) : (s.trapEntry h int tr epc).hub = s.hub := rfl
@[simp] theorem State.trapEntry_jobs (s : State) (h : Nat) (int : Bool) (tr : Trap) (epc : Word) : (s.trapEntry h int tr epc).jobs = s.jobs := rfl
@[simp] theorem State.trapEntry_mem (s : State) (h : Nat) (int : Bool) (tr : Trap) (epc : Word) : (s.trapEntry h int tr epc).mem = s.mem := rfl
@[simp] theorem State.trapEntry_tags (s : State) (h : Nat) (int : Bool) (tr : Trap) (epc : Word) : (s.trapEntry h int tr epc).tags = s.tags := rfl
@[simp] theorem State.trapEntry_retry (s : State) (h : Nat) (int : Bool) (tr : Trap) (epc : Word) : (s.trapEntry h int tr epc).retry = s.retry := rfl

/-! `takeTrap` changes `strands` only, and counts the free value that a trap may report. -/

@[simp] theorem State.takeTrap_cur (s : State) (h : Nat) (tr : Trap) : (s.takeTrap h tr).cur = s.cur := rfl
@[simp] theorem State.takeTrap_agenda (s : State) (h : Nat) (tr : Trap) : (s.takeTrap h tr).agenda = s.agenda := rfl
@[simp] theorem State.takeTrap_slice (s : State) (h : Nat) (tr : Trap) : (s.takeTrap h tr).slice = s.slice := rfl
@[simp] theorem State.takeTrap_cycle (s : State) (h : Nat) (tr : Trap) : (s.takeTrap h tr).cycle = s.cycle := rfl
@[simp] theorem State.takeTrap_time (s : State) (h : Nat) (tr : Trap) : (s.takeTrap h tr).time = s.time := rfl
@[simp] theorem State.takeTrap_free (s : State) (h : Nat) (tr : Trap) : (s.takeTrap h tr).free = s.free + 1 := rfl
@[simp] theorem State.takeTrap_nextUid (s : State) (h : Nat) (tr : Trap) : (s.takeTrap h tr).nextUid = s.nextUid := rfl
@[simp] theorem State.takeTrap_cores (s : State) (h : Nat) (tr : Trap) : (s.takeTrap h tr).cores = s.cores := rfl
@[simp] theorem State.takeTrap_clusters (s : State) (h : Nat) (tr : Trap) : (s.takeTrap h tr).clusters = s.clusters := rfl
@[simp] theorem State.takeTrap_dies (s : State) (h : Nat) (tr : Trap) : (s.takeTrap h tr).dies = s.dies := rfl
@[simp] theorem State.takeTrap_hub (s : State) (h : Nat) (tr : Trap) : (s.takeTrap h tr).hub = s.hub := rfl
@[simp] theorem State.takeTrap_jobs (s : State) (h : Nat) (tr : Trap) : (s.takeTrap h tr).jobs = s.jobs := rfl
@[simp] theorem State.takeTrap_mem (s : State) (h : Nat) (tr : Trap) : (s.takeTrap h tr).mem = s.mem := rfl
@[simp] theorem State.takeTrap_tags (s : State) (h : Nat) (tr : Trap) : (s.takeTrap h tr).tags = s.tags := rfl
@[simp] theorem State.takeTrap_retry (s : State) (h : Nat) (tr : Trap) : (s.takeTrap h tr).retry = s.retry := rfl

/-! `setF` changes `f` and the marks of R359 only. -/

@[simp] theorem Strand.setF_x (t : Strand) (r : BitVec 5) (w : Word) : (t.setF r w).x = t.x := rfl
@[simp] theorem Strand.setF_v (t : Strand) (r : BitVec 5) (w : Word) : (t.setF r w).v = t.v := rfl
@[simp] theorem Strand.setF_p (t : Strand) (r : BitVec 5) (w : Word) : (t.setF r w).p = t.p := rfl
@[simp] theorem Strand.setF_c (t : Strand) (r : BitVec 5) (w : Word) : (t.setF r w).c = t.c := rfl
@[simp] theorem Strand.setF_pc (t : Strand) (r : BitVec 5) (w : Word) : (t.setF r w).pc = t.pc := rfl
@[simp] theorem Strand.setF_mode (t : Strand) (r : BitVec 5) (w : Word) : (t.setF r w).mode = t.mode := rfl
@[simp] theorem Strand.setF_fflags (t : Strand) (r : BitVec 5) (w : Word) : (t.setF r w).fflags = t.fflags := rfl
@[simp] theorem Strand.setF_frm (t : Strand) (r : BitVec 5) (w : Word) : (t.setF r w).frm = t.frm := rfl
@[simp] theorem Strand.setF_fte (t : Strand) (r : BitVec 5) (w : Word) : (t.setF r w).fte = t.fte := rfl
@[simp] theorem Strand.setF_fnver (t : Strand) (r : BitVec 5) (w : Word) : (t.setF r w).fnver = t.fnver := rfl
@[simp] theorem Strand.setF_wlim (t : Strand) (r : BitVec 5) (w : Word) : (t.setF r w).wlim = t.wlim := rfl
@[simp] theorem Strand.setF_lcnt (t : Strand) (r : BitVec 5) (w : Word) : (t.setF r w).lcnt = t.lcnt := rfl
@[simp] theorem Strand.setF_lbody (t : Strand) (r : BitVec 5) (w : Word) : (t.setF r w).lbody = t.lbody := rfl
@[simp] theorem Strand.setF_ciprog (t : Strand) (r : BitVec 5) (w : Word) : (t.setF r w).ciprog = t.ciprog := rfl
@[simp] theorem Strand.setF_cpstat (t : Strand) (r : BitVec 5) (w : Word) : (t.setF r w).cpstat = t.cpstat := rfl
@[simp] theorem Strand.setF_sstatus (t : Strand) (r : BitVec 5) (w : Word) : (t.setF r w).sstatus = t.sstatus := rfl
@[simp] theorem Strand.setF_stvec (t : Strand) (r : BitVec 5) (w : Word) : (t.setF r w).stvec = t.stvec := rfl
@[simp] theorem Strand.setF_epc (t : Strand) (r : BitVec 5) (w : Word) : (t.setF r w).epc = t.epc := rfl
@[simp] theorem Strand.setF_cause (t : Strand) (r : BitVec 5) (w : Word) : (t.setF r w).cause = t.cause := rfl
@[simp] theorem Strand.setF_badva (t : Strand) (r : BitVec 5) (w : Word) : (t.setF r w).badva = t.badva := rfl
@[simp] theorem Strand.setF_tval2 (t : Strand) (r : BitVec 5) (w : Word) : (t.setF r w).tval2 = t.tval2 := rfl
@[simp] theorem Strand.setF_sscratch (t : Strand) (r : BitVec 5) (w : Word) : (t.setF r w).sscratch = t.sscratch := rfl
@[simp] theorem Strand.setF_ien (t : Strand) (r : BitVec 5) (w : Word) : (t.setF r w).ien = t.ien := rfl
@[simp] theorem Strand.setF_ipend (t : Strand) (r : BitVec 5) (w : Word) : (t.setF r w).ipend = t.ipend := rfl
@[simp] theorem Strand.setF_timecmp (t : Strand) (r : BitVec 5) (w : Word) : (t.setF r w).timecmp = t.timecmp := rfl
@[simp] theorem Strand.setF_ibp (t : Strand) (r : BitVec 5) (w : Word) : (t.setF r w).ibp = t.ibp := rfl
@[simp] theorem Strand.setF_m (t : Strand) (r : BitVec 5) (w : Word) : (t.setF r w).m = t.m := rfl
@[simp] theorem Strand.setF_shadow (t : Strand) (r : BitVec 5) (w : Word) : (t.setF r w).shadow = t.shadow := rfl
@[simp] theorem Strand.setF_mcfg (t : Strand) (r : BitVec 5) (w : Word) : (t.setF r w).mcfg = t.mcfg := rfl
@[simp] theorem Strand.setF_pendFlags (t : Strand) (r : BitVec 5) (w : Word) : (t.setF r w).pendFlags = t.pendFlags := rfl
@[simp] theorem Strand.setF_coHeld (t : Strand) (r : BitVec 5) (w : Word) : (t.setF r w).coHeld = t.coHeld := rfl
@[simp] theorem Strand.setF_handles (t : Strand) (r : BitVec 5) (w : Word) : (t.setF r w).handles = t.handles := rfl
@[simp] theorem Strand.setF_watch (t : Strand) (r : BitVec 5) (w : Word) : (t.setF r w).watch = t.watch := rfl
@[simp] theorem Strand.setF_stream (t : Strand) (r : BitVec 5) (w : Word) : (t.setF r w).stream = t.stream := rfl
@[simp] theorem Strand.setF_loopBuf (t : Strand) (r : BitVec 5) (w : Word) : (t.setF r w).loopBuf = t.loopBuf := rfl
@[simp] theorem Strand.setF_skipBreak (t : Strand) (r : BitVec 5) (w : Word) : (t.setF r w).skipBreak = t.skipBreak := rfl
@[simp] theorem Strand.setF_atEntry (t : Strand) (r : BitVec 5) (w : Word) : (t.setF r w).atEntry = t.atEntry := rfl
@[simp] theorem Strand.setF_unit (t : Strand) (r : BitVec 5) (w : Word) : (t.setF r w).unit = t.unit := rfl
@[simp] theorem Strand.setF_status (t : Strand) (r : BitVec 5) (w : Word) : (t.setF r w).status = t.status := rfl
@[simp] theorem Strand.setF_inst (t : Strand) (r : BitVec 5) (w : Word) : (t.setF r w).inst = t.inst := rfl
@[simp] theorem Strand.setF_log (t : Strand) (r : BitVec 5) (w : Word) : (t.setF r w).log = t.log := rfl
@[simp] theorem Strand.setF_ansv (t : Strand) (r : BitVec 5) (w : Word) : (t.setF r w).ansv = t.ansv := rfl
@[simp] theorem Strand.setF_ansa (t : Strand) (r : BitVec 5) (w : Word) : (t.setF r w).ansa = t.ansa := rfl
@[simp] theorem Strand.setF_arrived (t : Strand) (r : BitVec 5) (w : Word) : (t.setF r w).arrived = t.arrived := rfl
@[simp] theorem Strand.setF_synced (t : Strand) (r : BitVec 5) (w : Word) : (t.setF r w).synced = t.synced := rfl

/-! `setV` changes `v` and the marks of R359 only. -/

@[simp] theorem Strand.setV_x (t : Strand) (r : BitVec 5) (w : Vec) : (t.setV r w).x = t.x := rfl
@[simp] theorem Strand.setV_f (t : Strand) (r : BitVec 5) (w : Vec) : (t.setV r w).f = t.f := rfl
@[simp] theorem Strand.setV_p (t : Strand) (r : BitVec 5) (w : Vec) : (t.setV r w).p = t.p := rfl
@[simp] theorem Strand.setV_c (t : Strand) (r : BitVec 5) (w : Vec) : (t.setV r w).c = t.c := rfl
@[simp] theorem Strand.setV_pc (t : Strand) (r : BitVec 5) (w : Vec) : (t.setV r w).pc = t.pc := rfl
@[simp] theorem Strand.setV_mode (t : Strand) (r : BitVec 5) (w : Vec) : (t.setV r w).mode = t.mode := rfl
@[simp] theorem Strand.setV_fflags (t : Strand) (r : BitVec 5) (w : Vec) : (t.setV r w).fflags = t.fflags := rfl
@[simp] theorem Strand.setV_frm (t : Strand) (r : BitVec 5) (w : Vec) : (t.setV r w).frm = t.frm := rfl
@[simp] theorem Strand.setV_fte (t : Strand) (r : BitVec 5) (w : Vec) : (t.setV r w).fte = t.fte := rfl
@[simp] theorem Strand.setV_fnver (t : Strand) (r : BitVec 5) (w : Vec) : (t.setV r w).fnver = t.fnver := rfl
@[simp] theorem Strand.setV_wlim (t : Strand) (r : BitVec 5) (w : Vec) : (t.setV r w).wlim = t.wlim := rfl
@[simp] theorem Strand.setV_lcnt (t : Strand) (r : BitVec 5) (w : Vec) : (t.setV r w).lcnt = t.lcnt := rfl
@[simp] theorem Strand.setV_lbody (t : Strand) (r : BitVec 5) (w : Vec) : (t.setV r w).lbody = t.lbody := rfl
@[simp] theorem Strand.setV_ciprog (t : Strand) (r : BitVec 5) (w : Vec) : (t.setV r w).ciprog = t.ciprog := rfl
@[simp] theorem Strand.setV_cpstat (t : Strand) (r : BitVec 5) (w : Vec) : (t.setV r w).cpstat = t.cpstat := rfl
@[simp] theorem Strand.setV_sstatus (t : Strand) (r : BitVec 5) (w : Vec) : (t.setV r w).sstatus = t.sstatus := rfl
@[simp] theorem Strand.setV_stvec (t : Strand) (r : BitVec 5) (w : Vec) : (t.setV r w).stvec = t.stvec := rfl
@[simp] theorem Strand.setV_epc (t : Strand) (r : BitVec 5) (w : Vec) : (t.setV r w).epc = t.epc := rfl
@[simp] theorem Strand.setV_cause (t : Strand) (r : BitVec 5) (w : Vec) : (t.setV r w).cause = t.cause := rfl
@[simp] theorem Strand.setV_badva (t : Strand) (r : BitVec 5) (w : Vec) : (t.setV r w).badva = t.badva := rfl
@[simp] theorem Strand.setV_tval2 (t : Strand) (r : BitVec 5) (w : Vec) : (t.setV r w).tval2 = t.tval2 := rfl
@[simp] theorem Strand.setV_sscratch (t : Strand) (r : BitVec 5) (w : Vec) : (t.setV r w).sscratch = t.sscratch := rfl
@[simp] theorem Strand.setV_ien (t : Strand) (r : BitVec 5) (w : Vec) : (t.setV r w).ien = t.ien := rfl
@[simp] theorem Strand.setV_ipend (t : Strand) (r : BitVec 5) (w : Vec) : (t.setV r w).ipend = t.ipend := rfl
@[simp] theorem Strand.setV_timecmp (t : Strand) (r : BitVec 5) (w : Vec) : (t.setV r w).timecmp = t.timecmp := rfl
@[simp] theorem Strand.setV_ibp (t : Strand) (r : BitVec 5) (w : Vec) : (t.setV r w).ibp = t.ibp := rfl
@[simp] theorem Strand.setV_m (t : Strand) (r : BitVec 5) (w : Vec) : (t.setV r w).m = t.m := rfl
@[simp] theorem Strand.setV_shadow (t : Strand) (r : BitVec 5) (w : Vec) : (t.setV r w).shadow = t.shadow := rfl
@[simp] theorem Strand.setV_mcfg (t : Strand) (r : BitVec 5) (w : Vec) : (t.setV r w).mcfg = t.mcfg := rfl
@[simp] theorem Strand.setV_pendFlags (t : Strand) (r : BitVec 5) (w : Vec) : (t.setV r w).pendFlags = t.pendFlags := rfl
@[simp] theorem Strand.setV_coHeld (t : Strand) (r : BitVec 5) (w : Vec) : (t.setV r w).coHeld = t.coHeld := rfl
@[simp] theorem Strand.setV_handles (t : Strand) (r : BitVec 5) (w : Vec) : (t.setV r w).handles = t.handles := rfl
@[simp] theorem Strand.setV_watch (t : Strand) (r : BitVec 5) (w : Vec) : (t.setV r w).watch = t.watch := rfl
@[simp] theorem Strand.setV_stream (t : Strand) (r : BitVec 5) (w : Vec) : (t.setV r w).stream = t.stream := rfl
@[simp] theorem Strand.setV_loopBuf (t : Strand) (r : BitVec 5) (w : Vec) : (t.setV r w).loopBuf = t.loopBuf := rfl
@[simp] theorem Strand.setV_skipBreak (t : Strand) (r : BitVec 5) (w : Vec) : (t.setV r w).skipBreak = t.skipBreak := rfl
@[simp] theorem Strand.setV_atEntry (t : Strand) (r : BitVec 5) (w : Vec) : (t.setV r w).atEntry = t.atEntry := rfl
@[simp] theorem Strand.setV_unit (t : Strand) (r : BitVec 5) (w : Vec) : (t.setV r w).unit = t.unit := rfl
@[simp] theorem Strand.setV_status (t : Strand) (r : BitVec 5) (w : Vec) : (t.setV r w).status = t.status := rfl
@[simp] theorem Strand.setV_inst (t : Strand) (r : BitVec 5) (w : Vec) : (t.setV r w).inst = t.inst := rfl
@[simp] theorem Strand.setV_log (t : Strand) (r : BitVec 5) (w : Vec) : (t.setV r w).log = t.log := rfl
@[simp] theorem Strand.setV_ansv (t : Strand) (r : BitVec 5) (w : Vec) : (t.setV r w).ansv = t.ansv := rfl
@[simp] theorem Strand.setV_ansa (t : Strand) (r : BitVec 5) (w : Vec) : (t.setV r w).ansa = t.ansa := rfl
@[simp] theorem Strand.setV_arrived (t : Strand) (r : BitVec 5) (w : Vec) : (t.setV r w).arrived = t.arrived := rfl
@[simp] theorem Strand.setV_synced (t : Strand) (r : BitVec 5) (w : Vec) : (t.setV r w).synced = t.synced := rfl

/-! `setC` changes `c` and the marks of R359 only. -/

@[simp] theorem Strand.setC_x (t : Strand) (r : BitVec 4) (w : CochainReg) : (t.setC r w).x = t.x := rfl
@[simp] theorem Strand.setC_f (t : Strand) (r : BitVec 4) (w : CochainReg) : (t.setC r w).f = t.f := rfl
@[simp] theorem Strand.setC_v (t : Strand) (r : BitVec 4) (w : CochainReg) : (t.setC r w).v = t.v := rfl
@[simp] theorem Strand.setC_p (t : Strand) (r : BitVec 4) (w : CochainReg) : (t.setC r w).p = t.p := rfl
@[simp] theorem Strand.setC_pc (t : Strand) (r : BitVec 4) (w : CochainReg) : (t.setC r w).pc = t.pc := rfl
@[simp] theorem Strand.setC_mode (t : Strand) (r : BitVec 4) (w : CochainReg) : (t.setC r w).mode = t.mode := rfl
@[simp] theorem Strand.setC_fflags (t : Strand) (r : BitVec 4) (w : CochainReg) : (t.setC r w).fflags = t.fflags := rfl
@[simp] theorem Strand.setC_frm (t : Strand) (r : BitVec 4) (w : CochainReg) : (t.setC r w).frm = t.frm := rfl
@[simp] theorem Strand.setC_fte (t : Strand) (r : BitVec 4) (w : CochainReg) : (t.setC r w).fte = t.fte := rfl
@[simp] theorem Strand.setC_fnver (t : Strand) (r : BitVec 4) (w : CochainReg) : (t.setC r w).fnver = t.fnver := rfl
@[simp] theorem Strand.setC_wlim (t : Strand) (r : BitVec 4) (w : CochainReg) : (t.setC r w).wlim = t.wlim := rfl
@[simp] theorem Strand.setC_lcnt (t : Strand) (r : BitVec 4) (w : CochainReg) : (t.setC r w).lcnt = t.lcnt := rfl
@[simp] theorem Strand.setC_lbody (t : Strand) (r : BitVec 4) (w : CochainReg) : (t.setC r w).lbody = t.lbody := rfl
@[simp] theorem Strand.setC_ciprog (t : Strand) (r : BitVec 4) (w : CochainReg) : (t.setC r w).ciprog = t.ciprog := rfl
@[simp] theorem Strand.setC_cpstat (t : Strand) (r : BitVec 4) (w : CochainReg) : (t.setC r w).cpstat = t.cpstat := rfl
@[simp] theorem Strand.setC_sstatus (t : Strand) (r : BitVec 4) (w : CochainReg) : (t.setC r w).sstatus = t.sstatus := rfl
@[simp] theorem Strand.setC_stvec (t : Strand) (r : BitVec 4) (w : CochainReg) : (t.setC r w).stvec = t.stvec := rfl
@[simp] theorem Strand.setC_epc (t : Strand) (r : BitVec 4) (w : CochainReg) : (t.setC r w).epc = t.epc := rfl
@[simp] theorem Strand.setC_cause (t : Strand) (r : BitVec 4) (w : CochainReg) : (t.setC r w).cause = t.cause := rfl
@[simp] theorem Strand.setC_badva (t : Strand) (r : BitVec 4) (w : CochainReg) : (t.setC r w).badva = t.badva := rfl
@[simp] theorem Strand.setC_tval2 (t : Strand) (r : BitVec 4) (w : CochainReg) : (t.setC r w).tval2 = t.tval2 := rfl
@[simp] theorem Strand.setC_sscratch (t : Strand) (r : BitVec 4) (w : CochainReg) : (t.setC r w).sscratch = t.sscratch := rfl
@[simp] theorem Strand.setC_ien (t : Strand) (r : BitVec 4) (w : CochainReg) : (t.setC r w).ien = t.ien := rfl
@[simp] theorem Strand.setC_ipend (t : Strand) (r : BitVec 4) (w : CochainReg) : (t.setC r w).ipend = t.ipend := rfl
@[simp] theorem Strand.setC_timecmp (t : Strand) (r : BitVec 4) (w : CochainReg) : (t.setC r w).timecmp = t.timecmp := rfl
@[simp] theorem Strand.setC_ibp (t : Strand) (r : BitVec 4) (w : CochainReg) : (t.setC r w).ibp = t.ibp := rfl
@[simp] theorem Strand.setC_m (t : Strand) (r : BitVec 4) (w : CochainReg) : (t.setC r w).m = t.m := rfl
@[simp] theorem Strand.setC_shadow (t : Strand) (r : BitVec 4) (w : CochainReg) : (t.setC r w).shadow = t.shadow := rfl
@[simp] theorem Strand.setC_mcfg (t : Strand) (r : BitVec 4) (w : CochainReg) : (t.setC r w).mcfg = t.mcfg := rfl
@[simp] theorem Strand.setC_pendFlags (t : Strand) (r : BitVec 4) (w : CochainReg) : (t.setC r w).pendFlags = t.pendFlags := rfl
@[simp] theorem Strand.setC_coHeld (t : Strand) (r : BitVec 4) (w : CochainReg) : (t.setC r w).coHeld = t.coHeld := rfl
@[simp] theorem Strand.setC_handles (t : Strand) (r : BitVec 4) (w : CochainReg) : (t.setC r w).handles = t.handles := rfl
@[simp] theorem Strand.setC_watch (t : Strand) (r : BitVec 4) (w : CochainReg) : (t.setC r w).watch = t.watch := rfl
@[simp] theorem Strand.setC_stream (t : Strand) (r : BitVec 4) (w : CochainReg) : (t.setC r w).stream = t.stream := rfl
@[simp] theorem Strand.setC_loopBuf (t : Strand) (r : BitVec 4) (w : CochainReg) : (t.setC r w).loopBuf = t.loopBuf := rfl
@[simp] theorem Strand.setC_skipBreak (t : Strand) (r : BitVec 4) (w : CochainReg) : (t.setC r w).skipBreak = t.skipBreak := rfl
@[simp] theorem Strand.setC_atEntry (t : Strand) (r : BitVec 4) (w : CochainReg) : (t.setC r w).atEntry = t.atEntry := rfl
@[simp] theorem Strand.setC_unit (t : Strand) (r : BitVec 4) (w : CochainReg) : (t.setC r w).unit = t.unit := rfl
@[simp] theorem Strand.setC_status (t : Strand) (r : BitVec 4) (w : CochainReg) : (t.setC r w).status = t.status := rfl
@[simp] theorem Strand.setC_inst (t : Strand) (r : BitVec 4) (w : CochainReg) : (t.setC r w).inst = t.inst := rfl
@[simp] theorem Strand.setC_log (t : Strand) (r : BitVec 4) (w : CochainReg) : (t.setC r w).log = t.log := rfl
@[simp] theorem Strand.setC_ansv (t : Strand) (r : BitVec 4) (w : CochainReg) : (t.setC r w).ansv = t.ansv := rfl
@[simp] theorem Strand.setC_ansa (t : Strand) (r : BitVec 4) (w : CochainReg) : (t.setC r w).ansa = t.ansa := rfl
@[simp] theorem Strand.setC_arrived (t : Strand) (r : BitVec 4) (w : CochainReg) : (t.setC r w).arrived = t.arrived := rfl
@[simp] theorem Strand.setC_synced (t : Strand) (r : BitVec 4) (w : CochainReg) : (t.setC r w).synced = t.synced := rfl

/-! `setX` changes `x` and the marks of R359 only. -/

@[simp] theorem Strand.setX_f (t : Strand) (r : BitVec 5) (w : Word) : (t.setX r w).f = t.f := by
  unfold Strand.setX; split <;> rfl
@[simp] theorem Strand.setX_v (t : Strand) (r : BitVec 5) (w : Word) : (t.setX r w).v = t.v := by
  unfold Strand.setX; split <;> rfl
@[simp] theorem Strand.setX_p (t : Strand) (r : BitVec 5) (w : Word) : (t.setX r w).p = t.p := by
  unfold Strand.setX; split <;> rfl
@[simp] theorem Strand.setX_c (t : Strand) (r : BitVec 5) (w : Word) : (t.setX r w).c = t.c := by
  unfold Strand.setX; split <;> rfl
@[simp] theorem Strand.setX_pc (t : Strand) (r : BitVec 5) (w : Word) : (t.setX r w).pc = t.pc := by
  unfold Strand.setX; split <;> rfl
@[simp] theorem Strand.setX_mode (t : Strand) (r : BitVec 5) (w : Word) : (t.setX r w).mode = t.mode := by
  unfold Strand.setX; split <;> rfl
@[simp] theorem Strand.setX_fflags (t : Strand) (r : BitVec 5) (w : Word) : (t.setX r w).fflags = t.fflags := by
  unfold Strand.setX; split <;> rfl
@[simp] theorem Strand.setX_frm (t : Strand) (r : BitVec 5) (w : Word) : (t.setX r w).frm = t.frm := by
  unfold Strand.setX; split <;> rfl
@[simp] theorem Strand.setX_fte (t : Strand) (r : BitVec 5) (w : Word) : (t.setX r w).fte = t.fte := by
  unfold Strand.setX; split <;> rfl
@[simp] theorem Strand.setX_fnver (t : Strand) (r : BitVec 5) (w : Word) : (t.setX r w).fnver = t.fnver := by
  unfold Strand.setX; split <;> rfl
@[simp] theorem Strand.setX_wlim (t : Strand) (r : BitVec 5) (w : Word) : (t.setX r w).wlim = t.wlim := by
  unfold Strand.setX; split <;> rfl
@[simp] theorem Strand.setX_lcnt (t : Strand) (r : BitVec 5) (w : Word) : (t.setX r w).lcnt = t.lcnt := by
  unfold Strand.setX; split <;> rfl
@[simp] theorem Strand.setX_lbody (t : Strand) (r : BitVec 5) (w : Word) : (t.setX r w).lbody = t.lbody := by
  unfold Strand.setX; split <;> rfl
@[simp] theorem Strand.setX_ciprog (t : Strand) (r : BitVec 5) (w : Word) : (t.setX r w).ciprog = t.ciprog := by
  unfold Strand.setX; split <;> rfl
@[simp] theorem Strand.setX_cpstat (t : Strand) (r : BitVec 5) (w : Word) : (t.setX r w).cpstat = t.cpstat := by
  unfold Strand.setX; split <;> rfl
@[simp] theorem Strand.setX_sstatus (t : Strand) (r : BitVec 5) (w : Word) : (t.setX r w).sstatus = t.sstatus := by
  unfold Strand.setX; split <;> rfl
@[simp] theorem Strand.setX_stvec (t : Strand) (r : BitVec 5) (w : Word) : (t.setX r w).stvec = t.stvec := by
  unfold Strand.setX; split <;> rfl
@[simp] theorem Strand.setX_epc (t : Strand) (r : BitVec 5) (w : Word) : (t.setX r w).epc = t.epc := by
  unfold Strand.setX; split <;> rfl
@[simp] theorem Strand.setX_cause (t : Strand) (r : BitVec 5) (w : Word) : (t.setX r w).cause = t.cause := by
  unfold Strand.setX; split <;> rfl
@[simp] theorem Strand.setX_badva (t : Strand) (r : BitVec 5) (w : Word) : (t.setX r w).badva = t.badva := by
  unfold Strand.setX; split <;> rfl
@[simp] theorem Strand.setX_tval2 (t : Strand) (r : BitVec 5) (w : Word) : (t.setX r w).tval2 = t.tval2 := by
  unfold Strand.setX; split <;> rfl
@[simp] theorem Strand.setX_sscratch (t : Strand) (r : BitVec 5) (w : Word) : (t.setX r w).sscratch = t.sscratch := by
  unfold Strand.setX; split <;> rfl
@[simp] theorem Strand.setX_ien (t : Strand) (r : BitVec 5) (w : Word) : (t.setX r w).ien = t.ien := by
  unfold Strand.setX; split <;> rfl
@[simp] theorem Strand.setX_ipend (t : Strand) (r : BitVec 5) (w : Word) : (t.setX r w).ipend = t.ipend := by
  unfold Strand.setX; split <;> rfl
@[simp] theorem Strand.setX_timecmp (t : Strand) (r : BitVec 5) (w : Word) : (t.setX r w).timecmp = t.timecmp := by
  unfold Strand.setX; split <;> rfl
@[simp] theorem Strand.setX_ibp (t : Strand) (r : BitVec 5) (w : Word) : (t.setX r w).ibp = t.ibp := by
  unfold Strand.setX; split <;> rfl
@[simp] theorem Strand.setX_m (t : Strand) (r : BitVec 5) (w : Word) : (t.setX r w).m = t.m := by
  unfold Strand.setX; split <;> rfl
@[simp] theorem Strand.setX_shadow (t : Strand) (r : BitVec 5) (w : Word) : (t.setX r w).shadow = t.shadow := by
  unfold Strand.setX; split <;> rfl
@[simp] theorem Strand.setX_mcfg (t : Strand) (r : BitVec 5) (w : Word) : (t.setX r w).mcfg = t.mcfg := by
  unfold Strand.setX; split <;> rfl
@[simp] theorem Strand.setX_pendFlags (t : Strand) (r : BitVec 5) (w : Word) : (t.setX r w).pendFlags = t.pendFlags := by
  unfold Strand.setX; split <;> rfl
@[simp] theorem Strand.setX_coHeld (t : Strand) (r : BitVec 5) (w : Word) : (t.setX r w).coHeld = t.coHeld := by
  unfold Strand.setX; split <;> rfl
@[simp] theorem Strand.setX_handles (t : Strand) (r : BitVec 5) (w : Word) : (t.setX r w).handles = t.handles := by
  unfold Strand.setX; split <;> rfl
@[simp] theorem Strand.setX_watch (t : Strand) (r : BitVec 5) (w : Word) : (t.setX r w).watch = t.watch := by
  unfold Strand.setX; split <;> rfl
@[simp] theorem Strand.setX_stream (t : Strand) (r : BitVec 5) (w : Word) : (t.setX r w).stream = t.stream := by
  unfold Strand.setX; split <;> rfl
@[simp] theorem Strand.setX_loopBuf (t : Strand) (r : BitVec 5) (w : Word) : (t.setX r w).loopBuf = t.loopBuf := by
  unfold Strand.setX; split <;> rfl
@[simp] theorem Strand.setX_skipBreak (t : Strand) (r : BitVec 5) (w : Word) : (t.setX r w).skipBreak = t.skipBreak := by
  unfold Strand.setX; split <;> rfl
@[simp] theorem Strand.setX_atEntry (t : Strand) (r : BitVec 5) (w : Word) : (t.setX r w).atEntry = t.atEntry := by
  unfold Strand.setX; split <;> rfl
@[simp] theorem Strand.setX_unit (t : Strand) (r : BitVec 5) (w : Word) : (t.setX r w).unit = t.unit := by
  unfold Strand.setX; split <;> rfl
@[simp] theorem Strand.setX_status (t : Strand) (r : BitVec 5) (w : Word) : (t.setX r w).status = t.status := by
  unfold Strand.setX; split <;> rfl
@[simp] theorem Strand.setX_inst (t : Strand) (r : BitVec 5) (w : Word) : (t.setX r w).inst = t.inst := by
  unfold Strand.setX; split <;> rfl
@[simp] theorem Strand.setX_log (t : Strand) (r : BitVec 5) (w : Word) : (t.setX r w).log = t.log := by
  unfold Strand.setX; split <;> rfl
@[simp] theorem Strand.setX_ansv (t : Strand) (r : BitVec 5) (w : Word) : (t.setX r w).ansv = t.ansv := by
  unfold Strand.setX; split <;> rfl
@[simp] theorem Strand.setX_ansa (t : Strand) (r : BitVec 5) (w : Word) : (t.setX r w).ansa = t.ansa := by
  unfold Strand.setX; split <;> rfl
@[simp] theorem Strand.setX_arrived (t : Strand) (r : BitVec 5) (w : Word) : (t.setX r w).arrived = t.arrived := by
  unfold Strand.setX; split <;> rfl
@[simp] theorem Strand.setX_synced (t : Strand) (r : BitVec 5) (w : Word) : (t.setX r w).synced = t.synced := by
  unfold Strand.setX; split <;> rfl

/-! `setP` changes `p` and the marks of R359 only. -/

@[simp] theorem Strand.setP_x (t : Strand) (r : BitVec 3) (w : Word) : (t.setP r w).x = t.x := by
  unfold Strand.setP; split <;> rfl
@[simp] theorem Strand.setP_f (t : Strand) (r : BitVec 3) (w : Word) : (t.setP r w).f = t.f := by
  unfold Strand.setP; split <;> rfl
@[simp] theorem Strand.setP_v (t : Strand) (r : BitVec 3) (w : Word) : (t.setP r w).v = t.v := by
  unfold Strand.setP; split <;> rfl
@[simp] theorem Strand.setP_c (t : Strand) (r : BitVec 3) (w : Word) : (t.setP r w).c = t.c := by
  unfold Strand.setP; split <;> rfl
@[simp] theorem Strand.setP_pc (t : Strand) (r : BitVec 3) (w : Word) : (t.setP r w).pc = t.pc := by
  unfold Strand.setP; split <;> rfl
@[simp] theorem Strand.setP_mode (t : Strand) (r : BitVec 3) (w : Word) : (t.setP r w).mode = t.mode := by
  unfold Strand.setP; split <;> rfl
@[simp] theorem Strand.setP_fflags (t : Strand) (r : BitVec 3) (w : Word) : (t.setP r w).fflags = t.fflags := by
  unfold Strand.setP; split <;> rfl
@[simp] theorem Strand.setP_frm (t : Strand) (r : BitVec 3) (w : Word) : (t.setP r w).frm = t.frm := by
  unfold Strand.setP; split <;> rfl
@[simp] theorem Strand.setP_fte (t : Strand) (r : BitVec 3) (w : Word) : (t.setP r w).fte = t.fte := by
  unfold Strand.setP; split <;> rfl
@[simp] theorem Strand.setP_fnver (t : Strand) (r : BitVec 3) (w : Word) : (t.setP r w).fnver = t.fnver := by
  unfold Strand.setP; split <;> rfl
@[simp] theorem Strand.setP_wlim (t : Strand) (r : BitVec 3) (w : Word) : (t.setP r w).wlim = t.wlim := by
  unfold Strand.setP; split <;> rfl
@[simp] theorem Strand.setP_lcnt (t : Strand) (r : BitVec 3) (w : Word) : (t.setP r w).lcnt = t.lcnt := by
  unfold Strand.setP; split <;> rfl
@[simp] theorem Strand.setP_lbody (t : Strand) (r : BitVec 3) (w : Word) : (t.setP r w).lbody = t.lbody := by
  unfold Strand.setP; split <;> rfl
@[simp] theorem Strand.setP_ciprog (t : Strand) (r : BitVec 3) (w : Word) : (t.setP r w).ciprog = t.ciprog := by
  unfold Strand.setP; split <;> rfl
@[simp] theorem Strand.setP_cpstat (t : Strand) (r : BitVec 3) (w : Word) : (t.setP r w).cpstat = t.cpstat := by
  unfold Strand.setP; split <;> rfl
@[simp] theorem Strand.setP_sstatus (t : Strand) (r : BitVec 3) (w : Word) : (t.setP r w).sstatus = t.sstatus := by
  unfold Strand.setP; split <;> rfl
@[simp] theorem Strand.setP_stvec (t : Strand) (r : BitVec 3) (w : Word) : (t.setP r w).stvec = t.stvec := by
  unfold Strand.setP; split <;> rfl
@[simp] theorem Strand.setP_epc (t : Strand) (r : BitVec 3) (w : Word) : (t.setP r w).epc = t.epc := by
  unfold Strand.setP; split <;> rfl
@[simp] theorem Strand.setP_cause (t : Strand) (r : BitVec 3) (w : Word) : (t.setP r w).cause = t.cause := by
  unfold Strand.setP; split <;> rfl
@[simp] theorem Strand.setP_badva (t : Strand) (r : BitVec 3) (w : Word) : (t.setP r w).badva = t.badva := by
  unfold Strand.setP; split <;> rfl
@[simp] theorem Strand.setP_tval2 (t : Strand) (r : BitVec 3) (w : Word) : (t.setP r w).tval2 = t.tval2 := by
  unfold Strand.setP; split <;> rfl
@[simp] theorem Strand.setP_sscratch (t : Strand) (r : BitVec 3) (w : Word) : (t.setP r w).sscratch = t.sscratch := by
  unfold Strand.setP; split <;> rfl
@[simp] theorem Strand.setP_ien (t : Strand) (r : BitVec 3) (w : Word) : (t.setP r w).ien = t.ien := by
  unfold Strand.setP; split <;> rfl
@[simp] theorem Strand.setP_ipend (t : Strand) (r : BitVec 3) (w : Word) : (t.setP r w).ipend = t.ipend := by
  unfold Strand.setP; split <;> rfl
@[simp] theorem Strand.setP_timecmp (t : Strand) (r : BitVec 3) (w : Word) : (t.setP r w).timecmp = t.timecmp := by
  unfold Strand.setP; split <;> rfl
@[simp] theorem Strand.setP_ibp (t : Strand) (r : BitVec 3) (w : Word) : (t.setP r w).ibp = t.ibp := by
  unfold Strand.setP; split <;> rfl
@[simp] theorem Strand.setP_m (t : Strand) (r : BitVec 3) (w : Word) : (t.setP r w).m = t.m := by
  unfold Strand.setP; split <;> rfl
@[simp] theorem Strand.setP_shadow (t : Strand) (r : BitVec 3) (w : Word) : (t.setP r w).shadow = t.shadow := by
  unfold Strand.setP; split <;> rfl
@[simp] theorem Strand.setP_mcfg (t : Strand) (r : BitVec 3) (w : Word) : (t.setP r w).mcfg = t.mcfg := by
  unfold Strand.setP; split <;> rfl
@[simp] theorem Strand.setP_pendFlags (t : Strand) (r : BitVec 3) (w : Word) : (t.setP r w).pendFlags = t.pendFlags := by
  unfold Strand.setP; split <;> rfl
@[simp] theorem Strand.setP_coHeld (t : Strand) (r : BitVec 3) (w : Word) : (t.setP r w).coHeld = t.coHeld := by
  unfold Strand.setP; split <;> rfl
@[simp] theorem Strand.setP_handles (t : Strand) (r : BitVec 3) (w : Word) : (t.setP r w).handles = t.handles := by
  unfold Strand.setP; split <;> rfl
@[simp] theorem Strand.setP_watch (t : Strand) (r : BitVec 3) (w : Word) : (t.setP r w).watch = t.watch := by
  unfold Strand.setP; split <;> rfl
@[simp] theorem Strand.setP_stream (t : Strand) (r : BitVec 3) (w : Word) : (t.setP r w).stream = t.stream := by
  unfold Strand.setP; split <;> rfl
@[simp] theorem Strand.setP_loopBuf (t : Strand) (r : BitVec 3) (w : Word) : (t.setP r w).loopBuf = t.loopBuf := by
  unfold Strand.setP; split <;> rfl
@[simp] theorem Strand.setP_skipBreak (t : Strand) (r : BitVec 3) (w : Word) : (t.setP r w).skipBreak = t.skipBreak := by
  unfold Strand.setP; split <;> rfl
@[simp] theorem Strand.setP_atEntry (t : Strand) (r : BitVec 3) (w : Word) : (t.setP r w).atEntry = t.atEntry := by
  unfold Strand.setP; split <;> rfl
@[simp] theorem Strand.setP_unit (t : Strand) (r : BitVec 3) (w : Word) : (t.setP r w).unit = t.unit := by
  unfold Strand.setP; split <;> rfl
@[simp] theorem Strand.setP_status (t : Strand) (r : BitVec 3) (w : Word) : (t.setP r w).status = t.status := by
  unfold Strand.setP; split <;> rfl
@[simp] theorem Strand.setP_inst (t : Strand) (r : BitVec 3) (w : Word) : (t.setP r w).inst = t.inst := by
  unfold Strand.setP; split <;> rfl
@[simp] theorem Strand.setP_log (t : Strand) (r : BitVec 3) (w : Word) : (t.setP r w).log = t.log := by
  unfold Strand.setP; split <;> rfl
@[simp] theorem Strand.setP_ansv (t : Strand) (r : BitVec 3) (w : Word) : (t.setP r w).ansv = t.ansv := by
  unfold Strand.setP; split <;> rfl
@[simp] theorem Strand.setP_ansa (t : Strand) (r : BitVec 3) (w : Word) : (t.setP r w).ansa = t.ansa := by
  unfold Strand.setP; split <;> rfl
@[simp] theorem Strand.setP_arrived (t : Strand) (r : BitVec 3) (w : Word) : (t.setP r w).arrived = t.arrived := by
  unfold Strand.setP; split <;> rfl
@[simp] theorem Strand.setP_synced (t : Strand) (r : BitVec 3) (w : Word) : (t.setP r w).synced = t.synced := by
  unfold Strand.setP; split <;> rfl

/-! `goTo` changes the pc and what is left of the instruction. -/

@[simp] theorem Strand.goTo_x (t : Strand) (a : Word) : (t.goTo a).x = t.x := rfl
@[simp] theorem Strand.goTo_f (t : Strand) (a : Word) : (t.goTo a).f = t.f := rfl
@[simp] theorem Strand.goTo_v (t : Strand) (a : Word) : (t.goTo a).v = t.v := rfl
@[simp] theorem Strand.goTo_p (t : Strand) (a : Word) : (t.goTo a).p = t.p := rfl
@[simp] theorem Strand.goTo_c (t : Strand) (a : Word) : (t.goTo a).c = t.c := rfl
@[simp] theorem Strand.goTo_mode (t : Strand) (a : Word) : (t.goTo a).mode = t.mode := rfl
@[simp] theorem Strand.goTo_fflags (t : Strand) (a : Word) : (t.goTo a).fflags = t.fflags := rfl
@[simp] theorem Strand.goTo_frm (t : Strand) (a : Word) : (t.goTo a).frm = t.frm := rfl
@[simp] theorem Strand.goTo_fte (t : Strand) (a : Word) : (t.goTo a).fte = t.fte := rfl
@[simp] theorem Strand.goTo_fnver (t : Strand) (a : Word) : (t.goTo a).fnver = t.fnver := rfl
@[simp] theorem Strand.goTo_wlim (t : Strand) (a : Word) : (t.goTo a).wlim = t.wlim := rfl
@[simp] theorem Strand.goTo_lcnt (t : Strand) (a : Word) : (t.goTo a).lcnt = t.lcnt := rfl
@[simp] theorem Strand.goTo_lbody (t : Strand) (a : Word) : (t.goTo a).lbody = t.lbody := rfl
@[simp] theorem Strand.goTo_ciprog (t : Strand) (a : Word) : (t.goTo a).ciprog = t.ciprog := rfl
@[simp] theorem Strand.goTo_cpstat (t : Strand) (a : Word) : (t.goTo a).cpstat = t.cpstat := rfl
@[simp] theorem Strand.goTo_sstatus (t : Strand) (a : Word) : (t.goTo a).sstatus = t.sstatus := rfl
@[simp] theorem Strand.goTo_stvec (t : Strand) (a : Word) : (t.goTo a).stvec = t.stvec := rfl
@[simp] theorem Strand.goTo_epc (t : Strand) (a : Word) : (t.goTo a).epc = t.epc := rfl
@[simp] theorem Strand.goTo_cause (t : Strand) (a : Word) : (t.goTo a).cause = t.cause := rfl
@[simp] theorem Strand.goTo_badva (t : Strand) (a : Word) : (t.goTo a).badva = t.badva := rfl
@[simp] theorem Strand.goTo_tval2 (t : Strand) (a : Word) : (t.goTo a).tval2 = t.tval2 := rfl
@[simp] theorem Strand.goTo_sscratch (t : Strand) (a : Word) : (t.goTo a).sscratch = t.sscratch := rfl
@[simp] theorem Strand.goTo_ien (t : Strand) (a : Word) : (t.goTo a).ien = t.ien := rfl
@[simp] theorem Strand.goTo_ipend (t : Strand) (a : Word) : (t.goTo a).ipend = t.ipend := rfl
@[simp] theorem Strand.goTo_timecmp (t : Strand) (a : Word) : (t.goTo a).timecmp = t.timecmp := rfl
@[simp] theorem Strand.goTo_ibp (t : Strand) (a : Word) : (t.goTo a).ibp = t.ibp := rfl
@[simp] theorem Strand.goTo_m (t : Strand) (a : Word) : (t.goTo a).m = t.m := rfl
@[simp] theorem Strand.goTo_shadow (t : Strand) (a : Word) : (t.goTo a).shadow = t.shadow := rfl
@[simp] theorem Strand.goTo_mcfg (t : Strand) (a : Word) : (t.goTo a).mcfg = t.mcfg := rfl
@[simp] theorem Strand.goTo_pendFlags (t : Strand) (a : Word) : (t.goTo a).pendFlags = t.pendFlags := rfl
@[simp] theorem Strand.goTo_coHeld (t : Strand) (a : Word) : (t.goTo a).coHeld = t.coHeld := rfl
@[simp] theorem Strand.goTo_handles (t : Strand) (a : Word) : (t.goTo a).handles = t.handles := rfl
@[simp] theorem Strand.goTo_watch (t : Strand) (a : Word) : (t.goTo a).watch = t.watch := rfl
@[simp] theorem Strand.goTo_stream (t : Strand) (a : Word) : (t.goTo a).stream = t.stream := rfl
@[simp] theorem Strand.goTo_loopBuf (t : Strand) (a : Word) : (t.goTo a).loopBuf = t.loopBuf := rfl
@[simp] theorem Strand.goTo_unusable (t : Strand) (a : Word) : (t.goTo a).unusable = t.unusable := rfl
@[simp] theorem Strand.goTo_unit (t : Strand) (a : Word) : (t.goTo a).unit = t.unit := rfl
@[simp] theorem Strand.goTo_status (t : Strand) (a : Word) : (t.goTo a).status = t.status := rfl
@[simp] theorem Strand.goTo_ansv (t : Strand) (a : Word) : (t.goTo a).ansv = t.ansv := rfl
@[simp] theorem Strand.goTo_ansa (t : Strand) (a : Word) : (t.goTo a).ansa = t.ansa := rfl
@[simp] theorem Strand.goTo_arrived (t : Strand) (a : Word) : (t.goTo a).arrived = t.arrived := rfl
@[simp] theorem Strand.goTo_synced (t : Strand) (a : Word) : (t.goTo a).synced = t.synced := rfl
@[simp] theorem Strand.goTo_pc (t : Strand) (a : Word) : (t.goTo a).pc = a := rfl

/-! `endLoop` changes the loop and the marks of R359 only. -/

@[simp] theorem Strand.endLoop_x (t : Strand) : t.endLoop.x = t.x := rfl
@[simp] theorem Strand.endLoop_f (t : Strand) : t.endLoop.f = t.f := rfl
@[simp] theorem Strand.endLoop_v (t : Strand) : t.endLoop.v = t.v := rfl
@[simp] theorem Strand.endLoop_p (t : Strand) : t.endLoop.p = t.p := rfl
@[simp] theorem Strand.endLoop_c (t : Strand) : t.endLoop.c = t.c := rfl
@[simp] theorem Strand.endLoop_pc (t : Strand) : t.endLoop.pc = t.pc := rfl
@[simp] theorem Strand.endLoop_mode (t : Strand) : t.endLoop.mode = t.mode := rfl
@[simp] theorem Strand.endLoop_fflags (t : Strand) : t.endLoop.fflags = t.fflags := rfl
@[simp] theorem Strand.endLoop_frm (t : Strand) : t.endLoop.frm = t.frm := rfl
@[simp] theorem Strand.endLoop_fte (t : Strand) : t.endLoop.fte = t.fte := rfl
@[simp] theorem Strand.endLoop_fnver (t : Strand) : t.endLoop.fnver = t.fnver := rfl
@[simp] theorem Strand.endLoop_wlim (t : Strand) : t.endLoop.wlim = t.wlim := rfl
@[simp] theorem Strand.endLoop_ciprog (t : Strand) : t.endLoop.ciprog = t.ciprog := rfl
@[simp] theorem Strand.endLoop_cpstat (t : Strand) : t.endLoop.cpstat = t.cpstat := rfl
@[simp] theorem Strand.endLoop_sstatus (t : Strand) : t.endLoop.sstatus = t.sstatus := rfl
@[simp] theorem Strand.endLoop_stvec (t : Strand) : t.endLoop.stvec = t.stvec := rfl
@[simp] theorem Strand.endLoop_epc (t : Strand) : t.endLoop.epc = t.epc := rfl
@[simp] theorem Strand.endLoop_cause (t : Strand) : t.endLoop.cause = t.cause := rfl
@[simp] theorem Strand.endLoop_badva (t : Strand) : t.endLoop.badva = t.badva := rfl
@[simp] theorem Strand.endLoop_tval2 (t : Strand) : t.endLoop.tval2 = t.tval2 := rfl
@[simp] theorem Strand.endLoop_sscratch (t : Strand) : t.endLoop.sscratch = t.sscratch := rfl
@[simp] theorem Strand.endLoop_ien (t : Strand) : t.endLoop.ien = t.ien := rfl
@[simp] theorem Strand.endLoop_ipend (t : Strand) : t.endLoop.ipend = t.ipend := rfl
@[simp] theorem Strand.endLoop_timecmp (t : Strand) : t.endLoop.timecmp = t.timecmp := rfl
@[simp] theorem Strand.endLoop_ibp (t : Strand) : t.endLoop.ibp = t.ibp := rfl
@[simp] theorem Strand.endLoop_m (t : Strand) : t.endLoop.m = t.m := rfl
@[simp] theorem Strand.endLoop_shadow (t : Strand) : t.endLoop.shadow = t.shadow := rfl
@[simp] theorem Strand.endLoop_mcfg (t : Strand) : t.endLoop.mcfg = t.mcfg := rfl
@[simp] theorem Strand.endLoop_pendFlags (t : Strand) : t.endLoop.pendFlags = t.pendFlags := rfl
@[simp] theorem Strand.endLoop_coHeld (t : Strand) : t.endLoop.coHeld = t.coHeld := rfl
@[simp] theorem Strand.endLoop_handles (t : Strand) : t.endLoop.handles = t.handles := rfl
@[simp] theorem Strand.endLoop_watch (t : Strand) : t.endLoop.watch = t.watch := rfl
@[simp] theorem Strand.endLoop_stream (t : Strand) : t.endLoop.stream = t.stream := rfl
@[simp] theorem Strand.endLoop_loopBuf (t : Strand) : t.endLoop.loopBuf = t.loopBuf := rfl
@[simp] theorem Strand.endLoop_skipBreak (t : Strand) : t.endLoop.skipBreak = t.skipBreak := rfl
@[simp] theorem Strand.endLoop_atEntry (t : Strand) : t.endLoop.atEntry = t.atEntry := rfl
@[simp] theorem Strand.endLoop_unit (t : Strand) : t.endLoop.unit = t.unit := rfl
@[simp] theorem Strand.endLoop_status (t : Strand) : t.endLoop.status = t.status := rfl
@[simp] theorem Strand.endLoop_inst (t : Strand) : t.endLoop.inst = t.inst := rfl
@[simp] theorem Strand.endLoop_log (t : Strand) : t.endLoop.log = t.log := rfl
@[simp] theorem Strand.endLoop_ansv (t : Strand) : t.endLoop.ansv = t.ansv := rfl
@[simp] theorem Strand.endLoop_ansa (t : Strand) : t.endLoop.ansa = t.ansa := rfl
@[simp] theorem Strand.endLoop_arrived (t : Strand) : t.endLoop.arrived = t.arrived := rfl
@[simp] theorem Strand.endLoop_synced (t : Strand) : t.endLoop.synced = t.synced := rfl
@[simp] theorem Strand.endLoop_lcnt (t : Strand) : t.endLoop.lcnt = 0 := rfl
@[simp] theorem Strand.endLoop_lbody (t : Strand) : t.endLoop.lbody = 0 := rfl

/-! `advance` changes the pc, the loop and what is left of the instruction (R107), and makes no mark of R359. -/

theorem Strand.mem_clearCsrs {t : Strand} {ns : List Nat} {e : Nat × Nat} (h : e ∈ t.clearCsrs ns) : e ∈ t.unusable :=
  (List.mem_filter.1 h).1
theorem Strand.mem_advance {t : Strand} {e : Nat × Nat} (h : e ∈ t.advance.unusable) : e ∈ t.unusable := by
  unfold Strand.advance at h; repeat' split at h
  · exact Strand.mem_clearCsrs (t := t) h
  · exact Strand.mem_clearCsrs (t := t.goTo _) h
  all_goals exact h
@[simp] theorem Strand.advance_x (t : Strand) : t.advance.x = t.x := by
  unfold Strand.advance; repeat' split
  all_goals rfl
@[simp] theorem Strand.advance_f (t : Strand) : t.advance.f = t.f := by
  unfold Strand.advance; repeat' split
  all_goals rfl
@[simp] theorem Strand.advance_v (t : Strand) : t.advance.v = t.v := by
  unfold Strand.advance; repeat' split
  all_goals rfl
@[simp] theorem Strand.advance_p (t : Strand) : t.advance.p = t.p := by
  unfold Strand.advance; repeat' split
  all_goals rfl
@[simp] theorem Strand.advance_c (t : Strand) : t.advance.c = t.c := by
  unfold Strand.advance; repeat' split
  all_goals rfl
@[simp] theorem Strand.advance_mode (t : Strand) : t.advance.mode = t.mode := by
  unfold Strand.advance; repeat' split
  all_goals rfl
@[simp] theorem Strand.advance_fflags (t : Strand) : t.advance.fflags = t.fflags := by
  unfold Strand.advance; repeat' split
  all_goals rfl
@[simp] theorem Strand.advance_frm (t : Strand) : t.advance.frm = t.frm := by
  unfold Strand.advance; repeat' split
  all_goals rfl
@[simp] theorem Strand.advance_fte (t : Strand) : t.advance.fte = t.fte := by
  unfold Strand.advance; repeat' split
  all_goals rfl
@[simp] theorem Strand.advance_fnver (t : Strand) : t.advance.fnver = t.fnver := by
  unfold Strand.advance; repeat' split
  all_goals rfl
@[simp] theorem Strand.advance_wlim (t : Strand) : t.advance.wlim = t.wlim := by
  unfold Strand.advance; repeat' split
  all_goals rfl
@[simp] theorem Strand.advance_ciprog (t : Strand) : t.advance.ciprog = t.ciprog := by
  unfold Strand.advance; repeat' split
  all_goals rfl
@[simp] theorem Strand.advance_cpstat (t : Strand) : t.advance.cpstat = t.cpstat := by
  unfold Strand.advance; repeat' split
  all_goals rfl
@[simp] theorem Strand.advance_sstatus (t : Strand) : t.advance.sstatus = t.sstatus := by
  unfold Strand.advance; repeat' split
  all_goals rfl
@[simp] theorem Strand.advance_stvec (t : Strand) : t.advance.stvec = t.stvec := by
  unfold Strand.advance; repeat' split
  all_goals rfl
@[simp] theorem Strand.advance_epc (t : Strand) : t.advance.epc = t.epc := by
  unfold Strand.advance; repeat' split
  all_goals rfl
@[simp] theorem Strand.advance_cause (t : Strand) : t.advance.cause = t.cause := by
  unfold Strand.advance; repeat' split
  all_goals rfl
@[simp] theorem Strand.advance_badva (t : Strand) : t.advance.badva = t.badva := by
  unfold Strand.advance; repeat' split
  all_goals rfl
@[simp] theorem Strand.advance_tval2 (t : Strand) : t.advance.tval2 = t.tval2 := by
  unfold Strand.advance; repeat' split
  all_goals rfl
@[simp] theorem Strand.advance_sscratch (t : Strand) : t.advance.sscratch = t.sscratch := by
  unfold Strand.advance; repeat' split
  all_goals rfl
@[simp] theorem Strand.advance_ien (t : Strand) : t.advance.ien = t.ien := by
  unfold Strand.advance; repeat' split
  all_goals rfl
@[simp] theorem Strand.advance_ipend (t : Strand) : t.advance.ipend = t.ipend := by
  unfold Strand.advance; repeat' split
  all_goals rfl
@[simp] theorem Strand.advance_timecmp (t : Strand) : t.advance.timecmp = t.timecmp := by
  unfold Strand.advance; repeat' split
  all_goals rfl
@[simp] theorem Strand.advance_ibp (t : Strand) : t.advance.ibp = t.ibp := by
  unfold Strand.advance; repeat' split
  all_goals rfl
@[simp] theorem Strand.advance_m (t : Strand) : t.advance.m = t.m := by
  unfold Strand.advance; repeat' split
  all_goals rfl
@[simp] theorem Strand.advance_shadow (t : Strand) : t.advance.shadow = t.shadow := by
  unfold Strand.advance; repeat' split
  all_goals rfl
@[simp] theorem Strand.advance_mcfg (t : Strand) : t.advance.mcfg = t.mcfg := by
  unfold Strand.advance; repeat' split
  all_goals rfl
@[simp] theorem Strand.advance_pendFlags (t : Strand) : t.advance.pendFlags = t.pendFlags := by
  unfold Strand.advance; repeat' split
  all_goals rfl
@[simp] theorem Strand.advance_coHeld (t : Strand) : t.advance.coHeld = t.coHeld := by
  unfold Strand.advance; repeat' split
  all_goals rfl
@[simp] theorem Strand.advance_handles (t : Strand) : t.advance.handles = t.handles := by
  unfold Strand.advance; repeat' split
  all_goals rfl
@[simp] theorem Strand.advance_watch (t : Strand) : t.advance.watch = t.watch := by
  unfold Strand.advance; repeat' split
  all_goals rfl
@[simp] theorem Strand.advance_stream (t : Strand) : t.advance.stream = t.stream := by
  unfold Strand.advance; repeat' split
  all_goals rfl
@[simp] theorem Strand.advance_unit (t : Strand) : t.advance.unit = t.unit := by
  unfold Strand.advance; repeat' split
  all_goals rfl
@[simp] theorem Strand.advance_status (t : Strand) : t.advance.status = t.status := by
  unfold Strand.advance; repeat' split
  all_goals rfl
@[simp] theorem Strand.advance_ansv (t : Strand) : t.advance.ansv = t.ansv := by
  unfold Strand.advance; repeat' split
  all_goals rfl
@[simp] theorem Strand.advance_ansa (t : Strand) : t.advance.ansa = t.ansa := by
  unfold Strand.advance; repeat' split
  all_goals rfl
@[simp] theorem Strand.advance_arrived (t : Strand) : t.advance.arrived = t.arrived := by
  unfold Strand.advance; repeat' split
  all_goals rfl
@[simp] theorem Strand.advance_synced (t : Strand) : t.advance.synced = t.synced := by
  unfold Strand.advance; repeat' split
  all_goals rfl

end Sys2Proof.Machine
end

