-- ==== Sys2Proof/Laws/Store.lean ====
section
/-! SUPPORT. Tables and memory: what a read gives after a write, and that every operation keeps the canonical form. -/

namespace Sys2Proof.Machine

variable {α : Type}

/-! Reading a table after an update. -/

@[simp] theorem tableGet_nil (d : α) (a : Nat) : tableGet d [] a = d := rfl

theorem tableGet_tableSet (d : α) (t : List (Nat × α)) (a b : Nat) (x : α) :
    tableGet d (tableSet t a x) b = if a = b then x else tableGet d t b := by
  induction t with
  | nil => simp [tableSet, tableGet]
  | cons e r ih =>
    obtain ⟨k, v⟩ := e
    simp only [tableSet]
    split
    · simp [tableGet]
    · split
      · rename_i h; subst h; simp only [tableGet]; split <;> rfl
      · rename_i h1 h2
        simp only [tableGet, ih]
        by_cases h3 : k = b
        · subst h3; simp [h2]
        · simp [h3]

@[simp] theorem tableGet_tableSet_same (d : α) (t : List (Nat × α)) (a : Nat) (x : α) :
    tableGet d (tableSet t a x) a = x := by simp [tableGet_tableSet]

theorem tableGet_tableSet_ne (d : α) (t : List (Nat × α)) {a b : Nat} (x : α) (h : a ≠ b) :
    tableGet d (tableSet t a x) b = tableGet d t b := by simp [tableGet_tableSet, h]

theorem tableGet_tableErase (d : α) (t : List (Nat × α)) (a b : Nat) :
    tableGet d (tableErase t a) b = if a = b then d else tableGet d t b := by
  induction t with
  | nil => simp [tableErase]
  | cons e r ih =>
    obtain ⟨k, v⟩ := e
    simp only [tableErase] at ih ⊢
    by_cases h : k = a
    · subst h
      simp only [List.filter_cons, bne_self_eq_false, Bool.false_eq_true, if_false, ih, tableGet]
      split <;> rfl
    · simp only [List.filter_cons, bne_iff_ne, ne_eq, h, not_false_eq_true, if_true, tableGet, ih]
      by_cases h2 : k = b
      · subst h2; simp [Ne.symm h]
      · simp [h2]

theorem tableGet_tablePut [DecidableEq α] (d : α) (t : List (Nat × α)) (a b : Nat) (x : α) :
    tableGet d (tablePut d t a x) b = if a = b then x else tableGet d t b := by
  unfold tablePut
  split
  · rename_i h; rw [tableGet_tableErase, h]
  · exact tableGet_tableSet d t a b x

@[simp] theorem tableSet_tableSet (t : List (Nat × α)) (a : Nat) (x y : α) :
    tableSet (tableSet t a x) a y = tableSet t a y := by
  induction t with
  | nil => simp [tableSet]
  | cons e r ih =>
    obtain ⟨k, v⟩ := e
    simp only [tableSet]
    split
    · simp [tableSet]
    · split
      · simp [tableSet]
      · rename_i h1 h2; simp [tableSet, h1, h2, ih]

/-! The canonical form. -/

/-- The canonical form, said of the entries: keys rise strictly, and none is `d`. -/
theorem tableCanon_iff [DecidableEq α] (d : α) (t : List (Nat × α)) :
    tableCanon d t = true ↔ t.Pairwise (fun a b => a.1 < b.1) ∧ ∀ e ∈ t, e.2 ≠ d := by
  induction t with
  | nil => simp [tableCanon]
  | cons e r ih =>
    obtain ⟨k, x⟩ := e
    cases r with
    | nil => simp [tableCanon]
    | cons e' r' =>
      obtain ⟨k', x'⟩ := e'
      simp only [tableCanon, Bool.and_eq_true, bne_iff_ne, ne_eq, decide_eq_true_eq, ih, List.pairwise_cons]
      constructor
      · rintro ⟨⟨hx, hk⟩, ⟨hp, hq⟩, hd⟩
        refine ⟨⟨?_, hp, hq⟩, ?_⟩
        · intro a ha
          rcases List.mem_cons.1 ha with rfl | ha
          · exact hk
          · exact lt_trans hk (hp a ha)
        · intro a ha
          rcases List.mem_cons.1 ha with rfl | ha
          · exact hx
          · exact hd a ha
      · rintro ⟨⟨hk, hp, hq⟩, hd⟩
        exact ⟨⟨hd (k, x) (by simp), hk (k', x') (by simp)⟩, ⟨hp, hq⟩, fun a ha => hd a (List.mem_cons_of_mem _ ha)⟩

theorem mem_tableSet (t : List (Nat × α)) (a : Nat) (x : α) (e : Nat × α) (h : e ∈ tableSet t a x) :
    e = (a, x) ∨ e ∈ t := by
  induction t with
  | nil => simpa [tableSet] using h
  | cons e' r ih =>
    obtain ⟨k, v⟩ := e'
    simp only [tableSet] at h
    split at h
    · simpa using h
    · split at h
      · rcases List.mem_cons.1 h with h | h
        · exact .inl h
        · exact .inr (List.mem_cons_of_mem _ h)
      · rcases List.mem_cons.1 h with h | h
        · exact .inr (by simp [h])
        · rcases ih h with h | h
          · exact .inl h
          · exact .inr (List.mem_cons_of_mem _ h)

theorem pairwise_tableSet (t : List (Nat × α)) (a : Nat) (x : α) (h : t.Pairwise (fun a b => a.1 < b.1)) :
    (tableSet t a x).Pairwise (fun a b => a.1 < b.1) := by
  induction t with
  | nil => simp [tableSet]
  | cons e r ih =>
    obtain ⟨k, v⟩ := e
    rw [List.pairwise_cons] at h
    simp only [tableSet]
    split
    · rename_i hk
      rw [List.pairwise_cons]
      refine ⟨fun b hb => ?_, List.pairwise_cons.2 h⟩
      rcases List.mem_cons.1 hb with rfl | hb
      · exact hk
      · exact lt_trans hk (h.1 b hb)
    · split
      · rename_i hk; subst hk; exact List.pairwise_cons.2 h
      · rename_i h1 h2
        rw [List.pairwise_cons]
        refine ⟨fun b hb => ?_, ih h.2⟩
        rcases mem_tableSet r a x b hb with rfl | hb
        · show k < a; omega
        · exact h.1 b hb

theorem tableCanon_tableSet [DecidableEq α] {d : α} {t : List (Nat × α)} {a : Nat} {x : α} (h : tableCanon d t = true)
    (hx : x ≠ d) : tableCanon d (tableSet t a x) = true := by
  rw [tableCanon_iff] at h ⊢
  refine ⟨pairwise_tableSet t a x h.1, fun e he => ?_⟩
  rcases mem_tableSet t a x e he with rfl | he
  · exact hx
  · exact h.2 e he

theorem tableCanon_tableErase [DecidableEq α] {d : α} {t : List (Nat × α)} {a : Nat} (h : tableCanon d t = true) :
    tableCanon d (tableErase t a) = true := by
  rw [tableCanon_iff] at h ⊢
  exact ⟨h.1.filter _, fun e he => h.2 e (List.mem_filter.1 he).1⟩

theorem tableCanon_tablePut [DecidableEq α] {d : α} {t : List (Nat × α)} {a : Nat} {x : α} (h : tableCanon d t = true) :
    tableCanon d (tablePut d t a x) = true := by
  unfold tablePut
  split
  · exact tableCanon_tableErase h
  · exact tableCanon_tableSet h (by assumption)

/-! Bytes of memory. -/

theorem putBytes_wf {m : List Host.Cell} {k : Nat} {bs : List Byte} (h : Memory.wf m = true) :
    Memory.wf (putBytes m k bs) = true := by
  induction bs generalizing m k with
  | nil => exact h
  | cons b bs ih => exact ih (tableCanon_tablePut h)

/-- A byte read after bytes were put: the one put there, or the one that was there. -/
theorem tableGet_putBytes (m : List Host.Cell) (k a : Nat) (bs : List Byte) :
    tableGet Memory.blank (putBytes m k bs) a =
      if k ≤ a ∧ a < k + bs.length then bs.getD (a - k) 0#8 else tableGet Memory.blank m a := by
  induction bs generalizing m k with
  | nil => simp [putBytes]
  | cons b bs ih =>
    simp only [putBytes, ih, tableGet_tablePut, List.length_cons]
    by_cases h1 : k + 1 ≤ a ∧ a < k + 1 + bs.length
    · have h2 : k ≤ a ∧ a < k + (bs.length + 1) := by omega
      obtain ⟨n, hn⟩ : ∃ n, a - k = n + 1 := ⟨a - k - 1, by omega⟩
      rw [if_pos h1, if_pos h2, hn, show a - (k + 1) = n by omega]
      simp
    · rw [if_neg h1]
      by_cases h3 : k = a
      · subst h3; simp
      · rw [if_neg h3, if_neg (by omega)]

@[simp] theorem length_bytesOfNat (n x : Nat) : (bytesOfNat n x).length = n := by
  induction n generalizing x with
  | zero => rfl
  | succ n ih => simp [bytesOfNat, ih]

/-- Bytes of a number, read back, give it modulo their range (R2). -/
theorem natOfBytes_bytesOfNat (n x : Nat) : natOfBytes (bytesOfNat n x) = x % 256 ^ n := by
  induction n generalizing x with
  | zero => simp [bytesOfNat, natOfBytes, Nat.mod_one]
  | succ n ih =>
    simp only [bytesOfNat, natOfBytes, ih, BitVec.toNat_ofNat]
    rw [show 256 ^ (n + 1) = 256 * 256 ^ n from by rw [pow_succ, Nat.mul_comm], Nat.mod_mul]

theorem natOfBytes_lt (bs : List Byte) : natOfBytes bs < 256 ^ bs.length := by
  induction bs with
  | nil => simp [natOfBytes]
  | cons b bs ih =>
    have := b.isLt
    simp only [natOfBytes, List.length_cons, pow_succ]
    omega

theorem getBytes_congr {m m' : List Host.Cell} {k n : Nat}
    (h : ∀ i < n, tableGet Memory.blank m (k + i) = tableGet Memory.blank m' (k + i)) : getBytes m k n = getBytes m' k n := by
  induction n generalizing k with
  | zero => rfl
  | succ n ih =>
    simp only [getBytes]
    have h0 : tableGet Memory.blank m k = tableGet Memory.blank m' k := h 0 (by omega)
    rw [h0, ih fun i hi => by have := h (i + 1) (by omega); rwa [show k + (i + 1) = k + 1 + i by omega] at this]

theorem getBytes_putBytes (m : List Host.Cell) (k : Nat) (bs : List Byte) : getBytes (putBytes m k bs) k bs.length = bs := by
  induction bs generalizing m k with
  | nil => rfl
  | cons b bs ih =>
    simp only [List.length_cons, getBytes, putBytes, ih]
    rw [tableGet_putBytes, if_neg (by omega), tableGet_tablePut, if_pos rfl]

/-- Bytes put at a place and read there again are those bytes. -/
@[simp] theorem State.bytesAt_putRaw (s : State) (l : Loc) (bs : List Byte) : (s.putRaw l bs).bytesAt l bs.length = bs :=
  getBytes_putBytes _ _ _

/-- A byte whose key lies outside those put reads as before. -/
theorem State.byteAt_putRaw_other (s : State) (l a : Loc) (bs : List Byte) (h : ¬ (l.key ≤ a.key ∧ a.key < l.key + bs.length)) :
    (s.putRaw l bs).byteAt a = s.byteAt a := by
  simp only [State.byteAt, State.putRaw, tableGet_putBytes, if_neg h]

theorem State.putRaw_wf {s : State} {l : Loc} {bs : List Byte} (h : Memory.wf s.mem = true) :
    Memory.wf (s.putRaw l bs).mem = true := putBytes_wf h

/-! Word tags. -/

theorem State.setTag_canon {s : State} {l : Loc} {t : WordTag} (h : tableCanon WordTag.blank s.tags = true) :
    tableCanon WordTag.blank (s.setTag l t).tags = true := tableCanon_tablePut h

theorem State.tagAt_setTag (s : State) (l a : Loc) (t : WordTag) :
    (s.setTag l t).tagAt a = if l.key / 8 = a.key / 8 then t else s.tagAt a := tableGet_tablePut _ _ _ _ _

/-! Strands, cores, clusters and dies. -/

theorem State.strand_setStrand (s : State) (h k : Nat) (t : Strand) :
    (s.setStrand h t).strand k = if h = k then t else s.strand k := tableGet_tableSet _ _ _ _ _

@[simp] theorem State.strand_modStrand_same (s : State) (h : Nat) (f : Strand → Strand) :
    (s.modStrand h f).strand h = f (s.strand h) := by simp [State.modStrand, State.strand_setStrand]

theorem State.strand_modStrand_ne (s : State) {h k : Nat} (f : Strand → Strand) (n : h ≠ k) :
    (s.modStrand h f).strand k = s.strand k := by simp [State.modStrand, State.strand_setStrand, n]

@[simp] theorem State.me_modMe (s : State) (f : Strand → Strand) : (s.modMe f).me = f s.me :=
  State.strand_modStrand_same s s.cur f

theorem State.strand_modMe_ne (s : State) {k : Nat} (f : Strand → Strand) (n : s.cur ≠ k) :
    (s.modMe f).strand k = s.strand k := State.strand_modStrand_ne s f n

theorem State.core_setCore (s : State) (c k : Nat) (t : Core) :
    (s.setCore c t).core k = if c = k then t else s.core k := tableGet_tableSet _ _ _ _ _

@[simp] theorem State.core_modCore_same (s : State) (c : Nat) (f : Core → Core) : (s.modCore c f).core c = f (s.core c) := by
  simp [State.modCore, State.core_setCore]

theorem State.core_modCore_ne (s : State) {c k : Nat} (f : Core → Core) (n : c ≠ k) : (s.modCore c f).core k = s.core k := by
  simp [State.modCore, State.core_setCore, n]

theorem State.cluster_setCluster (s : State) (c k : Nat) (t : Cluster) :
    (s.setCluster c t).cluster k = if c = k then t else s.cluster k := tableGet_tableSet _ _ _ _ _

@[simp] theorem State.cluster_modCluster_same (s : State) (k : Nat) (f : Cluster → Cluster) :
    (s.modCluster k f).cluster k = f (s.cluster k) := by simp [State.modCluster, State.cluster_setCluster]

theorem State.cluster_modCluster_ne (s : State) {c k : Nat} (f : Cluster → Cluster) (n : c ≠ k) :
    (s.modCluster c f).cluster k = s.cluster k := by simp [State.modCluster, State.cluster_setCluster, n]

theorem State.die_setDie (s : State) (c k : Nat) (t : Die) :
    (s.setDie c t).die k = if c = k then t else s.die k := tableGet_tableSet _ _ _ _ _

@[simp] theorem State.die_modDie_same (s : State) (d : Nat) (f : Die → Die) : (s.modDie d f).die d = f (s.die d) := by
  simp [State.modDie, State.die_setDie]

theorem State.die_modDie_ne (s : State) {c k : Nat} (f : Die → Die) (n : c ≠ k) : (s.modDie c f).die k = s.die k := by
  simp [State.modDie, State.die_setDie, n]

/-- Two changes of one strand are one. -/
@[simp] theorem State.modStrand_modStrand (s : State) (h : Nat) (f g : Strand → Strand) :
    (s.modStrand h f).modStrand h g = s.modStrand h fun t => g (f t) := by
  simp [State.modStrand, State.setStrand, State.strand]

@[simp] theorem State.modMe_modMe (s : State) (f g : Strand → Strand) : (s.modMe f).modMe g = s.modMe fun t => g (f t) :=
  State.modStrand_modStrand s s.cur f g

/-- Two changes of one core are one. -/
@[simp] theorem State.modCore_modCore (s : State) (c : Nat) (f g : Core → Core) :
    (s.modCore c f).modCore c g = s.modCore c fun t => g (f t) := by
  simp [State.modCore, State.setCore, State.core]

/-! What an update of one table leaves of the others' entries. -/

@[simp] theorem State.core_modStrand (s : State) (h c : Nat) (f : Strand → Strand) : (s.modStrand h f).core c = s.core c := rfl
@[simp] theorem State.core_modMe (s : State) (c : Nat) (f : Strand → Strand) : (s.modMe f).core c = s.core c := rfl
@[simp] theorem State.cluster_modStrand (s : State) (h k : Nat) (f : Strand → Strand) : (s.modStrand h f).cluster k = s.cluster k := rfl
@[simp] theorem State.die_modStrand (s : State) (h d : Nat) (f : Strand → Strand) : (s.modStrand h f).die d = s.die d := rfl
@[simp] theorem State.strand_modCore (s : State) (c h : Nat) (f : Core → Core) : (s.modCore c f).strand h = s.strand h := rfl
@[simp] theorem State.me_modCore (s : State) (c : Nat) (f : Core → Core) : (s.modCore c f).me = s.me := rfl
@[simp] theorem State.cluster_modCore (s : State) (c k : Nat) (f : Core → Core) : (s.modCore c f).cluster k = s.cluster k := rfl
@[simp] theorem State.die_modCore (s : State) (c d : Nat) (f : Core → Core) : (s.modCore c f).die d = s.die d := rfl
@[simp] theorem State.strand_modCluster (s : State) (k h : Nat) (f : Cluster → Cluster) : (s.modCluster k f).strand h = s.strand h := rfl
@[simp] theorem State.core_modCluster (s : State) (k c : Nat) (f : Cluster → Cluster) : (s.modCluster k f).core c = s.core c := rfl
@[simp] theorem State.strand_modDie (s : State) (d h : Nat) (f : Die → Die) : (s.modDie d f).strand h = s.strand h := rfl
@[simp] theorem State.core_modDie (s : State) (d c : Nat) (f : Die → Die) : (s.modDie d f).core c = s.core c := rfl
@[simp] theorem State.strand_putRaw (s : State) (l : Loc) (bs : List Byte) (h : Nat) : (s.putRaw l bs).strand h = s.strand h := rfl
@[simp] theorem State.core_putRaw (s : State) (l : Loc) (bs : List Byte) (c : Nat) : (s.putRaw l bs).core c = s.core c := rfl

end Sys2Proof.Machine
end

