-- ==== Sys2Proof/Laws/Engine.lean ====
section
/-! SUPPORT. What the planning and the stepping of an engine's accesses do, and what a new pass of retries leaves alone. -/

namespace Sys2Proof.Machine

variable (s : State) (c id : Nat)

/-! An access put on a path goes to the end of its core's queue, and nothing else changes but the serial number. -/

@[simp] theorem State.enterPath_mem (p : Path) (a : Access) : (s.enterPath c p a).mem = s.mem := rfl
@[simp] theorem State.enterPath_tags (p : Path) (a : Access) : (s.enterPath c p a).tags = s.tags := rfl
@[simp] theorem State.enterPath_strands (p : Path) (a : Access) : (s.enterPath c p a).strands = s.strands := rfl
@[simp] theorem State.enterPath_retry (p : Path) (a : Access) : (s.enterPath c p a).retry = s.retry := rfl
theorem State.enterPath_core (p : Path) (a : Access) : (s.enterPath c p a).core c =
    { s.core c with path := (s.core c).path ++ [{ path := p, seq := (s.core c).seq, acc := a }], seq := (s.core c).seq + 1 } :=
  State.core_modCore_same s c _

/-! An operation changed, planned, or told what its read brought: its core alone changes. -/

@[simp] theorem State.modOp_mem (f : EngineOp → EngineOp) : (s.modOp c id f).mem = s.mem := rfl
@[simp] theorem State.modOp_tags (f : EngineOp → EngineOp) : (s.modOp c id f).tags = s.tags := rfl
@[simp] theorem State.modOp_strands (f : EngineOp → EngineOp) : (s.modOp c id f).strands = s.strands := rfl
theorem State.modOp_core (f : EngineOp → EngineOp) : (s.modOp c id f).core c =
    { s.core c with ops := (s.core c).ops.map fun o => if o.id = id then f o else o } :=
  State.core_modCore_same s c _
@[simp] theorem State.modOp_path (f : EngineOp → EngineOp) : ((s.modOp c id f).core c).path = (s.core c).path := by
  rw [State.modOp_core]
@[simp] theorem State.planOp_mem (as : List Access) : (s.planOp c id as).mem = s.mem := rfl
@[simp] theorem State.planOp_tags (as : List Access) : (s.planOp c id as).tags = s.tags := rfl
@[simp] theorem State.planOp_path (as : List Access) : ((s.planOp c id as).core c).path = (s.core c).path :=
  State.modOp_path s c id _
@[simp] theorem State.noteFetch_mem (seq : Nat) (g : Got) : (s.noteFetch c seq g).mem = s.mem := rfl
@[simp] theorem State.noteFetch_tags (seq : Nat) (g : Got) : (s.noteFetch c seq g).tags = s.tags := rfl

/-- The operation of an ID, changed by what keeps IDs. -/
theorem Core.op?_map (ops : List EngineOp) (f : EngineOp → EngineOp) (k : ∀ o, (f o).id = o.id) :
    (ops.map fun o => if o.id = id then f o else o).find? (fun o => o.id == id) =
      (ops.find? fun o => o.id == id).map f := by
  induction ops with
  | nil => rfl
  | cons o os ih =>
    by_cases h : o.id = id
    · simp [h, k]
    · simp [h, ih]

/-- What an operation is after it has been changed. -/
theorem State.op?_modOp (f : EngineOp → EngineOp) (k : ∀ o, (f o).id = o.id) :
    ((s.modOp c id f).core c).op? id = ((s.core c).op? id).map f := by
  rw [State.modOp_core]
  exact Core.op?_map id (s.core c).ops f k

/-- What an operation is once accesses of it are planned. -/
theorem State.op?_planOp (as : List Access) :
    ((s.planOp c id as).core c).op? id = ((s.core c).op? id).map fun o => { o with todo := as, reads := fetchesOf as } :=
  State.op?_modOp s c id _ fun _ => rfl

/-- An operation that is not parked, with an access planned, puts it on its path, and no other. -/
theorem State.stepOp_cons {o : EngineOp} {a : Access} {r : List Access} (h : (s.core c).op? id = some o) (p : o.parked = false)
    (t : o.todo = a :: r) :
    s.stepOp c id = some ((s.enterPath c o.kind.path a).modOp c id fun o =>
      { o with todo := r, reads := if a.isFetch then numberRead (s.core c).seq o.reads else o.reads }) := by
  simp [State.stepOp, State.putOp, h, p, t]

/-- An operation with nothing planned has no such step. -/
theorem State.stepOp_nil {o : EngineOp} (h : (s.core c).op? id = some o) (t : o.todo = []) : s.stepOp c id = none := by
  simp [State.stepOp, State.putOp, h, t]

/-- A parked operation has no such step. -/
theorem State.stepOp_parked {o : EngineOp} (h : (s.core c).op? id = some o) (p : o.parked = true) : s.stepOp c id = none := by
  simp [State.stepOp, h, p]

/-- What such a step leaves: the access last on its path, the rest planned, memory as it was. -/
theorem State.stepOp_spec {t : State} (h : s.stepOp c id = some t) :
    ∃ o a r, (s.core c).op? id = some o ∧ o.parked = false ∧ o.todo = a :: r ∧
    t.mem = s.mem ∧ t.tags = s.tags ∧ ((t.core c).op? id).map EngineOp.todo = some r ∧
    ((t.core c).path.getLast?).map (fun e => (e.path, e.acc)) = some (o.kind.path, a) := by
  cases ho : (s.core c).op? id with
  | none => simp [State.stepOp, State.putOp, ho] at h
  | some o =>
    cases hp : o.parked with
    | true => simp [State.stepOp_parked s c id ho hp] at h
    | false =>
    cases ht : o.todo with
    | nil => simp [State.stepOp_nil s c id ho ht] at h
    | cons a r =>
      rw [State.stepOp_cons s c id ho hp ht] at h
      cases h
      refine ⟨o, a, r, rfl, hp, ht, rfl, rfl, ?_, by simp [State.enterPath_core]⟩
      rw [State.op?_modOp _ c id (fun o => { o with todo := r, reads := _ }) fun _ => rfl, State.enterPath_core]
      show ((s.core c).op? id |>.map _).map EngineOp.todo = some r
      rw [ho]; rfl

/-- The event of an operation that has an access planned is that step. -/
theorem stepOr_some {t : State} (next : State → Result) (h : s.stepOp c id = some t) : stepOr c id next s = .next t := by
  simp only [stepOr, h]

/-- The event of an operation with none planned is what comes next. -/
theorem stepOr_none (next : State → Result) (h : s.stepOp c id = none) : stepOr c id next s = next s := by
  simp only [stepOr, h]

/-! Accesses dropped: memory is as it was, and of the core only its accesses change. -/

@[simp] theorem State.keepAccesses_mem (keep : PathEntry → Bool) : (s.keepAccesses c keep).mem = s.mem := rfl
@[simp] theorem State.keepAccesses_tags (keep : PathEntry → Bool) : (s.keepAccesses c keep).tags = s.tags := rfl
@[simp] theorem State.keepAccesses_strands (keep : PathEntry → Bool) : (s.keepAccesses c keep).strands = s.strands := rfl
theorem State.keepAccesses_core (keep : PathEntry → Bool) : (s.keepAccesses c keep).core c =
    { s.core c with path := (s.core c).path.filter keep, slipped := (s.core c).slipped.filter fun e => keep e.1 } :=
  State.core_modCore_same _ c _

/-! A write that cannot be made, and a device's request that is refused: memory is as it was, and what was dropped is gone. -/

@[simp] theorem State.failWrite_mem (out : Outcome) (a : Access) : (s.failWrite c id out a).mem = s.mem := by
  unfold State.failWrite; dsimp only; split <;> rfl
@[simp] theorem State.failWrite_tags (out : Outcome) (a : Access) : (s.failWrite c id out a).tags = s.tags := by
  unfold State.failWrite; dsimp only; split <;> rfl
@[simp] theorem State.failWrite_strands (out : Outcome) (a : Access) : (s.failWrite c id out a).strands = s.strands := by
  unfold State.failWrite; dsimp only; split <;> rfl

/-- No write of the operation at that position or behind it is left on a path of the core. -/
theorem State.failWrite_path (out : Outcome) (a : Access) :
    ((s.failWrite c id out a).core c).path = (s.core c).path.filter fun e => !e.writesFrom id out.word1 := by
  have h : ∀ f : Core → Core, (∀ q, (f q).path = q.path) →
      (((s.keepAccesses c fun e => !e.writesFrom id out.word1).modCore c f).core c).path =
        (s.core c).path.filter fun e => !e.writesFrom id out.word1 := fun f hf => by
    rw [State.core_modCore_same, hf, State.keepAccesses_core]
  unfold State.failWrite; dsimp only; split
  · rw [State.modOp_path]; exact h _ fun _ => rfl
  · exact h _ fun _ => rfl

/-- Reads of which one is still under way have not come back. -/
theorem readsDone_waits {fs : List Fetch} {f : Fetch} (m : f ∈ fs) (h : f.got = none) : readsDone fs = none := by
  have : fs.all (fun f => f.got.isSome) = false := List.all_eq_false.2 ⟨f, m, by simp [h]⟩
  simp [readsDone, this]

/-! A new pass of retries marks entries of the retry lists and changes nothing else. -/

@[simp] theorem State.newPass_mem (a : Access) : (s.newPass a).mem = s.mem := rfl
@[simp] theorem State.newPass_tags (a : Access) : (s.newPass a).tags = s.tags := rfl
@[simp] theorem State.newPass_strands (a : Access) : (s.newPass a).strands = s.strands := rfl
@[simp] theorem State.newPass_cores (a : Access) : (s.newPass a).cores = s.cores := rfl
@[simp] theorem State.newPass_dies (a : Access) : (s.newPass a).dies = s.dies := rfl
@[simp] theorem State.newPass_length (a : Access) : (s.newPass a).retry.length = s.retry.length := List.length_map _

end Sys2Proof.Machine
end

