-- ==== Sys2Proof/Laws/Home.lean ====
section
/-! SUPPORT. What a row that serves a device's word does with the access that it is offered, and what `settle` does with
what a home gives. -/

namespace Sys2Proof.Machine

variable {s : State} {core seq : Nat} {e : PathEntry} {row : DevRow}

/-- An access that may be performed now and is the row's own: its home's answer is applied. -/
theorem serveRow_offered {f : State → Access → Served} (h : s.pathEntry core seq = some e)
    (hp : s.mayPerform core e = true) (hr : rowOf e.acc = row) :
    serveRow row core seq f s = .next (s.settle core e (f s e.acc)) := by
  simp only [serveRow, h, hp, hr, beq_self_eq_true, Bool.and_self, ite_true]

/-- What a home performs leaves its queue, and its answer goes to the strand; what an engine reads is noted instead. -/
theorem settle_done (t : State) (x : Ans) (h : ∀ g, x ≠ .fetched g) :
    s.settle core e (.done t x) = (t.takeOut core e).respond core e.acc x := by
  cases x <;> first | rfl | exact absurd rfl (h _)

/-- What an engine's read brings back is noted with its operation. -/
theorem settle_fetched (t : State) (g : Got) :
    s.settle core e (.done t (.fetched g)) = (t.takeOut core e).noteFetch core e.seq g := rfl

/-- An access that draws a trap and is no read, check or write of an engine leaves its queue with the trap as its answer. -/
theorem settle_fails (t : State) (tr : Trap) (n : Nat) (h : e.acc.isFetch = false) (ho : e.acc.ending = none) :
    s.settle core e (.fails t tr n) = (t.takeOut core e).respond core e.acc (.trap tr) := by
  simp [State.settle, State.failAccess, h, ho]

/-- A write of an engine's operation that cannot be made ends its operation as it says, with the status given. -/
theorem settle_failWrite (t : State) (tr : Trap) (n id : Nat) (out : Outcome) (h : e.acc.isFetch = false) (hi : e.acc.op = some id)
    (ho : e.acc.ending = some out) :
    s.settle core e (.fails t tr n) = (t.takeOut core e).failWrite core id { out with status := n } e.acc := by
  simp [State.settle, State.failAccess, h, hi, ho]

/-- A store that may be performed now and is the row's own: its effect, and the store is answered. -/
theorem serveStore_offered {f : State → Access → Word → State} {v : Word} (h : s.pathEntry core seq = some e)
    (hp : s.mayPerform core e = true) (hr : rowOf e.acc = row) (hv : e.acc.stored = some v) :
    serveStore row core seq f s = .next (((f s e.acc v).takeOut core e).respond core e.acc Ans.unit) := by
  rw [serveStore, serveRow_offered h hp hr, hv]; rfl

/-- A row of an access that may not be performed, or is another row's, changes nothing. -/
theorem serveRow_idle {f : State → Access → Served} (h : s.pathEntry core seq = none) :
    serveRow row core seq f s = .next s := by
  simp only [serveRow, h]

/-- What an access stores is a store's. -/
theorem kind_of_stored {a : Access} {v : Word} (h : a.stored = some v) :
    ∃ bs f p, a.kind = .store bs f p ∧ v = BitVec.ofNat 64 (natOfBytes bs) := by
  unfold Access.stored at h
  split at h
  · exact ⟨_, _, _, ‹_›, (Option.some.inj h).symm⟩
  · exact absurd h (by simp)

/-- A store to an event unit belongs to the row of its offset. -/
theorem eventRow_of_stored {a : Access} {v : Word} {o : Nat} (h : a.stored = some v) :
    eventRow o a = if o < 0x800 then .barrierCfg else if o < 0x900 then .mutexRelease else if o < 0xA00 then .lineSignal else .peekSet := by
  obtain ⟨_, _, _, hk, _⟩ := kind_of_stored h
  simp only [eventRow, hk, h]

/-- A plain load of an event unit belongs to the row of its offset. -/
theorem eventRow_of_load {a : Access} {o : Nat} (h : a.kind = .load .plain false) :
    eventRow o a = if o < 0x800 then .perform else if o < 0x900 then .mutexAcquire else if o < 0xA00 then .lineWait
      else if o < 0xB00 then .perform else .phaseWait := by
  have hs : a.stored = none := by simp only [Access.stored, h]
  simp only [eventRow, h, hs]

end Sys2Proof.Machine
end

