-- ==== Sys2Proof/Laws/Ops.lean ====
section
/-! SUPPORT. What each shared operation over registers, traps and the run of an instruction can do. -/

namespace Sys2Proof.Machine

/-! Registers (R36 to R38). -/

@[simp] theorem Strand.getX_zero (t : Strand) : t.getX 0#5 = 0#64 := rfl

@[simp] theorem Strand.setX_zero (t : Strand) (w : Word) : t.setX 0#5 w = t := rfl

theorem Strand.getX_setX (t : Strand) (r q : BitVec 5) (w : Word) :
    (t.setX r w).getX q = if q = 0#5 then 0#64 else if q = r then w else t.getX q := by
  unfold Strand.getX Strand.setX
  by_cases hq : q = 0#5
  · simp [hq]
  · by_cases hr : r = 0#5
    · subst hr; simp [hq]
    · by_cases h : q = r
      · subst h; simp [hq]
      · have : r.toNat ≠ q.toNat := fun e => h (BitVec.eq_of_toNat_eq e.symm)
        simp [hq, hr, h, Vector.getElem_set_ne _ _ this]

@[simp] theorem Strand.getX_setX_same (t : Strand) {r : BitVec 5} (w : Word) (h : r ≠ 0#5) : (t.setX r w).getX r = w := by
  simp [Strand.getX_setX, h]

theorem Strand.getX_setX_ne (t : Strand) {r q : BitVec 5} (w : Word) (h : q ≠ r) : (t.setX r w).getX q = t.getX q := by
  rw [Strand.getX_setX]; split
  · rename_i e; subst e; rfl
  · simp

theorem Strand.getF_setF (t : Strand) (r q : BitVec 5) (w : Word) :
    (t.setF r w).getF q = if q = r then w else t.getF q := by
  unfold Strand.getF Strand.setF
  by_cases h : q = r
  · subst h; simp
  · have : r.toNat ≠ q.toNat := fun e => h (BitVec.eq_of_toNat_eq e.symm)
    simp [h, Vector.getElem_set_ne _ _ this]

theorem Strand.getV_setV (t : Strand) (r q : BitVec 5) (w : Vec) :
    (t.setV r w).getV q = if q = r then w else t.getV q := by
  unfold Strand.getV Strand.setV
  by_cases h : q = r
  · subst h; simp
  · have : r.toNat ≠ q.toNat := fun e => h (BitVec.eq_of_toNat_eq e.symm)
    simp [h, Vector.getElem_set_ne _ _ this]

@[simp] theorem Strand.getP_zero (t : Strand) : t.getP 0#3 = BitVec.allOnes 64 := rfl

@[simp] theorem Strand.setP_zero (t : Strand) (w : Word) : t.setP 0#3 w = t := rfl

theorem Strand.getP_setP (t : Strand) (r q : BitVec 3) (w : Word) :
    (t.setP r w).getP q = if q = 0#3 then BitVec.allOnes 64 else if q = r then w else t.getP q := by
  unfold Strand.getP Strand.setP
  by_cases hq : q = 0#3
  · simp [hq]
  · by_cases hr : r = 0#3
    · subst hr; simp [hq]
    · by_cases h : q = r
      · subst h; simp [hq]
      · have : r.toNat ≠ q.toNat := fun e => h (BitVec.eq_of_toNat_eq e.symm)
        simp [hq, hr, h, Vector.getElem_set_ne _ _ this]

theorem Strand.getC_setC (t : Strand) (r q : BitVec 4) (w : CochainReg) :
    (t.setC r w).getC q = if q = r then w else t.getC q := by
  unfold Strand.getC Strand.setC
  by_cases h : q = r
  · subst h; simp
  · have : r.toNat ≠ q.toNat := fun e => h (BitVec.eq_of_toNat_eq e.symm)
    simp [h, Vector.getElem_set_ne _ _ this]

/-! Traps (R352, R354). -/

theorem State.trapEntry_strand (s : State) (h : Nat) (int : Bool) (tr : Trap) (epc : Word) :
    (s.trapEntry h int tr epc).strand h =
      if goesToM h (s.strand h) int tr.code then enterM (s.strand h) int tr epc else enterS (s.strand h) int tr epc :=
  State.strand_modStrand_same _ _ _

theorem State.trapEntry_other (s : State) {h k : Nat} (int : Bool) (tr : Trap) (epc : Word) (n : h ≠ k) :
    (s.trapEntry h int tr epc).strand k = s.strand k := by
  unfold State.trapEntry; exact State.strand_modStrand_ne _ _ n

/-! The shared checks (R59). -/

theorem issue_pass {i : Instr} {s : State} (body : State → Result) (h : refusal i s = none) : issue i body s = body s := by
  simp [issue, h]

theorem issue_stop {i : Instr} {s : State} {tr : Trap} (body : State → Result) (h : refusal i s = some tr) :
    issue i body s = .next (s.takeTrap s.cur tr) := by simp [issue, h]

/-- Nothing stops an instruction that is no privileged encoding, no control flow and has no rounding field, once its
fields are legal. -/
theorem refusal_none {i : Instr} (s : State) (h : legal i = true) (hc : isControlFlow i = false) (hp : privileged i = false)
    (hr : rmField i = none) : refusal i s = none := by simp [refusal, h, hc, hp, hr]

/-- The shared checks in order (R59). -/
theorem refusal_illegal {i : Instr} (s : State) (h : legal i = false) : refusal i s = some (trapILL (wordOf i)) := by
  simp [refusal, h]

theorem refusal_privileged {i : Instr} {s : State} (h : legal i = true) (hc : isControlFlow i = false)
    (hp : privileged i = true) (hu : s.me.mode = .u) : refusal i s = some (trapPRIV (wordOf i)) := by
  simp [refusal, h, hc, hp, hu]

theorem refusal_rounding {i : Instr} {s : State} {r : BitVec 3} (h : legal i = true) (hc : isControlFlow i = false)
    (hp : privileged i = false) (hr : rmField i = some r) :
    refusal i s = if (effectiveRm r s.me.frm).isNone then some (trapILL (wordOf i)) else none := by
  simp [refusal, h, hc, hp, hr]

/-- `issue` answers a next state where its body does. -/
theorem issue_next {i : Instr} {body : State → Result} {s : State} (h : ∃ t, body s = .next t) : ∃ t, issue i body s = .next t := by
  unfold issue; split
  · exact ⟨_, rfl⟩
  · exact h

/-- The results of an instruction without enabled flags: flags merged, results written, complete (R73). -/
theorem deliverFlags_quiet {fl : FlagSet} {lane : Nat} {put : Strand → Strand} {s : State}
    (h : enabledFlags s.me.fte fl = 0#5) :
    deliverFlags fl lane put s =
      .next ((s.modMe fun t => { t with fflags := mergeFlags t.fflags fl }).modMe put).retire := by
  simp [deliverFlags, h]

theorem deliverFlags_next (fl : FlagSet) (lane : Nat) (put : Strand → Strand) (s : State) :
    ∃ t, deliverFlags fl lane put s = .next t := by unfold deliverFlags; split <;> exact ⟨_, rfl⟩

/-! The run of an instruction that has accesses or waits. -/

/-- A run always ends in a next state. -/
theorem runInstr_next (i : Instr) (m : M Unit) (s : State) : ∃ t, runInstr i m s = .next t := by
  unfold runInstr; split <;> exact ⟨_, rfl⟩

theorem issueRun_next (i : Instr) (m : M Unit) (s : State) : ∃ t, issueRun i m s = .next t :=
  issue_next (runInstr_next i m s)

@[simp] theorem run_pure {α : Type} (a : α) (r : Run) : (pure a : M α) r = .ok a r := rfl

theorem run_bind {α β : Type} (m : M α) (k : α → M β) (r : Run) :
    (m >>= k) r = match m r with
      | .ok a r' => k a r'
      | .error e r' => .error e r' := by
  show EStateM.bind m k r = _
  unfold EStateM.bind; cases m r <;> rfl

@[simp] theorem run_getS (r : Run) : getS r = .ok r.s r := rfl
@[simp] theorem run_getMe (r : Run) : getMe r = .ok r.s.me r := rfl
@[simp] theorem run_modS (f : State → State) (r : Run) : modS f r = .ok () { r with s := f r.s } := rfl
@[simp] theorem run_modT (f : Strand → Strand) (r : Run) : modT f r = .ok () { r with s := r.s.modMe f } := rfl
@[simp] theorem run_trap {α : Type} (t : Trap) (r : Run) : (trap t : M α) r = .error (.trap t) r := rfl
@[simp] theorem run_leaveCore (r : Run) : leaveCore r = .ok () { r with leaves := true } := rfl

@[simp] theorem run_require (c : Bool) (t : Trap) (r : Run) :
    require c t r = if c then .ok () r else .error (.trap t) r := by unfold require; split <;> rfl

/-- An action whose answer has been had takes it and does nothing. -/
theorem act_had (f : State → Act) {r : Run} {a : Ans} {p : List Ans} (h : r.past = a :: p) (n : ∀ t, a ≠ .trap t) :
    act f r = .ok a { r with past := p } := by
  unfold act; rw [h]; cases a <;> simp_all

/-- An action that has no answer yet is done now. -/
theorem act_now (f : State → Act) {r : Run} (h : r.past = []) :
    act f r = match f r.s with
      | .ok a s => .ok a { r with s := s, new := r.new ++ [a] }
      | .trap t s => .error (.trap t) { r with s := s }
      | .park p s => .error (.park p) { r with s := s } := by
  cases hf : f r.s <;> simp [act, h, hf]

/-! Properties of the state that a run keeps. -/

/-- Whatever its end, the run `m` leaves the state with P if it had P. -/
def Keeps (P : State → Prop) {α : Type} (m : M α) : Prop :=
  ∀ r : Run, P r.s → match m r with
    | .ok _ r' => P r'.s
    | .error _ r' => P r'.s

theorem Keeps.pure {P : State → Prop} {α : Type} (a : α) : Keeps P (Pure.pure a : M α) := fun _ h => h

theorem Keeps.bind {P : State → Prop} {α β : Type} {m : M α} {k : α → M β} (hm : Keeps P m) (hk : ∀ a, Keeps P (k a)) :
    Keeps P (m >>= k) := by
  intro r h
  have h1 := hm r h
  rw [run_bind]
  cases e : m r with
  | ok a r' => rw [e] at h1; exact hk a r' h1
  | error x r' => rw [e] at h1; exact h1

theorem Keeps.getS {P : State → Prop} : Keeps P getS := fun _ h => h
theorem Keeps.getMe {P : State → Prop} : Keeps P getMe := fun _ h => h
theorem Keeps.leaveCore {P : State → Prop} : Keeps P leaveCore := fun _ h => h
theorem Keeps.trap {P : State → Prop} {α : Type} (t : Trap) : Keeps P (trap t : M α) := fun _ h => h
theorem Keeps.require {P : State → Prop} (c : Bool) (t : Trap) : Keeps P (require c t) := by
  intro r h; rw [run_require]; cases c <;> exact h
theorem Keeps.modS {P : State → Prop} {f : State → State} (h : ∀ s, P s → P (f s)) : Keeps P (modS f) := fun r hr => h r.s hr
theorem Keeps.modT {P : State → Prop} {f : Strand → Strand} (h : ∀ s : State, P s → P (s.modMe f)) : Keeps P (modT f) :=
  fun r hr => h r.s hr

/-- The state that an action leaves. -/
def Act.state : Act → State
  | .ok _ s => s
  | .trap _ s => s
  | .park _ s => s

theorem Keeps.act {P : State → Prop} {f : State → Act} (h : ∀ s, P s → P (f s).state) : Keeps P (act f) := by
  intro r hr
  have hs := h r.s hr
  unfold Machine.act
  cases r.past with
  | cons a p => cases a <;> exact hr
  | nil => cases e : f r.s <;> rw [e] at hs <;> exact hs

end Sys2Proof.Machine
end

