-- ==== Sys2Proof/Laws/PerInstr.lean ====
section
/-! SUPPORT. Per instruction: the opcode byte of its word is the opcode table's, and a step of the device has none. -/

namespace Sys2Proof.Laws.Encoding

/-- The opcode of an instruction in the opcode table (R56); none for a step of the device. -/
def opcode : Instr → Option (BitVec 8)
  | .add _ _ _ _ => some 0x01#8
  | .sub _ _ _ _ => some 0x02#8
  | .and _ _ _ _ => some 0x03#8
  | .or _ _ _ _ => some 0x04#8
  | .xor _ _ _ _ => some 0x05#8
  | .sll _ _ _ _ => some 0x06#8
  | .srl _ _ _ _ => some 0x07#8
  | .sra _ _ _ _ => some 0x08#8
  | .slt _ _ _ _ _ => some 0x09#8
  | .min _ _ _ _ _ => some 0x0A#8
  | .max _ _ _ _ _ => some 0x0B#8
  | .mul _ _ _ _ => some 0x0C#8
  | .mulh _ _ _ _ _ => some 0x0D#8
  | .div _ _ _ _ _ => some 0x0E#8
  | .rem _ _ _ _ _ => some 0x0F#8
  | .clz _ _ _ => some 0x10#8
  | .ctz _ _ _ => some 0x11#8
  | .popc _ _ _ => some 0x12#8
  | .bfx _ _ _ _ _ => some 0x13#8
  | .addi _ _ _ => some 0x14#8
  | .andi _ _ _ => some 0x15#8
  | .ori _ _ _ => some 0x16#8
  | .xori _ _ _ => some 0x17#8
  | .slli _ _ _ => some 0x18#8
  | .srli _ _ _ => some 0x19#8
  | .srai _ _ _ => some 0x1A#8
  | .slti _ _ _ => some 0x1B#8
  | .lui _ _ => some 0x1C#8
  | .auipc _ _ => some 0x1D#8
  | .beq _ _ _ => some 0x1E#8
  | .bne _ _ _ => some 0x1F#8
  | .blt _ _ _ => some 0x20#8
  | .bge _ _ _ => some 0x21#8
  | .bltu _ _ _ => some 0x22#8
  | .bgeu _ _ _ => some 0x23#8
  | .jal _ _ => some 0x24#8
  | .jalr _ _ _ => some 0x25#8
  | .loop _ _ => some 0x26#8
  | .ld _ _ _ _ => some 0x27#8
  | .st _ _ _ _ => some 0x28#8
  | .fld _ _ _ _ => some 0x29#8
  | .fst _ _ _ _ => some 0x2A#8
  | .vld _ _ _ => some 0x2B#8
  | .vst _ _ _ => some 0x2C#8
  | .vldx _ _ _ _ _ _ => some 0x2D#8
  | .vstx _ _ _ _ _ _ => some 0x2E#8
  | .ldo _ _ _ _ _ => some 0x2F#8
  | .sto _ _ _ _ _ => some 0x30#8
  | .lds _ _ _ _ => some 0x31#8
  | .sts _ _ _ _ => some 0x32#8
  | .tpf _ _ => some 0x33#8
  | .amo _ _ _ _ _ _ => some 0x34#8
  | .cas _ _ _ _ _ _ => some 0x35#8
  | .fence _ => some 0x36#8
  | .xfence _ _ => some 0x37#8
  | .mwatch _ _ => some 0x38#8
  | .mwait _ _ => some 0x39#8
  | .mbxwait _ _ => some 0x3A#8
  | .mbxpop _ _ => some 0x3B#8
  | .barrive _ _ _ => some 0x3C#8
  | .yield => some 0x3D#8
  | .yieldEnd => some 0x3D#8
  | .cpset _ _ _ => some 0x3E#8
  | .cpgo _ => some 0x3F#8
  | .gxpost _ _ => some 0x40#8
  | .tmov _ _ _ => some 0x41#8
  | .reloc _ _ _ _ => some 0x42#8
  | .relocRet _ _ _ => some 0x42#8
  | .msweep _ _ _ => some 0x43#8
  | .fadd _ _ _ _ _ => some 0x44#8
  | .fsub _ _ _ _ _ => some 0x45#8
  | .fmul _ _ _ _ _ => some 0x46#8
  | .fdiv _ _ _ _ _ => some 0x47#8
  | .fsqrt _ _ _ _ => some 0x48#8
  | .fma _ _ _ _ _ _ => some 0x49#8
  | .fnma _ _ _ _ _ _ => some 0x4A#8
  | .fmin _ _ _ _ _ => some 0x4B#8
  | .fmax _ _ _ _ _ => some 0x4C#8
  | .fcmp _ _ _ _ _ => some 0x4D#8
  | .fclass _ _ _ => some 0x4E#8
  | .fcvt _ _ _ _ _ => some 0x4F#8
  | .fcvti _ _ _ _ _ _ => some 0x50#8
  | .fcvtf _ _ _ _ _ _ => some 0x51#8
  | .fmv _ _ _ _ => some 0x52#8
  | .fsgnj _ _ _ _ _ => some 0x53#8
  | .fexp _ _ _ _ => some 0x54#8
  | .flog _ _ _ _ => some 0x55#8
  | .ferf _ _ _ _ => some 0x56#8
  | .fapx _ _ _ _ _ => some 0x57#8
  | .vadd _ _ _ _ _ _ => some 0x58#8
  | .vsub _ _ _ _ _ _ => some 0x59#8
  | .vmul _ _ _ _ _ _ => some 0x5A#8
  | .vfma _ _ _ _ _ _ => some 0x5B#8
  | .vmin _ _ _ _ _ _ => some 0x5C#8
  | .vmax _ _ _ _ _ _ => some 0x5D#8
  | .vbit _ _ _ _ _ _ => some 0x5E#8
  | .vsh _ _ _ _ _ _ => some 0x5F#8
  | .vcmp _ _ _ _ _ _ _ => some 0x60#8
  | .vsel _ _ _ _ _ _ => some 0x61#8
  | .vcvt _ _ _ _ _ _ _ => some 0x62#8
  | .vfun _ _ _ _ _ _ => some 0x63#8
  | .vred _ _ _ _ _ _ => some 0x64#8
  | .vsplat _ _ _ _ _ => some 0x65#8
  | .vperm _ _ _ _ _ _ => some 0x66#8
  | .vextr _ _ _ _ _ => some 0x67#8
  | .vhash _ _ _ _ _ => some 0x68#8
  | .vbmand _ _ _ _ _ => some 0x69#8
  | .vpfx _ _ _ _ => some 0x6A#8
  | .visect _ _ _ _ _ => some 0x6B#8
  | .vdot _ _ _ _ _ _ => some 0x6C#8
  | .cxload _ _ _ => some 0x6D#8
  | .cxedit _ _ _ => some 0x6E#8
  | .cxinfo _ _ _ _ _ => some 0x6F#8
  | .cxinfoSetexp _ _ => some 0x6F#8
  | .cbind _ _ _ _ _ _ _ => some 0x70#8
  | .cq _ _ _ => some 0x71#8
  | .cdq _ _ _ => some 0x72#8
  | .dext _ _ _ => some 0x73#8
  | .dcob _ _ _ => some 0x74#8
  | .hstar _ _ _ => some 0x75#8
  | .wedge _ _ _ _ _ => some 0x76#8
  | .interp _ _ _ _ => some 0x77#8
  | .clin _ _ _ _ _ _ => some 0x78#8
  | .cseamSend _ _ => some 0x79#8
  | .cseamRelease _ => some 0x79#8
  | .cseamLand _ _ => some 0x79#8
  | .cred _ _ _ _ _ => some 0x7A#8
  | .mcfg _ _ _ => some 0x7B#8
  | .mma _ _ _ _ _ _ _ => some 0x7C#8
  | .mconst _ _ _ _ _ _ _ _ => some 0x7D#8
  | .maccZero _ _ => some 0x7E#8
  | .maccLoad _ _ _ _ => some 0x7E#8
  | .maccStore _ _ _ _ _ => some 0x7E#8
  | .maccAdd _ _ _ _ _ => some 0x7E#8
  | .rtdef _ _ => some 0x7F#8
  | .hfold _ _ _ _ => some 0x80#8
  | .hscan _ _ _ _ => some 0x81#8
  | .hzip _ _ _ _ => some 0x82#8
  | .houter _ _ _ _ => some 0x83#8
  | .colput _ _ _ => some 0x84#8
  | .colget _ _ => some 0x85#8
  | .ssync _ _ => some 0x86#8
  | .launch _ _ => some 0x87#8
  | .launchQuery _ _ _ => some 0x87#8
  | .launchJob _ _ => some 0x87#8
  | .cancel _ _ _ => some 0x88#8
  | .ecall => some 0x89#8
  | .ebreak => some 0x8A#8
  | .eret => some 0x8B#8
  | .csrrw _ _ _ => some 0x8C#8
  | .csrrs _ _ _ => some 0x8D#8
  | .csrrc _ _ _ => some 0x8E#8
  | .ctuinv _ _ _ _ => some 0x8F#8
  | .wfi => some 0x90#8
  | .moduleReset => none
  | .boot _ _ => none
  | .recoveryImageReceive _ => none
  | .attestationRequest _ => none
  | .junctionTrip _ => none
  | .powerThrottle => none
  | .unitDispatch _ => none
  | .quantumEnd => none
  | .timecmpMatch => none
  | .interruptTake => none
  | .waitLimitExpiry => none
  | .timedWaitExpiry => none
  | .matrixWaitExpiry _ => none
  | .postedStoreMove _ _ => none
  | .drainComplete => none
  | .homePerform _ _ _ _ => none
  | .retryListRetry _ => none
  | .slipMarkHop _ _ => none
  | .accessResponse => none
  | .ctuWalkComplete _ _ => none
  | .relocBegin _ _ => none
  | .relocCopy _ _ => none
  | .relocInstall _ _ => none
  | .relocCompletion _ _ => none
  | .relocRetirementStep _ _ => none
  | .copyRow _ _ _ _ => none
  | .copyCompletion _ _ => none
  | .gatherRow _ _ _ _ => none
  | .gatherMark _ _ => none
  | .gatherCompletion _ _ => none
  | .mailboxPlace _ => none
  | .matrixTileStep _ => none
  | .sprueHop _ _ => none
  | .hotOperationCompletion _ _ _ _ _ => none
  | .collectiveCombine _ _ => none
  | .collectiveResultArrival _ _ => none
  | .collectiveQueueRecord _ _ => none
  | .collectiveGo _ _ => none
  | .groupTableWrite _ _ => none
  | .chanSend _ _ => none
  | .chanEntryWrite _ _ => none
  | .chanRecv _ _ => none
  | .chanHeadWrite _ _ => none
  | .chanCfgWrite _ _ => none
  | .seamQueueTake _ _ => none
  | .barrierCfgWrite _ _ => none
  | .barrierChildArrival _ _ => none
  | .barrierParentFlip _ _ => none
  | .phaseWait _ _ => none
  | .mutexAcquire _ _ => none
  | .mutexRelease _ _ => none
  | .eventLineWait _ _ => none
  | .eventLineSignal _ _ => none
  | .eventPeekSet _ _ => none
  | .scheduleChoice _ => none
  | .pourBegin _ => none
  | .pourEntrySend _ _ => none
  | .pourDeliveryStage _ _ => none
  | .ssyncCommit _ => none
  | .cancelReturn => none
  | .jobEnd _ => none
  | .faultQueueEntry => none
  | .ansaResume _ _ => none
  | .ansaEnd _ _ => none
  | .engactRetry _ _ => none
  | .engactEnd _ _ => none
  | .pctlNotice _ _ => none
  | .pctlPreempt _ _ => none
  | .coreSaveComplete _ => none
  | .pctlResume _ _ => none
  | .pctlWithdraw _ _ => none
  | .spillDrain _ => none
  | .extintWrite _ _ => none
  | .icmdInsert _ _ => none
  | .icmdMstore _ _ => none
  | .registerWrite _ _ => none
  | .gatewayRequest _ _ _ _ _ _ _ _ _ _ => none
  | .tc1Announce _ _ _ _ => none
  | .tc1Grant _ _ _ => none
  | .linkFrameSend _ _ _ _ _ => none
  | .linkFrameReceive _ _ _ => none
  | .linkReplayLimit _ => none
  | .phyLockLoss _ => none
  | .phyTrainComplete _ => none
  | .helloSend _ => none
  | .helloReceive _ _ => none
  | .offerReceive _ _ => none
  | .answerReceive _ _ => none
  | .confirmReceive _ _ => none
  | .trainingTimeout _ => none
  | .lcmdStep _ _ => none
  | .lcmdRetrain _ _ => none
  | .lcmdDown _ _ => none
  | .pcieInboundMemoryRequest _ _ _ _ _ _ _ => none
  | .msiMessage _ _ _ _ => none
  | .vstatClear _ _ => none
  | .pcieCompletion _ _ _ _ _ => none
  | .pcieCompletionTimeout _ _ => none
  | .rpcmdRetrain _ _ => none
  | .rpcmdHotReset _ _ => none
  | .rpcmdDisable _ _ => none
  | .rpcmdEnable _ _ => none
  | .scrubLine _ _ => none
  | .superstepReplay _ => none
  | .reservedOpcode w => some (w.extractLsb' 24 8)
  | .coolantLimitStop => none
  | .rootPortLinkUp _ _ _ => none
  | .rootPortLinkLoss _ => none

/-- Bits [31:24] of the instruction's word are its opcode (R41). -/
def Statement (i : Instr) : Prop := (encode i).map (fun w => w.extractLsb' 24 8) = opcode i

set_option Elab.async false

theorem add (d a b w) : Statement (.add d a b w) := by
  simp only [Statement, encode, opcode, Option.map_some]
  repeat rw [BitVec.extractLsb'_append_eq_of_le (by decide)]
  rfl
theorem sub (d a b w) : Statement (.sub d a b w) := by
  simp only [Statement, encode, opcode, Option.map_some]
  repeat rw [BitVec.extractLsb'_append_eq_of_le (by decide)]
  rfl
theorem and (d a b w) : Statement (.and d a b w) := by
  simp only [Statement, encode, opcode, Option.map_some]
  repeat rw [BitVec.extractLsb'_append_eq_of_le (by decide)]
  rfl
theorem or (d a b w) : Statement (.or d a b w) := by
  simp only [Statement, encode, opcode, Option.map_some]
  repeat rw [BitVec.extractLsb'_append_eq_of_le (by decide)]
  rfl
theorem xor (d a b w) : Statement (.xor d a b w) := by
  simp only [Statement, encode, opcode, Option.map_some]
  repeat rw [BitVec.extractLsb'_append_eq_of_le (by decide)]
  rfl
theorem sll (d a b w) : Statement (.sll d a b w) := by
  simp only [Statement, encode, opcode, Option.map_some]
  repeat rw [BitVec.extractLsb'_append_eq_of_le (by decide)]
  rfl
theorem srl (d a b w) : Statement (.srl d a b w) := by
  simp only [Statement, encode, opcode, Option.map_some]
  repeat rw [BitVec.extractLsb'_append_eq_of_le (by decide)]
  rfl
theorem sra (d a b w) : Statement (.sra d a b w) := by
  simp only [Statement, encode, opcode, Option.map_some]
  repeat rw [BitVec.extractLsb'_append_eq_of_le (by decide)]
  rfl
theorem slt (d a b w u) : Statement (.slt d a b w u) := by
  simp only [Statement, encode, opcode, Option.map_some]
  repeat rw [BitVec.extractLsb'_append_eq_of_le (by decide)]
  rfl
theorem min (d a b w u) : Statement (.min d a b w u) := by
  simp only [Statement, encode, opcode, Option.map_some]
  repeat rw [BitVec.extractLsb'_append_eq_of_le (by decide)]
  rfl
theorem max (d a b w u) : Statement (.max d a b w u) := by
  simp only [Statement, encode, opcode, Option.map_some]
  repeat rw [BitVec.extractLsb'_append_eq_of_le (by decide)]
  rfl
theorem mul (d a b w) : Statement (.mul d a b w) := by
  simp only [Statement, encode, opcode, Option.map_some]
  repeat rw [BitVec.extractLsb'_append_eq_of_le (by decide)]
  rfl
theorem mulh (d a b w u) : Statement (.mulh d a b w u) := by
  simp only [Statement, encode, opcode, Option.map_some]
  repeat rw [BitVec.extractLsb'_append_eq_of_le (by decide)]
  rfl
theorem div (d a b w u) : Statement (.div d a b w u) := by
  simp only [Statement, encode, opcode, Option.map_some]
  repeat rw [BitVec.extractLsb'_append_eq_of_le (by decide)]
  rfl
theorem rem (d a b w u) : Statement (.rem d a b w u) := by
  simp only [Statement, encode, opcode, Option.map_some]
  repeat rw [BitVec.extractLsb'_append_eq_of_le (by decide)]
  rfl
theorem clz (d a w) : Statement (.clz d a w) := by
  simp only [Statement, encode, opcode, Option.map_some]
  repeat rw [BitVec.extractLsb'_append_eq_of_le (by decide)]
  rfl
theorem ctz (d a w) : Statement (.ctz d a w) := by
  simp only [Statement, encode, opcode, Option.map_some]
  repeat rw [BitVec.extractLsb'_append_eq_of_le (by decide)]
  rfl
theorem popc (d a w) : Statement (.popc d a w) := by
  simp only [Statement, encode, opcode, Option.map_some]
  repeat rw [BitVec.extractLsb'_append_eq_of_le (by decide)]
  rfl
theorem bfx (d a b s w) : Statement (.bfx d a b s w) := by
  simp only [Statement, encode, opcode, Option.map_some]
  repeat rw [BitVec.extractLsb'_append_eq_of_le (by decide)]
  rfl
theorem addi (d a i) : Statement (.addi d a i) := by
  simp only [Statement, encode, opcode, Option.map_some]
  repeat rw [BitVec.extractLsb'_append_eq_of_le (by decide)]
  rfl
theorem andi (d a i) : Statement (.andi d a i) := by
  simp only [Statement, encode, opcode, Option.map_some]
  repeat rw [BitVec.extractLsb'_append_eq_of_le (by decide)]
  rfl
theorem ori (d a i) : Statement (.ori d a i) := by
  simp only [Statement, encode, opcode, Option.map_some]
  repeat rw [BitVec.extractLsb'_append_eq_of_le (by decide)]
  rfl
theorem xori (d a i) : Statement (.xori d a i) := by
  simp only [Statement, encode, opcode, Option.map_some]
  repeat rw [BitVec.extractLsb'_append_eq_of_le (by decide)]
  rfl
theorem slli (d a i) : Statement (.slli d a i) := by
  simp only [Statement, encode, opcode, Option.map_some]
  repeat rw [BitVec.extractLsb'_append_eq_of_le (by decide)]
  rfl
theorem srli (d a i) : Statement (.srli d a i) := by
  simp only [Statement, encode, opcode, Option.map_some]
  repeat rw [BitVec.extractLsb'_append_eq_of_le (by decide)]
  rfl
theorem srai (d a i) : Statement (.srai d a i) := by
  simp only [Statement, encode, opcode, Option.map_some]
  repeat rw [BitVec.extractLsb'_append_eq_of_le (by decide)]
  rfl
theorem slti (d a i) : Statement (.slti d a i) := by
  simp only [Statement, encode, opcode, Option.map_some]
  repeat rw [BitVec.extractLsb'_append_eq_of_le (by decide)]
  rfl
theorem lui (d i) : Statement (.lui d i) := by
  simp only [Statement, encode, opcode, Option.map_some]
  repeat rw [BitVec.extractLsb'_append_eq_of_le (by decide)]
  rfl
theorem auipc (d i) : Statement (.auipc d i) := by
  simp only [Statement, encode, opcode, Option.map_some]
  repeat rw [BitVec.extractLsb'_append_eq_of_le (by decide)]
  rfl
theorem beq (a b o) : Statement (.beq a b o) := by
  simp only [Statement, encode, opcode, Option.map_some]
  repeat rw [BitVec.extractLsb'_append_eq_of_le (by decide)]
  rfl
theorem bne (a b o) : Statement (.bne a b o) := by
  simp only [Statement, encode, opcode, Option.map_some]
  repeat rw [BitVec.extractLsb'_append_eq_of_le (by decide)]
  rfl
theorem blt (a b o) : Statement (.blt a b o) := by
  simp only [Statement, encode, opcode, Option.map_some]
  repeat rw [BitVec.extractLsb'_append_eq_of_le (by decide)]
  rfl
theorem bge (a b o) : Statement (.bge a b o) := by
  simp only [Statement, encode, opcode, Option.map_some]
  repeat rw [BitVec.extractLsb'_append_eq_of_le (by decide)]
  rfl
theorem bltu (a b o) : Statement (.bltu a b o) := by
  simp only [Statement, encode, opcode, Option.map_some]
  repeat rw [BitVec.extractLsb'_append_eq_of_le (by decide)]
  rfl
theorem bgeu (a b o) : Statement (.bgeu a b o) := by
  simp only [Statement, encode, opcode, Option.map_some]
  repeat rw [BitVec.extractLsb'_append_eq_of_le (by decide)]
  rfl
theorem jal (d o) : Statement (.jal d o) := by
  simp only [Statement, encode, opcode, Option.map_some]
  repeat rw [BitVec.extractLsb'_append_eq_of_le (by decide)]
  rfl
theorem jalr (d a i) : Statement (.jalr d a i) := by
  simp only [Statement, encode, opcode, Option.map_some]
  repeat rw [BitVec.extractLsb'_append_eq_of_le (by decide)]
  rfl
theorem loop (a n) : Statement (.loop a n) := by
  simp only [Statement, encode, opcode, Option.map_some]
  repeat rw [BitVec.extractLsb'_append_eq_of_le (by decide)]
  rfl
theorem ld (d a w i) : Statement (.ld d a w i) := by
  simp only [Statement, encode, opcode, Option.map_some]
  repeat rw [BitVec.extractLsb'_append_eq_of_le (by decide)]
  rfl
theorem st (b a w i) : Statement (.st b a w i) := by
  simp only [Statement, encode, opcode, Option.map_some]
  repeat rw [BitVec.extractLsb'_append_eq_of_le (by decide)]
  rfl
theorem fld (d a w i) : Statement (.fld d a w i) := by
  simp only [Statement, encode, opcode, Option.map_some]
  repeat rw [BitVec.extractLsb'_append_eq_of_le (by decide)]
  rfl
theorem fst (b a w i) : Statement (.fst b a w i) := by
  simp only [Statement, encode, opcode, Option.map_some]
  repeat rw [BitVec.extractLsb'_append_eq_of_le (by decide)]
  rfl
theorem vld (d a i) : Statement (.vld d a i) := by
  simp only [Statement, encode, opcode, Option.map_some]
  repeat rw [BitVec.extractLsb'_append_eq_of_le (by decide)]
  rfl
theorem vst (b a i) : Statement (.vst b a i) := by
  simp only [Statement, encode, opcode, Option.map_some]
  repeat rw [BitVec.extractLsb'_append_eq_of_le (by decide)]
  rfl
theorem vldx (d a b p t h) : Statement (.vldx d a b p t h) := by
  simp only [Statement, encode, opcode, Option.map_some]
  repeat rw [BitVec.extractLsb'_append_eq_of_le (by decide)]
  rfl
theorem vstx (d a b p t h) : Statement (.vstx d a b p t h) := by
  simp only [Statement, encode, opcode, Option.map_some]
  repeat rw [BitVec.extractLsb'_append_eq_of_le (by decide)]
  rfl
theorem ldo (d a w o s) : Statement (.ldo d a w o s) := by
  simp only [Statement, encode, opcode, Option.map_some]
  repeat rw [BitVec.extractLsb'_append_eq_of_le (by decide)]
  rfl
theorem sto (b a w o s) : Statement (.sto b a w o s) := by
  simp only [Statement, encode, opcode, Option.map_some]
  repeat rw [BitVec.extractLsb'_append_eq_of_le (by decide)]
  rfl
theorem lds (d a m s) : Statement (.lds d a m s) := by
  simp only [Statement, encode, opcode, Option.map_some]
  repeat rw [BitVec.extractLsb'_append_eq_of_le (by decide)]
  rfl
theorem sts (b a m s) : Statement (.sts b a m s) := by
  simp only [Statement, encode, opcode, Option.map_some]
  repeat rw [BitVec.extractLsb'_append_eq_of_le (by decide)]
  rfl
theorem tpf (a i) : Statement (.tpf a i) := by
  simp only [Statement, encode, opcode, Option.map_some]
  repeat rw [BitVec.extractLsb'_append_eq_of_le (by decide)]
  rfl
theorem amo (d a b s o f) : Statement (.amo d a b s o f) := by
  simp only [Statement, encode, opcode, Option.map_some]
  repeat rw [BitVec.extractLsb'_append_eq_of_le (by decide)]
  rfl
theorem cas (d a b e s o) : Statement (.cas d a b e s o) := by
  simp only [Statement, encode, opcode, Option.map_some]
  repeat rw [BitVec.extractLsb'_append_eq_of_le (by decide)]
  rfl
theorem fence (s) : Statement (.fence s) := by
  simp only [Statement, encode, opcode, Option.map_some]
  repeat rw [BitVec.extractLsb'_append_eq_of_le (by decide)]
  rfl
theorem xfence (a b) : Statement (.xfence a b) := by
  simp only [Statement, encode, opcode, Option.map_some]
  repeat rw [BitVec.extractLsb'_append_eq_of_le (by decide)]
  rfl
theorem mwatch (d a) : Statement (.mwatch d a) := by
  simp only [Statement, encode, opcode, Option.map_some]
  repeat rw [BitVec.extractLsb'_append_eq_of_le (by decide)]
  rfl
theorem mwait (d t) : Statement (.mwait d t) := by
  simp only [Statement, encode, opcode, Option.map_some]
  repeat rw [BitVec.extractLsb'_append_eq_of_le (by decide)]
  rfl
theorem mbxwait (d t) : Statement (.mbxwait d t) := by
  simp only [Statement, encode, opcode, Option.map_some]
  repeat rw [BitVec.extractLsb'_append_eq_of_le (by decide)]
  rfl
theorem mbxpop (d e) : Statement (.mbxpop d e) := by
  simp only [Statement, encode, opcode, Option.map_some]
  repeat rw [BitVec.extractLsb'_append_eq_of_le (by decide)]
  rfl
theorem barrive (d a s) : Statement (.barrive d a s) := by
  simp only [Statement, encode, opcode, Option.map_some]
  repeat rw [BitVec.extractLsb'_append_eq_of_le (by decide)]
  rfl
theorem yield : Statement .yield := by
  simp only [Statement, encode, opcode, Option.map_some]
  repeat rw [BitVec.extractLsb'_append_eq_of_le (by decide)]
  rfl
theorem yieldEnd : Statement .yieldEnd := by
  simp only [Statement, encode, opcode, Option.map_some]
  repeat rw [BitVec.extractLsb'_append_eq_of_le (by decide)]
  rfl
theorem cpset (a b g) : Statement (.cpset a b g) := by
  simp only [Statement, encode, opcode, Option.map_some]
  repeat rw [BitVec.extractLsb'_append_eq_of_le (by decide)]
  rfl
theorem cpgo (d) : Statement (.cpgo d) := by
  simp only [Statement, encode, opcode, Option.map_some]
  repeat rw [BitVec.extractLsb'_append_eq_of_le (by decide)]
  rfl
theorem gxpost (d a) : Statement (.gxpost d a) := by
  simp only [Statement, encode, opcode, Option.map_some]
  repeat rw [BitVec.extractLsb'_append_eq_of_le (by decide)]
  rfl
theorem tmov (d a b) : Statement (.tmov d a b) := by
  simp only [Statement, encode, opcode, Option.map_some]
  repeat rw [BitVec.extractLsb'_append_eq_of_le (by decide)]
  rfl
theorem reloc (d a b t) : Statement (.reloc d a b t) := by
  simp only [Statement, encode, opcode, Option.map_some]
  repeat rw [BitVec.extractLsb'_append_eq_of_le (by decide)]
  rfl
theorem relocRet (d a t) : Statement (.relocRet d a t) := by
  simp only [Statement, encode, opcode, Option.map_some]
  repeat rw [BitVec.extractLsb'_append_eq_of_le (by decide)]
  rfl
theorem msweep (d a b) : Statement (.msweep d a b) := by
  simp only [Statement, encode, opcode, Option.map_some]
  repeat rw [BitVec.extractLsb'_append_eq_of_le (by decide)]
  rfl
theorem fadd (d a b r f) : Statement (.fadd d a b r f) := by
  simp only [Statement, encode, opcode, Option.map_some]
  repeat rw [BitVec.extractLsb'_append_eq_of_le (by decide)]
  rfl
theorem fsub (d a b r f) : Statement (.fsub d a b r f) := by
  simp only [Statement, encode, opcode, Option.map_some]
  repeat rw [BitVec.extractLsb'_append_eq_of_le (by decide)]
  rfl
theorem fmul (d a b r f) : Statement (.fmul d a b r f) := by
  simp only [Statement, encode, opcode, Option.map_some]
  repeat rw [BitVec.extractLsb'_append_eq_of_le (by decide)]
  rfl
theorem fdiv (d a b r f) : Statement (.fdiv d a b r f) := by
  simp only [Statement, encode, opcode, Option.map_some]
  repeat rw [BitVec.extractLsb'_append_eq_of_le (by decide)]
  rfl
theorem fsqrt (d a r f) : Statement (.fsqrt d a r f) := by
  simp only [Statement, encode, opcode, Option.map_some]
  repeat rw [BitVec.extractLsb'_append_eq_of_le (by decide)]
  rfl
theorem fma (d a b c f r) : Statement (.fma d a b c f r) := by
  simp only [Statement, encode, opcode, Option.map_some]
  repeat rw [BitVec.extractLsb'_append_eq_of_le (by decide)]
  rfl
theorem fnma (d a b c f r) : Statement (.fnma d a b c f r) := by
  simp only [Statement, encode, opcode, Option.map_some]
  repeat rw [BitVec.extractLsb'_append_eq_of_le (by decide)]
  rfl
theorem fmin (d a b f p) : Statement (.fmin d a b f p) := by
  simp only [Statement, encode, opcode, Option.map_some]
  repeat rw [BitVec.extractLsb'_append_eq_of_le (by decide)]
  rfl
theorem fmax (d a b f p) : Statement (.fmax d a b f p) := by
  simp only [Statement, encode, opcode, Option.map_some]
  repeat rw [BitVec.extractLsb'_append_eq_of_le (by decide)]
  rfl
theorem fcmp (d a b f c) : Statement (.fcmp d a b f c) := by
  simp only [Statement, encode, opcode, Option.map_some]
  repeat rw [BitVec.extractLsb'_append_eq_of_le (by decide)]
  rfl
theorem fclass (d a f) : Statement (.fclass d a f) := by
  simp only [Statement, encode, opcode, Option.map_some]
  repeat rw [BitVec.extractLsb'_append_eq_of_le (by decide)]
  rfl
theorem fcvt (d a r f s) : Statement (.fcvt d a r f s) := by
  simp only [Statement, encode, opcode, Option.map_some]
  repeat rw [BitVec.extractLsb'_append_eq_of_le (by decide)]
  rfl
theorem fcvti (d a r f w u) : Statement (.fcvti d a r f w u) := by
  simp only [Statement, encode, opcode, Option.map_some]
  repeat rw [BitVec.extractLsb'_append_eq_of_le (by decide)]
  rfl
theorem fcvtf (d a r f w u) : Statement (.fcvtf d a r f w u) := by
  simp only [Statement, encode, opcode, Option.map_some]
  repeat rw [BitVec.extractLsb'_append_eq_of_le (by decide)]
  rfl
theorem fmv (d a f s) : Statement (.fmv d a f s) := by
  simp only [Statement, encode, opcode, Option.map_some]
  repeat rw [BitVec.extractLsb'_append_eq_of_le (by decide)]
  rfl
theorem fsgnj (d a b f s) : Statement (.fsgnj d a b f s) := by
  simp only [Statement, encode, opcode, Option.map_some]
  repeat rw [BitVec.extractLsb'_append_eq_of_le (by decide)]
  rfl
theorem fexp (d a r f) : Statement (.fexp d a r f) := by
  simp only [Statement, encode, opcode, Option.map_some]
  repeat rw [BitVec.extractLsb'_append_eq_of_le (by decide)]
  rfl
theorem flog (d a r f) : Statement (.flog d a r f) := by
  simp only [Statement, encode, opcode, Option.map_some]
  repeat rw [BitVec.extractLsb'_append_eq_of_le (by decide)]
  rfl
theorem ferf (d a r f) : Statement (.ferf d a r f) := by
  simp only [Statement, encode, opcode, Option.map_some]
  repeat rw [BitVec.extractLsb'_append_eq_of_le (by decide)]
  rfl
theorem fapx (d a r f s) : Statement (.fapx d a r f s) := by
  simp only [Statement, encode, opcode, Option.map_some]
  repeat rw [BitVec.extractLsb'_append_eq_of_le (by decide)]
  rfl
theorem vadd (d a b p t r) : Statement (.vadd d a b p t r) := by
  simp only [Statement, encode, opcode, Option.map_some]
  repeat rw [BitVec.extractLsb'_append_eq_of_le (by decide)]
  rfl
theorem vsub (d a b p t r) : Statement (.vsub d a b p t r) := by
  simp only [Statement, encode, opcode, Option.map_some]
  repeat rw [BitVec.extractLsb'_append_eq_of_le (by decide)]
  rfl
theorem vmul (d a b p t r) : Statement (.vmul d a b p t r) := by
  simp only [Statement, encode, opcode, Option.map_some]
  repeat rw [BitVec.extractLsb'_append_eq_of_le (by decide)]
  rfl
theorem vfma (d a b p t r) : Statement (.vfma d a b p t r) := by
  simp only [Statement, encode, opcode, Option.map_some]
  repeat rw [BitVec.extractLsb'_append_eq_of_le (by decide)]
  rfl
theorem vmin (d a b p t r) : Statement (.vmin d a b p t r) := by
  simp only [Statement, encode, opcode, Option.map_some]
  repeat rw [BitVec.extractLsb'_append_eq_of_le (by decide)]
  rfl
theorem vmax (d a b p t r) : Statement (.vmax d a b p t r) := by
  simp only [Statement, encode, opcode, Option.map_some]
  repeat rw [BitVec.extractLsb'_append_eq_of_le (by decide)]
  rfl
theorem vbit (d a b p t v) : Statement (.vbit d a b p t v) := by
  simp only [Statement, encode, opcode, Option.map_some]
  repeat rw [BitVec.extractLsb'_append_eq_of_le (by decide)]
  rfl
theorem vsh (d a b p t v) : Statement (.vsh d a b p t v) := by
  simp only [Statement, encode, opcode, Option.map_some]
  repeat rw [BitVec.extractLsb'_append_eq_of_le (by decide)]
  rfl
theorem vcmp (c q a b p t v) : Statement (.vcmp c q a b p t v) := by
  simp only [Statement, encode, opcode, Option.map_some]
  repeat rw [BitVec.extractLsb'_append_eq_of_le (by decide)]
  rfl
theorem vsel (d a b p t s) : Statement (.vsel d a b p t s) := by
  simp only [Statement, encode, opcode, Option.map_some]
  repeat rw [BitVec.extractLsb'_append_eq_of_le (by decide)]
  rfl
theorem vcvt (d a q s p t r) : Statement (.vcvt d a q s p t r) := by
  simp only [Statement, encode, opcode, Option.map_some]
  repeat rw [BitVec.extractLsb'_append_eq_of_le (by decide)]
  rfl
theorem vfun (d a f p t r) : Statement (.vfun d a f p t r) := by
  simp only [Statement, encode, opcode, Option.map_some]
  repeat rw [BitVec.extractLsb'_append_eq_of_le (by decide)]
  rfl
theorem vred (d a o p t v) : Statement (.vred d a o p t v) := by
  simp only [Statement, encode, opcode, Option.map_some]
  repeat rw [BitVec.extractLsb'_append_eq_of_le (by decide)]
  rfl
theorem vsplat (d a p t r) : Statement (.vsplat d a p t r) := by
  simp only [Statement, encode, opcode, Option.map_some]
  repeat rw [BitVec.extractLsb'_append_eq_of_le (by decide)]
  rfl
theorem vperm (d a b p t v) : Statement (.vperm d a b p t v) := by
  simp only [Statement, encode, opcode, Option.map_some]
  repeat rw [BitVec.extractLsb'_append_eq_of_le (by decide)]
  rfl
theorem vextr (d a b t v) : Statement (.vextr d a b t v) := by
  simp only [Statement, encode, opcode, Option.map_some]
  repeat rw [BitVec.extractLsb'_append_eq_of_le (by decide)]
  rfl
theorem vhash (d a b p v) : Statement (.vhash d a b p v) := by
  simp only [Statement, encode, opcode, Option.map_some]
  repeat rw [BitVec.extractLsb'_append_eq_of_le (by decide)]
  rfl
theorem vbmand (d a b p q) : Statement (.vbmand d a b p q) := by
  simp only [Statement, encode, opcode, Option.map_some]
  repeat rw [BitVec.extractLsb'_append_eq_of_le (by decide)]
  rfl
theorem vpfx (d a p v) : Statement (.vpfx d a p v) := by
  simp only [Statement, encode, opcode, Option.map_some]
  repeat rw [BitVec.extractLsb'_append_eq_of_le (by decide)]
  rfl
theorem visect (d a b p q) : Statement (.visect d a b p q) := by
  simp only [Statement, encode, opcode, Option.map_some]
  repeat rw [BitVec.extractLsb'_append_eq_of_le (by decide)]
  rfl
theorem vdot (d a b p t v) : Statement (.vdot d a b p t v) := by
  simp only [Statement, encode, opcode, Option.map_some]
  repeat rw [BitVec.extractLsb'_append_eq_of_le (by decide)]
  rfl
theorem cxload (s x d) : Statement (.cxload s x d) := by
  simp only [Statement, encode, opcode, Option.map_some]
  repeat rw [BitVec.extractLsb'_append_eq_of_le (by decide)]
  rfl
theorem cxedit (s x d) : Statement (.cxedit s x d) := by
  simp only [Statement, encode, opcode, Option.map_some]
  repeat rw [BitVec.extractLsb'_append_eq_of_le (by decide)]
  rfl
theorem cxinfo (c x d s g) : Statement (.cxinfo c x d s g) := by
  simp only [Statement, encode, opcode, Option.map_some]
  repeat rw [BitVec.extractLsb'_append_eq_of_le (by decide)]
  rfl
theorem cxinfoSetexp (c x) : Statement (.cxinfoSetexp c x) := by
  simp only [Statement, encode, opcode, Option.map_some]
  repeat rw [BitVec.extractLsb'_append_eq_of_le (by decide)]
  rfl
theorem cbind (c x g f u e s) : Statement (.cbind c x g f u e s) := by
  simp only [Statement, encode, opcode, Option.map_some]
  repeat rw [BitVec.extractLsb'_append_eq_of_le (by decide)]
  rfl
theorem cq (c a r) : Statement (.cq c a r) := by
  simp only [Statement, encode, opcode, Option.map_some]
  repeat rw [BitVec.extractLsb'_append_eq_of_le (by decide)]
  rfl
theorem cdq (c a r) : Statement (.cdq c a r) := by
  simp only [Statement, encode, opcode, Option.map_some]
  repeat rw [BitVec.extractLsb'_append_eq_of_le (by decide)]
  rfl
theorem dext (c a r) : Statement (.dext c a r) := by
  simp only [Statement, encode, opcode, Option.map_some]
  repeat rw [BitVec.extractLsb'_append_eq_of_le (by decide)]
  rfl
theorem dcob (c a r) : Statement (.dcob c a r) := by
  simp only [Statement, encode, opcode, Option.map_some]
  repeat rw [BitVec.extractLsb'_append_eq_of_le (by decide)]
  rfl
theorem hstar (c a r) : Statement (.hstar c a r) := by
  simp only [Statement, encode, opcode, Option.map_some]
  repeat rw [BitVec.extractLsb'_append_eq_of_le (by decide)]
  rfl
theorem wedge (c a b r s) : Statement (.wedge c a b r s) := by
  simp only [Statement, encode, opcode, Option.map_some]
  repeat rw [BitVec.extractLsb'_append_eq_of_le (by decide)]
  rfl
theorem interp (c a r n) : Statement (.interp c a r n) := by
  simp only [Statement, encode, opcode, Option.map_some]
  repeat rw [BitVec.extractLsb'_append_eq_of_le (by decide)]
  rfl
theorem clin (c a b r p q) : Statement (.clin c a b r p q) := by
  simp only [Statement, encode, opcode, Option.map_some]
  repeat rw [BitVec.extractLsb'_append_eq_of_le (by decide)]
  rfl
theorem cseamSend (c l) : Statement (.cseamSend c l) := by
  simp only [Statement, encode, opcode, Option.map_some]
  repeat rw [BitVec.extractLsb'_append_eq_of_le (by decide)]
  rfl
theorem cseamRelease (c) : Statement (.cseamRelease c) := by
  simp only [Statement, encode, opcode, Option.map_some]
  repeat rw [BitVec.extractLsb'_append_eq_of_le (by decide)]
  rfl
theorem cseamLand (c l) : Statement (.cseamLand c l) := by
  simp only [Statement, encode, opcode, Option.map_some]
  repeat rw [BitVec.extractLsb'_append_eq_of_le (by decide)]
  rfl
theorem cred (c x d r w) : Statement (.cred c x d r w) := by
  simp only [Statement, encode, opcode, Option.map_some]
  repeat rw [BitVec.extractLsb'_append_eq_of_le (by decide)]
  rfl
theorem mcfg (d a s) : Statement (.mcfg d a s) := by
  simp only [Statement, encode, opcode, Option.map_some]
  repeat rw [BitVec.extractLsb'_append_eq_of_le (by decide)]
  rfl
theorem mma (n k a b t r s) : Statement (.mma n k a b t r s) := by
  simp only [Statement, encode, opcode, Option.map_some]
  repeat rw [BitVec.extractLsb'_append_eq_of_le (by decide)]
  rfl
theorem mconst (n k a b t r c e) : Statement (.mconst n k a b t r c e) := by
  simp only [Statement, encode, opcode, Option.map_some]
  repeat rw [BitVec.extractLsb'_append_eq_of_le (by decide)]
  rfl
theorem maccZero (n k) : Statement (.maccZero n k) := by
  simp only [Statement, encode, opcode, Option.map_some]
  repeat rw [BitVec.extractLsb'_append_eq_of_le (by decide)]
  rfl
theorem maccLoad (n k a f) : Statement (.maccLoad n k a f) := by
  simp only [Statement, encode, opcode, Option.map_some]
  repeat rw [BitVec.extractLsb'_append_eq_of_le (by decide)]
  rfl
theorem maccStore (n k a r f) : Statement (.maccStore n k a r f) := by
  simp only [Statement, encode, opcode, Option.map_some]
  repeat rw [BitVec.extractLsb'_append_eq_of_le (by decide)]
  rfl
theorem maccAdd (n k j r f) : Statement (.maccAdd n k j r f) := by
  simp only [Statement, encode, opcode, Option.map_some]
  repeat rw [BitVec.extractLsb'_append_eq_of_le (by decide)]
  rfl
theorem rtdef (h a) : Statement (.rtdef h a) := by
  simp only [Statement, encode, opcode, Option.map_some]
  repeat rw [BitVec.extractLsb'_append_eq_of_le (by decide)]
  rfl
theorem hfold (d a h e) : Statement (.hfold d a h e) := by
  simp only [Statement, encode, opcode, Option.map_some]
  repeat rw [BitVec.extractLsb'_append_eq_of_le (by decide)]
  rfl
theorem hscan (d a h e) : Statement (.hscan d a h e) := by
  simp only [Statement, encode, opcode, Option.map_some]
  repeat rw [BitVec.extractLsb'_append_eq_of_le (by decide)]
  rfl
theorem hzip (d a h e) : Statement (.hzip d a h e) := by
  simp only [Statement, encode, opcode, Option.map_some]
  repeat rw [BitVec.extractLsb'_append_eq_of_le (by decide)]
  rfl
theorem houter (d a h e) : Statement (.houter d a h e) := by
  simp only [Statement, encode, opcode, Option.map_some]
  repeat rw [BitVec.extractLsb'_append_eq_of_le (by decide)]
  rfl
theorem colput (d v g) : Statement (.colput d v g) := by
  simp only [Statement, encode, opcode, Option.map_some]
  repeat rw [BitVec.extractLsb'_append_eq_of_le (by decide)]
  rfl
theorem colget (d g) : Statement (.colget d g) := by
  simp only [Statement, encode, opcode, Option.map_some]
  repeat rw [BitVec.extractLsb'_append_eq_of_le (by decide)]
  rfl
theorem ssync (d a) : Statement (.ssync d a) := by
  simp only [Statement, encode, opcode, Option.map_some]
  repeat rw [BitVec.extractLsb'_append_eq_of_le (by decide)]
  rfl
theorem launch (d a) : Statement (.launch d a) := by
  simp only [Statement, encode, opcode, Option.map_some]
  repeat rw [BitVec.extractLsb'_append_eq_of_le (by decide)]
  rfl
theorem launchQuery (d a l) : Statement (.launchQuery d a l) := by
  simp only [Statement, encode, opcode, Option.map_some]
  repeat rw [BitVec.extractLsb'_append_eq_of_le (by decide)]
  rfl
theorem launchJob (d a) : Statement (.launchJob d a) := by
  simp only [Statement, encode, opcode, Option.map_some]
  repeat rw [BitVec.extractLsb'_append_eq_of_le (by decide)]
  rfl
theorem cancel (d a l) : Statement (.cancel d a l) := by
  simp only [Statement, encode, opcode, Option.map_some]
  repeat rw [BitVec.extractLsb'_append_eq_of_le (by decide)]
  rfl
theorem ecall : Statement .ecall := by
  simp only [Statement, encode, opcode, Option.map_some]
  repeat rw [BitVec.extractLsb'_append_eq_of_le (by decide)]
  rfl
theorem ebreak : Statement .ebreak := by
  simp only [Statement, encode, opcode, Option.map_some]
  repeat rw [BitVec.extractLsb'_append_eq_of_le (by decide)]
  rfl
theorem eret : Statement .eret := by
  simp only [Statement, encode, opcode, Option.map_some]
  repeat rw [BitVec.extractLsb'_append_eq_of_le (by decide)]
  rfl
theorem csrrw (d a n) : Statement (.csrrw d a n) := by
  simp only [Statement, encode, opcode, Option.map_some]
  repeat rw [BitVec.extractLsb'_append_eq_of_le (by decide)]
  rfl
theorem csrrs (d a n) : Statement (.csrrs d a n) := by
  simp only [Statement, encode, opcode, Option.map_some]
  repeat rw [BitVec.extractLsb'_append_eq_of_le (by decide)]
  rfl
theorem csrrc (d a n) : Statement (.csrrc d a n) := by
  simp only [Statement, encode, opcode, Option.map_some]
  repeat rw [BitVec.extractLsb'_append_eq_of_le (by decide)]
  rfl
theorem ctuinv (a b r k) : Statement (.ctuinv a b r k) := by
  simp only [Statement, encode, opcode, Option.map_some]
  repeat rw [BitVec.extractLsb'_append_eq_of_le (by decide)]
  rfl
theorem wfi : Statement .wfi := by
  simp only [Statement, encode, opcode, Option.map_some]
  repeat rw [BitVec.extractLsb'_append_eq_of_le (by decide)]
  rfl
theorem moduleReset : Statement .moduleReset := rfl
theorem boot (v0 v1) : Statement (.boot v0 v1) := rfl
theorem recoveryImageReceive (v0) : Statement (.recoveryImageReceive v0) := rfl
theorem attestationRequest (v0) : Statement (.attestationRequest v0) := rfl
theorem junctionTrip (v0) : Statement (.junctionTrip v0) := rfl
theorem powerThrottle : Statement .powerThrottle := rfl
theorem unitDispatch (v0) : Statement (.unitDispatch v0) := rfl
theorem quantumEnd : Statement .quantumEnd := rfl
theorem timecmpMatch : Statement .timecmpMatch := rfl
theorem interruptTake : Statement .interruptTake := rfl
theorem waitLimitExpiry : Statement .waitLimitExpiry := rfl
theorem timedWaitExpiry : Statement .timedWaitExpiry := rfl
theorem matrixWaitExpiry (v0) : Statement (.matrixWaitExpiry v0) := rfl
theorem postedStoreMove (v0 v1) : Statement (.postedStoreMove v0 v1) := rfl
theorem drainComplete : Statement .drainComplete := rfl
theorem homePerform (v0 v1 v2 v3) : Statement (.homePerform v0 v1 v2 v3) := rfl
theorem retryListRetry (v0) : Statement (.retryListRetry v0) := rfl
theorem slipMarkHop (v0 v1) : Statement (.slipMarkHop v0 v1) := rfl
theorem accessResponse : Statement .accessResponse := rfl
theorem ctuWalkComplete (v0 v1) : Statement (.ctuWalkComplete v0 v1) := rfl
theorem relocBegin (v0 v1) : Statement (.relocBegin v0 v1) := rfl
theorem relocCopy (v0 v1) : Statement (.relocCopy v0 v1) := rfl
theorem relocInstall (v0 v1) : Statement (.relocInstall v0 v1) := rfl
theorem relocCompletion (v0 v1) : Statement (.relocCompletion v0 v1) := rfl
theorem relocRetirementStep (v0 v1) : Statement (.relocRetirementStep v0 v1) := rfl
theorem copyRow (v0 v1 v2 v3) : Statement (.copyRow v0 v1 v2 v3) := rfl
theorem copyCompletion (v0 v1) : Statement (.copyCompletion v0 v1) := rfl
theorem gatherRow (v0 v1 v2 v3) : Statement (.gatherRow v0 v1 v2 v3) := rfl
theorem gatherMark (v0 v1) : Statement (.gatherMark v0 v1) := rfl
theorem gatherCompletion (v0 v1) : Statement (.gatherCompletion v0 v1) := rfl
theorem mailboxPlace (v0) : Statement (.mailboxPlace v0) := rfl
theorem matrixTileStep (v0) : Statement (.matrixTileStep v0) := rfl
theorem sprueHop (v0 v1) : Statement (.sprueHop v0 v1) := rfl
theorem hotOperationCompletion (v0 v1 v2 v3 v4) : Statement (.hotOperationCompletion v0 v1 v2 v3 v4) := rfl
theorem collectiveCombine (v0 v1) : Statement (.collectiveCombine v0 v1) := rfl
theorem collectiveResultArrival (v0 v1) : Statement (.collectiveResultArrival v0 v1) := rfl
theorem collectiveQueueRecord (v0 v1) : Statement (.collectiveQueueRecord v0 v1) := rfl
theorem collectiveGo (v0 v1) : Statement (.collectiveGo v0 v1) := rfl
theorem groupTableWrite (v0 v1) : Statement (.groupTableWrite v0 v1) := rfl
theorem chanSend (v0 v1) : Statement (.chanSend v0 v1) := rfl
theorem chanEntryWrite (v0 v1) : Statement (.chanEntryWrite v0 v1) := rfl
theorem chanRecv (v0 v1) : Statement (.chanRecv v0 v1) := rfl
theorem chanHeadWrite (v0 v1) : Statement (.chanHeadWrite v0 v1) := rfl
theorem chanCfgWrite (v0 v1) : Statement (.chanCfgWrite v0 v1) := rfl
theorem seamQueueTake (v0 v1) : Statement (.seamQueueTake v0 v1) := rfl
theorem barrierCfgWrite (v0 v1) : Statement (.barrierCfgWrite v0 v1) := rfl
theorem barrierChildArrival (v0 v1) : Statement (.barrierChildArrival v0 v1) := rfl
theorem barrierParentFlip (v0 v1) : Statement (.barrierParentFlip v0 v1) := rfl
theorem phaseWait (v0 v1) : Statement (.phaseWait v0 v1) := rfl
theorem mutexAcquire (v0 v1) : Statement (.mutexAcquire v0 v1) := rfl
theorem mutexRelease (v0 v1) : Statement (.mutexRelease v0 v1) := rfl
theorem eventLineWait (v0 v1) : Statement (.eventLineWait v0 v1) := rfl
theorem eventLineSignal (v0 v1) : Statement (.eventLineSignal v0 v1) := rfl
theorem eventPeekSet (v0 v1) : Statement (.eventPeekSet v0 v1) := rfl
theorem scheduleChoice (v0) : Statement (.scheduleChoice v0) := rfl
theorem pourBegin (v0) : Statement (.pourBegin v0) := rfl
theorem pourEntrySend (v0 v1) : Statement (.pourEntrySend v0 v1) := rfl
theorem pourDeliveryStage (v0 v1) : Statement (.pourDeliveryStage v0 v1) := rfl
theorem ssyncCommit (v0) : Statement (.ssyncCommit v0) := rfl
theorem cancelReturn : Statement .cancelReturn := rfl
theorem jobEnd (v0) : Statement (.jobEnd v0) := rfl
theorem faultQueueEntry : Statement .faultQueueEntry := rfl
theorem ansaResume (v0 v1) : Statement (.ansaResume v0 v1) := rfl
theorem ansaEnd (v0 v1) : Statement (.ansaEnd v0 v1) := rfl
theorem engactRetry (v0 v1) : Statement (.engactRetry v0 v1) := rfl
theorem engactEnd (v0 v1) : Statement (.engactEnd v0 v1) := rfl
theorem pctlNotice (v0 v1) : Statement (.pctlNotice v0 v1) := rfl
theorem pctlPreempt (v0 v1) : Statement (.pctlPreempt v0 v1) := rfl
theorem coreSaveComplete (v0) : Statement (.coreSaveComplete v0) := rfl
theorem pctlResume (v0 v1) : Statement (.pctlResume v0 v1) := rfl
theorem pctlWithdraw (v0 v1) : Statement (.pctlWithdraw v0 v1) := rfl
theorem spillDrain (v0) : Statement (.spillDrain v0) := rfl
theorem extintWrite (v0 v1) : Statement (.extintWrite v0 v1) := rfl
theorem icmdInsert (v0 v1) : Statement (.icmdInsert v0 v1) := rfl
theorem icmdMstore (v0 v1) : Statement (.icmdMstore v0 v1) := rfl
theorem registerWrite (v0 v1) : Statement (.registerWrite v0 v1) := rfl
theorem gatewayRequest (v0 v1 v2 v3 v4 v5 v6 v7 v8 v9) : Statement (.gatewayRequest v0 v1 v2 v3 v4 v5 v6 v7 v8 v9) := rfl
theorem tc1Announce (v0 v1 v2 v3) : Statement (.tc1Announce v0 v1 v2 v3) := rfl
theorem tc1Grant (v0 v1 v2) : Statement (.tc1Grant v0 v1 v2) := rfl
theorem linkFrameSend (v0 v1 v2 v3 v4) : Statement (.linkFrameSend v0 v1 v2 v3 v4) := rfl
theorem linkFrameReceive (v0 v1 v2) : Statement (.linkFrameReceive v0 v1 v2) := rfl
theorem linkReplayLimit (v0) : Statement (.linkReplayLimit v0) := rfl
theorem phyLockLoss (v0) : Statement (.phyLockLoss v0) := rfl
theorem phyTrainComplete (v0) : Statement (.phyTrainComplete v0) := rfl
theorem helloSend (v0) : Statement (.helloSend v0) := rfl
theorem helloReceive (v0 v1) : Statement (.helloReceive v0 v1) := rfl
theorem offerReceive (v0 v1) : Statement (.offerReceive v0 v1) := rfl
theorem answerReceive (v0 v1) : Statement (.answerReceive v0 v1) := rfl
theorem confirmReceive (v0 v1) : Statement (.confirmReceive v0 v1) := rfl
theorem trainingTimeout (v0) : Statement (.trainingTimeout v0) := rfl
theorem lcmdStep (v0 v1) : Statement (.lcmdStep v0 v1) := rfl
theorem lcmdRetrain (v0 v1) : Statement (.lcmdRetrain v0 v1) := rfl
theorem lcmdDown (v0 v1) : Statement (.lcmdDown v0 v1) := rfl
theorem pcieInboundMemoryRequest (v0 v1 v2 v3 v4 v5 v6) : Statement (.pcieInboundMemoryRequest v0 v1 v2 v3 v4 v5 v6) := rfl
theorem msiMessage (v0 v1 v2 v3) : Statement (.msiMessage v0 v1 v2 v3) := rfl
theorem vstatClear (v0 v1) : Statement (.vstatClear v0 v1) := rfl
theorem pcieCompletion (v0 v1 v2 v3 v4) : Statement (.pcieCompletion v0 v1 v2 v3 v4) := rfl
theorem pcieCompletionTimeout (v0 v1) : Statement (.pcieCompletionTimeout v0 v1) := rfl
theorem rpcmdRetrain (v0 v1) : Statement (.rpcmdRetrain v0 v1) := rfl
theorem rpcmdHotReset (v0 v1) : Statement (.rpcmdHotReset v0 v1) := rfl
theorem rpcmdDisable (v0 v1) : Statement (.rpcmdDisable v0 v1) := rfl
theorem rpcmdEnable (v0 v1) : Statement (.rpcmdEnable v0 v1) := rfl
theorem scrubLine (v0 v1) : Statement (.scrubLine v0 v1) := rfl
theorem superstepReplay (v0) : Statement (.superstepReplay v0) := rfl
theorem reservedOpcode (w) : Statement (.reservedOpcode w) := rfl
theorem coolantLimitStop : Statement .coolantLimitStop := rfl
theorem rootPortLinkUp (v0 v1 v2) : Statement (.rootPortLinkUp v0 v1 v2) := rfl
theorem rootPortLinkLoss (v0) : Statement (.rootPortLinkLoss v0) := rfl

end Sys2Proof.Laws.Encoding
end

