-- ==== Sys2Proof/Tests/Slice0.lean ====
section
/-! SUPPORT. Tests: words of the spec's encodings, terms that the checks refuse, single steps, and for every statement
with hypotheses states and operands that meet them. -/

namespace Sys2Proof.Tests

open Sys2Proof.Machine Sys2Proof.Claims

set_option maxRecDepth 100000
set_option Elab.async false
set_option linter.all false

/-! Small states. -/

/-- A strand 0 of core c, about to run the first word of unit instruction scratch. -/
def strandAt (c : Nat) (mode : Mode) (f : Strand → Strand) : State :=
  { State.reset with cur := 8 * c }.modMe fun t => f { t with mode := mode, status := .ready, pc := 0x0100000000020000#64 }
/-- On compute core 0 in U mode, or in S mode; on control core 0 in M mode. -/
def inU (f : Strand → Strand) : State := strandAt 0 .u f
def inS (f : Strand → Strand) : State := strandAt 0 .s f
def inM (f : Strand → Strand) : State := strandAt 4096 .m f
/-- In S mode with these answers had. -/
def had (as : List Ans) : State := inS fun t => { t with log := as }
/-- Places in the scratches of core 0. -/
def unit0 (o : Nat) : Loc := { home := .unit 0, off := o }
def cluster0 (o : Nat) : Loc := { home := .cluster 0, off := o }
/-- The home performs the access. -/
def performs : PerfResult → Bool
  | .done _ _ => true
  | _ => false
/-- The word at a place carries this tag. -/
def tagged (l : Loc) (t : WordTag) (s : State) : State := s.setTag l t
/-- A launch of two units, and a job of core 0 with it. -/
def launch0 : Launch :=
  { ticket := 1, entry := 0x0100000000020000, image := none, arg := 5, nunits := 2, prio := 0, notify := false, defer := false
    waiting := false, graph := 0, csFirst := 0, csCount := 1, preds := 0, succ := [], strand := 0, uid := 0, placed := 0
    ended := 0, doneOk := 0, lost := 0, faulted := false, cancelled := false, cancelAt := 0, inPhase := false, loaded := [], turn := 0 }
def job0 : Job :=
  { det := false, ord := false, chg := false, nextOrd := false, fnver := 3, key := 9, asid := 0, ptroot := 0, stvec := 0x40
    cores := [0], launches := [launch0], entered := 1, started := true, pouring := false, curSched := 0, lastRow := []
    chosen := none, lastArrival := 0, pourFrom := none, toSend := [], flying := [], launchesAt := [], begun := [], replays := 0
    struck := none, startCycle := 0 }
def withJob (j : Job) (s : State) : State := { s.modCore 0 fun q => { q with job := some 1 } with jobs := [(1, j)] }
/-- Words laid out as bytes, and stored at a place. -/
def words64 (ws : List Nat) : List Byte := ws.flatMap (bytesOfNat 8)
def stored (l : Loc) (bs : List Byte) (s : State) : State := s.putRaw l bs
/-- An engine operation of strand 0 of core 0. -/
def op0 (k : OpKind) : EngineOp :=
  { id := 1, strand := 0, uid := 0, mode := .s, frm := 0, fte := 0, fnver := 3, kind := k, flags := 0, parked := false
    reads := [], todo := [], done := none }
/-- A gather of one row of 8 bytes into cluster scratch, as a record and as read. -/
def gatherBytes : List Byte := words64 [0x0100000000000100, 0x0100000000000200, 0x0101000000000000, 0x800000001, 8, 8]
def gather0 : GatherRec := gatherOf (gatherBytes ++ List.replicate 16 0)
/-- An engine with 256 operations. -/
def fullEngine (s : State) : State := s.modCore 0 fun q => { q with ops := List.replicate 256 (op0 (.gather gather0 0 none none)) }
/-- A copy of n bytes from unit to cluster scratch: the shadow set. -/
def copyGeom (n ctl : Word) : Vector Word 13 := #v[0x0100000000000100, 0x0101000000000000, n, 1, 1, 1, 0, 0, 0, 0, 0, 0, ctl]
/-- A routine of two inputs and one output. -/
def routine0 : Routine :=
  { assoc := true, nin := 2, nout := 1, type := 7, ident := 0, words := [wordOf (.vadd 2#5 0#5 1#5 0#3 7#3 0#3)] }
/-- A record of a higher-order operation over one element of unit scratch. -/
def hotBytes : List Byte := words64 [0x0100000000000100, 0x0100000000000180, 0, 0, 0x0100000000000200, 0, 1, 0]
/-- A matrix command of strand 0 of core 0: a clear of accumulator 0. -/
def cmd0 : MatrixCmd :=
  { id := 1, strand := 0, uid := 0, launch := 0, mode := .s, k := 0, notify := false, rm := 0, cfg := MatrixCfg.start, frm := 0
    fte := 0, fnver := 3, wlim := 100, kind := .zero, started := false, accBad := false, seq := false, step := none, reads := [], todo := [], waitFrom := none
    blocks := [], done := none }
/-- A round with nothing in it. -/
def round0 : Round :=
  { group := 0, opened := true, ports := [], sent := false, coming := none, result := none, hosted := none }
/-- A launch record of two units that start at the first word of unit instruction scratch. -/
def launchBytes : List Byte := words64 [0x0100000000020000, 0, 5, 2, 0x100000000, 0, 0, 0]
/-- A job record of the job form with one core, and the words of its core table: core 4095. -/
def jobBytes : List Byte := launchBytes ++ words64 [0x1000, 0x0000000901000001, 0x3000, 1, 0x40, 0x0100000000020000, 0, 0]
def coreTable : List Word := [0xFFF, 0, 0, 0x0000FFFF00000001]
/-- The answers to loads of these words. -/
def loaded0 (ws : List Word) : List Ans := ws.flatMap fun w => [.place 0 (unit0 0) .plain false, .val (w.setWidth 512) []]
/-- A complex of dimension 2: counts 2 and 3 of degrees 0 and 1, one ghost each. Slot 3 of core 0 holds it. -/
def desc0 : List Byte := words64 ([2, 0, 0x300000002, 0, 0x100000001] ++ List.replicate 27 0)
def slot0 : ComplexSlot := { state := .loaded, gen := 7, desc := desc0, addr := 0x0100000000000200, holder := none }
def withSlot (x : ComplexSlot) (s : State) : State := s.modCore 0 fun z => { z with slots := z.slots.set 3 x }
/-- A cochain register of slot 3, of format f: three words in cluster scratch. -/
def reg0 (f : BitVec 2) : CochainReg :=
  { bound := true, fmt := f, dual := false, deg := 1, slot := 3, gen := 7, exp := 0, gcount := 1, count := 3
    gbase := 0x0101000000000100, dbase := 0x0101000000000000 }
/-- In S mode with slot 3 loaded, registers of format f in c0 and of format h in c1 and c2, and these answers had. -/
def cochains (f h : BitVec 2) (as : List Ans) : State :=
  withSlot slot0 ((had as).modMe fun z => ((z.setC 0#4 (reg0 f)).setC 1#4 (reg0 h)).setC 2#4 (reg0 h))
/-- An access of strand 0 of core 0 that waits for its answer, alone in its path queue. -/
def entry0 (l : Loc) (n : Nat) (k : AccKind) : PathEntry :=
  { path := .core, seq := 1
    acc := { strand := 0, answers := true, op := none, va := 0x40, loc := l, len := n, kind := k, sc := none, hops := [] } }
def load0 (h : Home) (o : Nat) : PathEntry := entry0 { home := h, off := o } 8 (.load .plain false)
def store0 (h : Home) (o : Nat) (v : Word) : PathEntry := entry0 { home := h, off := o } 8 (.store (bytesOfNat 8 v.toNat) none false)
def queued (e : PathEntry) (s : State) : State := s.modCore 0 fun z => { z with path := [e] }
/-- Barrier objects 31 of cluster 0 and 0 of cluster 1: a child whose arrival is on its way, and its parent. -/
def twoBarriers (child parent : Barrier) : State :=
  ((inS id).modCluster 0 fun z => { z with barriers := z.barriers.set 31 child }).modCluster 1 fun z =>
    { z with barriers := z.barriers.set 0 parent }
def child0 : Barrier := { Barrier.reset with cfg := 0x10080000001, rising := true }
/-- The east neighbour of core 0. -/
def neighbour0 : Nat := (neighbour 0 2).getD 0
/-- A hop of the slip chain, and the access that has taken n of them. -/
def hop0 : Hop := { base := 0, size := 64, delta := 0x1000 }
def slipping (n : Nat) : PathEntry :=
  { load0 (.slice 0) 8 with acc := { (load0 (.slice 0) 8).acc with va := 0x1008, hops := List.replicate n hop0 } }
/-- An engine operation, alone in its core. -/
def withOp (o : EngineOp) (s : State) : State := s.modCore 0 fun z => { z with ops := [o] }
/-- The engine has planned a row's reads; it has planned its writes, with n bytes taken, good of them whole; it
ends with this status. -/
def fetches : Option RowResult → Bool
  | some (.reads _) => true
  | _ => false
def moves : Option RowResult → Nat → Nat → Bool
  | some (.moved _ _ n good _), n', good' => n == n' && good == good'
  | _, _, _ => false
def stopsAt : Option RowResult → Nat → Bool
  | some (.status n _), m => n == m
  | _, _ => false
theorem exists_of_performs {r : PerfResult} (h : performs r = true) : ∃ t v, r = .done t v := by
  cases r <;> first | exact ⟨_, _, rfl⟩ | simp [performs] at h
theorem exists_of_fetches {r : Option RowResult} (h : fetches r = true) : ∃ t, r = some (.reads t) := by
  rcases r with _ | r
  · simp [fetches] at h
  · cases r <;> first | exact ⟨_, rfl⟩ | simp [fetches] at h
theorem exists_of_moves {r : Option RowResult} {n good : Nat} (h : moves r n good = true) : ∃ t ws fl, r = some (.moved t ws n good fl) := by
  rcases r with _ | r
  · simp [moves] at h
  · cases r <;> simp [moves] at h
    obtain ⟨rfl, rfl⟩ := h
    exact ⟨_, _, _, rfl⟩
theorem exists_of_stopsAt {r : Option RowResult} {n : Nat} (h : stopsAt r n = true) : ∃ t, r = some (.status n t) := by
  rcases r with _ | r
  · simp [stopsAt] at h
  · cases r <;> simp [stopsAt] at h
    subst h
    exact ⟨_, rfl⟩
/-- What a read of these bytes has brought back, and a read that has come back. -/
def got0 (bs : List Byte) : Got := { status := 0, fault := none, data := bs, poison := [], line := false, tags := [] }
def back0 (g : Got) : List Fetch := [{ seq := some 0, got := some g }]
/-- A move of a tile of 64 bytes of unit scratch of core 0, in its phase. -/
def move0 (retire : Bool) (p : Option MovePhase) : Barchan :=
  { core := 0, id := 1, old := { home := .slice 0, off := 0 }, new := { home := .slice 1, off := 0 }, oldVa := 0x1000, newVa := 0x2000
    size := 64, phase := p, retire := retire }
def relocating (retire : Bool) (p : Option MovePhase) (s : State) : State :=
  let t := withOp (op0 (if retire then .retire 0x1000 64 else .reloc 0x1000 0x2000 64)) s
  { t with dies := [(0, { s.die 0 with barchan := [move0 retire p] })] }
/-- Job 1 with core 0, whose strand 0 runs a unit of it. -/
def inJob (j : Job) (s : State) : State := withJob j (s.modMe fun z => { z with unit := some { uid := 1, job := 1, launch := 1, index := 0 } })
/-- A job under DET in a phase with this schedule chosen. -/
def detJob : Job := { job0 with det := true, launches := [], chosen := some (0, [1]), pourFrom := some 128 }
/-- A superstep record with one schedule, at the own unit scratch's first bytes; its plan at 0x400 has one entry. -/
def record0 : List Byte := words64 [1, 0, 0x0100000000000400, 0, 0, 0, 0, 0]
def plan0 : List Byte := words64 [1, 0, 0x0100000000000800, 0x0000100000000000, 8, 0]
def planEntry : List Byte := words64 [0x0100000000000800, 0x0000100000000000, 8, 0]
def arrivedAt (s : State) : State := stored (unit0 0) record0 (stored (unit0 0x400) plan0 (s.modMe fun z => { z with arrived := some 0x0100000000000000 }))
def staged0 : Staged := { loc := some (unit0 0x1000), data := words64 [7], poison := [], seam := none }
/-- A table of two levels at 0x1000 whose first leaf maps address 0 on, for every use. -/
def paged (s : State) : State :=
  stored { home := .slice 8, off := 0 } (words64 [0x2001]) (stored { home := .slice 16, off := 0 } (words64 [0x72F]) s)
/-- Port 15 in this state, and a kept frame. -/
def withPort (p : Port) (s : State) : State := s.modPort 15 fun _ => p
def upPort : Port := { Port.reset with lstate := 2, buf := Vector.replicate 3 16 }
def frame0 (n : Nat) : Frame := { seq := 1, tc := 0, kind := 0, data := [1], sent := n }
/-- Root port 3 in this state. -/
def withRoot (r : RootPort) (s : State) : State := s.modRoot 3 fun _ => r
def pending0 : PcieReq := { strand := 0, va := 0x40, addr := 0x40, len := 4, write := false, start := 0 }
/-- A store of control core 0 to a word of die 0's privileged block. -/
def privStore (o : Nat) (v : Word) : PathEntry := { store0 (.priv 0) o v with acc := { (store0 (.priv 0) o v).acc with strand := 32768 } }
/-- A store of control core 0 to a word of the hub die's privileged block. -/
def hubStore (o : Nat) (v : Word) : PathEntry := { store0 (.priv 8) o v with acc := { (store0 (.priv 8) o v).acc with strand := 32768 } }
/-- A frame that a port with nothing accepted takes, and one of the handshake with both records equal. -/
def goodFrame : List Byte := frameBytes { seq := 1, ack := 2, nak := true, tc := 0, kind := 0, freed := [0, 0, 0] } [7]
def handFrame : List Byte := List.replicate 16 0 ++ words64 [0x100000F0F0F0F, 0x100000F0F0F0F] ++ List.replicate 224 0
theorem ok_of_toOption {e : Except ε α} {a : α} (h : e.toOption = some a) : e = .ok a := by
  cases e <;> simp_all [Except.toOption]

/-- The decoder reads this instruction from the word; it refuses the word, by name. -/
def decodesTo (w : Word32) (i : Instr) : Bool :=
  match decode w with
  | .ok j => j == i
  | .error _ => false
def refusesWord (w : Word32) : Bool :=
  match decode w with
  | .ok _ => false
  | .error (.noRow v) => v == w
  | .error .truncated => false

/-! Words of the spec's tables of encodings, with the fields that the tables give them. -/

/-- 02, R41: the words of the first fragments. -/
theorem test_decode_integer :
    decodesTo 0x14280004 (.addi 5 0 4) = true ∧ decodesTo 0x14297FFF (.addi 5 5 0x3FFF) = true ∧
    decodesTo 0x01318A00 (.add 6 6 5 0) = true ∧ decodesTo 0x1C392345 (.lui 7 0x12345) = true ∧
    decodesTo 0x0E3A1201 (.div 7 8 9 0 1) = true ∧ decodesTo 0x13298E06 (.bfx 5 6 7 1 1) = true ∧
    decodesTo 0x1839C01A (.slli 7 7 26) = true ∧ decodesTo 0x1639DFFF (.ori 7 7 0x1FFF) = true := by decide +kernel

/-- 02, 03, 05: branches, jumps, the loop. -/
theorem test_decode_branch :
    decodesTo 0x1F283FFE (.bne 5 0 0x3FFE) = true ∧ decodesTo 0x24080010 (.jal 1 16) = true ∧ decodesTo 0x26014002 (.loop 5 2) = true := by
  decide +kernel

/-- 03, 10, 16, 17: memory. -/
theorem test_decode_memory :
    decodesTo 0x27521800 (.ld 10 8 3 0) = true ∧ decodesTo 0x28525840 (.st 10 9 3 64) = true ∧
    decodesTo 0x2D220472 (.vldx 4 8 2 1 6 2) = true ∧ decodesTo 0x2F2A1A40 (.ldo 5 8 3 1 1) = true ∧
    decodesTo 0x32321840 (.sts 6 8 0 1) = true ∧ decodesTo 0x31759800 (.lds 14 22 0 0) = true ∧
    decodesTo 0x352A4C7C (.cas 5 9 6 7 3 0) = true ∧ decodesTo 0x342A4CE1 (.amo 5 9 6 3 2 1) = true ∧
    decodesTo 0x36000040 (.fence 1) = true ∧ decodesTo 0x37000018 (.xfence 3 0) = true ∧ decodesTo 0x33020000 (.tpf 8 0) = true := by
  decide +kernel

/-- 10, 17, 18: moves and engines. -/
theorem test_decode_moves :
    decodesTo 0x3E014C00 (.cpset 5 6 0) = true ∧ decodesTo 0x3F600000 (.cpgo 12) = true ∧ decodesTo 0x402A0000 (.gxpost 5 8) = true ∧
    decodesTo 0x414A1400 (.tmov 9 8 10) = true ∧ decodesTo 0x422A1202 (.reloc 5 8 9 2) = true ∧
    decodesTo 0x422A000A (.relocRet 5 8 2) = true ∧ decodesTo 0x432A1200 (.msweep 5 8 9) = true := by decide +kernel

/-- 11: waits, barriers, launches, collectives. -/
theorem test_decode_waits :
    decodesTo 0x3A601200 (.mbxwait 12 9) = true ∧ decodesTo 0x3B280006 (.mbxpop 5 6) = true ∧ decodesTo 0x382A0000 (.mwatch 5 8) = true ∧
    decodesTo 0x39281200 (.mwait 5 9) = true ∧ decodesTo 0x3C2A0040 (.barrive 5 8 1) = true ∧ decodesTo 0x3D000001 .yieldEnd = true ∧
    decodesTo 0x8731C011 (.launchQuery 6 7 1) = true ∧ decodesTo 0x872A0100 (.launchJob 5 8) = true ∧
    decodesTo 0x882A4000 (.cancel 5 9 0) = true ∧ decodesTo 0x862A0000 (.ssync 5 8) = true ∧ decodesTo 0x8428C00E (.colput 5 3 7) = true ∧
    decodesTo 0x8520000E (.colget 4 7) = true := by decide +kernel

/-- 02, 03, 05, 19: floating point. -/
theorem test_decode_float :
    decodesTo 0x47184480 (.fdiv 3 1 2 2 0) = true ∧ decodesTo 0x49204438 (.fma 4 1 2 3 1 0) = true ∧
    decodesTo 0x4F104020 (.fcvt 2 1 0 2 0) = true ∧ decodesTo 0x5050C052 (.fcvti 10 3 1 1 1 0) = true ∧
    decodesTo 0x57104022 (.fapx 2 1 0 2 2) = true ∧ decodesTo 0x52198011 (.fmv 3 6 1 1) = true := by decide +kernel

/-- 02, 05, 15, 18: vectors. -/
theorem test_decode_vector :
    decodesTo 0x5B18427F (.vfma 3 1 1 1 7 7) = true ∧ decodesTo 0x6088C23F (.vcmp 2 1 3 1 0 7 7) = true ∧
    decodesTo 0x6120445B (.vsel 4 1 2 1 3 3) = true ∧ decodesTo 0x62309830 (.vcvt 6 2 1 4 0 6 0) = true ∧
    decodesTo 0x6329803B (.vfun 5 6 0 0 7 3) = true ∧ decodesTo 0x684B1A19 (.vhash 9 12 13 0 1) = true ∧
    decodesTo 0x6B204409 (.visect 4 1 2 0 1) = true ∧ decodesTo 0x6C204400 (.vdot 4 1 2 0 0 0) = true ∧
    decodesTo 0x5F108618 (.vsh 2 2 3 0 3 0) = true ∧ decodesTo 0x5E10AA1A (.vbit 2 2 21 0 3 2) = true ∧
    decodesTo 0x64288858 (.vred 5 2 4 1 3 0) = true ∧ decodesTo 0x6918441A (.vbmand 3 1 2 0 2) = true := by decide +kernel

/-- 03, 07, 16: complexes and cochains. -/
theorem test_decode_cochain :
    decodesTo 0x6F200A41 (.cxinfo 2 0 5 4 1) = true ∧ decodesTo 0x6F31C140 (.cxinfoSetexp 3 7) = true ∧
    decodesTo 0x70320118 (.cbind 3 8 0 2 0 1 2) = true ∧ decodesTo 0x73210E00 (.dext 2 1 7) = true ∧
    decodesTo 0x76523002 (.wedge 5 2 3 0 2) = true ∧ decodesTo 0x7841201F (.clin 4 1 2 0 1 15) = true ∧
    decodesTo 0x79100300 (.cseamSend 1 3) = true ∧ decodesTo 0x79101000 (.cseamRelease 1) = true ∧
    decodesTo 0x7A200DC0 (.cred 2 0 6 7 0) = true ∧ decodesTo 0x6D050A00 (.cxload 0 20 5) = true ∧
    decodesTo 0x6E052000 (.cxedit 0 20 16) = true := by decide +kernel

/-- 08, 19: matrices and higher-order operations. -/
theorem test_decode_matrix :
    decodesTo 0x7B298002 (.mcfg 5 6 2) = true ∧ decodesTo 0x7C05AAC0 (.mma 0 0 22 21 3 0 0) = true ∧
    decodesTo 0x7D120081 (.mconst 0 2 8 0 2 0 0 1) = true ∧ decodesTo 0x7E100000 (.maccZero 0 2) = true ∧
    decodesTo 0x7E85C087 (.maccStore 1 0 23 0 7) = true ∧ decodesTo 0x7E1802FE (.maccAdd 0 3 1 7 6) = true ∧
    decodesTo 0x7F1A0000 (.rtdef 3 8) = true ∧ decodesTo 0x802A4060 (.hfold 5 9 3 0) = true ∧
    decodesTo 0x81324020 (.hscan 6 9 1 0) = true := by decide +kernel

/-- 12: the system family. -/
theorem test_decode_system :
    decodesTo 0x89000000 .ecall = true ∧ decodesTo 0x8A000000 .ebreak = true ∧ decodesTo 0x8B000000 .eret = true ∧
    decodesTo 0x90000000 .wfi = true ∧ decodesTo 0x8D280001 (.csrrs 5 0 1) = true ∧ decodesTo 0x8C01C301 (.csrrw 0 7 0x301) = true ∧
    decodesTo 0x8E324307 (.csrrc 6 9 0x307) = true ∧ decodesTo 0x8F02120A (.ctuinv 8 9 2 2) = true := by decide +kernel

/-- 05: words with a reserved bit set have no row. -/
theorem test_decode_refused :
    refusesWord 0x0E3A1209 = true ∧ refusesWord 0x6B20440D = true := by decide +kernel

/-! Terms that each check refuses (R45 to R58). -/

theorem test_refuses_width :
    ¬ (Instr.ld 10 8 7 0).WellFormed ∧ ¬ (Instr.st 1 2 4 0).WellFormed ∧ ¬ (Instr.fld 1 2 0 0).WellFormed ∧
    ¬ (Instr.vldx 1 2 3 0 0 4).WellFormed := by decide +kernel
theorem test_refuses_scope_and_order :
    ¬ (Instr.fence 5).WellFormed ∧ ¬ (Instr.ldo 5 8 3 2 1).WellFormed ∧ ¬ (Instr.ldo 5 8 3 3 4).WellFormed ∧
    ¬ (Instr.lds 5 8 2 0).WellFormed ∧ ¬ (Instr.sts 5 8 3 0).WellFormed ∧ ¬ (Instr.amo 5 9 6 0 0 9).WellFormed := by decide +kernel
theorem test_refuses_path : ¬ (Instr.xfence 6 0).WellFormed ∧ ¬ (Instr.xfence 0 6).WellFormed := by decide +kernel
theorem test_refuses_shift_and_loop :
    ¬ (Instr.slli 1 1 64).WellFormed ∧ ¬ (Instr.loop 5 0).WellFormed ∧ ¬ (Instr.loop 5 65).WellFormed := by decide +kernel
theorem test_refuses_registers : ¬ (Instr.mbxpop 5 5).WellFormed ∧ (Instr.mbxpop 0 0).WellFormed := by decide +kernel
theorem test_refuses_rounding :
    ¬ (Instr.fadd 1 2 3 5 0).WellFormed ∧ ¬ (Instr.fadd 1 2 3 6 0).WellFormed ∧ ¬ (Instr.fcvt 2 1 0 2 2).WellFormed ∧
    ¬ (Instr.fapx 2 1 0 2 5).WellFormed := by decide +kernel
theorem test_refuses_vector :
    ¬ (Instr.vadd 1 2 3 0 3 3).WellFormed ∧ ¬ (Instr.vbit 1 2 3 0 7 0).WellFormed ∧ ¬ (Instr.vsel 1 2 3 0 7 0).WellFormed ∧
    ¬ (Instr.vcvt 1 2 0 3 0 3 0).WellFormed ∧ ¬ (Instr.vfun 1 2 0 0 4 0).WellFormed ∧ ¬ (Instr.vdot 1 2 3 0 2 0).WellFormed := by
  decide +kernel
theorem test_refuses_cochain :
    ¬ (Instr.cxinfo 0 1 5 0 0).WellFormed ∧ ¬ (Instr.cbind 1 8 0 3 0 0 0).WellFormed ∧ ¬ (Instr.interp 1 2 0 3).WellFormed := by
  decide +kernel
theorem test_refuses_matrix :
    ¬ (Instr.mcfg 5 6 6).WellFormed ∧ ¬ (Instr.mma 0 1 22 21 3 0 0).WellFormed ∧ ¬ (Instr.maccLoad 0 0 1 1).WellFormed ∧
    ¬ (Instr.hfold 5 9 3 2).WellFormed := by decide +kernel
theorem test_refuses_csr : ¬ (Instr.csrrs 5 0 6).WellFormed ∧ ¬ (Instr.ctuinv 8 9 3 0).WellFormed := by decide +kernel
theorem test_refuses_reserved :
    ¬ (Instr.reservedOpcode 0x01000000).WellFormed ∧ ¬ (Instr.powerThrottle).WellFormed ∧ ¬ (Instr.reloc 5 8 9 5).WellFormed := by
  decide +kernel

/-! Single steps, against the spec's worked examples. -/

/-- A step ends in a next state of which this holds. -/
def after (r : Result) (f : State → Bool) : Bool :=
  match r with
  | .next t => f t
  | _ => false

/-- 03: `lui x7, 0x1_2345` and the same with imm19 = 0x4_0000. -/
theorem test_lui_value : after (exec (.lui 7 0x12345) (inU id)) (fun t => t.me.getX 7 == 0x2468A000) := by decide +kernel
theorem test_lui_sign : after (exec (.lui 7 0x40000) (inU id)) (fun t => t.me.getX 7 == 0xFFFFFFFF80000000) := by decide +kernel

/-- 02: 1 / 3 in FP32, down and up; both raise NX. -/
def third : Strand → Strand := fun z => (z.setF 1 0x3F800000).setF 2 0x40400000
theorem test_fdiv_down : after (exec (.fdiv 3 1 2 2 0) (inU third)) (fun t => t.me.f[3] == 0x3EAAAAAA && t.me.fflags == 1) := by
  decide +kernel
theorem test_fdiv_up : after (exec (.fdiv 4 1 2 3 0) (inU third)) (fun t => t.me.f[4] == 0x3EAAAAAB && t.me.fflags == 1) := by
  decide +kernel
/-- 02: with FTE.NX = 1 the same division traps #FPX, f3 keeps its value and FFLAGS.NX decodesTo 1. -/
theorem test_fdiv_traps :
    after (exec (.fdiv 3 1 2 2 0) (inU fun z => { third z with fte := 1 })) (fun t =>
      t.me.f[3] == 0 && t.me.fflags == 1 && t.me.epc == 0x0100000000020000 && t.me.mode == .s) := by decide +kernel

/-- 05: the bitmaps of R134's example. -/
def bitmaps : Strand → Strand := fun z => (z.setV 1 (vecOfBytes (words64 [0xB6, 0x0F]))).setV 2 (vecOfBytes (words64 [0x3C, 0xF0]))
theorem test_vbmand :
    after (exec (.vbmand 3 1 2 0 2) (inU bitmaps)) (fun t => t.me.v[3] == vecOfBytes (words64 [0x34]) && t.me.p[2] == 1) := by
  decide +kernel
theorem test_vpfx :
    after (exec (.vpfx 5 1 0 0) (inU bitmaps)) (fun t => t.me.v[5] == vecOfBytes (words64 [0, 5, 9, 9, 9, 9, 9, 9])) := by
  decide +kernel
theorem test_visect_first :
    after (exec (.visect 4 1 2 0 0) (inU bitmaps)) (fun t =>
      t.me.v[4].extractLsb' 0 64 == 0xFFFF000300020001 && t.me.v[4].extractLsb' 256 64 == 0xFFFF000300020000) := by decide +kernel
theorem test_visect_second : after (exec (.visect 4 1 2 0 1) (inU bitmaps)) (fun t => t.me.v[4] == -1) := by decide +kernel

/-- 05: H(k, k) = 0, lane i of `vhash.base` being H(x[vs1] + i, k). -/
theorem test_vhash_zero :
    after (exec (.vhash 9 12 13 0 1) (inU fun z => (z.setX 12 64).setX 13 66)) (fun t =>
      t.me.v[9].extractLsb' 128 64 == 0 && t.me.v[9].extractLsb' 0 64 != 0) := by decide +kernel

/-- 04: FEXP of 1.0 in FP32, to nearest and up. -/
theorem test_fexp_nearest :
    after (exec (.fexp 2 1 0 0) (inU fun z => z.setF 1 0x3F800000)) (fun t => t.me.f[2] == 0x402DF854 && t.me.fflags == 1) := by
  decide +kernel
theorem test_fexp_up :
    after (exec (.fexp 2 1 3 0) (inU fun z => z.setF 1 0x3F800000)) (fun t => t.me.f[2] == 0x402DF855 && t.me.fflags == 1) := by
  decide +kernel

/-- 03: `jal x1, +64`. -/
theorem test_jal :
    after (exec (.jal 1 16) (inU id)) (fun t => t.me.getX 1 == 0x0100000000020004 && t.me.pc == 0x0100000000020040) := by decide +kernel

/-- R344, R350: ECALL in U mode: cause 0x13, BADVA and TVAL2 0. -/
theorem test_ecall :
    after (exec .ecall (inU id)) (fun t =>
      t.me.cause == 0x13 && t.me.badva == 0 && t.me.tval2 == 0 && t.me.epc == 0x0100000000020000 && t.me.mode == .s) := by
  decide +kernel

/-- R251: a signed minimum at its home; the answer is the old word. -/
theorem test_amo_min :
    after (exec (.homePerform 0 1 [] 0) (queued (entry0 (unit0 8) 8 (.amo 5 3)) (stored (unit0 8) (words64 [2 ^ 64 - 1]) (inS id))))
      (fun t => t.wordAt (unit0 8) == -1 && (t.core 0).answers == [(0, .val 0xFFFFFFFFFFFFFFFF [])]) := by decide +kernel

/-- R87, version 3: the sigmoid of 1000.0 is below 1, so it is 1 - 2^-16, inexact. -/
theorem test_sigmoid_near_one :
    after (exec (.vfun 1 2 4 0 6 0) (inU fun z => z.setV 2 0x447A0000)) (fun t =>
      t.me.v[1].extractLsb' 0 32 == 0x3F7FFF00 && t.me.fflags.getLsbD 0) := by decide +kernel

/-- R376: SHA-256 of "abc", as FIPS 180-4 gives it. -/
theorem test_sha256 :
    natOfBE (sha256 [0x61, 0x62, 0x63]) = 0xBA7816BF8F01CFEA414140DE5DAE2223B00361A396177A9CB410FF61F20015AD := by
  decide +kernel

/-! For every statement: states and operands that meet its hypotheses, clause by clause, at boundary values. Where a
hypothesis names a result, `performs`, `fetches`, `moves` or `stopsAt` says that there is one. -/

theorem witness_DecodeOfEncode :
    (Instr.vfma 3#5 1#5 1#5 1#3 7#3 7#3).WellFormed ∧ encode (.vfma 3#5 1#5 1#5 1#3 7#3 7#3) = some 0x5B18427F#32 := by decide +kernel

theorem witness_EncodeOfDecode :
    decode 0x26014002#32 = .ok (.loop 5#5 2#14) := ok_of_toOption (by decide +kernel)

theorem witness_RefusedEncodings_1 :
    let w : Word32 := 0#32
    (w.extractLsb' 24 8 = 0#8 ∨ 0x91 ≤ (w.extractLsb' 24 8).toNat) := by decide +kernel

theorem witness_RefusedEncodings_2 :
    let w : Word32 := 0x00FFFFFF#32
    (w.extractLsb' 24 8 = 0#8 ∨ 0x91 ≤ (w.extractLsb' 24 8).toNat) := by decide +kernel

theorem witness_RefusedEncodings_3 :
    let w : Word32 := 0x91000000#32
    (w.extractLsb' 24 8 = 0#8 ∨ 0x91 ≤ (w.extractLsb' 24 8).toNat) := by decide +kernel

theorem witness_RefusedEncodings_4 :
    let w : Word32 := 0xFFFFFFFF#32
    (w.extractLsb' 24 8 = 0#8 ∨ 0x91 ≤ (w.extractLsb' 24 8).toNat) := by decide +kernel

theorem witness_RefusedEncodings_5 :
    let i : Instr := .vadd 1#5 2#5 3#5 0#3 7#3 5#3
    let w : Word32 := wordOf (.vadd 1#5 2#5 3#5 0#3 7#3 5#3)
    encode i = some w ∧ legal i = false := by decide +kernel

theorem witness_RefusedEncodings_6 :
    let i : Instr := .wfi
    let w : Word32 := wordOf .wfi
    let s : State := inU id
    encode i = some w ∧ privileged i = true ∧ legal i = true ∧ s.me.mode = .u := by decide +kernel

theorem witness_RefusedEncodings_7 :
    let i : Instr := .fadd 1#5 2#5 3#5 7#3 1#2
    let r : BitVec 3 := 7#3
    let s : State := inU fun z => { z with frm := 5 }
    rmField i = some r ∧ legal i = true ∧ r = 7#3 ∧ 5 ≤ (s.me.frm.extractLsb' 0 3).toNat := by decide +kernel

theorem witness_ImmediateResults_1 :
    let i : BitVec 14 := 63#14
    i.toNat < 64 := by decide +kernel

theorem witness_ImmediateResults_2 :
    let i : BitVec 14 := 64#14
    64 ≤ i.toNat := by decide +kernel

theorem witness_ImmediateResults_3 :
    let i : BitVec 14 := 0x3FFF#14
    64 ≤ i.toNat := by decide +kernel

theorem witness_IntegerFrame_1 :
    let i : Instr := .srai 1#5 2#5 63#14
    let d : BitVec 5 := 1#5
    let s : State := inU id
    ∃ t, integerDest i = some d ∧ legal i = true ∧ exec i s = .next t := ⟨_, by decide +kernel, by decide +kernel, rfl⟩

theorem witness_BranchResults_1 :
    let s : State := inU fun z => z.setX 2#5 (-3)
    s.me.inLoopBody s.me.pc = false := by decide +kernel

theorem witness_JumpResults_1 :
    let s : State := inU fun z => z.setX 2#5 7
    let a : BitVec 5 := 2#5
    let i : BitVec 14 := 1#14
    let t := s.me.getX a + i.signExtend 64
    s.me.inLoopBody s.me.pc = false ∧ t.toNat % 4 = 0 := by decide +kernel

theorem witness_JumpResults_2 :
    let s : State := inU fun z => z.setX 2#5 7
    let a : BitVec 5 := 2#5
    let i : BitVec 14 := 2#14
    let t := s.me.getX a + i.signExtend 64
    s.me.inLoopBody s.me.pc = false ∧ t.toNat % 4 ≠ 0 := by decide +kernel

theorem witness_LoopRule_1 :
    let s : State := inU id
    let a : BitVec 5 := 1#5
    let n : BitVec 14 := 64#14
    let first := s.me.pc + 4#64
    let last := s.me.pc + BitVec.ofNat 64 (4 * n.toNat)
    let inside (w : Word) : Prop := 0x0100000000020000 ≤ w.toNat ∧ w.toNat < 0x0100000000028000
    s.me.inLoopBody s.me.pc = false ∧ 1 ≤ n.toNat ∧ n.toNat ≤ 64 ∧ isControl s.here = false ∧ inside first ∧ inside last
      ∧ s.me.getX a = 0#64 := by decide +kernel

theorem witness_LoopRule_2 :
    let s : State := inU fun z => z.setX 1#5 2
    let a : BitVec 5 := 1#5
    let n : BitVec 14 := 1#14
    let first := s.me.pc + 4#64
    let last := s.me.pc + BitVec.ofNat 64 (4 * n.toNat)
    let inside (w : Word) : Prop := 0x0100000000020000 ≤ w.toNat ∧ w.toNat < 0x0100000000028000
    s.me.inLoopBody s.me.pc = false ∧ 1 ≤ n.toNat ∧ n.toNat ≤ 64 ∧ isControl s.here = false ∧ inside first ∧ inside last
      ∧ s.me.getX a ≠ 0#64 := by decide +kernel

theorem witness_LoopRule_3 :
    let s : State := inU fun z => { z.setX 1#5 2 with pc := 0x0100000000027FFC#64 }
    let n : BitVec 14 := 1#14
    let first := s.me.pc + 4#64
    let last := s.me.pc + BitVec.ofNat 64 (4 * n.toNat)
    let inside (w : Word) : Prop := 0x0100000000020000 ≤ w.toNat ∧ w.toNat < 0x0100000000028000
    s.me.inLoopBody s.me.pc = false ∧ 1 ≤ n.toNat ∧ n.toNat ≤ 64 ∧ isControl s.here = false ∧ ¬ (inside first ∧ inside
      last) := by decide +kernel

theorem witness_LoopRule_4 :
    let t : Strand := { Strand.reset .u with lbody := BitVec.ofNat 64 (64 * 2 ^ 18 + 0x20000), lcnt := 2, pc := 0x01000000000200FC#64 }
    let start : Nat := 0x20000
    let n : Nat := 64
    1 ≤ n ∧ n ≤ 64 ∧ 0x20000 ≤ start ∧ start < 0x28000 ∧ t.lbody = BitVec.ofNat 64 (n * 2 ^ 18 + start) ∧ t.pc =
      BitVec.ofNat 64 (0x0100000000000000 + start + 4 * (n - 1)) ∧ 1 < t.lcnt.toNat := by decide +kernel

theorem witness_LoopRule_5 :
    let t : Strand := { Strand.reset .u with lbody := BitVec.ofNat 64 (64 * 2 ^ 18 + 0x20000), lcnt := 1, pc := 0x01000000000200FC#64 }
    let start : Nat := 0x20000
    let n : Nat := 64
    1 ≤ n ∧ n ≤ 64 ∧ 0x20000 ≤ start ∧ start < 0x28000 ∧ t.lbody = BitVec.ofNat 64 (n * 2 ^ 18 + start) ∧ t.pc =
      BitVec.ofNat 64 (0x0100000000000000 + start + 4 * (n - 1)) ∧ t.lcnt = 1#64 := by decide +kernel

theorem witness_LoopRule_6 :
    let s : State := inU fun z => { z with lbody := BitVec.ofNat 64 (2 ^ 18 + 0x20000), lcnt := 2 }
    let i : Instr := .jal 0#5 0#19
    isControlFlow i = true ∧ s.me.inLoopBody s.me.pc = true := by decide +kernel

theorem witness_TrapEntry_1 :
    let h : Nat := 32767
    h / 8 < 4096 := by decide +kernel

theorem witness_TrapEntry_2 :
    let s : State := strandAt 4096 .u fun z => { z with m := { z.m with mdeleg := 0x8 } }
    let h : Nat := 32768
    let int : Bool := false
    let tr : Trap := { code := 3, badva := 5, tval2 := 0 }
    let o := s.strand h
    let bit := if int then 32 + tr.code else tr.code
    4096 ≤ h / 8 ∧ o.mode ≠ .m ∧ o.m.mdeleg.getLsbD bit = true := by decide +kernel

theorem witness_TrapEntry_3 :
    let s : State := strandAt 4096 .u fun z => { z with m := { z.m with mdeleg := 0x8 } }
    let h : Nat := 32768
    let int : Bool := true
    let tr : Trap := { code := 3, badva := 5, tval2 := 0 }
    let o := s.strand h
    let bit := if int then 32 + tr.code else tr.code
    4096 ≤ h / 8 ∧ (o.mode = .m ∨ o.m.mdeleg.getLsbD bit = false) := by decide +kernel

theorem witness_TrapEntry_4 :
    let s : State := inM fun z => { z with m := { z.m with mdeleg := 0x8 } }
    let h : Nat := 32768
    let int : Bool := false
    let tr : Trap := { code := 3, badva := 5, tval2 := 0 }
    let o := s.strand h
    let bit := if int then 32 + tr.code else tr.code
    4096 ≤ h / 8 ∧ (o.mode = .m ∨ o.m.mdeleg.getLsbD bit = false) := by decide +kernel

theorem witness_EretReturns_1 :
    let s : State := inS fun z => { z with epc := 8, sstatus := 0xE, lbody := BitVec.ofNat 64 (2 ^ 18 + 0x20000), lcnt := 2 }
    s.me.mode = .s ∧ s.me.loopBody.isSome = true ∧ s.me.inLoopBody s.me.epc = false := by decide +kernel

theorem witness_EretReturns_2 :
    let s : State := inS fun z => { z with epc := 0x0100000000020000, lbody := BitVec.ofNat 64 (2 ^ 18 + 0x20000), lcnt := 2 }
    s.me.mode = .s ∧ s.me.loopBody.isSome = true ∧ s.me.inLoopBody s.me.epc = true := by decide +kernel

theorem witness_EretReturns_3 :
    let s : State := inM fun z => { z with m := { z.m with mepc := 8, mstatus := 0x6 } }
    s.me.mode = .m ∧ s.me.m.mstatus.extractLsb' 2 2 = 1#2 := by decide +kernel

theorem witness_EretReturns_4 :
    let s : State := inM fun z => { z with m := { z.m with mepc := 8, mstatus := 0xC } }
    s.me.mode = .m ∧ s.me.m.mstatus.extractLsb' 2 2 = 3#2 := by decide +kernel

theorem witness_EretReturns_5 :
    let s : State := inM id
    s.me.mode = .m ∧ s.me.m.mstatus.extractLsb' 2 2 = 0#2 := by decide +kernel

theorem witness_SystemCalls_1 :
    let s : State := inU id
    s.me.mode = .u := by decide +kernel

theorem witness_SystemCalls_2 :
    let s : State := inM id
    s.me.mode = .m := by decide +kernel

theorem witness_SystemCalls_3 :
    let s : State := strandAt 4096 .s id
    s.me.mode = .s ∧ 4096 ≤ s.here := by decide +kernel

theorem witness_SystemCalls_4 :
    let s : State := strandAt 4095 .s id
    s.me.mode = .s ∧ s.here < 4096 := by decide +kernel

theorem witness_InterruptRule_1 :
    let s : State := inU fun z => { z with ien := 0x3E, ipend := 0x20 }
    let c : Nat := 5
    s.interruptDue s.cur = some c ∧ s.me.status = .ready ∧ s.me.inst = none := by decide +kernel

theorem witness_InterruptRule_2 :
    let s : State := inU fun z => { z with ien := 0x3E, ipend := 0x10, timecmp := 0 }
    let h : Nat := 0
    h / 8 < 4096 ∧ (s.strand h).mode ≠ .m := by decide +kernel

theorem witness_CsrResults_1 :
    let s : State := inU id
    let a : BitVec 5 := 2#5
    let n : BitVec 14 := 0x001#14
    let old := s.csrRead n.toNat
    let x := s.me.getX a
    csrListed n.toNat = true ∧ (n.toNat < 0x100 ∨ (0x200 ≤ n.toNat ∧ n.toNat < 0x700 ∧ s.me.mode ≠ .u) ∨ (s.me.mode = .m
      ∧ 4096 ≤ s.here)) ∧ (n.toNat < 0x100 ∨ 0x200 ≤ n.toNat) ∧ csrRefuses n.toNat x = false ∧ a ≠ 0#5 ∧ csrRefuses
      n.toNat (old ||| x) = false ∧ csrRefuses n.toNat (old &&& ~~~x) = false := by decide +kernel

theorem witness_CsrResults_2 :
    let s : State := inU id
    let a : BitVec 5 := 0#5
    let n : BitVec 14 := 0x001#14
    csrListed n.toNat = true ∧ (n.toNat < 0x100 ∨ (0x200 ≤ n.toNat ∧ n.toNat < 0x700 ∧ s.me.mode ≠ .u) ∨ (s.me.mode = .m
      ∧ 4096 ≤ s.here)) ∧ (n.toNat < 0x100 ∨ 0x200 ≤ n.toNat) ∧ a = 0#5 := by decide +kernel

theorem witness_CsrResults_3 :
    let s : State := inS fun z => z.setX 2#5 3
    let a : BitVec 5 := 2#5
    let n : BitVec 14 := 0x331#14
    let old := s.csrRead n.toNat
    let x := s.me.getX a
    csrListed n.toNat = true ∧ (n.toNat < 0x100 ∨ (0x200 ≤ n.toNat ∧ n.toNat < 0x700 ∧ s.me.mode ≠ .u) ∨ (s.me.mode = .m
      ∧ 4096 ≤ s.here)) ∧ (n.toNat < 0x100 ∨ 0x200 ≤ n.toNat) ∧ csrRefuses n.toNat x = false ∧ a ≠ 0#5 ∧ csrRefuses
      n.toNat (old ||| x) = false ∧ csrRefuses n.toNat (old &&& ~~~x) = false := by decide +kernel

theorem witness_CsrResults_4 :
    let s : State := inM fun z => z.setX 2#5 3
    let a : BitVec 5 := 2#5
    let n : BitVec 14 := 0x709#14
    let old := s.csrRead n.toNat
    let x := s.me.getX a
    csrListed n.toNat = true ∧ (n.toNat < 0x100 ∨ (0x200 ≤ n.toNat ∧ n.toNat < 0x700 ∧ s.me.mode ≠ .u) ∨ (s.me.mode = .m
      ∧ 4096 ≤ s.here)) ∧ (n.toNat < 0x100 ∨ 0x200 ≤ n.toNat) ∧ csrRefuses n.toNat x = false ∧ a ≠ 0#5 ∧ csrRefuses
      n.toNat (old ||| x) = false ∧ csrRefuses n.toNat (old &&& ~~~x) = false := by decide +kernel

theorem witness_CsrResults_5 :
    let s : State := inU fun z => z.setX 2#5 (-1)
    let a : BitVec 5 := 2#5
    let n : BitVec 14 := 0x009#14
    let x := s.me.getX a
    csrListed n.toNat = true ∧ (n.toNat < 0x100 ∨ (0x200 ≤ n.toNat ∧ n.toNat < 0x700 ∧ s.me.mode ≠ .u) ∨ (s.me.mode = .m
      ∧ 4096 ≤ s.here)) ∧ (n.toNat < 0x100 ∨ 0x200 ≤ n.toNat) ∧ csrRefuses n.toNat x = true := by decide +kernel

theorem witness_CsrResults_6 :
    let a : BitVec 5 := 2#5
    let n : BitVec 14 := 0x100#14
    0x100 ≤ n.toNat ∧ n.toNat ≤ 0x103 ∧ a ≠ 0#5 := by decide +kernel

theorem witness_CsrResults_7 :
    let a : BitVec 5 := 2#5
    let n : BitVec 14 := 0x103#14
    0x100 ≤ n.toNat ∧ n.toNat ≤ 0x103 ∧ a ≠ 0#5 := by decide +kernel

theorem witness_CsrResults_8 :
    let s : State := withJob job0 (inS id)
    let j : Job := job0
    s.jobOf s.here = some j := by decide +kernel

theorem witness_FpResults :
    ∀ i ∈ [Instr.fadd 1#5 2#5 3#5 7#3 1#2, .fsub 1#5 2#5 3#5 0#3 0#2, .fmul 1#5 2#5 3#5 4#3 2#2, .fdiv 1#5 2#5 3#5 7#3 3#2,
      .fsqrt 1#5 2#5 7#3 1#2, .fma 1#5 2#5 3#5 4#5 1#1 7#3, .fnma 1#5 2#5 3#5 4#5 0#1 1#3, .fmin 1#5 2#5 3#5 1#2 1#1,
      .fmax 1#5 2#5 3#5 1#2 0#1, .fcvt 1#5 2#5 7#3 1#2 0#2, .fcvtf 1#5 2#5 7#3 1#2 1#1 1#1, .fexp 1#5 2#5 7#3 1#1, .flog 1#5 2#5 7#3 0#1,
      .ferf 1#5 2#5 7#3 1#1, .fapx 1#5 2#5 7#3 1#2 0#3, .fcvti 1#5 2#5 1#3 1#2 1#1 0#1], refusal i (inU id) = none := by decide +kernel

theorem witness_FpResults_1 :
    let s : State := inU fun z => z.setF 2#5 0x7FF0000000000001
    let a : BitVec 5 := 2#5
    let b : BitVec 5 := 3#5
    let f : BitVec 2 := 1#2
    let x := s.me.getF a
    let y := s.me.getF b
    let k := Fmt.ofCode f
    let num (v : Word) := unpack k v
    let nan := (num x).isNan || (num y).isNan
    nan = true := by decide +kernel

theorem witness_FpResults_2 :
    let s : State := inU fun z => z.setF 2#5 0x7FF0000000000001
    let a : BitVec 5 := 3#5
    let b : BitVec 5 := 3#5
    let f : BitVec 2 := 1#2
    let x := s.me.getF a
    let y := s.me.getF b
    let k := Fmt.ofCode f
    let num (v : Word) := unpack k v
    let nan := (num x).isNan || (num y).isNan
    nan = false := by decide +kernel

theorem witness_FpSpecialOperands_1 :
    let k : Fmt := .f32
    let x : Word := 0x7F800001#64
    let y : Word := 0#64
    let num (v : Word) := unpack k v
    ((num x).isNan || (num y).isNan) = true ∧ (num x).isNan = true := by decide +kernel

theorem witness_FpSpecialOperands_2 :
    let x : BitVec 64 := 0x3FF0000000000000#64
    let y : BitVec 64 := 0x8000000000000000#64
    let e := (x.extractLsb' 52 11).toNat
    y.extractLsb' 0 63 = 0#63 ∧ e ≠ 2047 ∧ x.extractLsb' 0 63 ≠ 0#63 := by decide +kernel

theorem witness_FpSpecialOperands_3 :
    let x : BitVec 64 := 0x8000000000000000#64
    let y : BitVec 64 := 0#64
    y.extractLsb' 0 63 = 0#63 ∧ x.extractLsb' 0 63 = 0#63 := by decide +kernel

theorem witness_VectorResults :
    ∀ i ∈ [Instr.vadd 1#5 2#5 3#5 1#3 7#3 7#3, .vsub 1#5 2#5 3#5 1#3 0#3 0#3, .vmul 1#5 2#5 3#5 1#3 3#3 0#3,
      .vfma 1#5 2#5 3#5 1#3 7#3 7#3, .vmin 1#5 2#5 3#5 1#3 3#3 1#3, .vmax 1#5 2#5 3#5 1#3 7#3 0#3, .vbit 1#5 2#5 3#5 1#3 3#3 3#3,
      .vsh 1#5 2#5 3#5 1#3 0#3 1#3, .vbit 1#5 2#5 0#5 1#3 2#3 4#3, .vsh 1#5 2#5 3#5 1#3 1#3 2#3, .vsel 1#5 2#5 3#5 1#3 3#3 2#3, .vfun 1#5 2#5 0#5 1#3 7#3 7#3, .vsplat 1#5 2#5 1#3 7#3 0#3,
      .vsplat 1#5 2#5 1#3 3#3 0#3, .vperm 1#5 2#5 3#5 1#3 3#3 1#3, .vhash 1#5 2#5 3#5 1#3 1#3, .vpfx 1#5 2#5 1#3 1#3,
      .visect 1#5 2#5 3#5 1#3 1#2, .vdot 1#5 2#5 3#5 1#3 4#3 7#3, .vcmp 0#2 1#3 2#5 3#5 1#3 7#3 0#3, .vcvt 1#5 2#5 0#2 6#3 1#3 7#3 7#3,
      .vred 1#5 2#5 0#5 1#3 7#3 7#3, .vextr 1#5 2#5 3#5 7#3 0#3, .vextr 1#5 2#5 3#5 3#3 1#3, .vextr 1#5 2#5 3#5 0#3 0#3],
    refusal i (inU id) = none := by decide +kernel

theorem witness_VectorResults_1 :
    let s : State := inU id
    let d : BitVec 5 := 1#5
    let a : BitVec 5 := 2#5
    let b : BitVec 5 := 3#5
    let t : BitVec 3 := 7#3
    let r : BitVec 3 := 0#3
    refusal (.vextr d a b t r) s = none ∧ 3 < t.toNat := by decide +kernel

theorem witness_VectorResults_2 :
    let s : State := inU id
    let d : BitVec 5 := 1#5
    let a : BitVec 5 := 2#5
    let b : BitVec 5 := 3#5
    let t : BitVec 3 := 3#3
    let r : BitVec 3 := 1#3
    refusal (.vextr d a b t r) s = none ∧ t.toNat ≤ 3 := by decide +kernel

theorem witness_LaneRule_1 :
    let w : Nat := 8
    let p : Word := 0x8000000000000000#64
    let j : Nat := 63
    (w = 8 ∨ w = 16 ∨ w = 32 ∨ w = 64) ∧ j < 512 / w ∧ p.getLsbD j = true := by decide +kernel

theorem witness_LaneRule_2 :
    let w : Nat := 64
    let p : Word := 0x8000000000000000#64
    let j : Nat := 7
    (w = 8 ∨ w = 16 ∨ w = 32 ∨ w = 64) ∧ j < 512 / w ∧ p.getLsbD j = false := by decide +kernel

theorem witness_LoadResults :
    let s : State := inS fun z => z.setX 2#5 0x0100000000000008
    let c : State := inS fun z => z.setX 2#5 0x0101000000000008
    let g : State := tagged (unit0 8) { poison := true } s
    let read (s : State) (n : Nat) := s.perform 0 (accessOf s true 0x0100000000000008 (unit0 8) n (.load .plain false))
    refusal (.ld 1#5 2#5 3#3 0#11) s = none ∧ s.me.log = [] ∧
      place s (.load 3#3) 0x0100000000000008 8 = .ok (unit0 8) .plain false ∧ performs (read s 8) = true ∧
      place g (.load 3#3) 0x0100000000000008 8 = .ok (unit0 8) .plain false ∧
      (read g 8 matches .poisoned 0) = true ∧
      place c (.load 3#3) 0x0101000000000008 8 = .ok (cluster0 8) .plain false ∧
      place s (.load 3#3) 0x0100000000000009 8 = .trap (trapALIGN 0x0100000000000009) ∧
      refusal (.fld 1#5 2#5 2#3 4#11) s = none ∧ place s (.fload 4) 0x010000000000000C 4 = .ok (unit0 12) .plain false ∧
      refusal (.vld 1#5 2#5 0x7FF#11) s = none ∧ place s .vload 0x0100000000000040 64 = .ok (unit0 64) .plain false ∧
      (had [.place 0 (cluster0 8) .plain false, .val 5 []]).me.log = [.place 0 (cluster0 8) .plain false, .val 5 []] := by decide +kernel

theorem witness_StoreResults :
    let s : State := inS fun z => z.setX 2#5 0x0100000000000008
    let c : State := inS fun z => z.setX 2#5 0x0101000000000008
    let channel : Loc := { home := .chan 0, off := 0x800 }
    let cfg : Loc := { home := .chan 0, off := 8 }
    refusal (.st 1#5 2#5 3#3 0#11) s = none ∧ s.me.log = [] ∧
      place s (.store 8) 0x0100000000000008 8 = .ok (unit0 8) .plain false ∧
      performs (s.perform 0 (accessOf s true 0x0100000000000008 (unit0 8) 8 (.store (bytesOfNat 8 5) none false))) = true ∧
      place c (.store 8) 0x0101000000000008 8 = .ok (cluster0 8) .plain false ∧ storePosts (cluster0 8) false = true ∧
      (c.core c.here).posted.length < 16 ∧ c.chanTrap 0x0101000000000008 (cluster0 8) (storeKind (cluster0 8) (bytesOfNat 8 5)) = none ∧
      place c (.store 8) 0x0104000000000008 8 = .ok cfg .plain false ∧ storePosts cfg false = true ∧
      c.chanTrap 0x0104000000000008 cfg (storeKind cfg (bytesOfNat 8 3)) = some (trapCHAN 0x0104000000000008 3) ∧
      (had [.place 0 channel .plain false, .val 0 []]).me.log = [.place 0 channel .plain false, .val 0 []] ∧
      storePosts channel false = false ∧
      place s (.store 8) 0x0100000000000009 8 = .trap (trapALIGN 0x0100000000000009) ∧
      refusal (.fst 1#5 2#5 2#3 4#11) s = none ∧ refusal (.vst 1#5 2#5 0#11) s = none := by decide +kernel

theorem witness_LoadAndStoreFrame_1 :
    let i : Instr := .ld 1#5 2#5 3#3 0#11
    let d : BitVec 5 := 1#5
    let a : BitVec 5 := 2#5
    let w : BitVec 3 := 3#3
    let o : BitVec 11 := 0#11
    let s : State := inS fun z => z.setX 2#5 0x0100000000000008
    ∃ t, i ∈ [Instr.ld d a w o, .fld d a w o, .vld d a o] ∧ exec i s = .next t := ⟨_, by decide +kernel, rfl⟩

theorem witness_LoadAndStoreFrame_2 :
    let i : Instr := .st 1#5 2#5 3#3 0#11
    let f : Form := .store 8
    let va : Word := 0x0100000000000008
    let n : Nat := 8
    let b : BitVec 5 := 1#5
    let a : BitVec 5 := 2#5
    let w : BitVec 3 := 3#3
    let o : BitVec 11 := 0#11
    let s : State := inS fun z => z.setX 2#5 0x0100000000000008
    ∃ t, (i, f, va, n) ∈ [(Instr.st b a w o, Form.store (2 ^ (w.toNat % 4)), s.me.getX a + o.signExtend 64, 2 ^ (w.toNat
      % 4)), (.fst b a w o, .fstore, s.me.getX a + o.signExtend 64, 2 ^ (w.toNat % 4)), (.vst b a o, .vstore, s.me.getX a
      + 64#64 * o.signExtend 64, 64)] ∧ s.me.log = [] ∧ exec i s = .next t := ⟨_, by decide +kernel, rfl, rfl⟩

theorem witness_LoadAndStoreFrame_3 :
    let s := inS fun z => z.setX 2#5 0x0100000000000008
    ∃ t, s.me.log = [] ∧ exec (.st 1#5 2#5 3#3 1#11) s = .next t ∧
      place s (.store 8) 0x0100000000000009 8 = .trap (trapALIGN 0x0100000000000009) := ⟨_, rfl, rfl, by decide +kernel⟩

theorem witness_MemoryReadsWhatWasWritten_1 :
    let s : State := inS id
    let a : Access := { strand := 0, answers := true, op := none, va := 0, loc := unit0 13, len := 3, kind := .load .plain false, sc := none, hops := [] }
    s.movingAt a.loc = none ∧ (s.tagAt a.loc).slip = none ∧ a.kind = .load .plain false ∧ (∀ k < a.len, (s.tagAt
      (a.loc.plus k)).poison = false) := by decide +kernel

theorem witness_MemoryReadsWhatWasWritten_2 :
    let s : State := inS id
    let a : Access := { strand := 0, answers := true, op := none, va := 0, loc := unit0 13, len := 3, kind := .store [1, 2, 3] none false, sc := none, hops := [] }
    let bs : List Byte := [1, 2, 3]
    s.movingAt a.loc = none ∧ (s.tagAt a.loc).slip = none ∧ a.kind = .store bs none false ∧ a.len = bs.length ∧ a.loc.off
      % 8 + bs.length ≤ 8 ∧ (s.tagAt a.loc).poison = false := by decide +kernel

theorem witness_MemoryReadsWhatWasWritten_13 :
    let s := tagged (unit0 16) { poison := true } (inS id)
    s.movingAt (unit0 13) = none ∧ (s.tagAt (unit0 13)).slip = none ∧ (s.tagAt ((unit0 13).plus 3)).poison = true ∧
      (∀ j < 3, (s.tagAt ((unit0 13).plus j)).poison = false) ∧ s.perform 0 ({ strand := 0, answers := true, op := none, va := 0, loc := unit0 13, len := 5, kind := .load .plain false, sc := none, hops := [] }) = .poisoned 3 := ⟨by decide +kernel, by decide +kernel, by decide +kernel, by decide +kernel, by rfl⟩

theorem witness_MemoryReadsWhatWasWritten_12 :
    let s := tagged (unit0 16) { poison := true } (inS id)
    s.movingAt (unit0 12) = none ∧ (s.tagAt (unit0 12)).slip = none ∧ (s.tagAt ((unit0 12).plus 4)).poison = true ∧
      (∀ j < 4, (s.tagAt ((unit0 12).plus j)).poison = false) ∧ s.perform 0 ({ strand := 0, answers := true, op := none, va := 0, loc := unit0 12, len := 5, kind := .load .plain false, sc := none, hops := [] }) = .poisoned 4 := ⟨by decide +kernel, by decide +kernel, by decide +kernel, by decide +kernel, by rfl⟩

theorem witness_AtomicsAndSyncAtHome_1 :
    let s : State := inS id
    let a : Access := { strand := 0, answers := true, op := none, va := 0, loc := unit0 8, len := 8, kind := .amo 0#4 (-1), sc := none, hops := [] }
    s.movingAt a.loc = none ∧ (s.tagAt a.loc).slip = none ∧ (s.tagAt a.loc).poison = false ∧ a.loc.off % 8 = 0 := by decide +kernel

theorem witness_AtomicsAndSyncAtHome_10 :
    let s : State := inS id
    let a : Access := { strand := 0, answers := true, op := none, va := 0, loc := unit0 8, len := 8, kind := .cas 0 7, sc := none, hops := [] }
    s.movingAt a.loc = none ∧ (s.tagAt a.loc).slip = none ∧ (s.tagAt a.loc).poison = false ∧ a.loc.off % 8 = 0 ∧ a.kind =
      .cas 0 7 := by decide +kernel

theorem witness_AtomicsAndSyncAtHome_11 :
    let s : State := tagged (unit0 8) { full := true } (inS id)
    let a : Access := { strand := 0, answers := true, op := none, va := 0, loc := unit0 8, len := 8, kind := .sync .readLeave 5, sc := none, hops := [] }
    let full := (s.tagAt a.loc).full
    s.movingAt a.loc = none ∧ (s.tagAt a.loc).slip = none ∧ (s.tagAt a.loc).poison = false ∧ a.loc.off % 8 = 0 ∧ a.kind =
      .sync .readLeave 5 ∧ full = true := by decide +kernel

theorem witness_AtomicsAndSyncAtHome_12 :
    let s : State := tagged (unit0 8) { full := true } (inS id)
    let a : Access := { strand := 0, answers := true, op := none, va := 0, loc := unit0 8, len := 8, kind := .sync .readTake 5, sc := none, hops := [] }
    let full := (s.tagAt a.loc).full
    s.movingAt a.loc = none ∧ (s.tagAt a.loc).slip = none ∧ (s.tagAt a.loc).poison = false ∧ a.loc.off % 8 = 0 ∧ a.kind =
      .sync .readTake 5 ∧ full = true := by decide +kernel

theorem witness_AtomicsAndSyncAtHome_13 :
    let s : State := tagged (unit0 8) { full := false } (inS id)
    let a : Access := { strand := 0, answers := true, op := none, va := 0, loc := unit0 8, len := 8, kind := .sync .writeFill 5, sc := none, hops := [] }
    let full := (s.tagAt a.loc).full
    s.movingAt a.loc = none ∧ (s.tagAt a.loc).slip = none ∧ (s.tagAt a.loc).poison = false ∧ a.loc.off % 8 = 0 ∧ a.kind =
      .sync .writeFill 5 ∧ full = false := by decide +kernel

theorem witness_AtomicsAndSyncAtHome_14 :
    let s : State := tagged (unit0 8) { full := false } (inS id)
    let a : Access := { strand := 0, answers := true, op := none, va := 0, loc := unit0 8, len := 8, kind := .sync .setFull 5, sc := none, hops := [] }
    s.movingAt a.loc = none ∧ (s.tagAt a.loc).slip = none ∧ (s.tagAt a.loc).poison = false ∧ a.loc.off % 8 = 0 ∧ a.kind =
      .sync .setFull 5 := by decide +kernel

theorem witness_AtomicsAndSyncAtHome_15 :
    let s : State := tagged (unit0 8) { full := true } (inS id)
    let a : Access := { strand := 0, answers := true, op := none, va := 0, loc := unit0 8, len := 8, kind := .sync .setEmpty 5, sc := none, hops := [] }
    s.movingAt a.loc = none ∧ (s.tagAt a.loc).slip = none ∧ (s.tagAt a.loc).poison = false ∧ a.loc.off % 8 = 0 ∧ a.kind =
      .sync .setEmpty 5 := by decide +kernel

theorem witness_AtomicsAndSyncAtHome_16 :
    let s : State := tagged (unit0 8) { full := false } (inS id)
    let a : Access := { strand := 0, answers := true, op := none, va := 0, loc := unit0 8, len := 8, kind := .sync .readTake 5, sc := none, hops := [] }
    let full := (s.tagAt a.loc).full
    s.movingAt a.loc = none ∧ (s.tagAt a.loc).slip = none ∧ (s.tagAt a.loc).poison = false ∧ a.loc.off % 8 = 0 ∧ a.kind =
      .sync .readTake 5 ∧ full = false := by decide +kernel

theorem witness_AtomicsAndSyncAtHome_17 :
    let s : State := tagged (unit0 8) { full := false } (inS id)
    let a : Access := { strand := 0, answers := true, op := none, va := 0, loc := unit0 8, len := 8, kind := .sync .readLeave 5, sc := none, hops := [] }
    let full := (s.tagAt a.loc).full
    s.movingAt a.loc = none ∧ (s.tagAt a.loc).slip = none ∧ (s.tagAt a.loc).poison = false ∧ a.loc.off % 8 = 0 ∧ a.kind =
      .sync .readLeave 5 ∧ full = false := by decide +kernel

theorem witness_AtomicsAndSyncAtHome_18 :
    let s : State := tagged (unit0 8) { full := true } (inS id)
    let a : Access := { strand := 0, answers := true, op := none, va := 0, loc := unit0 8, len := 8, kind := .sync .writeFill 5, sc := none, hops := [] }
    let full := (s.tagAt a.loc).full
    s.movingAt a.loc = none ∧ (s.tagAt a.loc).slip = none ∧ (s.tagAt a.loc).poison = false ∧ a.loc.off % 8 = 0 ∧ a.kind =
      .sync .writeFill 5 ∧ full = true := by decide +kernel

theorem witness_OrderedAndSyncResults_1 :
    let s : State := had [.place 0 (cluster0 8) .plain false, .val 5 []]
    let d : BitVec 5 := 1#5
    let a : BitVec 5 := 2#5
    let b : BitVec 5 := 3#5
    let e : BitVec 5 := 4#5
    let w : BitVec 3 := 3#3
    let c : BitVec 3 := 1#3
    let o : BitVec 2 := 1#2
    let m : BitVec 2 := 0#2
    let l : Loc := cluster0 8
    let v : Vec := 5
    let hops : List Hop := []
    let k : BitVec 2 := 0#2
    let va := s.me.getX a
    let direct : List Ans := [.place va l .plain false, .val v hops]
    let drainsCas := decide (2 ^ 55 ≤ va.toNat ∧ va.toNat < 2 ^ 56) || k != 0#2
    o ≠ 3#2 ∧ (o ≠ 2#2 ∨ drainsCas = false) ∧ refusal (.ldo d a w o c) s = none ∧ refusal (.lds d a m c) s = none ∧
      refusal (.cas d a b e k o) s = none ∧ s.me.log = direct := by decide +kernel

theorem witness_OrderedAndSyncResults_2 :
    let s : State := had [.place 0 (cluster0 8) .plain false, .val 5 []]
    let d : BitVec 5 := 1#5
    let a : BitVec 5 := 2#5
    let b : BitVec 5 := 3#5
    let c : BitVec 3 := 0#3
    let o : BitVec 2 := 2#2
    let f : BitVec 4 := 1#4
    let l : Loc := cluster0 8
    let v : Vec := 5
    let hops : List Hop := []
    let va := s.me.getX a
    let direct : List Ans := [.place va l .plain false, .val v hops]
    let drains := decide (2 ^ 55 ≤ va.toNat ∧ va.toNat < 2 ^ 56) || c != 0#3
    o ≠ 3#2 ∧ (o ≠ 2#2 ∨ drains = false) ∧ refusal (.amo d a b c o f) s = none ∧ s.me.log = direct := by decide +kernel

theorem witness_OrderedAndSyncResults_3 :
    let s : State := had [.place 0 (unit0 8) .plain false, .val 5 []]
    let a : BitVec 5 := 2#5
    let b : BitVec 5 := 3#5
    let w : BitVec 3 := 3#3
    let c : BitVec 3 := 0#3
    let o : BitVec 2 := 1#2
    let l : Loc := unit0 8
    let v : Vec := 5
    let hops : List Hop := []
    let va := s.me.getX a
    let direct : List Ans := [.place va l .plain false, .val v hops]
    let release := o = 1#2 ∧ c ≠ 0#3
    let answered := l.home = .unit s.here ∨ storePosts l false = false
    o ≠ 3#2 ∧ ¬ release ∧ answered ∧ refusal (.sto b a w o c) s = none ∧ s.me.log = direct := by decide +kernel

theorem witness_OrderedAndSyncResults_4 :
    let s : State := had [.place 0 { home := .peer 3 0, off := 8 } .plain false, .val 5 []]
    let a : BitVec 5 := 2#5
    let b : BitVec 5 := 3#5
    let w : BitVec 3 := 3#3
    let c : BitVec 3 := 4#3
    let o : BitVec 2 := 0#2
    let l : Loc := { home := .peer 3 0, off := 8 }
    let v : Vec := 5
    let hops : List Hop := []
    let va := s.me.getX a
    let direct : List Ans := [.place va l .plain false, .val v hops]
    let release := o = 1#2 ∧ c ≠ 0#3
    let answered := l.home = .unit s.here ∨ storePosts l false = false
    o ≠ 3#2 ∧ ¬ release ∧ answered ∧ refusal (.sto b a w o c) s = none ∧ s.me.log = direct := by decide +kernel

theorem witness_OrderedAndSyncResults_5 :
    let s : State := had [.place 0 (cluster0 8) .plain false, .val 0 [], .place 0 (cluster0 8) .plain false, .val 5 []]
    let d : BitVec 5 := 1#5
    let a : BitVec 5 := 2#5
    let b : BitVec 5 := 3#5
    let e : BitVec 5 := 4#5
    let w : BitVec 3 := 3#3
    let c : BitVec 3 := 1#3
    let o : BitVec 2 := 2#2
    let m : BitVec 2 := 0#2
    let f : BitVec 4 := 1#4
    let l : Loc := cluster0 8
    let l' : Loc := cluster0 8
    let v : Vec := 5
    let hops : List Hop := []
    let u : Vec := 0
    let k : BitVec 2 := 1#2
    let va := s.me.getX a
    let drained : List Ans := [.place va l' .plain false, .val u [], .place va l .plain false, .val v hops]
    let drains := decide (2 ^ 55 ≤ va.toNat ∧ va.toNat < 2 ^ 56) || c != 0#3
    let drainsCas := decide (2 ^ 55 ≤ va.toNat ∧ va.toNat < 2 ^ 56) || k != 0#2
    (o = 3#2 ∨ (o = 2#2 ∧ drains = true)) ∧ (o = 3#2 ∨ (o = 2#2 ∧ drainsCas = true)) ∧ refusal (.ldo d a w 3#2 c) s =
      none ∧ refusal (.sto b a w 3#2 c) s = none ∧ refusal (.sts b a m c) s = none ∧ refusal (.amo d a b c o f) s = none
      ∧ refusal (.cas d a b e k o) s = none ∧ s.me.log = drained := by decide +kernel

theorem witness_OrderedAndSyncResults_6 :
    let s : State := had [.place 0 (unit0 8) .plain false, .val 0 [], .place 0 (unit0 8) .plain false, .val 5 []]
    let a : BitVec 5 := 2#5
    let b : BitVec 5 := 3#5
    let w : BitVec 3 := 3#3
    let c : BitVec 3 := 1#3
    let o : BitVec 2 := 1#2
    let l : Loc := unit0 8
    let l' : Loc := unit0 8
    let v : Vec := 5
    let hops : List Hop := []
    let u : Vec := 0
    let va := s.me.getX a
    let drained : List Ans := [.place va l' .plain false, .val u [], .place va l .plain false, .val v hops]
    let release := o = 1#2 ∧ c ≠ 0#3
    let answered := l.home = .unit s.here ∨ storePosts l false = false
    release ∧ answered ∧ refusal (.sto b a w o c) s = none ∧ s.me.log = drained := by decide +kernel

theorem witness_OrderedAndSyncResults_7 :
    let s : State := had [.place 0 ({ home := .peer 3 0, off := 8 }) .plain false, .val 0 [], .place 0 ({ home := .peer 3 0, off := 8 }) .plain false, .val 5 []]
    let a : BitVec 5 := 2#5
    let b : BitVec 5 := 3#5
    let w : BitVec 3 := 3#3
    let c : BitVec 3 := 1#3
    let o : BitVec 2 := 1#2
    let l : Loc := { home := .peer 3 0, off := 8 }
    let l' : Loc := { home := .peer 3 0, off := 8 }
    let v : Vec := 5
    let hops : List Hop := []
    let u : Vec := 0
    let va := s.me.getX a
    let drained : List Ans := [.place va l' .plain false, .val u [], .place va l .plain false, .val v hops]
    let release := o = 1#2 ∧ c ≠ 0#3
    let answered := l.home = .unit s.here ∨ storePosts l false = false
    release ∧ answered ∧ refusal (.sto b a w o c) s = none ∧ s.me.log = drained := by decide +kernel

theorem witness_OrderedAndSyncResults_8 :
    let s : State := had [.place 0 (cluster0 8) .plain false]
    let a : BitVec 5 := 2#5
    let b : BitVec 5 := 3#5
    let w : BitVec 3 := 3#3
    let c : BitVec 3 := 4#3
    let o : BitVec 2 := 0#2
    let l : Loc := cluster0 8
    let moves : Bool := false
    let va := s.me.getX a
    let n := 2 ^ (w.toNat % 4)
    let kind := storeKind l (bytesOfNat n (s.me.getX b).toNat)
    let release := o = 1#2 ∧ c ≠ 0#3
    o ≠ 3#2 ∧ ¬ release ∧ refusal (.sto b a w o c) s = none ∧ s.me.log = [.place va l .plain moves] ∧ l.home ≠ .unit
      s.here ∧ storePosts l moves = true ∧ (s.core s.here).posted.length < 16 ∧ s.chanTrap va l kind = none := by decide +kernel

theorem witness_OrderedAndSyncResults_9 :
    let s : State := had [.place 0 (cluster0 8) .plain false, .val 0 [], .place 0 (cluster0 8) .plain false]
    let a : BitVec 5 := 2#5
    let b : BitVec 5 := 3#5
    let w : BitVec 3 := 3#3
    let c : BitVec 3 := 1#3
    let o : BitVec 2 := 1#2
    let l : Loc := cluster0 8
    let l' : Loc := cluster0 8
    let u : Vec := 0
    let moves : Bool := false
    let moved : Bool := false
    let va := s.me.getX a
    let n := 2 ^ (w.toNat % 4)
    let kind := storeKind l (bytesOfNat n (s.me.getX b).toNat)
    let release := o = 1#2 ∧ c ≠ 0#3
    release ∧ refusal (.sto b a w o c) s = none ∧ s.me.log = [.place va l' .plain moved, .val u [], .place va l .plain
      moves] ∧ l.home ≠ .unit s.here ∧ storePosts l moves = true ∧ (s.core s.here).posted.length < 16 ∧ s.chanTrap va l
      kind = none := by decide +kernel

theorem witness_IndexedResults_1 :
    let s : State := { had [.place 8 (unit0 8) .plain false, .place 16 (unit0 16) .plain false, .val 5 [], .val 6 []] with time := 0 }.modMe fun z => z.setP 1#3 0x81
    let d : BitVec 5 := 1#5
    let a : BitVec 5 := 2#5
    let b : BitVec 5 := 3#5
    let p : BitVec 3 := 1#3
    let t : BitVec 3 := 3#3
    let h : BitVec 3 := 0#3
    let places : List (Word × Loc) := [(8, unit0 8), (16, unit0 16)]
    let vals : List Vec := [5, 6]
    let act := (List.range (512 / laneWidth t)).filter fun k => (s.me.getP p).getLsbD k
    let found : List Ans := places.map fun q => Ans.place q.1 q.2 .plain false
    places.length = act.length ∧ vals.length = act.length ∧ s.me.log = found ++ vals.map (fun v => Ans.val v []) ∧
      refusal (.vldx d a b p t h) s = none := by decide +kernel

theorem witness_IndexedResults_2 :
    let s : State := { had [.place 8 (unit0 8) .plain false, .place 16 { home := .peer 3 0, off := 8 } .plain false, .place 24 (cluster0 8) .plain false, .val 0 [], .val 0 [], .val 0 [], .val 0 [], .val 0 []] with time := 0 }.modMe fun z => z.setP 1#3 0x91
    let d : BitVec 5 := 1#5
    let a : BitVec 5 := 2#5
    let b : BitVec 5 := 3#5
    let p : BitVec 3 := 1#3
    let t : BitVec 3 := 3#3
    let h : BitVec 3 := 0#3
    let places : List (Word × Loc) := [(8, unit0 8), (16, { home := .peer 3 0, off := 8 }), (24, cluster0 8)]
    let act := (List.range (512 / laneWidth t)).filter fun k => (s.me.getP p).getLsbD k
    let found : List Ans := places.map fun q => Ans.place q.1 q.2 .plain false
    let none_ : Ans := .val 0 []
    let checks := places.filter fun q => match q.2.home with
      | .peer _ _ => true
      | _ => false
    let stored (q : Word × Loc) : List Ans :=
      if q.2.home = .unit s.here ∨ storePosts q.2 false = false then [none_] else [none_, none_]
    places.length = act.length ∧ s.me.log = found ++ checks.map (fun _ => none_) ++ places.flatMap stored ∧ refusal
      (.vstx d a b p t h) s = none := by decide +kernel

theorem witness_FenceResults_1 :
    let s : State := inS id
    let c : BitVec 3 := 4#3
    let b : BitVec 3 := 5#3
    s.me.log = [] ∧ c.toNat ≤ 4 ∧ (c = 0#3 ∨ s.storesPending s.cur = false) ∧ c.toNat ≤ 5 ∧ b.toNat ≤ 5 ∧ b ≠ 0#3 := by decide +kernel

theorem witness_FenceResults_2 :
    let s : State := (inS id).modCore 0 fun z => { z with posted := [{ strand := 0, answers := true, op := none, va := 0, loc := cluster0 8, len := 8, kind := .store (bytesOfNat 8 5) none false, sc := none, hops := [] }] }
    let c : BitVec 3 := 1#3
    s.me.log = [] ∧ c.toNat ≤ 4 ∧ c ≠ 0#3 ∧ s.storesPending s.cur = true := by decide +kernel

theorem witness_FenceResults_3 :
    let s : State := (inS id).modCore 0 fun z => { z with posted := [{ strand := 0, answers := true, op := none, va := 0, loc := cluster0 8, len := 8, kind := .store (bytesOfNat 8 5) none false, sc := none, hops := [] }] }
    let c : BitVec 3 := 0#3
    s.me.log = [] ∧ c.toNat ≤ 5 := by decide +kernel

theorem witness_FenceResults_4 :
    let s : State := (inS id).modCore 0 fun z => { z with posted := [{ strand := 0, answers := true, op := none, va := 0, loc := cluster0 8, len := 8, kind := .store (bytesOfNat 8 5) none false, sc := none, hops := [] }] }
    let c : BitVec 3 := 5#3
    s.me.log = [] ∧ c.toNat ≤ 5 := by decide +kernel

theorem witness_AccessChecks_1 :
    let va : Word := 0x0100000000000020
    let n : Nat := 64
    va.toNat % n ≠ 0 := by decide +kernel

theorem witness_AccessChecks_2 :
    let va : Word := 0x01F0000000000008
    let n : Nat := 8
    va.toNat % n = 0 ∧ (windowOf va.toNat).1 = .priv ∧ va.toNat < 2 ^ 57 := by decide +kernel

theorem witness_AccessChecks_3 :
    let va : Word := 0x0200000000000000
    let n : Nat := 8
    va.toNat % n = 0 ∧ 2 ^ 57 ≤ va.toNat := by decide +kernel

theorem witness_AccessChecks_4 :
    let s : State := withJob { job0 with det := true } (inS id)
    let c : Nat := 0
    let va : Word := 0x007FFFFFFFFFFFF8
    let n : Nat := 8
    va.toNat % n = 0 ∧ s.inCompute c = true ∧ va.toNat < 2 ^ 57 ∧ ((windowOf va.toNat).1 ∈ [Window.global, .die, .chan] ∨
      (2 ^ 55 ≤ va.toNat ∧ va.toNat < 2 ^ 56)) := by decide +kernel

theorem witness_AccessChecks_5 :
    let s : State := withJob { job0 with det := true } (inS id)
    let c : Nat := 0
    let va : Word := 0x0104000000000000
    let n : Nat := 8
    va.toNat % n = 0 ∧ s.inCompute c = true ∧ va.toNat < 2 ^ 57 ∧ ((windowOf va.toNat).1 ∈ [Window.global, .die, .chan] ∨
      (2 ^ 55 ≤ va.toNat ∧ va.toNat < 2 ^ 56)) := by decide +kernel

theorem witness_AccessChecks_6 :
    let s : State := withJob { job0 with det := true } (inS id)
    let c : Nat := 0
    let va : Word := 0x0080000000000000
    let n : Nat := 8
    va.toNat % n = 0 ∧ s.inCompute c = true ∧ va.toNat < 2 ^ 57 ∧ ((windowOf va.toNat).1 ∈ [Window.global, .die, .chan] ∨
      (2 ^ 55 ≤ va.toNat ∧ va.toNat < 2 ^ 56)) := by decide +kernel

theorem witness_AccessChecks_7 :
    let s : State := withJob { job0 with det := true } (inS id)
    let c : Nat := 0
    let va : Word := 0x00FFFFFFFFFFFFF8
    let n : Nat := 8
    va.toNat % n = 0 ∧ s.inCompute c = true ∧ va.toNat < 2 ^ 57 ∧ ((windowOf va.toNat).1 ∈ [Window.global, .die, .chan] ∨
      (2 ^ 55 ≤ va.toNat ∧ va.toNat < 2 ^ 56)) := by decide +kernel

theorem witness_WaitResults_1 :
    let s : State := had [.place 8 (cluster0 8) .plain false, .val 5 []]
    let va : Word := 8
    let l : Loc := cluster0 8
    let view : View := .plain
    let m : Bool := false
    let v : Vec := 5
    let hops : List Hop := []
    s.me.log = [.place va l view m, .val v hops] := by decide +kernel

theorem witness_WaitResults_2 :
    let s : State := had [.place 8 (cluster0 8) .plain false, .val 0 [], .val 5 []]
    let c : BitVec 3 := 4#3
    let va : Word := 8
    let l : Loc := cluster0 8
    let view : View := .plain
    let m : Bool := false
    let v : Vec := 5
    let u : Vec := 0
    let hops : List Hop := []
    let gone : List Hop := []
    c.toNat ≤ 4 ∧ c ≠ 0#3 ∧ s.me.log = [.place va l view m, .val u gone, .val v hops] := by decide +kernel

theorem witness_WaitResults_3 :
    let s : State := inS fun z => { z with watch := .fired 8 }
    let va : Word := 8
    s.me.log = [] ∧ s.me.watch = .fired va := by decide +kernel

theorem witness_WaitResults_4 :
    let s : State := inS fun z => { z with watch := .armed 8 (cluster0 8) }
    let x : BitVec 5 := 2#5
    let va : Word := 8
    let l : Loc := cluster0 8
    let atOnce := x ≠ 0#5 ∧ s.me.getX x = 0#64
    s.me.log = [] ∧ s.me.watch = .armed va l ∧ atOnce := by decide +kernel

theorem witness_WaitResults_5 :
    let s : State := inS id
    s.me.log = [] ∧ s.me.watch = .off := by decide +kernel

theorem witness_WaitResults_6 :
    let s : State := had [.val 1 []]
    let v : Vec := 1
    let hops : List Hop := []
    s.me.log = [.val v hops] := by decide +kernel

theorem witness_WaitResults_7 :
    let s : State := inS id
    let x : BitVec 5 := 2#5
    let n := (s.messages s.cur).length
    let atOnce := x ≠ 0#5 ∧ s.me.getX x = 0#64
    s.me.log = [] ∧ (1 ≤ n ∨ atOnce) ∧ n < 2 ^ 64 := by decide +kernel

theorem witness_WaitResults_8 :
    let s : State := (inS id).modCore 0 fun z => { z with mailbox := [{ strand := 0, uid := 0, word0 := 0x1F000000000000, word1 := 7, shared := false }] }
    let x : BitVec 5 := 0#5
    let n := (s.messages s.cur).length
    let atOnce := x ≠ 0#5 ∧ s.me.getX x = 0#64
    s.me.log = [] ∧ (1 ≤ n ∨ atOnce) ∧ n < 2 ^ 64 := by decide +kernel

theorem witness_WaitResults_9 :
    let s : State := inS id
    let d : BitVec 5 := 1#5
    let e : BitVec 5 := 2#5
    (s.core s.here).toReturn = [] ∧ s.inCompute s.here = false ∧ d ≠ e ∧ s.messages s.cur = [] := by decide +kernel

theorem witness_WaitResults_10 :
    let s : State := (inS id).modCore 0 fun z => { z with mailbox := [{ strand := 0, uid := 0, word0 := 0x1F000000000000, word1 := 7, shared := false }] }
    let d : BitVec 5 := 1#5
    let e : BitVec 5 := 2#5
    let msg : Msg := { strand := 0, uid := 0, word0 := 0x1F000000000000, word1 := 7, shared := false }
    let ms : List Msg := []
    (s.core s.here).toReturn = [] ∧ s.inCompute s.here = false ∧ d ≠ e ∧ s.messages s.cur = msg :: ms := by decide +kernel

theorem witness_WaitResults_11 :
    let s : State := inS id
    s.me.unit = none := by decide +kernel

theorem witness_WaitResults_12 :
    let s : State := inU fun z => { z with unit := some { uid := 1, job := 1, launch := 1, index := 0 } }
    s.me.unit ≠ none := by decide +kernel

theorem witness_WaitResults_13 :
    let s : State := { inS fun z => { z with status := .parked (.wait { kind := 2, badva := 8, start := 10, limit := 100, timed := none }) } with cycle := 111 }
    let w : Wait := { kind := 2, badva := 8, start := 10, limit := 100, timed := none }
    let waits := s.me.status = .parked (.wait w)
    let limited := w.timed.all (fun u => decide (w.limit < u)) = true
    waits ∧ limited ∧ w.start + w.limit < s.cycle := by decide +kernel

theorem witness_WaitResults_14 :
    let s : State := { inS fun z => { z with status := .parked (.wait { kind := 2, badva := 8, start := 10, limit := 100, timed := some 101 }) } with cycle := 111 }
    let w : Wait := { kind := 2, badva := 8, start := 10, limit := 100, timed := some 101 }
    let waits := s.me.status = .parked (.wait w)
    let limited := w.timed.all (fun u => decide (w.limit < u)) = true
    waits ∧ limited ∧ w.start + w.limit < s.cycle := by decide +kernel

theorem witness_WaitResults_15 :
    let s : State := { inS fun z => { z with status := .parked (.wait { kind := 2, badva := 8, start := 10, limit := 100, timed := none }) } with cycle := 110 }
    let w : Wait := { kind := 2, badva := 8, start := 10, limit := 100, timed := none }
    let t : Nat := 5
    let waits := s.me.status = .parked (.wait w)
    let timed := w.timed = some t ∧ t ≤ w.limit
    waits ∧ (timed ∨ s.cycle ≤ w.start + w.limit) := by decide +kernel

theorem witness_WaitResults_16 :
    let s : State := { inS fun z => { z with status := .parked (.wait { kind := 2, badva := 8, start := 10, limit := 100, timed := some 100 }) } with cycle := 200 }
    let w : Wait := { kind := 2, badva := 8, start := 10, limit := 100, timed := some 100 }
    let t : Nat := 100
    let waits := s.me.status = .parked (.wait w)
    let timed := w.timed = some t ∧ t ≤ w.limit
    waits ∧ (timed ∨ s.cycle ≤ w.start + w.limit) := by decide +kernel

theorem witness_WaitResults_17 :
    let s : State := { inS fun z => { z with status := .parked (.wait { kind := 2, badva := 8, start := 10, limit := 100, timed := some 5 }) } with cycle := 16 }
    let w : Wait := { kind := 2, badva := 8, start := 10, limit := 100, timed := some 5 }
    let t : Nat := 5
    let waits := s.me.status = .parked (.wait w)
    let timed := w.timed = some t ∧ t ≤ w.limit
    waits ∧ timed ∧ w.start + t < s.cycle := by decide +kernel

theorem witness_WaitResults_18 :
    let s : State := { inS fun z => { z with status := .parked (.wait { kind := 2, badva := 8, start := 10, limit := 100, timed := some 100 }) } with cycle := 111 }
    let w : Wait := { kind := 2, badva := 8, start := 10, limit := 100, timed := some 100 }
    let t : Nat := 100
    let waits := s.me.status = .parked (.wait w)
    let timed := w.timed = some t ∧ t ≤ w.limit
    waits ∧ (timed ∨ s.cycle ≤ w.start + w.limit) ∧ timed ∧ w.start + t < s.cycle := by decide +kernel

theorem witness_WaitResults_19 :
    let s : State := { (inS id).modCore 0 fun z => { z with qmax := 0x10, active := true } with cycle := 0 }
    (s.core s.here).active = true ∧ s.me.status = .ready ∧ (s.core s.here).run = s.cur % 8 ∧ (s.core s.here).turnStart +
      (s.core s.here).qmax.toNat % 2 ^ 24 < s.cycle + 64 := by decide +kernel

theorem witness_WaitResults_20 :
    let s : State := inS fun z => { z with status := .parked .wfi, ien := 4, timecmp := 0 }
    s.me.status = .parked .wfi ∧ s.here < 4096 ∧ s.me.ien &&& s.ipend s.cur ≠ 0 := by decide +kernel

theorem witness_WaitResults_21 :
    let s : State := inS fun z => { z with status := .parked .wfi, ien := 4 }
    s.me.status = .parked .wfi ∧ s.here < 4096 ∧ s.me.ien &&& s.ipend s.cur = 0 := by decide +kernel

theorem witness_SystemResults_1 :
    let s : State := inS fun z => { z with ien := 4, timecmp := 0 }
    refusal .wfi s = none ∧ s.me.log = [] ∧ s.here < 4096 ∧ s.me.ien &&& s.ipend s.cur ≠ 0 := by decide +kernel

theorem witness_SystemResults_2 :
    let s : State := inS fun z => { z with ien := 4 }
    refusal .wfi s = none ∧ s.me.log = [] ∧ s.here < 4096 ∧ s.me.ien &&& s.ipend s.cur = 0 := by decide +kernel

theorem witness_SystemResults_3 :
    let s : State := had [.val 0 [], .val 0 []]
    let a : BitVec 5 := 0#5
    let b : BitVec 5 := 2#5
    let r : BitVec 3 := 0#3
    let k : BitVec 2 := 1#2
    let u : Ans := .val 0 []
    let w : Ans := .val 0 []
    refusal (.ctuinv a b r k) s = none ∧ s.me.log = [u, w] ∧ (∀ t, u ≠ .trap t ∧ w ≠ .trap t) := ⟨by decide +kernel, by decide +kernel, fun _ => ⟨nofun, nofun⟩⟩

theorem witness_SystemResults_4 :
    let s : State := (inS id).modCluster 0 fun z => { z with ctu := [{ asid := 0, size := 0, page := 0, leaf := 7 }] }
    let a : BitVec 5 := 0#5
    let b : BitVec 5 := 2#5
    let r : BitVec 3 := 0#3
    let k : BitVec 2 := 1#2
    refusal (.ctuinv a b r k) s = none ∧ s.me.log = [] ∧ s.storesPending s.cur = false := by decide +kernel

theorem witness_CopyAndGatherStarts_1 :
    let b : BitVec 5 := 0#5
    let g : BitVec 4 := 12#4
    g.toNat ≤ 12 ∧ b = 0#5 := by decide +kernel

theorem witness_CopyAndGatherStarts_2 :
    let b : BitVec 5 := 3#5
    let g : BitVec 4 := 0#4
    (g.toNat ≤ 4 ∨ (6 ≤ g.toNat ∧ g.toNat ≤ 10)) ∧ b ≠ 0#5 := by decide +kernel

theorem witness_CopyAndGatherStarts_3 :
    let b : BitVec 5 := 3#5
    let g : BitVec 4 := 4#4
    (g.toNat ≤ 4 ∨ (6 ≤ g.toNat ∧ g.toNat ≤ 10)) ∧ b ≠ 0#5 := by decide +kernel

theorem witness_CopyAndGatherStarts_4 :
    let b : BitVec 5 := 3#5
    let g : BitVec 4 := 6#4
    (g.toNat ≤ 4 ∨ (6 ≤ g.toNat ∧ g.toNat ≤ 10)) ∧ b ≠ 0#5 := by decide +kernel

theorem witness_CopyAndGatherStarts_5 :
    let b : BitVec 5 := 3#5
    let g : BitVec 4 := 10#4
    (g.toNat ≤ 4 ∨ (6 ≤ g.toNat ∧ g.toNat ≤ 10)) ∧ b ≠ 0#5 := by decide +kernel

theorem witness_CopyAndGatherStarts_6 :
    let s : State := fullEngine (inS id)
    let q := s.core s.here
    let full := 256 ≤ q.ops.length
    full := by decide +kernel

theorem witness_CopyAndGatherStarts_7 :
    let s : State := inS fun z => { z with shadow := copyGeom 8 0x1, frm := 0 }
    let q := s.core s.here
    let full := 256 ≤ q.ops.length
    ¬ full ∧ ctlBad s.me.shadow s.me.frm = true := by decide +kernel

theorem witness_CopyAndGatherStarts_8 :
    let s : State := inS fun z => { z with shadow := copyGeom 8 0x1C0, frm := 5 }
    let q := s.core s.here
    let full := 256 ≤ q.ops.length
    ¬ full ∧ ctlBad s.me.shadow s.me.frm = true := by decide +kernel

theorem witness_CopyAndGatherStarts_9 :
    let s : State := inS fun z => { z with shadow := copyGeom (2 ^ 57) 0, frm := 0 }
    let q := s.core s.here
    let full := 256 ≤ q.ops.length
    ¬ full ∧ ctlBad s.me.shadow s.me.frm = false ∧ geomBad s.me.shadow = true := by decide +kernel

theorem witness_CopyAndGatherStarts_10 :
    let s : State := inS fun z => { z with shadow := copyGeom 8 0x1C0, frm := 4 }
    let q := s.core s.here
    let full := 256 ≤ q.ops.length
    ¬ full ∧ ctlBad s.me.shadow s.me.frm = false ∧ geomBad s.me.shadow = false := by decide +kernel

theorem witness_CopyAndGatherStarts_11 :
    let s : State := fullEngine (stored (unit0 64) gatherBytes (inS fun z => z.setX 2#5 0x0100000000000040))
    let a : BitVec 5 := 2#5
    let q := s.core s.here
    let full := 256 ≤ q.ops.length
    let va := s.me.getX a
    let readable := s.here < 4096 ∧ va.toNat % 64 = 0 ∧ 0x0100000000000000 ≤ va.toNat ∧
      va.toNat + 64 ≤ 0x0100000000020000 ∧ guardsPass q s.me.mode va.toNat 64 .read = true ∧
      s.firstPoison { home := .unit s.here, off := va.toNat - 0x0100000000000000 } 64 = none
    readable ∧ (full ∨ 32 ≤ s.gathersHeld (clusterOf s.here)) := by decide +kernel

theorem witness_CopyAndGatherStarts_12 :
    let s : State := (stored (unit0 64) gatherBytes (inS fun z => z.setX 2#5 0x0100000000000040)).modCore 1 fun z => { z with ops := List.replicate 32 (op0 (.gather gather0 0 none none)) }
    let a : BitVec 5 := 2#5
    let q := s.core s.here
    let full := 256 ≤ q.ops.length
    let va := s.me.getX a
    let readable := s.here < 4096 ∧ va.toNat % 64 = 0 ∧ 0x0100000000000000 ≤ va.toNat ∧
      va.toNat + 64 ≤ 0x0100000000020000 ∧ guardsPass q s.me.mode va.toNat 64 .read = true ∧
      s.firstPoison { home := .unit s.here, off := va.toNat - 0x0100000000000000 } 64 = none
    readable ∧ (full ∨ 32 ≤ s.gathersHeld (clusterOf s.here)) := by decide +kernel

theorem witness_CopyAndGatherStarts_13 :
    let s : State := stored (unit0 64) (words64 [0x0100000000000100, 0x0100000000000200, 0x0101000000000000, 0x800000000, 8, 8]) (inS fun z => z.setX 2#5 0x0100000000000040)
    let a : BitVec 5 := 2#5
    let q := s.core s.here
    let full := 256 ≤ q.ops.length
    let va := s.me.getX a
    let bs := s.bytesAt { home := .unit s.here, off := va.toNat - 0x0100000000000000 } 64
    let readable := s.here < 4096 ∧ va.toNat % 64 = 0 ∧ 0x0100000000000000 ≤ va.toNat ∧
      va.toNat + 64 ≤ 0x0100000000020000 ∧ guardsPass q s.me.mode va.toNat 64 .read = true ∧
      s.firstPoison { home := .unit s.here, off := va.toNat - 0x0100000000000000 } 64 = none
    let takes := readable ∧ ¬ full ∧ s.gathersHeld (clusterOf s.here) < 32
    let r := gatherOf bs
    let fields := 1 ≤ r.nrow ∧ r.nrow ≤ 65536 ∧ 1 ≤ r.rowb ∧ r.rowb ≤ 16384 ∧ r.rowb ≤ r.dstride ∧ r.dstride ≤ 2 ^ 24 ∧
      fieldOf bs 0x2C 2 / 32 % 1024 = 0 ∧ fieldOf bs 0x2E 1 / 4 = 0 ∧ zeroField bs 0x2F 17 = true
    let within (base len lo n : Nat) := base ≤ lo ∧ lo + n ≤ base + len
    let index := r.idx.toNat % 4 = 0 ∧ (inUnitData r.idx.toNat (4 * r.nrow) = true ∨
      within clusterBase 0x400000 r.idx.toNat (4 * r.nrow))
    let marks := r.mark = true → r.dst.toNat % 8 = 0 ∧ 8 ≤ r.rowb
    takes ∧ (¬ fields ∨ ¬ index ∨ ¬ marks) := by decide +kernel

theorem witness_CopyAndGatherStarts_14 :
    let s : State := stored (unit0 64) (words64 [0x0100000000000100, 0x0100000000000200, 0x0101000000000000, 0x400100000001, 8, 0x4001]) (inS fun z => z.setX 2#5 0x0100000000000040)
    let a : BitVec 5 := 2#5
    let q := s.core s.here
    let full := 256 ≤ q.ops.length
    let va := s.me.getX a
    let bs := s.bytesAt { home := .unit s.here, off := va.toNat - 0x0100000000000000 } 64
    let readable := s.here < 4096 ∧ va.toNat % 64 = 0 ∧ 0x0100000000000000 ≤ va.toNat ∧
      va.toNat + 64 ≤ 0x0100000000020000 ∧ guardsPass q s.me.mode va.toNat 64 .read = true ∧
      s.firstPoison { home := .unit s.here, off := va.toNat - 0x0100000000000000 } 64 = none
    let takes := readable ∧ ¬ full ∧ s.gathersHeld (clusterOf s.here) < 32
    let r := gatherOf bs
    let fields := 1 ≤ r.nrow ∧ r.nrow ≤ 65536 ∧ 1 ≤ r.rowb ∧ r.rowb ≤ 16384 ∧ r.rowb ≤ r.dstride ∧ r.dstride ≤ 2 ^ 24 ∧
      fieldOf bs 0x2C 2 / 32 % 1024 = 0 ∧ fieldOf bs 0x2E 1 / 4 = 0 ∧ zeroField bs 0x2F 17 = true
    let within (base len lo n : Nat) := base ≤ lo ∧ lo + n ≤ base + len
    let index := r.idx.toNat % 4 = 0 ∧ (inUnitData r.idx.toNat (4 * r.nrow) = true ∨
      within clusterBase 0x400000 r.idx.toNat (4 * r.nrow))
    let marks := r.mark = true → r.dst.toNat % 8 = 0 ∧ 8 ≤ r.rowb
    takes ∧ (¬ fields ∨ ¬ index ∨ ¬ marks) := by decide +kernel

theorem witness_CopyAndGatherStarts_15 :
    let s : State := stored (unit0 64) (words64 [0x0100000000000100, 0x0100000000000202, 0x0101000000000000, 0x800000001, 8, 8]) (inS fun z => z.setX 2#5 0x0100000000000040)
    let a : BitVec 5 := 2#5
    let q := s.core s.here
    let full := 256 ≤ q.ops.length
    let va := s.me.getX a
    let bs := s.bytesAt { home := .unit s.here, off := va.toNat - 0x0100000000000000 } 64
    let readable := s.here < 4096 ∧ va.toNat % 64 = 0 ∧ 0x0100000000000000 ≤ va.toNat ∧
      va.toNat + 64 ≤ 0x0100000000020000 ∧ guardsPass q s.me.mode va.toNat 64 .read = true ∧
      s.firstPoison { home := .unit s.here, off := va.toNat - 0x0100000000000000 } 64 = none
    let takes := readable ∧ ¬ full ∧ s.gathersHeld (clusterOf s.here) < 32
    let r := gatherOf bs
    let fields := 1 ≤ r.nrow ∧ r.nrow ≤ 65536 ∧ 1 ≤ r.rowb ∧ r.rowb ≤ 16384 ∧ r.rowb ≤ r.dstride ∧ r.dstride ≤ 2 ^ 24 ∧
      fieldOf bs 0x2C 2 / 32 % 1024 = 0 ∧ fieldOf bs 0x2E 1 / 4 = 0 ∧ zeroField bs 0x2F 17 = true
    let within (base len lo n : Nat) := base ≤ lo ∧ lo + n ≤ base + len
    let index := r.idx.toNat % 4 = 0 ∧ (inUnitData r.idx.toNat (4 * r.nrow) = true ∨
      within clusterBase 0x400000 r.idx.toNat (4 * r.nrow))
    let marks := r.mark = true → r.dst.toNat % 8 = 0 ∧ 8 ≤ r.rowb
    takes ∧ (¬ fields ∨ ¬ index ∨ ¬ marks) := by decide +kernel

theorem witness_CopyAndGatherStarts_16 :
    let s : State := stored (unit0 64) (words64 [0x0100000000000100, 0x0100000000000200, 0x0101000000000004, 0x800000001, 8, 0x1000000000008]) (inS fun z => z.setX 2#5 0x0100000000000040)
    let a : BitVec 5 := 2#5
    let q := s.core s.here
    let full := 256 ≤ q.ops.length
    let va := s.me.getX a
    let bs := s.bytesAt { home := .unit s.here, off := va.toNat - 0x0100000000000000 } 64
    let readable := s.here < 4096 ∧ va.toNat % 64 = 0 ∧ 0x0100000000000000 ≤ va.toNat ∧
      va.toNat + 64 ≤ 0x0100000000020000 ∧ guardsPass q s.me.mode va.toNat 64 .read = true ∧
      s.firstPoison { home := .unit s.here, off := va.toNat - 0x0100000000000000 } 64 = none
    let takes := readable ∧ ¬ full ∧ s.gathersHeld (clusterOf s.here) < 32
    let r := gatherOf bs
    let fields := 1 ≤ r.nrow ∧ r.nrow ≤ 65536 ∧ 1 ≤ r.rowb ∧ r.rowb ≤ 16384 ∧ r.rowb ≤ r.dstride ∧ r.dstride ≤ 2 ^ 24 ∧
      fieldOf bs 0x2C 2 / 32 % 1024 = 0 ∧ fieldOf bs 0x2E 1 / 4 = 0 ∧ zeroField bs 0x2F 17 = true
    let within (base len lo n : Nat) := base ≤ lo ∧ lo + n ≤ base + len
    let index := r.idx.toNat % 4 = 0 ∧ (inUnitData r.idx.toNat (4 * r.nrow) = true ∨
      within clusterBase 0x400000 r.idx.toNat (4 * r.nrow))
    let marks := r.mark = true → r.dst.toNat % 8 = 0 ∧ 8 ≤ r.rowb
    takes ∧ (¬ fields ∨ ¬ index ∨ ¬ marks) := by decide +kernel

theorem witness_CopyAndGatherStarts_17 :
    let s : State := stored (unit0 64) (words64 [0x0100000000000100, 0x0100000000000200, 0x01010000003FFFF9, 0x800000001, 8, 8]) (inS fun z => z.setX 2#5 0x0100000000000040)
    let a : BitVec 5 := 2#5
    let q := s.core s.here
    let full := 256 ≤ q.ops.length
    let va := s.me.getX a
    let bs := s.bytesAt { home := .unit s.here, off := va.toNat - 0x0100000000000000 } 64
    let readable := s.here < 4096 ∧ va.toNat % 64 = 0 ∧ 0x0100000000000000 ≤ va.toNat ∧
      va.toNat + 64 ≤ 0x0100000000020000 ∧ guardsPass q s.me.mode va.toNat 64 .read = true ∧
      s.firstPoison { home := .unit s.here, off := va.toNat - 0x0100000000000000 } 64 = none
    let takes := readable ∧ ¬ full ∧ s.gathersHeld (clusterOf s.here) < 32
    let r := gatherOf bs
    let fields := 1 ≤ r.nrow ∧ r.nrow ≤ 65536 ∧ 1 ≤ r.rowb ∧ r.rowb ≤ 16384 ∧ r.rowb ≤ r.dstride ∧ r.dstride ≤ 2 ^ 24 ∧
      fieldOf bs 0x2C 2 / 32 % 1024 = 0 ∧ fieldOf bs 0x2E 1 / 4 = 0 ∧ zeroField bs 0x2F 17 = true
    let within (base len lo n : Nat) := base ≤ lo ∧ lo + n ≤ base + len
    let index := r.idx.toNat % 4 = 0 ∧ (inUnitData r.idx.toNat (4 * r.nrow) = true ∨
      within clusterBase 0x400000 r.idx.toNat (4 * r.nrow))
    let marks := r.mark = true → r.dst.toNat % 8 = 0 ∧ 8 ≤ r.rowb
    let rows := ∀ k < r.nrow, within clusterBase 0x400000 (r.dst.toNat + k * r.dstride) r.rowb
    takes ∧ fields ∧ index ∧ marks ∧ ¬ rows := by decide +kernel

theorem witness_CopyAndGatherStarts_18 :
    let s : State := stored (unit0 64) (words64 [0x0100000000000100, 0x0100000000000200, 0x0100FFFFFFFFFFF8, 0x800000001, 8, 8]) (inS fun z => z.setX 2#5 0x0100000000000040)
    let a : BitVec 5 := 2#5
    let q := s.core s.here
    let full := 256 ≤ q.ops.length
    let va := s.me.getX a
    let bs := s.bytesAt { home := .unit s.here, off := va.toNat - 0x0100000000000000 } 64
    let readable := s.here < 4096 ∧ va.toNat % 64 = 0 ∧ 0x0100000000000000 ≤ va.toNat ∧
      va.toNat + 64 ≤ 0x0100000000020000 ∧ guardsPass q s.me.mode va.toNat 64 .read = true ∧
      s.firstPoison { home := .unit s.here, off := va.toNat - 0x0100000000000000 } 64 = none
    let takes := readable ∧ ¬ full ∧ s.gathersHeld (clusterOf s.here) < 32
    let r := gatherOf bs
    let fields := 1 ≤ r.nrow ∧ r.nrow ≤ 65536 ∧ 1 ≤ r.rowb ∧ r.rowb ≤ 16384 ∧ r.rowb ≤ r.dstride ∧ r.dstride ≤ 2 ^ 24 ∧
      fieldOf bs 0x2C 2 / 32 % 1024 = 0 ∧ fieldOf bs 0x2E 1 / 4 = 0 ∧ zeroField bs 0x2F 17 = true
    let within (base len lo n : Nat) := base ≤ lo ∧ lo + n ≤ base + len
    let index := r.idx.toNat % 4 = 0 ∧ (inUnitData r.idx.toNat (4 * r.nrow) = true ∨
      within clusterBase 0x400000 r.idx.toNat (4 * r.nrow))
    let marks := r.mark = true → r.dst.toNat % 8 = 0 ∧ 8 ≤ r.rowb
    let rows := ∀ k < r.nrow, within clusterBase 0x400000 (r.dst.toNat + k * r.dstride) r.rowb
    takes ∧ fields ∧ index ∧ marks ∧ ¬ rows := by decide +kernel

theorem witness_CopyAndGatherStarts_19 :
    let s : State := stored (unit0 64) (words64 [0x0100000000000100, 0x0100000000000200, 0x01010000003FFFF0, 0x800000002, 8, 8]) (inS fun z => z.setX 2#5 0x0100000000000040)
    let a : BitVec 5 := 2#5
    let q := s.core s.here
    let full := 256 ≤ q.ops.length
    let va := s.me.getX a
    let bs := s.bytesAt { home := .unit s.here, off := va.toNat - 0x0100000000000000 } 64
    let readable := s.here < 4096 ∧ va.toNat % 64 = 0 ∧ 0x0100000000000000 ≤ va.toNat ∧
      va.toNat + 64 ≤ 0x0100000000020000 ∧ guardsPass q s.me.mode va.toNat 64 .read = true ∧
      s.firstPoison { home := .unit s.here, off := va.toNat - 0x0100000000000000 } 64 = none
    let takes := readable ∧ ¬ full ∧ s.gathersHeld (clusterOf s.here) < 32
    let r := gatherOf bs
    let fields := 1 ≤ r.nrow ∧ r.nrow ≤ 65536 ∧ 1 ≤ r.rowb ∧ r.rowb ≤ 16384 ∧ r.rowb ≤ r.dstride ∧ r.dstride ≤ 2 ^ 24 ∧
      fieldOf bs 0x2C 2 / 32 % 1024 = 0 ∧ fieldOf bs 0x2E 1 / 4 = 0 ∧ zeroField bs 0x2F 17 = true
    let within (base len lo n : Nat) := base ≤ lo ∧ lo + n ≤ base + len
    let index := r.idx.toNat % 4 = 0 ∧ (inUnitData r.idx.toNat (4 * r.nrow) = true ∨
      within clusterBase 0x400000 r.idx.toNat (4 * r.nrow))
    let marks := r.mark = true → r.dst.toNat % 8 = 0 ∧ 8 ≤ r.rowb
    let rows := ∀ k < r.nrow, within clusterBase 0x400000 (r.dst.toNat + k * r.dstride) r.rowb
    takes ∧ fields ∧ index ∧ marks ∧ rows := by decide +kernel

theorem witness_CopyAndGatherStarts_20 :
    let s : State := inS fun z => z.setX 2#5 0x0100000000000020
    let a : BitVec 5 := 2#5
    let va := s.me.getX a
    va.toNat % 64 ≠ 0 := by decide +kernel

theorem witness_MoveStarts_1 :
    let s : State := had [.val 0 [], .val 0 [], .val 0 []]
    let b : BitVec 5 := 3#5
    let u : Vec := 0
    let w : Vec := 0
    let q : Vec := 0
    let n := s.me.getX b
    s.me.log = [.val u [], .val w [], .val q []] ∧ n = 0#64 := by decide +kernel

theorem witness_MoveStarts_2 :
    let s : State := (had [.val 0 [], .place 0x0100000000000010 (unit0 16) .plain false, .place 0x0101000000000020 (cluster0 32) .plain false, .val 0x55 [], .val 0 []]).modMe fun z => ((z.setX 2#5 0x0100000000000010).setX 1#5 0x0101000000000020).setX 3#5 8
    let d : BitVec 5 := 1#5
    let a : BitVec 5 := 2#5
    let b : BitVec 5 := 3#5
    let lo : Loc := unit0 16
    let l2 : Loc := cluster0 32
    let view : View := .plain
    let v2 : View := .plain
    let m : Bool := false
    let m2 : Bool := false
    let x : Vec := 0x55
    let u : Vec := 0
    let w : Vec := 0
    let h1 : List Hop := []
    let va : Word := 0x0100000000000010
    let vb : Word := 0x0101000000000020
    let src := s.me.getX a
    let dst := s.me.getX d
    let n := s.me.getX b
    let far := ∀ p i, l2.home ≠ .peer p i
    1 ≤ n.toNat ∧ pieces src.toNat n.toNat = [(src.toNat, n.toNat)] ∧ pieces dst.toNat n.toNat = [(dst.toNat, n.toNat)] ∧
      far ∧ m2 = false ∧ l2.home ≠ .unit s.here ∧ n.toNat ≤ 512 ∧ s.me.log = [.val u [], .place va lo view m, .place vb
      l2 v2 m2, .val x h1, .val w []] := ⟨by decide +kernel, by decide +kernel, by decide +kernel, nofun, by decide +kernel⟩

theorem witness_MoveStarts_3 :
    let s : State := (had [.val 0 [], .place 0x0100000000000010 (unit0 16) .plain false, .place 0x0101000000000020 (cluster0 32) .plain false, .val 0x55 [], .val 0 [], .val 0 [], .val 0 []]).modMe fun z => ((z.setX 2#5 0x0100000000000010).setX 1#5 0x0101000000000020).setX 3#5 32
    let d : BitVec 5 := 1#5
    let a : BitVec 5 := 2#5
    let b : BitVec 5 := 3#5
    let lo : Loc := unit0 16
    let l2 : Loc := cluster0 32
    let view : View := .plain
    let v2 : View := .plain
    let m : Bool := false
    let m2 : Bool := false
    let x : Vec := 0x55
    let y : Vec := 0
    let u : Vec := 0
    let w : Vec := 0
    let q : Vec := 0
    let h1 : List Hop := []
    let h2 : List Hop := []
    let va : Word := 0x0100000000000010
    let vb : Word := 0x0101000000000020
    let src := s.me.getX a
    let dst := s.me.getX d
    let n := s.me.getX b
    let far := ∀ p i, l2.home ≠ .peer p i
    1 ≤ n.toNat ∧ pieces src.toNat n.toNat = [(src.toNat, n.toNat)] ∧ pieces dst.toNat n.toNat = [(dst.toNat, n.toNat)] ∧
      far ∧ m2 = false ∧ l2.home ≠ .unit s.here ∧ s.me.log = [.val u [], .place va lo view m, .place vb l2 v2 m2, .val x
      h1, .val w [], .val y h2, .val q []] := ⟨by decide +kernel, by decide +kernel, by decide +kernel, nofun, by decide +kernel⟩

theorem witness_MoveStarts_4 :
    let s : State := ((had [.place 0x1000 { home := .slice 0, off := 0 } .plain true, .place 0x2000 { home := .slice 1, off := 0 } .plain true]).modCluster 0 fun z => { z with ctu := [{ asid := 0, size := 0, page := 1, leaf := 7 }, { asid := 0, size := 0, page := 2, leaf := 7 }] }).modMe fun z => ((z.setX 2#5 0x1000).setX 3#5 0x2000)
    let d : BitVec 5 := 1#5
    let a : BitVec 5 := 2#5
    let b : BitVec 5 := 3#5
    let k : BitVec 3 := 0#3
    let lo : Loc := { home := .slice 0, off := 0 }
    let ln : Loc := { home := .slice 1, off := 0 }
    let view : View := .plain
    let v2 : View := .plain
    let va : Word := 0x1000
    let vb : Word := 0x2000
    let src := s.me.getX a
    let n := s.me.getX b
    let size := 4096 * 2 ^ k.toNat
    let die := lo.home.dieOf
    let aligned (v : Word) := v.toNat % size = 0 ∧ v.toNat < 2 ^ 55
    let plain := (s.core s.here).toReturn = [] ∧ s.inCompute s.here = false
    let room := (s.core s.here).ops.length < 256 ∧ (s.die die).barchan.length < 16
    plain ∧ refusal (.reloc d a b k) s = none ∧ aligned src ∧ aligned n ∧ s.me.log = [.place va lo view true, .place vb
      ln v2 true] ∧ ¬ (lo.home = ln.home ∧ lo.off < ln.off + size ∧ ln.off < lo.off + size) ∧ room := by decide +kernel

theorem witness_MoveStarts_5 :
    let s : State := fullEngine (((had [.place 0x1000 { home := .slice 0, off := 0 } .plain true, .place 0x2000 { home := .slice 1, off := 0 } .plain true]).modCluster 0 fun z => { z with ctu := [{ asid := 0, size := 0, page := 1, leaf := 7 }, { asid := 0, size := 0, page := 2, leaf := 7 }] }).modMe fun z => ((z.setX 2#5 0x1000).setX 3#5 0x2000))
    let d : BitVec 5 := 1#5
    let a : BitVec 5 := 2#5
    let b : BitVec 5 := 3#5
    let k : BitVec 3 := 0#3
    let lo : Loc := { home := .slice 0, off := 0 }
    let ln : Loc := { home := .slice 1, off := 0 }
    let view : View := .plain
    let v2 : View := .plain
    let va : Word := 0x1000
    let vb : Word := 0x2000
    let src := s.me.getX a
    let n := s.me.getX b
    let size := 4096 * 2 ^ k.toNat
    let die := lo.home.dieOf
    let aligned (v : Word) := v.toNat % size = 0 ∧ v.toNat < 2 ^ 55
    let plain := (s.core s.here).toReturn = [] ∧ s.inCompute s.here = false
    let room := (s.core s.here).ops.length < 256 ∧ (s.die die).barchan.length < 16
    plain ∧ refusal (.reloc d a b k) s = none ∧ aligned src ∧ aligned n ∧ s.me.log = [.place va lo view true, .place vb
      ln v2 true] ∧ ¬ (lo.home = ln.home ∧ lo.off < ln.off + size ∧ ln.off < lo.off + size) ∧ ¬ room := by decide +kernel

theorem witness_MoveStarts_6 :
    let s : State := ((had [.place 0x1000 { home := .slice 0, off := 0 } .plain true]).modCluster 0 fun z => { z with ctu := [{ asid := 0, size := 0, page := 1, leaf := 7 }, { asid := 0, size := 0, page := 2, leaf := 7 }] }).modMe fun z => ((z.setX 2#5 0x1000).setX 3#5 0x2000)
    let d : BitVec 5 := 1#5
    let a : BitVec 5 := 2#5
    let k : BitVec 3 := 0#3
    let lo : Loc := { home := .slice 0, off := 0 }
    let view : View := .plain
    let va : Word := 0x1000
    let src := s.me.getX a
    let size := 4096 * 2 ^ k.toNat
    let die := lo.home.dieOf
    let aligned (v : Word) := v.toNat % size = 0 ∧ v.toNat < 2 ^ 55
    let plain := (s.core s.here).toReturn = [] ∧ s.inCompute s.here = false
    let room := (s.core s.here).ops.length < 256 ∧ (s.die die).barchan.length < 16
    plain ∧ refusal (.relocRet d a k) s = none ∧ aligned src ∧ s.me.log = [.place va lo view true] ∧ room := by decide +kernel

theorem witness_MoveStarts_7 :
    let s : State := fullEngine (((had [.place 0x1000 { home := .slice 0, off := 0 } .plain true]).modCluster 0 fun z => { z with ctu := [{ asid := 0, size := 0, page := 1, leaf := 7 }, { asid := 0, size := 0, page := 2, leaf := 7 }] }).modMe fun z => ((z.setX 2#5 0x1000).setX 3#5 0x2000))
    let d : BitVec 5 := 1#5
    let a : BitVec 5 := 2#5
    let k : BitVec 3 := 0#3
    let lo : Loc := { home := .slice 0, off := 0 }
    let view : View := .plain
    let va : Word := 0x1000
    let src := s.me.getX a
    let size := 4096 * 2 ^ k.toNat
    let die := lo.home.dieOf
    let aligned (v : Word) := v.toNat % size = 0 ∧ v.toNat < 2 ^ 55
    let plain := (s.core s.here).toReturn = [] ∧ s.inCompute s.here = false
    let room := (s.core s.here).ops.length < 256 ∧ (s.die die).barchan.length < 16
    plain ∧ refusal (.relocRet d a k) s = none ∧ aligned src ∧ s.me.log = [.place va lo view true] ∧ ¬ room := by decide +kernel

theorem witness_MoveStarts_8 :
    let s : State := had [.val 0 []]
    let b : BitVec 5 := 3#5
    let u : Vec := 0
    let n := s.me.getX b
    n = 0#64 ∧ s.me.log = [.val u []] := by decide +kernel

theorem witness_MoveStarts_9 :
    let s : State := (had [.val 0 [], .place 0x0100000000000010 (unit0 16) .plain false, .place 0x0100000000000010 (unit0 16) .plain false, .val 0x3008 [], .val 0 []]).modMe fun z => (z.setX 2#5 0x0100000000000010).setX 3#5 1
    let b : BitVec 5 := 3#5
    let lo : Loc := unit0 16
    let l2 : Loc := unit0 16
    let view : View := .plain
    let v2 : View := .plain
    let m : Bool := false
    let m2 : Bool := false
    let x : Vec := 0x3008
    let u : Vec := 0
    let q : Vec := 0
    let h1 : List Hop := []
    let va : Word := 0x0100000000000010
    let vb : Word := 0x0100000000000010
    let n := s.me.getX b
    n = 1#64 ∧ s.me.log = [.val u [], .place va lo view m, .place vb l2 v2 m2, .val x h1, .val q []] := by decide +kernel

theorem witness_MoveStarts_10 :
    let s : State := (had [.val 0 [], .place 0x0100000000000010 (unit0 16) .plain false, .place 0x0100000000000010 (unit0 16) .plain false, .val 0x3008 [], .place 0x3008 { home := .slice 1, off := 8 } .plain true, .val 0x10000000000001000 [], .val 0 [], .val 0x3008 []]).modMe fun z => (z.setX 2#5 0x0100000000000010).setX 3#5 1
    let b : BitVec 5 := 3#5
    let lo : Loc := unit0 16
    let ln : Loc := { home := .slice 1, off := 8 }
    let l2 : Loc := unit0 16
    let view : View := .plain
    let v2 : View := .plain
    let m : Bool := false
    let m2 : Bool := false
    let x : Vec := 0x3008
    let y : Vec := 0x10000000000001000
    let u : Vec := 0
    let q : Vec := 0
    let h1 : List Hop := []
    let h2 : List Hop := []
    let va : Word := 0x0100000000000010
    let vb : Word := 0x0100000000000010
    let n := s.me.getX b
    n = 1#64 ∧ y.getLsbD 64 = true ∧ y.setWidth 64 ≠ 0#64 ∧ s.me.log = [.val u [], .place va lo view m, .place vb l2 v2
      m2, .val x h1, .place (x.setWidth 64) ln .plain true, .val y [], .val q [], .val x h2] := by decide +kernel

theorem witness_MatrixIssue_1 :
    let a : BitVec 5 := 0#5
    let c3 : BitVec 3 := 0#3
    c3.toNat ≤ 5 ∧ a = 0#5 := by decide +kernel

theorem witness_MatrixIssue_2 :
    let a : BitVec 5 := 0#5
    let c3 : BitVec 3 := 5#3
    c3.toNat ≤ 5 ∧ a = 0#5 := by decide +kernel

theorem witness_MatrixIssue_3 :
    let s : State := inS fun z => z.setX 2#5 1
    let a : BitVec 5 := 2#5
    let c3 : BitVec 3 := 0#3
    let x := s.me.getX a
    a ≠ 0#5 ∧ c3 = 0#3 ∧ 1 ≤ x.toInt ∧ x.toInt ≤ 256 := by decide +kernel

theorem witness_MatrixIssue_4 :
    let s : State := inS fun z => z.setX 2#5 256
    let a : BitVec 5 := 2#5
    let c3 : BitVec 3 := 0#3
    let x := s.me.getX a
    a ≠ 0#5 ∧ c3 = 0#3 ∧ 1 ≤ x.toInt ∧ x.toInt ≤ 256 := by decide +kernel

theorem witness_MatrixIssue_5 :
    let a : BitVec 5 := 2#5
    let c3 : BitVec 3 := 5#3
    a ≠ 0#5 ∧ c3 = 5#3 := by decide +kernel

theorem witness_MatrixIssue_6 :
    let s : State := ((inS fun z => (z.setX 2#5 0x0100000000000000).setX 3#5 0x0100000000002000).modCore 0 fun z => { z with maccmask := 0x8000 })
    let n : BitVec 1 := 1#1
    let k : BitVec 4 := 15#4
    let a : BitVec 5 := 2#5
    let b : BitVec 5 := 3#5
    let t : BitVec 3 := 1#3
    let r : BitVec 3 := 7#3
    let c : BitVec 2 := 0#2
    let x := s.me.getX a
    let y := s.me.getX b
    s.mmaTrap (.mma n k a b t r c) k.toNat x y t c = none ∧ refusal (.mma n k a b t r c) s = none ∧ s.me.log = [] := by decide +kernel

theorem witness_MatrixIssue_7 :
    let s : State := ((inS fun z => (z.setX 2#5 0x0100000000000000).setX 3#5 0x0100000000002000).modCore 0 fun z => { z with maccmask := 0x8000 })
    let n : BitVec 1 := 1#1
    let e : BitVec 1 := 1#1
    let k : BitVec 4 := 15#4
    let a : BitVec 5 := 2#5
    let b : BitVec 5 := 3#5
    let t : BitVec 3 := 1#3
    let r : BitVec 3 := 7#3
    let c : BitVec 2 := 1#2
    let x := s.me.getX a
    let y := s.me.getX b
    s.accTrap k.toNat (t == 3#3) = none ∧ x.toNat % matrixWidth t = 0 ∧ s.me.mcfg.sb.toNat % matrixWidth t = 0 ∧
      s.rowsTrap { n := 32 * matrixWidth t, cluster := true, q4 := t == 0#3, write := false } x s.me.mcfg.sb 32 = none ∧
      (c = 1#2 → s.rowTrap { n := 32, cluster := false, q4 := false, write := false } y = none) ∧ refusal (.mconst n k a
      b t r c e) s = none ∧ s.me.log = [] := by decide +kernel

theorem witness_MatrixIssue_8 :
    let s : State := ((inS fun z => (z.setX 2#5 0x0100000000000000).setX 3#5 0x0100000000002000).modCore 0 fun z => { z with maccmask := 0x8000 })
    let n : BitVec 1 := 1#1
    let k : BitVec 4 := 15#4
    (s.core s.here).maccmask.getLsbD k.toNat = true ∧ refusal (.maccZero n k) s = none ∧ s.me.log = [] := by decide +kernel

theorem witness_MatrixIssue_9 :
    let s : State := ((inS fun z => (z.setX 2#5 0x0100000000000000).setX 3#5 0x0100000000002000).modCore 0 fun z => { z with maccmask := 0x8000, cmds := List.replicate 4 cmd0 })
    let n : BitVec 1 := 1#1
    let k : BitVec 4 := 15#4
    let a : BitVec 5 := 2#5
    let b : BitVec 5 := 3#5
    let t : BitVec 3 := 1#3
    let r : BitVec 3 := 7#3
    let c : BitVec 2 := 0#2
    let x := s.me.getX a
    let y := s.me.getX b
    s.mmaTrap (.mma n k a b t r c) k.toNat x y t c = none ∧ refusal (.mma n k a b t r c) s = none ∧ s.me.log = [] := by decide +kernel

theorem witness_MatrixIssue_10 :
    let s : State := ((inS fun z => (z.setX 2#5 0x0100000000000000).setX 3#5 0x0100000000002000).modCore 0 fun z => { z with maccmask := 0x8000, cmds := List.replicate 4 cmd0 })
    let n : BitVec 1 := 1#1
    let e : BitVec 1 := 1#1
    let k : BitVec 4 := 15#4
    let a : BitVec 5 := 2#5
    let b : BitVec 5 := 3#5
    let t : BitVec 3 := 1#3
    let r : BitVec 3 := 7#3
    let c : BitVec 2 := 1#2
    let x := s.me.getX a
    let y := s.me.getX b
    s.accTrap k.toNat (t == 3#3) = none ∧ x.toNat % matrixWidth t = 0 ∧ s.me.mcfg.sb.toNat % matrixWidth t = 0 ∧
      s.rowsTrap { n := 32 * matrixWidth t, cluster := true, q4 := t == 0#3, write := false } x s.me.mcfg.sb 32 = none ∧
      (c = 1#2 → s.rowTrap { n := 32, cluster := false, q4 := false, write := false } y = none) ∧ refusal (.mconst n k a
      b t r c e) s = none ∧ s.me.log = [] := by decide +kernel

theorem witness_MatrixIssue_11 :
    let s : State := ((inS fun z => (z.setX 2#5 0x0100000000000000).setX 3#5 0x0100000000002000).modCore 0 fun z => { z with maccmask := 0x8000, cmds := List.replicate 4 cmd0 })
    let n : BitVec 1 := 1#1
    let k : BitVec 4 := 15#4
    (s.core s.here).maccmask.getLsbD k.toNat = true ∧ refusal (.maccZero n k) s = none ∧ s.me.log = [] := by decide +kernel

theorem witness_MatrixIssue_12 :
    let s : State := ((inS fun z => (z.setX 2#5 0x0100000000000000).setX 3#5 0x0100000000002000).modCore 0 fun z => { z with maccmask := 0x7FFF })
    let n : BitVec 1 := 1#1
    let k : BitVec 4 := 15#4
    (s.core s.here).maccmask.getLsbD k.toNat = false ∧ refusal (.maccZero n k) s = none := by decide +kernel

theorem witness_MatrixIssue_13 :
    let s : State := ((inS fun z => (z.setX 2#5 0x0101000000000000).setX 3#5 0x0100000000002000).modCore 0 fun z => { z with maccmask := 0x8000 })
    let n : BitVec 1 := 1#1
    let k : BitVec 4 := 15#4
    let a : BitVec 5 := 2#5
    let r : BitVec 3 := 0#3
    let f : BitVec 3 := 2#3
    let x := s.me.getX a
    s.maccTrap k.toNat f x false = none ∧ s.maccTrap k.toNat f x true = none ∧ refusal (.maccLoad n k a f) s = none ∧
      refusal (.maccStore n k a r f) s = none ∧ s.me.log = [] := by decide +kernel

theorem witness_MatrixIssue_14 :
    let s : State := ((inS fun z => (z.setX 2#5 0x0101000000000000).setX 3#5 0x0100000000002000).modCore 0 fun z => { z with maccmask := 0xC003 })
    let n : BitVec 1 := 1#1
    let k : BitVec 4 := 14#4
    let j : BitVec 4 := 0#4
    let r : BitVec 3 := 7#3
    let f : BitVec 3 := 7#3
    s.accTrap k.toNat (f == 7#3) = none ∧ s.accTrap j.toNat (f == 7#3) = none ∧ refusal (.maccAdd n k j r f) s = none ∧
      s.me.log = [] := by decide +kernel

theorem witness_RoutineStarts_1 :
    let s : State := stored (unit0 64) (words64 [0x07011201, 0] ++ bytesOfNat 4 (wordOf (.vadd 2#5 0#5 1#5 0#3 7#3 0#3)).toNat) (inS fun z => z.setX 2#5 0x0100000000000040)
    let a : BitVec 5 := 2#5
    let q := s.core s.here
    let va := s.me.getX a
    let place : Loc := { home := .unit s.here, off := va.toNat - 0x0100000000000000 }
    let readable (n : Nat) := s.here < 4096 ∧ 0x0100000000000000 ≤ va.toNat ∧ va.toNat + n ≤ 0x0100000000020000 ∧
      guardsPass q s.me.mode va.toNat n .read = true ∧ s.firstPoison place n = none
    let hd := s.bytesAt place 16
    let len := 16 + 4 * fieldOf hd 0 1
    let ws := wordsOfBytes ((s.bytesAt place len).drop 16)
    va.toNat % 16 = 0 ∧ readable 16 ∧ readable len ∧ headerReason hd = none ∧ wordsReason (BitVec.ofNat 3 (fieldOf hd 3
      1)) 0 ws = none := by decide +kernel

theorem witness_RoutineStarts_2 :
    let s := stored (unit0 64) hotBytes (inS fun z =>
      { (z.setX 2#5 0x0100000000000040) with handles := z.handles.set 15 (some routine0) })
    let outer := stored (unit0 0x74) [1] s
    let run (s : State) (op : Nat) : Prop := s.me.handles.toList.getD 15 none = some routine0 ∧ s.me.frm = 0#64 ∧
      hotReject op (s.bytesAt (unit0 64) 64) routine0 = none ∧ s.firstPoison (unit0 64) 64 = none ∧
      (let r := hotRecOf (s.bytesAt (unit0 64) 64)
       s.streamsTrap false 8 (r.inputs op routine0) (r.outputs op routine0) = none ∧
       s.streamsTrap true 8 (r.inputs op routine0) (r.outputs op routine0) = none) ∧
      (s.core 0).ops.length < 256 ∧ (s.core 0).cmds.length < 4
    run s 0x80 ∧ run s 0x81 ∧ run s 0x82 ∧ run outer 0x83 ∧ (inS id).me.handles.toList.getD 15 none = none := by decide +kernel

theorem witness_LaunchAndCollectiveResults_1 :
    let s : State := (inS id).modCore 0 fun z => { z with groups := z.groups.set 63 0x0000001000000001, rounds := [{ round0 with group := 63 }] }
    let g : BitVec 6 := 63#6
    let q := s.core s.here
    let e := q.groupEntry g.toNat
    let plain := q.toReturn = [] ∧ s.inCompute s.here = false
    plain ∧ (q.openRound g.toNat).isSome = true ∧ colputIll e (s.me.handles.toList.getD (groupHandle e) none) s.me.frm =
      false := by decide +kernel

theorem witness_LaunchAndCollectiveResults_2 :
    let s : State := (inS id).modCore 0 fun z => { z with groups := z.groups.set 63 0x0000001000000001, rounds := [] }
    let g : BitVec 6 := 63#6
    let q := s.core s.here
    let e := q.groupEntry g.toNat
    let plain := q.toReturn = [] ∧ s.inCompute s.here = false
    plain ∧ q.openRound g.toNat = none ∧ groupValid e = true ∧ groupOper e ≠ 6 ∧ colputIll e none s.me.frm = false ∧
      (s.die (dieOf s.here)).mgmt.getLsbD 2 = true ∧ q.rounds = [] := by decide +kernel

theorem witness_LaunchAndCollectiveResults_3 :
    let s : State := (inS id).modCore 0 fun z => { z with groups := z.groups.set 63 0x0000001000000001, rounds := [{ round0 with group := 63, result := some ([5], 1) }] }
    let g : BitVec 6 := 63#6
    let lanes : List Word := [5]
    let fl : BitVec 5 := 1
    let r : Round := { round0 with group := 63, result := some ([5], 1) }
    let q := s.core s.here
    let plain := q.toReturn = [] ∧ s.inCompute s.here = false
    plain ∧ s.me.log = [] ∧ q.openRound g.toNat = some r ∧ r.result = some (lanes, fl) := by decide +kernel

theorem witness_LaunchAndCollectiveResults_4 :
    let s : State := stored (unit0 64) launchBytes (withJob job0 (inS fun z => z.setX 2#5 0x0100000000000040))
    let a : BitVec 5 := 2#5
    let jn : Nat := 1
    let j : Job := job0
    let q := s.core s.here
    let plain := q.toReturn = [] ∧ s.inCompute s.here = false
    let va := s.me.getX a
    let place : Loc := { home := .unit s.here, off := va.toNat - 0x0100000000000000 }
    let readable (n : Nat) := s.here < 4096 ∧ va.toNat % 64 = 0 ∧ 0x0100000000000000 ≤ va.toNat ∧
      va.toNat + n ≤ 0x0100000000020000 ∧ guardsPass q s.me.mode va.toNat n .read = true ∧ s.firstPoison place n = none
    let bs := s.bytesAt place 64
    plain ∧ readable 64 ∧ q.job = some jn ∧ s.jobOf s.here = some j ∧ badField (launchFields j.cores.length bs) = none ∧
      fieldOf bs 0x2A 2 = 0 ∧ j.launches.length < 4096 := by decide +kernel

theorem witness_LaunchAndCollectiveResults_5 :
    let s : State := withJob job0 (inS fun z => z.setX 2#5 1)
    let j : Job := job0
    let q := s.core s.here
    let plain := q.toReturn = [] ∧ s.inCompute s.here = false
    plain ∧ s.jobOf s.here = some j := by decide +kernel

theorem witness_LaunchAndCollectiveResults_6 :
    let s : State := withJob job0 (inS fun z => z.setX 2#5 1)
    let j : Job := job0
    let q := s.core s.here
    let plain := q.toReturn = [] ∧ s.inCompute s.here = false
    plain ∧ s.jobOf s.here = some j := by decide +kernel

theorem witness_LaunchAndCollectiveResults_7 :
    let s : State := withJob job0 (inS fun z => z.setX 2#5 1)
    let j : Job := job0
    let q := s.core s.here
    let plain := q.toReturn = [] ∧ s.inCompute s.here = false
    plain ∧ s.jobOf s.here = some j := by decide +kernel

theorem witness_LaunchAndCollectiveResults_8 :
    let s : State := withJob job0 (inS fun z => z.setX 2#5 1)
    let j : Job := job0
    let q := s.core s.here
    let plain := q.toReturn = [] ∧ s.inCompute s.here = false
    plain ∧ s.jobOf s.here = some j := by decide +kernel

theorem witness_LaunchAndCollectiveResults_9 :
    let s : State := (withJob job0 (inS id)).modCore 0 fun z => { z with toReturn := [(0, 0x87, [5])] }
    let u : Word := 5
    let q := s.core s.here
    s.here < 4096 ∧ q.toReturn = [(s.cur, 0x87, [u])] := by decide +kernel

theorem witness_LaunchAndCollectiveResults_10 :
    let s : State := (withJob job0 (inS id)).modCore 0 fun z => { z with toReturn := [(0, 0x88, [5])] }
    let w : Word := 5
    let q := s.core s.here
    q.toReturn = [(s.cur, 0x88, [w])] ∧ s.covered s.cur = false := by decide +kernel

theorem witness_LaunchAndCollectiveResults_11 :
    let s : State := had [.val 5 []]
    let k : Nat := 5
    let q := s.core s.here
    let plain := q.toReturn = [] ∧ s.inCompute s.here = false
    plain ∧ s.me.log = [.val (BitVec.ofNat 512 k) []] ∧ s.covered s.cur = false := by decide +kernel

theorem witness_LaunchAndCollectiveResults_12 :
    let s : State := withJob job0 (inS fun z => z.setX 2#5 1)
    let a : BitVec 5 := 2#5
    let c : BitVec 2 := 0#2
    let jn : Nat := 1
    let j : Job := job0
    let q := s.core s.here
    let plain := q.toReturn = [] ∧ s.inCompute s.here = false
    let va := s.me.getX a
    plain ∧ s.me.log = [] ∧ q.job = some jn ∧ s.jobOf s.here = some j ∧ (s.cancelLaunches jn j (j.covered c
      va.toNat)).2.1 = [] ∧ (s.cancelLaunches jn j (j.covered c va.toNat)).2.2.covered s.cur = false := by decide +kernel

theorem witness_LaunchAndCollectiveResults_13 :
    let s : State := (withJob { job0 with launches := [{ launch0 with cancelled := true }] } (had [.val 5 []])).modMe fun z => { z with unit := some { uid := 1, job := 1, launch := 1, index := 0 } }
    let k : Nat := 5
    let q := s.core s.here
    let plain := q.toReturn = [] ∧ s.inCompute s.here = false
    plain ∧ s.me.log = [.val (BitVec.ofNat 512 k) []] ∧ s.covered s.cur = true := by decide +kernel

theorem witness_LaunchAndCollectiveResults_14 :
    let s : State := inS fun z => { z with synced := some 3 }
    let k : Nat := 3
    s.me.synced = some k := by decide +kernel

theorem witness_LaunchAndCollectiveResults_15 :
    let s : State := withJob { job0 with det := true } (had [.val 0 []] |>.modMe fun z => { z with arrived := some 0x40 })
    let u : Word := 0x40
    s.me.synced = none ∧ s.me.arrived = some u ∧ s.me.log = [.val 0 []] ∧ (s.jobOf s.here).any Job.det = true := by decide +kernel

theorem witness_JobStarts_1 :
    let s : State := stored (unit0 64) jobBytes ((had (loaded0 coreTable ++ loaded0 (List.replicate 8 0))).modMe fun z => z.setX 2#5 0x0100000000000040)
    let d : BitVec 5 := 1#5
    let a : BitVec 5 := 2#5
    let bs : List Byte := jobBytes
    let table : List Word := coreTable
    let guards : List Word := List.replicate 8 0
    let es : List CoreEntry := coreEntries 0 coreTable
    let l : Loc := unit0 0
    let c : Nat := 4095
    let va := s.me.getX a
    let place : Loc := { home := .unit s.here, off := va.toNat - 0x0100000000000000 }
    let loaded (ws : List Word) : List Ans := ws.flatMap fun w => [.place 0 l .plain false, .val (w.setWidth 512) []]
    (s.core s.here).toReturn = [] ∧ s.inCompute s.here = false ∧ refusal (.launchJob d a) s = none ∧ s.here < 4096 ∧
      va.toNat % 64 = 0 ∧ 0x0100000000000000 ≤ va.toNat ∧ va.toNat + 128 ≤ 0x0100000000020000 ∧ guardsPass (s.core
      s.here) s.me.mode va.toNat 128 .read = true ∧ s.firstPoison place 128 = none ∧ bs = s.bytesAt place 128 ∧ badField
      (launchFields (fieldOf bs 0x58 4) bs ++ jobFields bs) = none ∧ fieldOf bs 0x2A 2 = 0 ∧ table.length = 4 * fieldOf
      bs 0x58 4 ∧ guards.length = 8 ∧ es = coreEntries (s.hub.module % 1024) table ∧ es.all CoreEntry.good = true ∧
      s.me.log = loaded table ++ loaded guards ∧ (∀ e ∈ es, (s.core e.core).job = none) ∧ c ∈ es.map CoreEntry.core := by decide +kernel

theorem witness_JobStarts_2 :
    let s : State := withJob job0 <| stored (unit0 64) jobBytes ((had (loaded0 coreTable ++ loaded0 (List.replicate 8 0))).modMe fun z => z.setX 2#5 0x0100000000000040)
    let es : List CoreEntry := coreEntries 0 (coreTable ++ [0, 0, 0, 1])
    (∃ e ∈ es, (s.core e.core).job.isSome = true) := by decide +kernel

theorem witness_ComplexResults_1 :
    let s : State := withSlot slot0 (inS id)
    let c : BitVec 4 := 3#4
    let sel : BitVec 5 := 7#5
    let k : BitVec 4 := 0#4
    let fresh := s.me.log = [] ∧ s.me.ciprog.getLsbD 63 = false
    let free (m : Nat) := (s.slotAt m).state ≠ .busy
    fresh ∧ cxinfoOk c 0#5 sel k = true ∧ sel.toNat ≤ 7 ∧ free c.toNat := by decide +kernel

theorem witness_ComplexResults_2 :
    let s : State := withSlot slot0 (inS id)
    let c : BitVec 4 := 3#4
    let sel : BitVec 5 := 0#5
    let k : BitVec 4 := 0#4
    let fresh := s.me.log = [] ∧ s.me.ciprog.getLsbD 63 = false
    let free (m : Nat) := (s.slotAt m).state ≠ .busy
    fresh ∧ cxinfoOk c 0#5 sel k = true ∧ sel.toNat ≤ 7 ∧ free c.toNat := by decide +kernel

theorem witness_ComplexResults_3 :
    let s : State := (inS id).modCore 0 fun z => { z with landing := z.landing.set 15 { valid := true, err := true, reg := reg0 0 } }
    let fresh := s.me.log = [] ∧ s.me.ciprog.getLsbD 63 = false
    fresh := by decide +kernel

theorem witness_ComplexResults_4 :
    let s : State := cochains 0 0 []
    let c : BitVec 4 := 0#4
    let sel : BitVec 5 := 16#5
    let fresh := s.me.log = [] ∧ s.me.ciprog.getLsbD 63 = false
    let r := s.me.getC c
    let free (m : Nat) := (s.slotAt m).state ≠ .busy
    fresh ∧ 16 ≤ sel.toNat ∧ sel.toNat ≤ 19 ∧ r.bound = true ∧ free r.slot.toNat ∧ (s.slotAt r.slot.toNat).gen = r.gen := by decide +kernel

theorem witness_ComplexResults_5 :
    let s : State := cochains 0 0 []
    let c : BitVec 4 := 0#4
    let sel : BitVec 5 := 19#5
    let fresh := s.me.log = [] ∧ s.me.ciprog.getLsbD 63 = false
    let r := s.me.getC c
    let free (m : Nat) := (s.slotAt m).state ≠ .busy
    fresh ∧ 16 ≤ sel.toNat ∧ sel.toNat ≤ 19 ∧ r.bound = true ∧ free r.slot.toNat ∧ (s.slotAt r.slot.toNat).gen = r.gen := by decide +kernel

theorem witness_ComplexResults_6 :
    let s : State := cochains 0 0 [] |>.modMe fun z => z.setX 2#5 0x8000
    let c : BitVec 4 := 0#4
    let fresh := s.me.log = [] ∧ s.me.ciprog.getLsbD 63 = false
    let r := s.me.getC c
    let free (m : Nat) := (s.slotAt m).state ≠ .busy
    fresh ∧ r.bound = true ∧ r.fmt = 0#2 ∧ free r.slot.toNat ∧ (s.slotAt r.slot.toNat).gen = r.gen := by decide +kernel

theorem witness_ComplexResults_7 :
    let s : State := withSlot slot0 (inS fun z => (z.setX 2#5 0x0101000000000000).setX 3#5 0x0101000000000100)
    let x : BitVec 5 := 2#5
    let g : BitVec 5 := 3#5
    let f : BitVec 2 := 0#2
    let e : BitVec 2 := 2#2
    let n : BitVec 2 := 3#2
    let u : BitVec 1 := 1#1
    let fresh := s.me.log = [] ∧ s.me.ciprog.getLsbD 63 = false
    let base := s.me.getX x
    let ghosts := if g = 0#5 then 0#64 else s.me.getX g
    let sl := s.slotAt n.toNat
    let deg := if u = 1#1 then cxDim sl.desc - e.toNat else e.toNat
    fresh ∧ f ≠ 3#2 ∧ sl.state = .loaded ∧ e.toNat ≤ cxDim sl.desc ∧ (g = 0#5 → cxNghost sl.desc deg = 0) ∧ base.toNat %
      8 = 0 ∧ ghosts.toNat % 8 = 0 ∧ base.toNat < 2 ^ 57 ∧ ghosts.toNat < 2 ^ 57 := by decide +kernel

theorem witness_ComplexResults_8 :
    let s : State := withSlot slot0 (inS fun z => (z.setX 2#5 0x0101000000000000).setX 3#5 0x0101000000000100)
    let x : BitVec 5 := 2#5
    let g : BitVec 5 := 0#5
    let f : BitVec 2 := 2#2
    let e : BitVec 2 := 2#2
    let n : BitVec 2 := 3#2
    let u : BitVec 1 := 0#1
    let fresh := s.me.log = [] ∧ s.me.ciprog.getLsbD 63 = false
    let base := s.me.getX x
    let ghosts := if g = 0#5 then 0#64 else s.me.getX g
    let sl := s.slotAt n.toNat
    let deg := if u = 1#1 then cxDim sl.desc - e.toNat else e.toNat
    fresh ∧ f ≠ 3#2 ∧ sl.state = .loaded ∧ e.toNat ≤ cxDim sl.desc ∧ (g = 0#5 → cxNghost sl.desc deg = 0) ∧ base.toNat %
      8 = 0 ∧ ghosts.toNat % 8 = 0 ∧ base.toNat < 2 ^ 57 ∧ ghosts.toNat < 2 ^ 57 := by decide +kernel

theorem witness_ComplexResults_9 :
    let s : State := withSlot { slot0 with state := .busy, holder := some 0 } (had [.progress { start := progWord 0x3E 1 2 0, now := 0x8000000000000000, began := true, flags := 0 }] |>.modMe fun z => z.setX 2#5 0x0100000000000040)
    let n : BitVec 2 := 3#2
    let p : Prog := { start := progWord 0x3E 1 2 0, now := 0x8000000000000000, began := true, flags := 0 }
    let sl := s.slotAt n.toNat
    s.me.log = [.progress p] ∧ p.began = true ∧ progPass p.start = 1 ∧ progDeg p.start = cxDim sl.desc ∧ progNext p.start
      = cxNseam sl.desc (cxDim sl.desc) := by decide +kernel

theorem witness_ComplexResults_10 :
    let s : State := withSlot { slot0 with state := .busy, holder := some 0 } (had [.progress { start := progWord 0x3F 1 0 0, now := 0x8000000000000000, began := true, flags := 0 }] |>.modMe fun z => z.setX 2#5 0x0100000000000040)
    let x : BitVec 5 := 2#5
    let n : BitVec 2 := 3#2
    let p : Prog := { start := progWord 0x3F 1 0 0, now := 0x8000000000000000, began := true, flags := 0 }
    let base := s.me.getX x
    let sl := s.slotAt n.toNat
    let unit (o : Nat) : Loc := { home := .unit s.here, off := o }
    s.me.log = [.progress p] ∧ p.began = true ∧ progPass p.start = 1 ∧ progNext p.start = 0 ∧ s.me.mode ≠ .u ∧ (∀ q,
      s.movingAt q = none ∧ (s.tagAt q).slip = none) ∧ s.here < 4096 ∧ base.toNat % 64 = 0 ∧ 0x0100000000000000 ≤
      base.toNat ∧ base.toNat + 128 ≤ 0x0100000000020000 ∧ s.firstPoison (unit (base.toNat - 0x0100000000000000)) 128 =
      none ∧ s.natAt (unit (base.toNat - 0x0100000000000000)) 4 = 0 ∧ sl.addr.toNat % 64 = 0 ∧ 0x0100000000000000 ≤
      sl.addr.toNat ∧ sl.addr.toNat + 256 ≤ 0x0100000000020000 := ⟨by decide +kernel, by decide +kernel, by decide +kernel, by decide +kernel, by decide +kernel, fun _ => ⟨rfl, rfl⟩, by decide +kernel⟩

theorem witness_CochainResults_1 :
    let s : State := cochains 0 0 [.progress { start := progWord 0 1 1 3, now := 0x8000000000000000, began := true, flags := 0 }]
    let c : BitVec 4 := 0#4
    let a : BitVec 4 := 1#4
    let b : BitVec 4 := 2#4
    let p : BitVec 4 := 15#4
    let q : BitVec 4 := 7#4
    let r : BitVec 3 := 7#3
    let m : BitVec 2 := 2#2
    let sh : BitVec 7 := 0x7F#7
    let g : Prog := { start := progWord 0 1 1 3, now := 0x8000000000000000, began := true, flags := 0 }
    let steady (k : BitVec 4) := (s.slotAt (s.me.getC k).slot.toNat).state ≠ .busy ∧
      (s.slotAt (s.me.getC k).slot.toNat).gen = (s.me.getC k).gen
    let rc := s.me.getC c
    steady c ∧ steady a ∧ steady b ∧ refusal (.cq c a r) s = none ∧ refusal (.cdq c a r) s = none ∧ refusal (.hstar c a
      r) s = none ∧ refusal (.interp c a r m) s = none ∧ refusal (.dext c a r) s = none ∧ refusal (.dcob c a r) s = none
      ∧ refusal (.clin c a b r p q) s = none ∧ refusal (.wedge c a b r sh) s = none ∧ s.me.log = [.progress g] ∧ progPass
      g.start = 1 ∧ progNext g.start = rc.count.toNat := by decide +kernel

theorem witness_CochainResults_2 :
    let s : State := cochains 1 2 [.progress { start := progWord 0 1 1 3, now := 0x8000000000000000, began := true, flags := 0 }]
    let c : BitVec 4 := 0#4
    let a : BitVec 4 := 1#4
    let b : BitVec 4 := 2#4
    let p : BitVec 4 := 15#4
    let q : BitVec 4 := 7#4
    let r : BitVec 3 := 7#3
    let m : BitVec 2 := 2#2
    let sh : BitVec 7 := 0x7F#7
    let g : Prog := { start := progWord 0 1 1 3, now := 0x8000000000000000, began := true, flags := 0 }
    let steady (k : BitVec 4) := (s.slotAt (s.me.getC k).slot.toNat).state ≠ .busy ∧
      (s.slotAt (s.me.getC k).slot.toNat).gen = (s.me.getC k).gen
    let rc := s.me.getC c
    steady c ∧ steady a ∧ steady b ∧ refusal (.cq c a r) s = none ∧ refusal (.cdq c a r) s = none ∧ refusal (.hstar c a
      r) s = none ∧ refusal (.interp c a r m) s = none ∧ refusal (.dext c a r) s = none ∧ refusal (.dcob c a r) s = none
      ∧ refusal (.clin c a b r p q) s = none ∧ refusal (.wedge c a b r sh) s = none ∧ s.me.log = [.progress g] ∧ progPass
      g.start = 1 ∧ progNext g.start = rc.count.toNat := by decide +kernel

theorem witness_CochainResults_3 :
    let s : State := cochains 2 1 [.progress { start := progWord 0 1 1 3, now := 0x8000000000000000, began := true, flags := 0 }]
    let c : BitVec 4 := 0#4
    let a : BitVec 4 := 1#4
    let b : BitVec 4 := 2#4
    let p : BitVec 4 := 15#4
    let q : BitVec 4 := 7#4
    let r : BitVec 3 := 7#3
    let m : BitVec 2 := 2#2
    let sh : BitVec 7 := 0x7F#7
    let g : Prog := { start := progWord 0 1 1 3, now := 0x8000000000000000, began := true, flags := 0 }
    let steady (k : BitVec 4) := (s.slotAt (s.me.getC k).slot.toNat).state ≠ .busy ∧
      (s.slotAt (s.me.getC k).slot.toNat).gen = (s.me.getC k).gen
    let rc := s.me.getC c
    steady c ∧ steady a ∧ steady b ∧ refusal (.cq c a r) s = none ∧ refusal (.cdq c a r) s = none ∧ refusal (.hstar c a
      r) s = none ∧ refusal (.interp c a r m) s = none ∧ refusal (.dext c a r) s = none ∧ refusal (.dcob c a r) s = none
      ∧ refusal (.clin c a b r p q) s = none ∧ refusal (.wedge c a b r sh) s = none ∧ s.me.log = [.progress g] ∧ progPass
      g.start = 1 ∧ progNext g.start = rc.count.toNat := by decide +kernel

theorem witness_CochainResults_4 :
    let s : State := cochains 0 0 [.progress { start := progWord 0 1 1 1, now := 0x8000000000000000, began := true, flags := 0 }]
    let c : BitVec 4 := 0#4
    let l : BitVec 4 := 15#4
    let g : Prog := { start := progWord 0 1 1 1, now := 0x8000000000000000, began := true, flags := 0 }
    let steady (k : BitVec 4) := (s.slotAt (s.me.getC k).slot.toNat).state ≠ .busy ∧
      (s.slotAt (s.me.getC k).slot.toNat).gen = (s.me.getC k).gen
    let rc := s.me.getC c
    steady c ∧ refusal (.cseamRelease c) s = none ∧ refusal (.cseamLand c l) s = none ∧ s.me.log = [.progress g] ∧
      progPass g.start = 1 ∧ progNext g.start = rc.gcount.toNat := by decide +kernel

theorem witness_CochainResults_5 :
    let s : State := cochains 0 0 [.progress { start := progWord 0 1 1 0, now := 0x8000000000000000, began := true, flags := 0 }]
    let c : BitVec 4 := 0#4
    let l : BitVec 4 := 15#4
    let g : Prog := { start := progWord 0 1 1 0, now := 0x8000000000000000, began := true, flags := 0 }
    let steady (k : BitVec 4) := (s.slotAt (s.me.getC k).slot.toNat).state ≠ .busy ∧
      (s.slotAt (s.me.getC k).slot.toNat).gen = (s.me.getC k).gen
    let rc := s.me.getC c
    let ds := (s.slotAt rc.slot.toNat).desc
    steady c ∧ refusal (.cseamSend c l) s = none ∧ s.me.log = [.progress g] ∧ progPass g.start = 1 ∧ progNext g.start =
      cxNseam ds (if rc.dual then cxDim ds - rc.deg.toNat else rc.deg.toNat) := by decide +kernel

theorem witness_CochainResults_6 :
    let s : State := cochains 0 0 (.progress { start := progWord 0 0 0 0, now := 0x8000000000000000, began := true, flags := 0 } :: [(1 : Word), -2, 5].flatMap (fun v => [Ans.place 0 (unit0 0) .plain false, .val (v.setWidth 512) []]))
    let c : BitVec 4 := 0#4
    let d : BitVec 5 := 1#5
    let r : BitVec 3 := 7#3
    let g : Prog := { start := progWord 0 0 0 0, now := 0x8000000000000000, began := true, flags := 0 }
    let vs : List Word := [1, -2, 5]
    let va : Word := 0
    let pl : Loc := unit0 0
    let steady (k : BitVec 4) := (s.slotAt (s.me.getC k).slot.toNat).state ≠ .busy ∧
      (s.slotAt (s.me.getC k).slot.toNat).gen = (s.me.getC k).gen
    let rc := s.me.getC c
    steady c ∧ refusal (.cred c 0#5 d r 0#1) s = none ∧ rc.isInt = true ∧ vs.length = rc.count.toNat ∧ s.me.log =
      .progress g :: vs.flatMap (fun v => [.place va pl .plain false, .val (v.setWidth 512) []]) ∧ inCI64 (vs.map
      BitVec.toInt).sum = true := by decide +kernel

theorem witness_CochainResults_7 :
    let s : State := cochains 0 2 [.progress { start := progWord 0 1 1 2, now := 0x8000000000000000, began := true, flags := 0 }, .place 0x0101000000000010 (cluster0 16) .plain false, .val 0x3FF8000000000000 [], .place 0x0101000000000010 (cluster0 16) .plain false]
    let c : BitVec 4 := 0#4
    let a : BitVec 4 := 1#4
    let b : BitVec 4 := 2#4
    let r : BitVec 3 := 7#3
    let g : Prog := { start := progWord 0 1 1 2, now := 0x8000000000000000, began := true, flags := 0 }
    let x : Word := 0x3FF8000000000000
    let l : Loc := cluster0 16
    let l3 : Loc := cluster0 16
    let va : Word := 0x0101000000000010
    let vd : Word := 0x0101000000000010
    let m : Bool := false
    let m2 : Bool := false
    let rc := s.me.getC c
    let ra := s.me.getC a
    let rb := s.me.getC b
    let steady (k : BitVec 4) := (s.slotAt (s.me.getC k).slot.toNat).state ≠ .busy ∧
      (s.slotAt (s.me.getC k).slot.toNat).gen = (s.me.getC k).gen
    let rm := (effectiveRm r s.me.frm).getD .rne
    let own := l3.home = .unit s.here
    let last := progPass g.start = 1 ∧ progNext g.start + 1 = rc.count.toNat ∧ rc.count.toNat ≤ ra.count.toNat ∧
      rc.count.toNat ≤ rb.count.toNat
    let head : Ans := .progress g
    let val1 : List Ans := [.place va l .plain m, .val (x.setWidth 512) []]
    let place : Ans := .place vd l3 .plain m2
    last ∧ steady c ∧ steady a ∧ steady b ∧ refusal (.cq c a r) s = none ∧ ra.isInt = false ∧ (qround rm rc.exp.toInt
      (unpack ra.flt x)).isSome = true ∧ s.me.log = (head :: val1 ++ [place]) ∧ ¬ own := by decide +kernel

theorem witness_CochainResults_8 :
    let s : State := cochains 0 2 [.progress { start := progWord 0 1 1 2, now := 0x8000000000000000, began := true, flags := 0 }, .place 0x0101000000000010 (cluster0 16) .plain false, .val 0x3FF8000000000000 [], .place 0x0101000000000010 (cluster0 16) .plain false, .val 0 []]
    let c : BitVec 4 := 0#4
    let a : BitVec 4 := 1#4
    let b : BitVec 4 := 2#4
    let r : BitVec 3 := 7#3
    let g : Prog := { start := progWord 0 1 1 2, now := 0x8000000000000000, began := true, flags := 0 }
    let x : Word := 0x3FF8000000000000
    let l : Loc := cluster0 16
    let l3 : Loc := cluster0 16
    let va : Word := 0x0101000000000010
    let vd : Word := 0x0101000000000010
    let m : Bool := false
    let m2 : Bool := false
    let rc := s.me.getC c
    let ra := s.me.getC a
    let rb := s.me.getC b
    let steady (k : BitVec 4) := (s.slotAt (s.me.getC k).slot.toNat).state ≠ .busy ∧
      (s.slotAt (s.me.getC k).slot.toNat).gen = (s.me.getC k).gen
    let rm := (effectiveRm r s.me.frm).getD .rne
    let own := l3.home = .unit s.here
    let last := progPass g.start = 1 ∧ progNext g.start + 1 = rc.count.toNat ∧ rc.count.toNat ≤ ra.count.toNat ∧
      rc.count.toNat ≤ rb.count.toNat
    let head : Ans := .progress g
    let val1 : List Ans := [.place va l .plain m, .val (x.setWidth 512) []]
    let place : Ans := .place vd l3 .plain m2
    last ∧ steady c ∧ steady a ∧ steady b ∧ refusal (.cq c a r) s = none ∧ ra.isInt = false ∧ (qround rm rc.exp.toInt
      (unpack ra.flt x)).isSome = true ∧ s.me.log = (head :: val1 ++ [place]) ++ [.val 0 []] ∧ ¬ own := by decide +kernel

theorem witness_CochainResults_9 :
    let s : State := cochains 0 2 [.progress { start := progWord 0 1 1 2, now := 0x8000000000000000, began := true, flags := 0 }, .place 0x0101000000000010 (cluster0 16) .plain false, .val 0x3FF8000000000000 [], .place 0x0100000000000010 (unit0 16) .plain false]
    let c : BitVec 4 := 0#4
    let a : BitVec 4 := 1#4
    let b : BitVec 4 := 2#4
    let r : BitVec 3 := 7#3
    let g : Prog := { start := progWord 0 1 1 2, now := 0x8000000000000000, began := true, flags := 0 }
    let x : Word := 0x3FF8000000000000
    let l : Loc := cluster0 16
    let l3 : Loc := unit0 16
    let va : Word := 0x0101000000000010
    let vd : Word := 0x0100000000000010
    let m : Bool := false
    let m2 : Bool := false
    let rc := s.me.getC c
    let ra := s.me.getC a
    let rb := s.me.getC b
    let steady (k : BitVec 4) := (s.slotAt (s.me.getC k).slot.toNat).state ≠ .busy ∧
      (s.slotAt (s.me.getC k).slot.toNat).gen = (s.me.getC k).gen
    let rm := (effectiveRm r s.me.frm).getD .rne
    let own := l3.home = .unit s.here
    let last := progPass g.start = 1 ∧ progNext g.start + 1 = rc.count.toNat ∧ rc.count.toNat ≤ ra.count.toNat ∧
      rc.count.toNat ≤ rb.count.toNat
    let head : Ans := .progress g
    let val1 : List Ans := [.place va l .plain m, .val (x.setWidth 512) []]
    let place : Ans := .place vd l3 .plain m2
    last ∧ steady c ∧ steady a ∧ steady b ∧ refusal (.cq c a r) s = none ∧ ra.isInt = false ∧ (qround rm rc.exp.toInt
      (unpack ra.flt x)).isSome = true ∧ s.me.log = (head :: val1 ++ [place]) ∧ own ∧ performs (s.perform s.here
      (accessOf s true (rc.elemAddr (rc.count.toNat - 1)) l3 rc.size (.store (bytesOfNat rc.size (((qround rm
      rc.exp.toInt (unpack ra.flt x)).getD (0, 0)).1.toNat)) none false))) = true := by decide +kernel

theorem witness_CochainResults_10 :
    let s : State := cochains 2 0 [.progress { start := progWord 0 1 1 2, now := 0x8000000000000000, began := true, flags := 0 }, .place 0x0101000000000010 (cluster0 16) .plain false, .val 0x3FF8000000000000 [], .place 0x0101000000000010 (cluster0 16) .plain false]
    let c : BitVec 4 := 0#4
    let a : BitVec 4 := 1#4
    let b : BitVec 4 := 2#4
    let r : BitVec 3 := 7#3
    let g : Prog := { start := progWord 0 1 1 2, now := 0x8000000000000000, began := true, flags := 0 }
    let x : Word := 0x3FF8000000000000
    let l : Loc := cluster0 16
    let l3 : Loc := cluster0 16
    let va : Word := 0x0101000000000010
    let vd : Word := 0x0101000000000010
    let m : Bool := false
    let m2 : Bool := false
    let rc := s.me.getC c
    let ra := s.me.getC a
    let rb := s.me.getC b
    let steady (k : BitVec 4) := (s.slotAt (s.me.getC k).slot.toNat).state ≠ .busy ∧
      (s.slotAt (s.me.getC k).slot.toNat).gen = (s.me.getC k).gen
    let rm := (effectiveRm r s.me.frm).getD .rne
    let own := l3.home = .unit s.here
    let last := progPass g.start = 1 ∧ progNext g.start + 1 = rc.count.toNat ∧ rc.count.toNat ≤ ra.count.toNat ∧
      rc.count.toNat ≤ rb.count.toNat
    let head : Ans := .progress g
    let val1 : List Ans := [.place va l .plain m, .val (x.setWidth 512) []]
    let place : Ans := .place vd l3 .plain m2
    last ∧ steady c ∧ steady a ∧ steady b ∧ refusal (.cdq c a r) s = none ∧ ra.isInt = true ∧ rc.isInt = false ∧ (some
      (deliver rm rc.flt (numOfInt x.toInt ra.exp.toInt))).isSome = true ∧ s.me.log = (head :: val1 ++ [place]) ∧ ¬ own := by decide +kernel

theorem witness_CochainResults_11 :
    let s : State := cochains 2 0 [.progress { start := progWord 0 1 1 2, now := 0x8000000000000000, began := true, flags := 0 }, .place 0x0101000000000010 (cluster0 16) .plain false, .val 0x3FF8000000000000 [], .place 0x0101000000000010 (cluster0 16) .plain false, .val 0 []]
    let c : BitVec 4 := 0#4
    let a : BitVec 4 := 1#4
    let b : BitVec 4 := 2#4
    let r : BitVec 3 := 7#3
    let g : Prog := { start := progWord 0 1 1 2, now := 0x8000000000000000, began := true, flags := 0 }
    let x : Word := 0x3FF8000000000000
    let l : Loc := cluster0 16
    let l3 : Loc := cluster0 16
    let va : Word := 0x0101000000000010
    let vd : Word := 0x0101000000000010
    let m : Bool := false
    let m2 : Bool := false
    let rc := s.me.getC c
    let ra := s.me.getC a
    let rb := s.me.getC b
    let steady (k : BitVec 4) := (s.slotAt (s.me.getC k).slot.toNat).state ≠ .busy ∧
      (s.slotAt (s.me.getC k).slot.toNat).gen = (s.me.getC k).gen
    let rm := (effectiveRm r s.me.frm).getD .rne
    let own := l3.home = .unit s.here
    let last := progPass g.start = 1 ∧ progNext g.start + 1 = rc.count.toNat ∧ rc.count.toNat ≤ ra.count.toNat ∧
      rc.count.toNat ≤ rb.count.toNat
    let head : Ans := .progress g
    let val1 : List Ans := [.place va l .plain m, .val (x.setWidth 512) []]
    let place : Ans := .place vd l3 .plain m2
    last ∧ steady c ∧ steady a ∧ steady b ∧ refusal (.cdq c a r) s = none ∧ ra.isInt = true ∧ rc.isInt = false ∧ (some
      (deliver rm rc.flt (numOfInt x.toInt ra.exp.toInt))).isSome = true ∧ s.me.log = (head :: val1 ++ [place]) ++ [.val
      0 []] ∧ ¬ own := by decide +kernel

theorem witness_CochainResults_12 :
    let s : State := cochains 2 0 [.progress { start := progWord 0 1 1 2, now := 0x8000000000000000, began := true, flags := 0 }, .place 0x0101000000000010 (cluster0 16) .plain false, .val 0x3FF8000000000000 [], .place 0x0100000000000010 (unit0 16) .plain false]
    let c : BitVec 4 := 0#4
    let a : BitVec 4 := 1#4
    let b : BitVec 4 := 2#4
    let r : BitVec 3 := 7#3
    let g : Prog := { start := progWord 0 1 1 2, now := 0x8000000000000000, began := true, flags := 0 }
    let x : Word := 0x3FF8000000000000
    let l : Loc := cluster0 16
    let l3 : Loc := unit0 16
    let va : Word := 0x0101000000000010
    let vd : Word := 0x0100000000000010
    let m : Bool := false
    let m2 : Bool := false
    let rc := s.me.getC c
    let ra := s.me.getC a
    let rb := s.me.getC b
    let steady (k : BitVec 4) := (s.slotAt (s.me.getC k).slot.toNat).state ≠ .busy ∧
      (s.slotAt (s.me.getC k).slot.toNat).gen = (s.me.getC k).gen
    let rm := (effectiveRm r s.me.frm).getD .rne
    let own := l3.home = .unit s.here
    let last := progPass g.start = 1 ∧ progNext g.start + 1 = rc.count.toNat ∧ rc.count.toNat ≤ ra.count.toNat ∧
      rc.count.toNat ≤ rb.count.toNat
    let head : Ans := .progress g
    let val1 : List Ans := [.place va l .plain m, .val (x.setWidth 512) []]
    let place : Ans := .place vd l3 .plain m2
    last ∧ steady c ∧ steady a ∧ steady b ∧ refusal (.cdq c a r) s = none ∧ ra.isInt = true ∧ rc.isInt = false ∧ (some
      (deliver rm rc.flt (numOfInt x.toInt ra.exp.toInt))).isSome = true ∧ s.me.log = (head :: val1 ++ [place]) ∧ own ∧
      performs (s.perform s.here (accessOf s true (rc.elemAddr (rc.count.toNat - 1)) l3 rc.size (.store (bytesOfNat
      rc.size (((some (deliver rm rc.flt (numOfInt x.toInt ra.exp.toInt))).getD (0, 0)).1.toNat)) none false))) = true := by decide +kernel

theorem witness_CochainResults_13 :
    let s : State := cochains 0 0 [.progress { start := progWord 0 1 1 2, now := 0x8000000000000000, began := true, flags := 0 }, .place 0x0101000000000010 (cluster0 16) .plain false, .val 0x3FF8000000000000 [], .place 0x0101000000000010 (cluster0 16) .plain false, .val 3 [], .place 0x0101000000000010 (cluster0 16) .plain false]
    let c : BitVec 4 := 0#4
    let a : BitVec 4 := 1#4
    let b : BitVec 4 := 2#4
    let p : BitVec 4 := 15#4
    let q : BitVec 4 := 7#4
    let r : BitVec 3 := 7#3
    let g : Prog := { start := progWord 0 1 1 2, now := 0x8000000000000000, began := true, flags := 0 }
    let x : Word := 0x3FF8000000000000
    let y : Word := 3
    let l : Loc := cluster0 16
    let l2 : Loc := cluster0 16
    let l3 : Loc := cluster0 16
    let va : Word := 0x0101000000000010
    let vb : Word := 0x0101000000000010
    let vd : Word := 0x0101000000000010
    let m : Bool := false
    let m2 : Bool := false
    let rc := s.me.getC c
    let ra := s.me.getC a
    let rb := s.me.getC b
    let steady (k : BitVec 4) := (s.slotAt (s.me.getC k).slot.toNat).state ≠ .busy ∧
      (s.slotAt (s.me.getC k).slot.toNat).gen = (s.me.getC k).gen
    let own := l3.home = .unit s.here
    let last := progPass g.start = 1 ∧ progNext g.start + 1 = rc.count.toNat ∧ rc.count.toNat ≤ ra.count.toNat ∧
      rc.count.toNat ≤ rb.count.toNat
    let head : Ans := .progress g
    let val1 : List Ans := [.place va l .plain m, .val (x.setWidth 512) []]
    let val2 : List Ans := [.place vb l2 .plain m, .val (y.setWidth 512) []]
    let place : Ans := .place vd l3 .plain m2
    last ∧ steady c ∧ steady a ∧ steady b ∧ refusal (.clin c a b r p q) s = none ∧ rc.isInt = true ∧ ra.isInt = true ∧
      rb.isInt = true ∧ ra.exp = 0#16 ∧ rb.exp = 0#16 ∧ rc.exp = 0#16 ∧ (ci64 (p.toInt * x.toInt + q.toInt * y.toInt)
      0#5).isSome = true ∧ s.me.log = (head :: val1 ++ val2 ++ [place]) ∧ ¬ own := by decide +kernel

theorem witness_CochainResults_14 :
    let s : State := cochains 0 0 [.progress { start := progWord 0 1 1 2, now := 0x8000000000000000, began := true, flags := 0 }, .place 0x0101000000000010 (cluster0 16) .plain false, .val 0x3FF8000000000000 [], .place 0x0101000000000010 (cluster0 16) .plain false, .val 3 [], .place 0x0101000000000010 (cluster0 16) .plain false, .val 0 []]
    let c : BitVec 4 := 0#4
    let a : BitVec 4 := 1#4
    let b : BitVec 4 := 2#4
    let p : BitVec 4 := 15#4
    let q : BitVec 4 := 7#4
    let r : BitVec 3 := 7#3
    let g : Prog := { start := progWord 0 1 1 2, now := 0x8000000000000000, began := true, flags := 0 }
    let x : Word := 0x3FF8000000000000
    let y : Word := 3
    let l : Loc := cluster0 16
    let l2 : Loc := cluster0 16
    let l3 : Loc := cluster0 16
    let va : Word := 0x0101000000000010
    let vb : Word := 0x0101000000000010
    let vd : Word := 0x0101000000000010
    let m : Bool := false
    let m2 : Bool := false
    let rc := s.me.getC c
    let ra := s.me.getC a
    let rb := s.me.getC b
    let steady (k : BitVec 4) := (s.slotAt (s.me.getC k).slot.toNat).state ≠ .busy ∧
      (s.slotAt (s.me.getC k).slot.toNat).gen = (s.me.getC k).gen
    let own := l3.home = .unit s.here
    let last := progPass g.start = 1 ∧ progNext g.start + 1 = rc.count.toNat ∧ rc.count.toNat ≤ ra.count.toNat ∧
      rc.count.toNat ≤ rb.count.toNat
    let head : Ans := .progress g
    let val1 : List Ans := [.place va l .plain m, .val (x.setWidth 512) []]
    let val2 : List Ans := [.place vb l2 .plain m, .val (y.setWidth 512) []]
    let place : Ans := .place vd l3 .plain m2
    last ∧ steady c ∧ steady a ∧ steady b ∧ refusal (.clin c a b r p q) s = none ∧ rc.isInt = true ∧ ra.isInt = true ∧
      rb.isInt = true ∧ ra.exp = 0#16 ∧ rb.exp = 0#16 ∧ rc.exp = 0#16 ∧ (ci64 (p.toInt * x.toInt + q.toInt * y.toInt)
      0#5).isSome = true ∧ s.me.log = (head :: val1 ++ val2 ++ [place]) ++ [.val 0 []] ∧ ¬ own := by decide +kernel

theorem witness_CochainResults_15 :
    let s : State := cochains 0 0 [.progress { start := progWord 0 1 1 2, now := 0x8000000000000000, began := true, flags := 0 }, .place 0x0101000000000010 (cluster0 16) .plain false, .val 0x3FF8000000000000 [], .place 0x0101000000000010 (cluster0 16) .plain false, .val 3 [], .place 0x0100000000000010 (unit0 16) .plain false]
    let c : BitVec 4 := 0#4
    let a : BitVec 4 := 1#4
    let b : BitVec 4 := 2#4
    let p : BitVec 4 := 15#4
    let q : BitVec 4 := 7#4
    let r : BitVec 3 := 7#3
    let g : Prog := { start := progWord 0 1 1 2, now := 0x8000000000000000, began := true, flags := 0 }
    let x : Word := 0x3FF8000000000000
    let y : Word := 3
    let l : Loc := cluster0 16
    let l2 : Loc := cluster0 16
    let l3 : Loc := unit0 16
    let va : Word := 0x0101000000000010
    let vb : Word := 0x0101000000000010
    let vd : Word := 0x0100000000000010
    let m : Bool := false
    let m2 : Bool := false
    let rc := s.me.getC c
    let ra := s.me.getC a
    let rb := s.me.getC b
    let steady (k : BitVec 4) := (s.slotAt (s.me.getC k).slot.toNat).state ≠ .busy ∧
      (s.slotAt (s.me.getC k).slot.toNat).gen = (s.me.getC k).gen
    let own := l3.home = .unit s.here
    let last := progPass g.start = 1 ∧ progNext g.start + 1 = rc.count.toNat ∧ rc.count.toNat ≤ ra.count.toNat ∧
      rc.count.toNat ≤ rb.count.toNat
    let head : Ans := .progress g
    let val1 : List Ans := [.place va l .plain m, .val (x.setWidth 512) []]
    let val2 : List Ans := [.place vb l2 .plain m, .val (y.setWidth 512) []]
    let place : Ans := .place vd l3 .plain m2
    last ∧ steady c ∧ steady a ∧ steady b ∧ refusal (.clin c a b r p q) s = none ∧ rc.isInt = true ∧ ra.isInt = true ∧
      rb.isInt = true ∧ ra.exp = 0#16 ∧ rb.exp = 0#16 ∧ rc.exp = 0#16 ∧ (ci64 (p.toInt * x.toInt + q.toInt * y.toInt)
      0#5).isSome = true ∧ s.me.log = (head :: val1 ++ val2 ++ [place]) ∧ own ∧ performs (s.perform s.here (accessOf s
      true (rc.elemAddr (rc.count.toNat - 1)) l3 rc.size (.store (bytesOfNat rc.size (((ci64 (p.toInt * x.toInt + q.toInt
      * y.toInt) 0#5).getD (0, 0)).1.toNat)) none false))) = true := by decide +kernel

theorem witness_EventUnitResults_1 :
    let s : State := queued (store0 (.event 0) (64 * 31) 5) (inS id)
    let core : Nat := 0
    let seq : Nat := 1
    let k : Nat := 0
    let n : Nat := 31
    let e : PathEntry := store0 (.event 0) (64 * 31) 5
    let v : Word := 5
    let puts (o : Nat) := writes s core seq e (.event k) o v
    n < 32 ∧ puts (64 * n) := by decide +kernel

theorem witness_EventUnitResults_2 :
    let s : State := queued (load0 (.event 0) (0x800 + 8 * 31)) (inS id)
    let core : Nat := 0
    let seq : Nat := 1
    let k : Nat := 0
    let n : Nat := 31
    let e : PathEntry := load0 (.event 0) (0x800 + 8 * 31)
    let held := (s.cluster k).mutexes.toList.getD n none
    let takes (o : Nat) := reads s core seq e (.event k) o
    n < 32 ∧ takes (0x800 + 8 * n) ∧ held = none ∧ s.waitsBefore e.acc = false := by decide +kernel

theorem witness_EventUnitResults_3 :
    let s : State := queued (load0 (.event 0) (0x800 + 8 * 31)) ((inS id).modCluster 0 fun z => { z with mutexes := z.mutexes.set 31 (some 9) })
    let core : Nat := 0
    let seq : Nat := 1
    let k : Nat := 0
    let n : Nat := 31
    let h : Nat := 9
    let e : PathEntry := load0 (.event 0) (0x800 + 8 * 31)
    let held := (s.cluster k).mutexes.toList.getD n none
    let takes (o : Nat) := reads s core seq e (.event k) o
    n < 32 ∧ takes (0x800 + 8 * n) ∧ held = some h := by decide +kernel

theorem witness_EventUnitResults_4 :
    let s : State := queued (store0 (.event 0) (0x800 + 8 * 31) 5) ((inS id).modCluster 0 fun z => { z with mutexes := z.mutexes.set 31 (some 0) })
    let core : Nat := 0
    let seq : Nat := 1
    let k : Nat := 0
    let n : Nat := 31
    let e : PathEntry := store0 (.event 0) (0x800 + 8 * 31) 5
    let v : Word := 5
    let puts (o : Nat) := writes s core seq e (.event k) o v
    n < 32 ∧ puts (0x800 + 8 * n) := by decide +kernel

theorem witness_EventUnitResults_5 :
    let s : State := queued (load0 (.event 0) (0x900 + 8 * 31)) ((inS id).modCluster 0 fun z => { z with lines := z.lines.set 31 1 })
    let core : Nat := 0
    let seq : Nat := 1
    let k : Nat := 0
    let n : Nat := 31
    let e : PathEntry := load0 (.event 0) (0x900 + 8 * 31)
    let line := s.lineCount k n
    let takes (o : Nat) := reads s core seq e (.event k) o
    n < 32 ∧ takes (0x900 + 8 * n) ∧ line ≠ 0 ∧ s.waitsBefore e.acc = false := by decide +kernel

theorem witness_EventUnitResults_6 :
    let s : State := queued (load0 (.event 0) (0x900 + 8 * 31)) (inS id)
    let core : Nat := 0
    let seq : Nat := 1
    let k : Nat := 0
    let n : Nat := 31
    let e : PathEntry := load0 (.event 0) (0x900 + 8 * 31)
    let line := s.lineCount k n
    let takes (o : Nat) := reads s core seq e (.event k) o
    n < 32 ∧ takes (0x900 + 8 * n) ∧ line = 0 := by decide +kernel

theorem witness_EventUnitResults_7 :
    let s : State := queued (store0 (.event 0) (0x900 + 8 * 31) 0xFFFFFFFF) ((inS id).modCluster 0 fun z => { z with lines := z.lines.set 31 1 })
    let core : Nat := 0
    let seq : Nat := 1
    let k : Nat := 0
    let n : Nat := 31
    let e : PathEntry := store0 (.event 0) (0x900 + 8 * 31) 0xFFFFFFFF
    let v : Word := 0xFFFFFFFF
    let puts (o : Nat) := writes s core seq e (.event k) o v
    n < 32 ∧ puts (0x900 + 8 * n) := by decide +kernel

theorem witness_EventUnitResults_8 :
    let s : State := queued (store0 (.event 0) (0xA00 + 8 * 31) 7) (inS id)
    let core : Nat := 0
    let seq : Nat := 1
    let k : Nat := 0
    let n : Nat := 31
    let e : PathEntry := store0 (.event 0) (0xA00 + 8 * 31) 7
    let v : Word := 7
    let puts (o : Nat) := writes s core seq e (.event k) o v
    n < 32 ∧ puts (0xA00 + 8 * n) := by decide +kernel

theorem witness_EventUnitResults_9 :
    let s : State := queued (load0 (.event 0) (0x2000 + 256 * 31 + 8 * 31)) (inS id)
    let core : Nat := 0
    let seq : Nat := 1
    let k : Nat := 0
    let n : Nat := 31
    let j : Nat := 31
    let e : PathEntry := load0 (.event 0) (0x2000 + 256 * 31 + 8 * 31)
    let b := s.barrier k n
    let takes (o : Nat) := reads s core seq e (.event k) o
    n < 32 ∧ j < 32 ∧ takes (0x2000 + 256 * n + 8 * j) ∧ b.phase.toNat % 32 ≠ j := by decide +kernel

theorem witness_EventUnitResults_10 :
    let s : State := queued (load0 (.event 0) (0x2000 + 256 * 31)) (inS id)
    let core : Nat := 0
    let seq : Nat := 1
    let k : Nat := 0
    let n : Nat := 31
    let j : Nat := 0
    let e : PathEntry := load0 (.event 0) (0x2000 + 256 * 31)
    let b := s.barrier k n
    let takes (o : Nat) := reads s core seq e (.event k) o
    n < 32 ∧ j < 32 ∧ takes (0x2000 + 256 * n + 8 * j) ∧ b.phase.toNat % 32 = j := by decide +kernel

theorem witness_EventUnitResults_11 :
    let s : State := withJob ({ job0 with cores := [0, 8] }) (twoBarriers (child0) ({ Barrier.reset with cfg := 2 }))
    let k : Nat := 0
    let n : Nat := 31
    let b := s.barrier k n
    let p := s.barrier b.parent.1 b.parent.2
    let joined := k = b.parent.1 ∨ ∃ j ∈ s.jobs, (∃ c ∈ j.2.cores, clusterOf c = k) ∧ ∃ c ∈ j.2.cores, clusterOf c = b.parent.1
    n < 32 ∧ b.rising = true ∧ joined ∧ p.hold = false ∧ p.arrived + 1 < p.count := by decide +kernel

theorem witness_EventUnitResults_12 :
    let s : State := withJob ({ job0 with cores := [0, 8] }) (twoBarriers (child0) ({ Barrier.reset with cfg := 0x10080000001 }))
    let k : Nat := 0
    let n : Nat := 31
    let b := s.barrier k n
    let p := s.barrier b.parent.1 b.parent.2
    let joined := k = b.parent.1 ∨ ∃ j ∈ s.jobs, (∃ c ∈ j.2.cores, clusterOf c = k) ∧ ∃ c ∈ j.2.cores, clusterOf c = b.parent.1
    n < 32 ∧ b.rising = true ∧ joined ∧ p.hold = false ∧ 0 < p.count ∧ p.count ≤ p.arrived + 1 ∧ p.hasParent = true := by decide +kernel

theorem witness_EventUnitResults_13 :
    let s : State := withJob ({ job0 with cores := [0, 8] }) (twoBarriers (child0) ({ Barrier.reset with cfg := 1, phase := 0xFFFFFFFF }))
    let k : Nat := 0
    let n : Nat := 31
    let b := s.barrier k n
    let p := s.barrier b.parent.1 b.parent.2
    let joined := k = b.parent.1 ∨ ∃ j ∈ s.jobs, (∃ c ∈ j.2.cores, clusterOf c = k) ∧ ∃ c ∈ j.2.cores, clusterOf c = b.parent.1
    n < 32 ∧ b.rising = true ∧ joined ∧ p.hold = false ∧ 0 < p.count ∧ p.count ≤ p.arrived + 1 ∧ p.hasParent = false := by decide +kernel

theorem witness_EventUnitResults_14 :
    let s : State := withJob ({ job0 with cores := [0, 8] }) (twoBarriers (child0) ({ Barrier.reset with cfg := 1, hold := true }))
    let k : Nat := 0
    let n : Nat := 31
    let b := s.barrier k n
    let p := s.barrier b.parent.1 b.parent.2
    let joined := k = b.parent.1 ∨ ∃ j ∈ s.jobs, (∃ c ∈ j.2.cores, clusterOf c = k) ∧ ∃ c ∈ j.2.cores, clusterOf c = b.parent.1
    n < 32 ∧ b.rising = true ∧ (p.hold = true ∨ ¬ joined) := by decide +kernel

theorem witness_EventUnitResults_15 :
    let s : State := withJob ({ job0 with cores := [0] }) (twoBarriers (child0) ({ Barrier.reset with cfg := 1 }))
    let k : Nat := 0
    let n : Nat := 31
    let b := s.barrier k n
    let p := s.barrier b.parent.1 b.parent.2
    let joined := k = b.parent.1 ∨ ∃ j ∈ s.jobs, (∃ c ∈ j.2.cores, clusterOf c = k) ∧ ∃ c ∈ j.2.cores, clusterOf c = b.parent.1
    n < 32 ∧ b.rising = true ∧ (p.hold = true ∨ ¬ joined) := by decide +kernel

theorem witness_EventUnitResults_16 :
    let s : State := withJob ({ job0 with cores := [8] }) (twoBarriers (child0) ({ Barrier.reset with cfg := 1 }))
    let k : Nat := 0
    let n : Nat := 31
    let b := s.barrier k n
    let p := s.barrier b.parent.1 b.parent.2
    let joined := k = b.parent.1 ∨ ∃ j ∈ s.jobs, (∃ c ∈ j.2.cores, clusterOf c = k) ∧ ∃ c ∈ j.2.cores, clusterOf c = b.parent.1
    n < 32 ∧ b.rising = true ∧ (p.hold = true ∨ ¬ joined) := by decide +kernel

theorem witness_EventUnitResults_17 :
    let s : State := withJob ({ job0 with cores := [16] }) (twoBarriers (child0) ({ Barrier.reset with cfg := 1 }))
    let k : Nat := 0
    let n : Nat := 31
    let b := s.barrier k n
    let p := s.barrier b.parent.1 b.parent.2
    let joined := k = b.parent.1 ∨ ∃ j ∈ s.jobs, (∃ c ∈ j.2.cores, clusterOf c = k) ∧ ∃ c ∈ j.2.cores, clusterOf c = b.parent.1
    n < 32 ∧ b.rising = true ∧ (p.hold = true ∨ ¬ joined) := by decide +kernel

theorem witness_EventUnitResults_18 :
    let s : State := withJob ({ job0 with cores := [0, 8] }) (twoBarriers ({ child0 with falling := true, arrived := 1, hold := true }) (Barrier.reset))
    let k : Nat := 0
    let n : Nat := 31
    let b := s.barrier k n
    n < 32 ∧ b.falling = true := by decide +kernel

theorem witness_ChannelResults_1 :
    let s : State := queued (load0 (.chan 0) 0xF020) ((withJob job0 (inS id)).modCore 0 fun z => { z with chan := z.chan.set 15 { base := 0x1FFF8, cfg := 0x2, head := 0xFFFFFFFF, tail := 0, senders := [] } })
    let core : Nat := 0
    let seq : Nat := 1
    let c : Nat := 0
    let q : Nat := 15
    let e : PathEntry := load0 (.chan 0) 0xF020
    let k := s.chanQueue c q
    let word (o : Nat) : Nat := 4096 * q + o
    q < 16 ∧ reads s core seq e (.chan c) (word 0x20) ∧ k.head ≠ k.tail := by decide +kernel

theorem witness_ChannelResults_2 :
    let s : State := queued (load0 (.chan 0) 0xF020) ((withJob job0 (inS id)).modCore 0 fun z => { z with chan := z.chan.set 15 { base := 0x1FFF8, cfg := 0x2, head := 0, tail := 0, senders := [] } })
    let core : Nat := 0
    let seq : Nat := 1
    let c : Nat := 0
    let q : Nat := 15
    let e : PathEntry := load0 (.chan 0) 0xF020
    let k := s.chanQueue c q
    let word (o : Nat) : Nat := 4096 * q + o
    q < 16 ∧ reads s core seq e (.chan c) (word 0x20) ∧ k.head = k.tail := by decide +kernel

theorem witness_ChannelResults_3 :
    let s : State := queued (store0 (.chan 0) 0xF010 0) ((withJob job0 (inS id)).modCore 0 fun z => { z with chan := z.chan.set 15 { base := 0x1FFF8, cfg := 0x2, head := 0xFFFFFFFF, tail := 0, senders := [] } })
    let core : Nat := 0
    let seq : Nat := 1
    let c : Nat := 0
    let q : Nat := 15
    let e : PathEntry := store0 (.chan 0) 0xF010 0
    let v : Word := 0
    let k := s.chanQueue c q
    let word (o : Nat) : Nat := 4096 * q + o
    let d := (v.setWidth 32 - k.tail).toNat
    q < 16 ∧ writes s core seq e (.chan c) (word 0x10) v ∧ (¬ (1 ≤ d ∧ d ≤ 2 ^ 31) ∨ e.acc.answers = false) := by decide +kernel

theorem witness_ChannelResults_4 :
    let s : State := queued (store0 (.chan 0) 0xF010 0x80000000) ((withJob job0 (inS id)).modCore 0 fun z => { z with chan := z.chan.set 15 { base := 0x1FFF8, cfg := 0x2, head := 0x80000000, tail := 0, senders := [] } })
    let core : Nat := 0
    let seq : Nat := 1
    let c : Nat := 0
    let q : Nat := 15
    let e : PathEntry := store0 (.chan 0) 0xF010 0x80000000
    let v : Word := 0x80000000
    let k := s.chanQueue c q
    let word (o : Nat) : Nat := 4096 * q + o
    let d := (v.setWidth 32 - k.tail).toNat
    q < 16 ∧ writes s core seq e (.chan c) (word 0x10) v ∧ (1 ≤ d ∧ d ≤ 2 ^ 31) ∧ e.acc.answers = true := by decide +kernel

theorem witness_ChannelResults_5 :
    let s : State := queued (store0 (.chan 0) 0xF010 1) ((withJob job0 (inS id)).modCore 0 fun z => { z with chan := z.chan.set 15 { base := 0x1FFF8, cfg := 0x2, head := 0xFFFFFFFF, tail := 0, senders := [] } })
    let core : Nat := 0
    let seq : Nat := 1
    let c : Nat := 0
    let q : Nat := 15
    let e : PathEntry := store0 (.chan 0) 0xF010 1
    let v : Word := 1
    let k := s.chanQueue c q
    let word (o : Nat) : Nat := 4096 * q + o
    let d := (v.setWidth 32 - k.tail).toNat
    q < 16 ∧ writes s core seq e (.chan c) (word 0x10) v ∧ (1 ≤ d ∧ d ≤ 2 ^ 31) ∧ e.acc.answers = true := by decide +kernel

theorem witness_ChannelResults_6 :
    let s : State := queued (store0 (.chan 0) 0xF008 0x300400) ((withJob job0 (inS id)).modCore 0 fun z => { z with chan := z.chan.set 15 { base := 0x1FFF8, cfg := 0x2, head := 0, tail := 0, senders := [] } })
    let core : Nat := 0
    let seq : Nat := 1
    let c : Nat := 0
    let q : Nat := 15
    let e : PathEntry := store0 (.chan 0) 0xF008 0x300400
    let v : Word := 0x300400
    let k := s.chanQueue c q
    let word (o : Nat) : Nat := 4096 * q + o
    q < 16 ∧ writes s core seq e (.chan c) (word 8) v ∧ (chanCfgOk k v = true ∨ e.acc.answers = false) := by decide +kernel

theorem witness_ChannelResults_7 :
    let s : State := queued ({ store0 (.chan 0) 0xF010 1 with acc := { (store0 (.chan 0) 0xF010 1).acc with answers := false } }) ((withJob job0 (inS id)).modCore 0 fun z => { z with chan := z.chan.set 15 { base := 0x1FFF8, cfg := 0x2, head := 0xFFFFFFFF, tail := 0, senders := [] } })
    let core : Nat := 0
    let seq : Nat := 1
    let c : Nat := 0
    let q : Nat := 15
    let e : PathEntry := { store0 (.chan 0) 0xF010 1 with acc := { (store0 (.chan 0) 0xF010 1).acc with answers := false } }
    let v : Word := 1
    let k := s.chanQueue c q
    let word (o : Nat) : Nat := 4096 * q + o
    let d := (v.setWidth 32 - k.tail).toNat
    q < 16 ∧ writes s core seq e (.chan c) (word 0x10) v ∧ (¬ (1 ≤ d ∧ d ≤ 2 ^ 31) ∨ e.acc.answers = false) := by decide +kernel

theorem witness_ChannelResults_8 :
    let s : State := queued ({ store0 (.chan 0) 0xF008 3 with acc := { (store0 (.chan 0) 0xF008 3).acc with answers := false } }) ((withJob job0 (inS id)).modCore 0 fun z => { z with chan := z.chan.set 15 { base := 0x1FFF8, cfg := 0x2, head := 0, tail := 0, senders := [] } })
    let core : Nat := 0
    let seq : Nat := 1
    let c : Nat := 0
    let q : Nat := 15
    let e : PathEntry := { store0 (.chan 0) 0xF008 3 with acc := { (store0 (.chan 0) 0xF008 3).acc with answers := false } }
    let v : Word := 3
    let k := s.chanQueue c q
    let word (o : Nat) : Nat := 4096 * q + o
    q < 16 ∧ writes s core seq e (.chan c) (word 8) v ∧ (chanCfgOk k v = true ∨ e.acc.answers = false) := by decide +kernel

theorem witness_ChannelResults_9 :
    let s : State := queued (store0 (.chan 0) 0xF008 3) ((withJob job0 (inS id)).modCore 0 fun z => { z with chan := z.chan.set 15 { base := 0x1FFF8, cfg := 0x2, head := 0, tail := 0, senders := [] } })
    let core : Nat := 0
    let seq : Nat := 1
    let c : Nat := 0
    let q : Nat := 15
    let e : PathEntry := store0 (.chan 0) 0xF008 3
    let v : Word := 3
    let k := s.chanQueue c q
    let word (o : Nat) : Nat := 4096 * q + o
    q < 16 ∧ writes s core seq e (.chan c) (word 8) v ∧ chanCfgOk k v = false ∧ e.acc.answers = true := by decide +kernel

theorem witness_ChannelResults_10 :
    let s : State := queued (entry0 { home := .chan 0, off := 0xF800 } 8 (.send [1, 2, 3, 4, 5, 6, 7, 8] false)) ((withJob job0 (inS id)).modCore 0 fun z => { z with chan := z.chan.set 15 { base := 0x1FFF8, cfg := 0x2, head := 0xFFFFFFFF, tail := 0, senders := [] } })
    let core : Nat := 0
    let seq : Nat := 1
    let c : Nat := 0
    let q : Nat := 15
    let e : PathEntry := entry0 { home := .chan 0, off := 0xF800 } 8 (.send [1, 2, 3, 4, 5, 6, 7, 8] false)
    let bs : List Byte := [1, 2, 3, 4, 5, 6, 7, 8]
    let k := s.chanQueue c q
    let word (o : Nat) : Nat := 4096 * q + o
    let sent := (s.core c).job.isSome = true ∧ (s.core c).job = (s.core core).job ∧ 0 < k.entries ∧
      bs.length = 8 * 2 ^ k.sizeCode ∧ (s.core c).pstate = .running
    q < 16 ∧ offered s core seq e (.chan c) (word 0x800) ∧ e.acc.kind = .send bs false ∧ sent ∧ k.held < k.entries ∧ (∀ w
      ∈ s.retry, rowOf w.2.acc ≠ .chanSend) := by decide +kernel

theorem witness_ChannelResults_11 :
    let s : State := queued (entry0 { home := .chan 0, off := 0xF800 } 8 (.send [1, 2, 3, 4, 5, 6, 7, 8] false)) ((withJob job0 (inS id)).modCore 0 fun z => { z with chan := z.chan.set 15 { base := 0x1FFF8, cfg := 0x2000002, head := 0xFFFFFFFF, tail := 0, senders := [] } })
    let core : Nat := 0
    let seq : Nat := 1
    let c : Nat := 0
    let q : Nat := 15
    let e : PathEntry := entry0 { home := .chan 0, off := 0xF800 } 8 (.send [1, 2, 3, 4, 5, 6, 7, 8] false)
    let bs : List Byte := [1, 2, 3, 4, 5, 6, 7, 8]
    let k := s.chanQueue c q
    let word (o : Nat) : Nat := 4096 * q + o
    let sent := (s.core c).job.isSome = true ∧ (s.core c).job = (s.core core).job ∧ 0 < k.entries ∧
      bs.length = 8 * 2 ^ k.sizeCode ∧ (s.core c).pstate = .running
    q < 16 ∧ offered s core seq e (.chan c) (word 0x800) ∧ e.acc.kind = .send bs false ∧ sent ∧ k.held < k.entries ∧ (∀ w
      ∈ s.retry, rowOf w.2.acc ≠ .chanSend) := by decide +kernel

theorem witness_ChannelResults_12 :
    let s : State := queued (entry0 { home := .chan 0, off := 0xF800 } 8 (.send [1, 2, 3, 4, 5, 6, 7, 8] false)) ((withJob job0 (inS id)).modCore 0 fun z => { z with chan := z.chan.set 15 { base := 0x1FFF8, cfg := 0x2, head := 0xFFFFFFFE, tail := 0, senders := [] } })
    let core : Nat := 0
    let seq : Nat := 1
    let c : Nat := 0
    let q : Nat := 15
    let e : PathEntry := entry0 { home := .chan 0, off := 0xF800 } 8 (.send [1, 2, 3, 4, 5, 6, 7, 8] false)
    let bs : List Byte := [1, 2, 3, 4, 5, 6, 7, 8]
    let k := s.chanQueue c q
    let word (o : Nat) : Nat := 4096 * q + o
    let sent := (s.core c).job.isSome = true ∧ (s.core c).job = (s.core core).job ∧ 0 < k.entries ∧
      bs.length = 8 * 2 ^ k.sizeCode ∧ (s.core c).pstate = .running
    q < 16 ∧ offered s core seq e (.chan c) (word 0x800) ∧ e.acc.kind = .send bs false ∧ sent ∧ k.entries ≤ k.held := by decide +kernel

theorem witness_ChannelResults_13 :
    let s : State := { (withJob job0 (inS id)).modCore 0 fun z => { z with chan := z.chan.set 15 { base := 0x1FFF8, cfg := 2, head := 0xFFFFFFFF, tail := 0, senders := [] } } with retry := [(0, entry0 { home := .chan 0, off := 0xF800 } 8 (.send [1, 2, 3, 4, 5, 6, 7, 8] false))] }
    let core : Nat := 0
    let seq : Nat := 1
    let c : Nat := 0
    let q : Nat := 15
    let e : PathEntry := entry0 { home := .chan 0, off := 0xF800 } 8 (.send [1, 2, 3, 4, 5, 6, 7, 8] false)
    let bs : List Byte := [1, 2, 3, 4, 5, 6, 7, 8]
    let k := s.chanQueue c q
    let word (o : Nat) : Nat := 4096 * q + o
    let sent := (s.core c).job.isSome = true ∧ (s.core c).job = (s.core core).job ∧ 0 < k.entries ∧
      bs.length = 8 * 2 ^ k.sizeCode ∧ (s.core c).pstate = .running
    q < 16 ∧ s.retryEntry core seq = some e ∧ e.acc.loc = { home := .chan c, off := word 0x800 } ∧ e.acc.kind = .send bs
      false ∧ sent ∧ k.held < k.entries ∧ s.retry.head? = some (core, e) := by decide +kernel

theorem witness_ChannelResults_14 :
    let s : State := stored (unit0 0x100) (words64 [0x77, 0x1F]) ((inS id).modCore 0 fun z => { z with chan := z.chan.set 15 { base := 0x100, cfg := 0x100002, head := 0, tail := 1, senders := [] }, landing := z.landing.set 15 { valid := true, err := false, reg := reg0 0 }, guards := z.guards.set 0 0xF1FFFFFFFFFFFFC0 })
    let c : Nat := 0
    let q : Nat := 15
    let va : Word := 0x0101000000000100
    let l : Loc := cluster0 0x100
    let k := s.chanQueue c q
    let m := seamOfBytes (k.sender k.head) (s.bytesAt (k.place c k.head) 16)
    let land := s.landing c m
    q < 16 ∧ q = 15 ∧ 0 < k.entries ∧ k.sizeCode = 1 ∧ k.head ≠ k.tail ∧ (s.core c).pstate ≠ .saved ∧ land.valid = true ∧
      s.seamPlace c m = (some (va, l), s) := by decide +kernel

theorem witness_ChannelResults_15 :
    let s : State := stored (unit0 0x100) (words64 [0x77, 0x10000001F]) ((inS id).modCore 0 fun z => { z with chan := z.chan.set 15 { base := 0x100, cfg := 0x100002, head := 0, tail := 1, senders := [] }, landing := z.landing.set 15 { valid := true, err := false, reg := reg0 0 }, guards := z.guards.set 0 0xF1FFFFFFFFFFFFC0 })
    let c : Nat := 0
    let q : Nat := 15
    let k := s.chanQueue c q
    let m := seamOfBytes (k.sender k.head) (s.bytesAt (k.place c k.head) 16)
    let land := s.landing c m
    q < 16 ∧ q = 15 ∧ 0 < k.entries ∧ k.sizeCode = 1 ∧ k.head ≠ k.tail ∧ (s.core c).pstate ≠ .saved ∧ land.valid = true ∧
      land.agrees m = false := by decide +kernel

theorem witness_CollectiveDeviceResults_1 :
    let s : State := queued (store0 (.priv 7) (0x300000 + 512 * 511 + 8 * 63) 0x1000000001) (inS id)
    let core : Nat := 0
    let seq : Nat := 1
    let b : Nat := 7
    let c : Nat := 511
    let g : Nat := 63
    let e : PathEntry := store0 (.priv 7) (0x300000 + 512 * 511 + 8 * 63) 0x1000000001
    let v : Word := 0x1000000001
    b < 8 ∧ c < 512 ∧ g < 64 ∧ writes s core seq e (.priv b) (0x300000 + 512 * c + 8 * g) v ∧ groupRefused v = false := by decide +kernel

theorem witness_CollectiveDeviceResults_2 :
    let s : State := queued (store0 (.priv 7) (0x300000 + 512 * 511 + 8 * 63) 1) (inS id)
    let core : Nat := 0
    let seq : Nat := 1
    let b : Nat := 7
    let c : Nat := 511
    let g : Nat := 63
    let e : PathEntry := store0 (.priv 7) (0x300000 + 512 * 511 + 8 * 63) 1
    let v : Word := 1
    b < 8 ∧ c < 512 ∧ g < 64 ∧ writes s core seq e (.priv b) (0x300000 + 512 * c + 8 * g) v ∧ groupRefused v = true := by decide +kernel

theorem witness_CollectiveDeviceResults_3 :
    let s : State := (inS id).modCore 0 fun z => { z with rounds := [{ round0 with group := 63, ports := [(0, { leaves := [(0, [5])], mode := 0, routine := none, fnver := 3, lanes := [], flags := 0, agrees := true })] }], groups := z.groups.set 63 0x1000102001 }
    let core : Nat := 0
    let b : Nat := 0
    let c : Nat := 0
    let g : Nat := 63
    let p : Nat := neighbour0
    let r : Round := { round0 with group := 63, ports := [(0, { leaves := [(0, [5])], mode := 0, routine := none, fnver := 3, lanes := [], flags := 0, agrees := true })] }
    let x : Contribution := { leaves := [(0, [5])], mode := 0, routine := none, fnver := 3, lanes := [], flags := 0, agrees := true }
    let entry := (s.core core).groupEntry g
    let inWait := ∃ rest, (s.core core).rounds = r :: rest ∧ r.group = g
    b < 8 ∧ c < 512 ∧ g < 64 ∧ inWait ∧ r.sent = false ∧ r.hosted = none ∧ r.ports = [(0, x)] ∧ groupValid entry = true ∧
      groupChildren entry = [0] ∧ (s.die (dieOf core)).mgmt.getLsbD 2 = true ∧ groupParent entry ≠ 7 ∧ neighbour core
      (groupParent entry) = some p := by
  refine ⟨by decide, by decide, by decide, ⟨[], by decide +kernel⟩, ?_⟩
  repeat' apply And.intro
  all_goals decide +kernel

theorem witness_CollectiveDeviceResults_4 :
    let s : State := (inS id).modCore 0 fun z => { z with rounds := [{ round0 with group := 63, ports := [(0, { leaves := [(0, [5])], mode := 0, routine := none, fnver := 3, lanes := [], flags := 0, agrees := true })] }], groups := z.groups.set 63 0x1006382001 }
    let core : Nat := 0
    let b : Nat := 0
    let c : Nat := 0
    let g : Nat := 63
    let r : Round := { round0 with group := 63, ports := [(0, { leaves := [(0, [5])], mode := 0, routine := none, fnver := 3, lanes := [], flags := 0, agrees := true })] }
    let x : Contribution := { leaves := [(0, [5])], mode := 0, routine := none, fnver := 3, lanes := [], flags := 0, agrees := true }
    let lanes : List Word := [5]
    let entry := (s.core core).groupEntry g
    let inWait := ∃ rest, (s.core core).rounds = r :: rest ∧ r.group = g
    b < 8 ∧ c < 512 ∧ g < 64 ∧ inWait ∧ r.sent = false ∧ r.hosted = none ∧ r.ports = [(0, x)] ∧ r.opened = true ∧
      r.coming = none ∧ r.result = none ∧ groupValid entry = true ∧ groupChildren entry = [0] ∧ (s.die (dieOf
      core)).mgmt.getLsbD 2 = true ∧ groupParent entry = 7 ∧ groupLeaves entry = 1 ∧ x.agrees = true ∧ groupOper entry =
      0 ∧ isFloatType (groupFmt entry) = false ∧ x.leaves = [(s.endpoint core, lanes)] ∧ lanes.length = groupLen entry ∧
      lanes.all (fun w => decide (w.toNat < 2 ^ laneWidth (groupFmt entry))) = true ∧ core < 4096 := by
  refine ⟨by decide, by decide, by decide, ⟨[], by decide +kernel⟩, ?_⟩
  repeat' apply And.intro
  all_goals decide +kernel

theorem witness_CollectiveDeviceResults_5 :
    let s : State := (inS id).modCore 0 fun z => { z with rounds := [{ round0 with group := 63, coming := some ([5], 1) }], groups := z.groups.set 63 0x1000082001 }
    let core : Nat := 0
    let b : Nat := 0
    let c : Nat := 0
    let g : Nat := 63
    let r : Round := { round0 with group := 63, coming := some ([5], 1) }
    let res : List Word × BitVec 5 := ([5], 1)
    let inWait := ∃ rest, (s.core core).rounds = r :: rest ∧ r.group = g
    b < 8 ∧ c < 512 ∧ g < 64 ∧ inWait ∧ r.coming = some res := by
  refine ⟨by decide, by decide, by decide, ⟨[], by decide +kernel⟩, ?_⟩
  repeat' apply And.intro
  all_goals decide +kernel

theorem witness_CollectiveDeviceResults_6 :
    let s : State := (inS id).modCore 0 fun z => { z with rounds := [{ round0 with group := 63, hosted := some [[1, 2, 3, 4, 5, 6, 7, 8]] }], groups := z.groups.set 63 0x1000082001 }
    let core : Nat := 0
    let b : Nat := 0
    let c : Nat := 0
    let g : Nat := 63
    let r : Round := { round0 with group := 63, hosted := some [[1, 2, 3, 4, 5, 6, 7, 8]] }
    let recs : List (List Word) := [[1, 2, 3, 4, 5, 6, 7, 8]]
    let inWait := ∃ rest, (s.core core).rounds = r :: rest ∧ r.group = g
    b < 8 ∧ c < 512 ∧ g < 64 ∧ inWait ∧ r.hosted = some recs ∧ recs.length ≤ (s.die (dieOf core)).faultRoom := by
  refine ⟨by decide, by decide, by decide, ⟨[], by decide +kernel⟩, ?_⟩
  repeat' apply And.intro
  all_goals decide +kernel

theorem witness_CollectiveDeviceResults_7 :
    let s : State := queued (store0 (.priv 0) (0x600000 + 0x80 * 63 + 0x40) 0x8000000000000003) (((inS id).modDie 0 fun z => { z with mgmt := 0x1F }).modCore 0 fun z => { z with rounds := [], groups := z.groups.set 63 0x1000382001 })
    let core : Nat := 0
    let seq : Nat := 1
    let b : Nat := 0
    let c : Nat := 0
    let g : Nat := 63
    let e : PathEntry := store0 (.priv 0) (0x600000 + 0x80 * 63 + 0x40) 0x8000000000000003
    let v : Word := 0x8000000000000003
    let go := writes s core seq e (.priv b) (0x600000 + 0x2000 * c + 0x80 * g + 0x40) v ∧ v.getLsbD 63 = true
    let hosted := (s.die b).mgmt.getLsbD 2 = false
    b < 8 ∧ c < 512 ∧ g < 64 ∧ go ∧ ¬ hosted := by decide +kernel

theorem witness_CollectiveDeviceResults_8 :
    let s : State := queued (store0 (.priv 0) (0x600000 + 0x80 * 63 + 0x40) 0x8000000000000003) (((inS id).modDie 0 fun z => { z with mgmt := 0x1B }).modCore 0 fun z => { z with rounds := [], groups := z.groups.set 63 0x1000382001 })
    let core : Nat := 0
    let seq : Nat := 1
    let b : Nat := 0
    let c : Nat := 0
    let g : Nat := 63
    let e : PathEntry := store0 (.priv 0) (0x600000 + 0x80 * 63 + 0x40) 0x8000000000000003
    let v : Word := 0x8000000000000003
    let at_ := 512 * b + c
    let go := writes s core seq e (.priv b) (0x600000 + 0x2000 * c + 0x80 * g + 0x40) v ∧ v.getLsbD 63 = true
    let hosted := (s.die b).mgmt.getLsbD 2 = false
    let tree := (s.core at_).groupEntry g
    let isRoot := tree.getLsbD 0 = true ∧ groupParent tree = 7
    let awaits (t : State) (n : Nat) : Bool := ((t.core n).openRound g).any fun r => r.coming.isNone && r.result.isNone
    let leaves := s.treeLeaves g 384 at_
    b < 8 ∧ c < 512 ∧ g < 64 ∧ go ∧ hosted ∧ (¬ isRoot ∨ (∀ n ∈ leaves, awaits s n = false)) := by decide +kernel

theorem witness_CollectiveDeviceResults_9 :
    let s : State := queued (store0 (.priv 0) (0x600000 + 0x80 * 63 + 0x40) 0x8000000000000003) (((inS id).modDie 0 fun z => { z with mgmt := 0x1B }).modCore 0 fun z => { z with rounds := [{ round0 with group := 63 }], groups := z.groups.set 63 0x1000082001 })
    let core : Nat := 0
    let seq : Nat := 1
    let b : Nat := 0
    let c : Nat := 0
    let g : Nat := 63
    let e : PathEntry := store0 (.priv 0) (0x600000 + 0x80 * 63 + 0x40) 0x8000000000000003
    let v : Word := 0x8000000000000003
    let at_ := 512 * b + c
    let go := writes s core seq e (.priv b) (0x600000 + 0x2000 * c + 0x80 * g + 0x40) v ∧ v.getLsbD 63 = true
    let hosted := (s.die b).mgmt.getLsbD 2 = false
    let tree := (s.core at_).groupEntry g
    let isRoot := tree.getLsbD 0 = true ∧ groupParent tree = 7
    let awaits (t : State) (n : Nat) : Bool := ((t.core n).openRound g).any fun r => r.coming.isNone && r.result.isNone
    let leaves := s.treeLeaves g 384 at_
    b < 8 ∧ c < 512 ∧ g < 64 ∧ go ∧ hosted ∧ (¬ isRoot ∨ (∀ n ∈ leaves, awaits s n = false)) := by decide +kernel

theorem witness_CollectiveDeviceResults_10 :
    let s : State := queued (store0 (.priv 0) (0x600000 + 0x80 * 63 + 0x40) 0x8000000000000003) (((inS id).modDie 0 fun z => { z with mgmt := 0x1B }).modCore 0 fun z => { z with rounds := [{ round0 with group := 63 }], groups := z.groups.set 63 0x1000382001 })
    let core : Nat := 0
    let seq : Nat := 1
    let b : Nat := 0
    let c : Nat := 0
    let g : Nat := 63
    let e : PathEntry := store0 (.priv 0) (0x600000 + 0x80 * 63 + 0x40) 0x8000000000000003
    let v : Word := 0x8000000000000003
    let at_ := 512 * b + c
    let go := writes s core seq e (.priv b) (0x600000 + 0x2000 * c + 0x80 * g + 0x40) v ∧ v.getLsbD 63 = true
    let hosted := (s.die b).mgmt.getLsbD 2 = false
    let tree := (s.core at_).groupEntry g
    let isRoot := tree.getLsbD 0 = true ∧ groupParent tree = 7
    let awaits (t : State) (n : Nat) : Bool := ((t.core n).openRound g).any fun r => r.coming.isNone && r.result.isNone
    let leaves := s.treeLeaves g 384 at_
    b < 8 ∧ c < 512 ∧ g < 64 ∧ go ∧ hosted ∧ isRoot ∧ (∃ n ∈ leaves, awaits s n = true) := by decide +kernel

theorem witness_HomeResults_1 :
    let s : State := (inS id).modCore 0 fun z => { z with posted := [(store0 (.unit 0) 8 5).acc] }
    let core : Nat := 0
    let k : Nat := 0
    let a : Access := (store0 (.unit 0) 8 5).acc
    (s.core core).posted[k]? = some a ∧ (∀ p ∈ (s.core core).posted.take k, p.loc.home ≠ a.loc.home) := by decide +kernel

theorem witness_HomeResults_2 :
    let s : State := queued (store0 (.unit 0) 8 5) (inS id)
    let core : Nat := 0
    let e : PathEntry := store0 (.unit 0) 8 5
    let seq : Nat := 1
    let ready := s.pathEntry core seq = some e ∧ s.mayPerform core e = true ∧ e.acc.loc.home.isMemory = true ∧
      s.forwardedFirst e.acc = false ∧ s.seamHeld core e.acc e.seq = false
    let plain := e.acc.isFetch = false ∧ ∀ view, e.acc.kind ≠ .load view true
    ready ∧ plain ∧ performs (s.perform core e.acc) = true := by
  repeat' apply And.intro
  all_goals first | decide +kernel | exact ok_of_toOption (by decide +kernel) | exact rfl | exact ⟨_, rfl⟩ | nofun | exact fun v => by cases v <;> decide

theorem witness_HomeResults_3 :
    let s : State := queued (load0 (.unit 0) 8) (stored (unit0 8) (words64 [7]) (inS id))
    let core : Nat := 0
    let e : PathEntry := load0 (.unit 0) 8
    let seq : Nat := 1
    let ready := s.pathEntry core seq = some e ∧ s.mayPerform core e = true ∧ e.acc.loc.home.isMemory = true ∧
      s.forwardedFirst e.acc = false ∧ s.seamHeld core e.acc e.seq = false
    let plain := e.acc.isFetch = false ∧ ∀ view, e.acc.kind ≠ .load view true
    ready ∧ plain ∧ performs (s.perform core e.acc) = true := by
  repeat' apply And.intro
  all_goals first | decide +kernel | exact ok_of_toOption (by decide +kernel) | exact rfl | exact ⟨_, rfl⟩ | nofun | exact fun v => by cases v <;> decide

theorem witness_HomeResults_4 :
    let s : State := queued (load0 (.unit 0) 8) (tagged (unit0 8) { slip := some (0x1000, 64) } (inS id))
    let core : Nat := 0
    let seq : Nat := 1
    let size : Nat := 64
    let e : PathEntry := load0 (.unit 0) 8
    let d : Word := 0x1000
    let ready := s.pathEntry core seq = some e ∧ s.mayPerform core e = true ∧ e.acc.loc.home.isMemory = true ∧
      s.forwardedFirst e.acc = false ∧ s.seamHeld core e.acc e.seq = false
    ready ∧ s.perform core e.acc = .slip d size := by
  repeat' apply And.intro
  all_goals first | decide +kernel | exact ok_of_toOption (by decide +kernel) | exact rfl | exact ⟨_, rfl⟩ | nofun | exact fun v => by cases v <;> decide

theorem witness_HomeResults_5 :
    let s : State := queued ({ load0 (.unit 0) 8 with acc := { (load0 (.unit 0) 8).acc with answers := false, kind := .sync .readTake 0 } }) (inS id)
    let core : Nat := 0
    let seq : Nat := 1
    let e : PathEntry := { load0 (.unit 0) 8 with acc := { (load0 (.unit 0) 8).acc with answers := false, kind := .sync .readTake 0 } }
    let ready := s.pathEntry core seq = some e ∧ s.mayPerform core e = true ∧ e.acc.loc.home.isMemory = true ∧
      s.forwardedFirst e.acc = false ∧ s.seamHeld core e.acc e.seq = false
    ready ∧ s.perform core e.acc = .waits ∧ e.acc.answers = false ∧ s.retryCount e.acc.loc.home < e.acc.loc.home.retryCap
      ∧ e ∈ (s.core core).path := by
  repeat' apply And.intro
  all_goals first | decide +kernel | exact ok_of_toOption (by decide +kernel) | exact rfl | exact ⟨_, rfl⟩ | nofun | exact fun v => by cases v <;> decide

theorem witness_HomeResults_6 :
    let s : State := queued (entry0 { home := .event 0, off := 64 * 31 } 8 (.barrive 31)) ((inS id).modBarrier 0 31 fun q => { q with cfg := 0x3 })
    let core : Nat := 0
    let seq : Nat := 1
    let k : Nat := 0
    let n : Nat := 31
    let e : PathEntry := entry0 { home := .event 0, off := 64 * 31 } 8 (.barrive 31)
    let o := s.barrier k n
    n < 32 ∧ offered s core seq e (.event k) (64 * n) ∧ e.acc.kind = .barrive n ∧ o.hold = false ∧ o.arrived + 1 <
      o.count := by decide +kernel

theorem witness_HomeResults_7 :
    let s : State := { inS id with retry := [(0, store0 (.unit 0) 8 5)] }
    let core : Nat := 0
    let k : Nat := 0
    let e : PathEntry := store0 (.unit 0) 8 5
    let plain := e.acc.isFetch = false ∧ ∀ view, e.acc.kind ≠ .load view true
    let pass := s.passBy k e
    s.retry[k]? = some (core, e) ∧ e.acc.armed = false ∧ s.olderGoes k e = false ∧ (s.serveRetry core e).goes = true ∧
      e.acc.loc.home.isMemory = true ∧ pass.scOpen core e = true ∧ pass.seamHeld core e.acc e.seq = false ∧ plain ∧
      performs (pass.perform core e.acc) = true := by
  repeat' apply And.intro
  all_goals first | decide +kernel | exact ok_of_toOption (by decide +kernel) | exact rfl | exact ⟨_, rfl⟩ | nofun | exact fun v => by cases v <;> decide

theorem witness_HomeResults_8 :
    let s : State := ((inS id).modCore 0 fun z => { z with slipped := [(slipping 3, hop0)] }).modCluster 0 fun z => { z with ctu := [{ asid := 0, size := 0, page := 2, leaf := 0x107 }] }
    let core : Nat := 0
    let e : PathEntry := slipping 3
    let hop : Hop := hop0
    let va := e.acc.va + hop.delta
    let t : State := (s.translate core (s.modeOf core e.acc) va e.acc.kind.need).2
    let seq : Nat := 1
    let l : Loc := { home := .slice 0, off := 8 }
    let m : Bool := false
    let slipped := (s.core core).slipped.find? (fun p => p.1.seq == seq) = some (e, hop)
    let inside := e.acc.root = none ∧ core < 4132
    let more := e.acc.hops.length < 4 ∨ (e.acc.sure = true ∧ e.acc.ending = none)
    let here := ∀ p, (windowOf va.toNat).1 ≠ .peer p
    slipped ∧ inside ∧ more ∧ here ∧ s.translate core (s.modeOf core e.acc) va e.acc.kind.need = (.ok l m, t) := by
  refine ⟨rfl, by decide, by decide, (fun p h => nomatch (show Window.global = .peer p from h)), ?_⟩
  exact Prod.ext (by decide +kernel) rfl

theorem witness_HomeResults_9 :
    let s : State := (inS id).modCore 0 fun z => { z with slipped := [(slipping 3, { hop0 with delta := 0x7FFFFFFFFFEFF8 })] }
    let core : Nat := 0
    let seq : Nat := 1
    let n : Nat := 0
    let off : Nat := 0
    let e : PathEntry := slipping 3
    let hop : Hop := { hop0 with delta := 0x7FFFFFFFFFEFF8 }
    let slipped := (s.core core).slipped.find? (fun p => p.1.seq == seq) = some (e, hop)
    let va := e.acc.va + hop.delta
    let inside := e.acc.root = none ∧ core < 4132
    let more := e.acc.hops.length < 4 ∨ (e.acc.sure = true ∧ e.acc.ending = none)
    slipped ∧ inside ∧ more ∧ windowOf va.toNat = (.peer n, off) := by decide +kernel

theorem witness_HomeResults_10 :
    let s : State := (inS id).modCore 0 fun z => { z with slipped := [(slipping 3, { hop0 with delta := 0xFFFFFFFFFFEFF0 })] }
    let core : Nat := 0
    let seq : Nat := 1
    let n : Nat := 1023
    let off : Nat := 0x1FFFFFFFFFF8
    let e : PathEntry := slipping 3
    let hop : Hop := { hop0 with delta := 0xFFFFFFFFFFEFF0 }
    let slipped := (s.core core).slipped.find? (fun p => p.1.seq == seq) = some (e, hop)
    let va := e.acc.va + hop.delta
    let inside := e.acc.root = none ∧ core < 4132
    let more := e.acc.hops.length < 4 ∨ (e.acc.sure = true ∧ e.acc.ending = none)
    slipped ∧ inside ∧ more ∧ windowOf va.toNat = (.peer n, off) := by decide +kernel

theorem witness_HomeResults_11 :
    let s : State := (inS id).modCore 0 fun z => { z with slipped := [(slipping 4, hop0)] }
    let core : Nat := 0
    let seq : Nat := 1
    let e : PathEntry := slipping 4
    let hop : Hop := hop0
    let slipped := (s.core core).slipped.find? (fun p => p.1.seq == seq) = some (e, hop)
    let inside := e.acc.root = none ∧ core < 4132
    let more := e.acc.hops.length < 4 ∨ (e.acc.sure = true ∧ e.acc.ending = none)
    slipped ∧ inside ∧ ¬ more ∧ e.acc.isFetch = false ∧ e.acc.ending = none ∧ (∀ m, e.acc.kind ≠ .seam m) := by
  repeat' apply And.intro
  all_goals first | decide +kernel | exact ok_of_toOption (by decide +kernel) | exact rfl | exact ⟨_, rfl⟩ | nofun | exact fun v => by cases v <;> decide

theorem witness_HomeResults_12 :
    let s : State := (inS fun z => { z with status := .parked .answer }).modCore 0 fun z => { z with answers := [(0, Ans.val 7 [])] }
    let x : Ans := Ans.val 7 []
    (s.core s.here).answers.find? (fun p => p.1 == s.cur) = some (s.cur, x) ∧ s.me.status = .parked .answer := by decide +kernel

theorem witness_HomeResults_13 :
    let s : State := inS fun z => { z with status := .parked .drain }
    s.me.status = .parked .drain ∧ s.storesPending s.cur = false := by decide +kernel

theorem witness_HomeResults_14 :
    let s : State := (inS fun z => { z with status := .parked (.walk 0x1FFF false false) }).modCluster 0 fun z => { z with walks := [{ asid := 0, root := 0, va := 0x1000, write := false, user := false, setsA := false }] }
    let k : Nat := 0
    let n : Nat := 0
    let wk : Walk := { asid := 0, root := 0, va := 0x1000, write := false, user := false, setsA := false }
    k < 64 ∧ (s.cluster n).walks[k]? = some wk := by decide +kernel

theorem witness_HomeResults_15 :
    let s : State := queued (store0 (.priv 7) 0 0xFFFFFFFFFFFFFFFF) (inS id)
    let core : Nat := 0
    let seq : Nat := 1
    let b : Nat := 7
    let e : PathEntry := store0 (.priv 7) 0 0xFFFFFFFFFFFFFFFF
    let w : Word := 0xFFFFFFFFFFFFFFFF
    b < 8 ∧ writes s core seq e (.priv b) 0 w := by decide +kernel

theorem witness_HomeResults_16 :
    let s : State := queued (store0 (.priv 7) 0x20000 0xFFFFFFFFFFFFFFFF) (inS id)
    let core : Nat := 0
    let seq : Nat := 1
    let b : Nat := 7
    let e : PathEntry := store0 (.priv 7) 0x20000 0xFFFFFFFFFFFFFFFF
    let w : Word := 0xFFFFFFFFFFFFFFFF
    b < 8 ∧ writes s core seq e (.priv b) 0x20000 w := by decide +kernel

theorem witness_HomeResults_17 :
    let s : State := (inS id).modCore 0 fun z => { z with slipped := [({ slipping 4 with acc := { (slipping 4).acc with sure := true } }, { hop0 with delta := 0xFFFFFFFFFFEFF0 })] }
    let core : Nat := 0
    let seq : Nat := 1
    let n : Nat := 1023
    let off : Nat := 0x1FFFFFFFFFF8
    let e : PathEntry := { slipping 4 with acc := { (slipping 4).acc with sure := true } }
    let hop : Hop := { hop0 with delta := 0xFFFFFFFFFFEFF0 }
    let slipped := (s.core core).slipped.find? (fun p => p.1.seq == seq) = some (e, hop)
    let va := e.acc.va + hop.delta
    let inside := e.acc.root = none ∧ core < 4132
    let more := e.acc.hops.length < 4 ∨ (e.acc.sure = true ∧ e.acc.ending = none)
    slipped ∧ inside ∧ more ∧ windowOf va.toNat = (.peer n, off) := by decide +kernel

theorem witness_HomeResults_18 :
    let s : State := (inS id).modCore 0 fun z => { z with slipped := [({ (slipping 4) with acc := { (slipping 4).acc with answers := false, kind := .fetch .plain, op := some 1 } }, hop0)] }
    let core : Nat := 0
    let seq : Nat := 1
    let e : PathEntry := { (slipping 4) with acc := { (slipping 4).acc with answers := false, kind := .fetch .plain, op := some 1 } }
    let hop : Hop := hop0
    let slipped := (s.core core).slipped.find? (fun p => p.1.seq == seq) = some (e, hop)
    let inside := e.acc.root = none ∧ core < 4132
    let more := e.acc.hops.length < 4 ∨ (e.acc.sure = true ∧ e.acc.ending = none)
    slipped ∧ inside ∧ ¬ more ∧ e.acc.isFetch = true := by
  repeat' apply And.intro
  all_goals first | decide +kernel | exact ok_of_toOption (by decide +kernel) | exact rfl | exact ⟨_, rfl⟩ | nofun | exact fun v => by cases v <;> decide

theorem witness_HomeResults_19 :
    let s : State := (withOp (op0 (.copy (copyGeom 8 0) 0 1 8)) (inS id)).modCore 0 fun z => { z with slipped := [({ (slipping 4) with acc := { (slipping 4).acc with answers := false, sure := true, op := some 1, kind := .store (bytesOfNat 8 5) none false, ending := some { status := 9, word1 := 8, flags := 0#5 } } }, hop0)] }
    let core : Nat := 0
    let seq : Nat := 1
    let e : PathEntry := { (slipping 4) with acc := { (slipping 4).acc with answers := false, sure := true, op := some 1, kind := .store (bytesOfNat 8 5) none false, ending := some { status := 9, word1 := 8, flags := 0#5 } } }
    let hop : Hop := hop0
    let id : Nat := 1
    let fin : Outcome := { status := 9, word1 := 8, flags := 0#5 }
    let slipped := (s.core core).slipped.find? (fun p => p.1.seq == seq) = some (e, hop)
    let inside := e.acc.root = none ∧ core < 4132
    let more := e.acc.hops.length < 4 ∨ (e.acc.sure = true ∧ e.acc.ending = none)
    slipped ∧ inside ∧ ¬ more ∧ e.acc.isFetch = false ∧ e.acc.op = some id ∧ e.acc.ending = some fin ∧ (∀ m, e.acc.kind ≠
      .seam m) := by
  repeat' apply And.intro
  all_goals first | decide +kernel | exact ok_of_toOption (by decide +kernel) | exact rfl | exact ⟨_, rfl⟩ | nofun | exact fun v => by cases v <;> decide

theorem witness_HomeResults_20 :
    let s : State := ((withOp (op0 (.copy (copyGeom 8 0) 0 1 8)) (inS id)).modCore 0 fun z => { z with slipped := [({ (slipping 3) with acc := { (slipping 3).acc with answers := false, sure := true, op := some 1, kind := .store (bytesOfNat 8 5) none false, ending := some { status := 9, word1 := 8, flags := 0#5 } } }, hop0)] }).modCluster 0 fun z => { z with ctu := [{ asid := 0, size := 0, page := 2, leaf := 0x103 }] }
    let core : Nat := 0
    let e : PathEntry := { (slipping 3) with acc := { (slipping 3).acc with answers := false, sure := true, op := some 1, kind := .store (bytesOfNat 8 5) none false, ending := some { status := 9, word1 := 8, flags := 0#5 } } }
    let hop : Hop := hop0
    let va := e.acc.va + hop.delta
    let t : State := (s.translate core (s.modeOf core e.acc) va e.acc.kind.need).2
    let seq : Nat := 1
    let p : EngineOp := op0 (.copy (copyGeom 8 0) 0 1 8)
    let tr : Trap := { code := 7, badva := 0x2008, tval2 := 0x303 }
    let slipped := (s.core core).slipped.find? (fun p => p.1.seq == seq) = some (e, hop)
    let inside := e.acc.root = none ∧ core < 4132
    let more := e.acc.hops.length < 4 ∨ (e.acc.sure = true ∧ e.acc.ending = none)
    let here := ∀ p, (windowOf va.toNat).1 ≠ .peer p
    slipped ∧ inside ∧ more ∧ here ∧ e.acc.sure = true ∧ s.translate core (s.modeOf core e.acc) va e.acc.kind.need =
      (.fault tr, t) ∧ (t.core core).openOp e.acc = some p := by
  refine ⟨rfl, by decide, by decide, (fun p h => nomatch (show Window.global = .peer p from h)), by decide, ?_, by decide +kernel⟩
  exact Prod.ext (by decide +kernel) rfl

theorem witness_HomeResults_21 :
    let s : State := { (inS fun z => { z with status := .parked .answer, inst := some 0x31000000 }) with retry := [(0, { load0 (.unit 0) 8 with acc := { (load0 (.unit 0) 8).acc with kind := .sync .readTake 0 } })] }
    let core : Nat := 0
    let k : Nat := 0
    let e : PathEntry := { load0 (.unit 0) 8 with acc := { (load0 (.unit 0) 8).acc with kind := .sync .readTake 0 } }
    s.retry[k]? = some (core, e) ∧ e.acc.armed = false ∧ s.olderGoes k e = false ∧ s.serveRetry core e = .waits (some 4)
      ∧ e.acc.answers = true ∧ (s.strand e.acc.strand).status = .parked .answer := by
  repeat' apply And.intro
  all_goals first | decide +kernel | exact ok_of_toOption (by decide +kernel) | exact rfl | exact ⟨_, rfl⟩ | nofun | exact fun v => by cases v <;> decide

theorem witness_CopyAndGatherSteps_1 :
    let s : State := withOp ({ op0 (.copy (copyGeom 8 0) 0 0 0) with todo := { (store0 (.cluster 0) 8 5).acc with answers := false, op := some 1 } :: [] }) (inS id)
    let core : Nat := 0
    let id : Nat := 1
    let o : EngineOp := { op0 (.copy (copyGeom 8 0) 0 0 0) with todo := { (store0 (.cluster 0) 8 5).acc with answers := false, op := some 1 } :: [] }
    let os : List EngineOp := []
    let next : Access := { (store0 (.cluster 0) 8 5).acc with answers := false, op := some 1 }
    let rest : List Access := []
    let held := (s.core core).ops = o :: os ∧ o.id = id
    held ∧ o.todo = next :: rest := by
  repeat' apply And.intro
  all_goals first | decide +kernel | exact ok_of_toOption (by decide +kernel) | exact rfl | exact ⟨_, rfl⟩ | nofun | exact fun v => by cases v <;> decide

theorem witness_CopyAndGatherSteps_2 :
    let s : State := withOp ({ op0 (.gather gather0 1 none none) with todo := { (store0 (.cluster 0) 8 5).acc with answers := false, op := some 1 } :: [{ (store0 (.cluster 0) 8 5).acc with answers := false, op := some 1 }] }) (inS id)
    let core : Nat := 0
    let id : Nat := 1
    let o : EngineOp := { op0 (.gather gather0 1 none none) with todo := { (store0 (.cluster 0) 8 5).acc with answers := false, op := some 1 } :: [{ (store0 (.cluster 0) 8 5).acc with answers := false, op := some 1 }] }
    let os : List EngineOp := []
    let next : Access := { (store0 (.cluster 0) 8 5).acc with answers := false, op := some 1 }
    let rest : List Access := [{ (store0 (.cluster 0) 8 5).acc with answers := false, op := some 1 }]
    let held := (s.core core).ops = o :: os ∧ o.id = id
    held ∧ o.todo = next :: rest := by
  repeat' apply And.intro
  all_goals first | decide +kernel | exact ok_of_toOption (by decide +kernel) | exact rfl | exact ⟨_, rfl⟩ | nofun | exact fun v => by cases v <;> decide

theorem witness_CopyAndGatherSteps_3 :
    let s : State := withOp ({ op0 (.copy (copyGeom 0 0) 0 0 0) with reads := [], todo := [] }) (inS id)
    let core : Nat := 0
    let id : Nat := 1
    let row : Nat := 0
    let pos : Nat := 0
    let o : EngineOp := { op0 (.copy (copyGeom 0 0) 0 0 0) with reads := [], todo := [] }
    let os : List EngineOp := []
    let g : Vector Word 13 := copyGeom 0 0
    let rm : BitVec 3 := 0
    let held := (s.core core).ops = o :: os ∧ o.id = id
    let running := held ∧ o.todo = [] ∧ o.done = none ∧ o.parked = false
    let copying := running ∧ o.kind = .copy g rm row pos
    copying ∧ geomEmpty g = true := by
  repeat' apply And.intro
  all_goals first | decide +kernel | exact ok_of_toOption (by decide +kernel) | exact rfl | exact ⟨_, rfl⟩ | nofun | exact fun v => by cases v <;> decide

theorem witness_CopyAndGatherSteps_4 :
    let s : State := withOp ({ op0 (.copy (copyGeom 8 0) 0 0 0) with reads := [{ seq := some 0, got := none }], todo := [] }) (inS id)
    let core : Nat := 0
    let id : Nat := 1
    let row : Nat := 0
    let pos : Nat := 0
    let o : EngineOp := { op0 (.copy (copyGeom 8 0) 0 0 0) with reads := [{ seq := some 0, got := none }], todo := [] }
    let os : List EngineOp := []
    let g : Vector Word 13 := copyGeom 8 0
    let rm : BitVec 3 := 0
    let from_ : Nat := 0
    let into : Nat := 0
    let r := copyRowOf g rm row
    let row_ := s.stepRow (copySender core o g) o r from_ into
    let held := (s.core core).ops = o :: os ∧ o.id = id
    let running := held ∧ o.todo = [] ∧ o.done = none ∧ o.parked = false
    let copying := running ∧ o.kind = .copy g rm row pos
    copying ∧ geomEmpty g = false ∧ row_ = none := by
  repeat' apply And.intro
  all_goals first | decide +kernel | exact ok_of_toOption (by decide +kernel) | exact rfl | exact ⟨_, rfl⟩ | nofun | exact fun v => by cases v <;> decide

theorem witness_CopyAndGatherSteps_5 :
    let s : State := withOp ({ op0 (.copy (copyGeom 8 0) 0 0 0) with reads := [], todo := [] }) (inS id)
    let core : Nat := 0
    let id : Nat := 1
    let row : Nat := 0
    let pos : Nat := 0
    let o : EngineOp := { op0 (.copy (copyGeom 8 0) 0 0 0) with reads := [], todo := [] }
    let os : List EngineOp := []
    let g : Vector Word 13 := copyGeom 8 0
    let rm : BitVec 3 := 0
    let from_ : Nat := 0
    let into : Nat := 0
    let r := copyRowOf g rm row
    let row_ := s.stepRow (copySender core o g) o r from_ into
    let held := (s.core core).ops = o :: os ∧ o.id = id
    let running := held ∧ o.todo = [] ∧ o.done = none ∧ o.parked = false
    let copying := running ∧ o.kind = .copy g rm row pos
    copying ∧ geomEmpty g = false ∧ fetches row_ = true := by
  repeat' apply And.intro
  all_goals first | decide +kernel | exact ok_of_toOption (by decide +kernel) | exact rfl | exact ⟨_, rfl⟩ | nofun | exact fun v => by cases v <;> decide

theorem witness_CopyAndGatherSteps_6 :
    let s : State := withOp ({ op0 (.copy (copyGeom 8 0) 0 0 0) with reads := back0 (got0 (List.replicate 8 5)), todo := [] }) (inS id)
    let core : Nat := 0
    let id : Nat := 1
    let row : Nat := 0
    let pos : Nat := 0
    let n : Nat := 8
    let o : EngineOp := { op0 (.copy (copyGeom 8 0) 0 0 0) with reads := back0 (got0 (List.replicate 8 5)), todo := [] }
    let os : List EngineOp := []
    let g : Vector Word 13 := copyGeom 8 0
    let rm : BitVec 3 := 0
    let from_ : Nat := 0
    let into : Nat := 0
    let r := copyRowOf g rm row
    let row_ := s.stepRow (copySender core o g) o r from_ into
    let held := (s.core core).ops = o :: os ∧ o.id = id
    let running := held ∧ o.todo = [] ∧ o.done = none ∧ o.parked = false
    let copying := running ∧ o.kind = .copy g rm row pos
    copying ∧ geomEmpty g = false ∧ row + 1 = rowCount g ∧ moves row_ n n = true := by
  repeat' apply And.intro
  all_goals first | decide +kernel | exact ok_of_toOption (by decide +kernel) | exact rfl | exact ⟨_, rfl⟩ | nofun | exact fun v => by cases v <;> decide

theorem witness_CopyAndGatherSteps_7 :
    let s : State := withOp ({ op0 (.copy (#v[0x0100000000000100, 0x0101000000000000, 8, 2, 1, 1, 8, 0, 0, 8, 0, 0, 0]) 0 1 8) with reads := back0 (got0 (List.replicate 8 5)), todo := [] }) (inS id)
    let core : Nat := 0
    let id : Nat := 1
    let row : Nat := 1
    let pos : Nat := 8
    let n : Nat := 8
    let o : EngineOp := { op0 (.copy (#v[0x0100000000000100, 0x0101000000000000, 8, 2, 1, 1, 8, 0, 0, 8, 0, 0, 0]) 0 1 8) with reads := back0 (got0 (List.replicate 8 5)), todo := [] }
    let os : List EngineOp := []
    let g : Vector Word 13 := #v[0x0100000000000100, 0x0101000000000000, 8, 2, 1, 1, 8, 0, 0, 8, 0, 0, 0]
    let rm : BitVec 3 := 0
    let from_ : Nat := 0
    let into : Nat := 0
    let r := copyRowOf g rm row
    let row_ := s.stepRow (copySender core o g) o r from_ into
    let held := (s.core core).ops = o :: os ∧ o.id = id
    let running := held ∧ o.todo = [] ∧ o.done = none ∧ o.parked = false
    let copying := running ∧ o.kind = .copy g rm row pos
    copying ∧ geomEmpty g = false ∧ row + 1 = rowCount g ∧ moves row_ n n = true := by
  repeat' apply And.intro
  all_goals first | decide +kernel | exact ok_of_toOption (by decide +kernel) | exact rfl | exact ⟨_, rfl⟩ | nofun | exact fun v => by cases v <;> decide

theorem witness_CopyAndGatherSteps_8 :
    let s : State := withOp ({ op0 (.copy (#v[0x0100000000000100, 0x0101000000000000, 8, 2, 1, 1, 8, 0, 0, 8, 0, 0, 0]) 0 0 0) with reads := back0 (got0 (List.replicate 8 5)), todo := [] }) (inS id)
    let core : Nat := 0
    let id : Nat := 1
    let row : Nat := 0
    let pos : Nat := 0
    let n : Nat := 8
    let o : EngineOp := { op0 (.copy (#v[0x0100000000000100, 0x0101000000000000, 8, 2, 1, 1, 8, 0, 0, 8, 0, 0, 0]) 0 0 0) with reads := back0 (got0 (List.replicate 8 5)), todo := [] }
    let os : List EngineOp := []
    let g : Vector Word 13 := #v[0x0100000000000100, 0x0101000000000000, 8, 2, 1, 1, 8, 0, 0, 8, 0, 0, 0]
    let rm : BitVec 3 := 0
    let from_ : Nat := 0
    let into : Nat := 0
    let r := copyRowOf g rm row
    let row_ := s.stepRow (copySender core o g) o r from_ into
    let held := (s.core core).ops = o :: os ∧ o.id = id
    let running := held ∧ o.todo = [] ∧ o.done = none ∧ o.parked = false
    let copying := running ∧ o.kind = .copy g rm row pos
    copying ∧ geomEmpty g = false ∧ row + 1 ≠ rowCount g ∧ moves row_ n n = true := by
  repeat' apply And.intro
  all_goals first | decide +kernel | exact ok_of_toOption (by decide +kernel) | exact rfl | exact ⟨_, rfl⟩ | nofun | exact fun v => by cases v <;> decide

theorem witness_CopyAndGatherSteps_9 :
    let s : State := withOp ({ op0 (.copy (copyGeom 72 0) 0 0 0) with reads := back0 (got0 (List.replicate 64 5)) ++ back0 { got0 (List.replicate 8 5) with line := true }, todo := [] }) (inS id)
    let core : Nat := 0
    let id : Nat := 1
    let row : Nat := 0
    let pos : Nat := 0
    let n : Nat := 72
    let good : Nat := 64
    let o : EngineOp := { op0 (.copy (copyGeom 72 0) 0 0 0) with reads := back0 (got0 (List.replicate 64 5)) ++ back0 { got0 (List.replicate 8 5) with line := true }, todo := [] }
    let os : List EngineOp := []
    let g : Vector Word 13 := copyGeom 72 0
    let rm : BitVec 3 := 0
    let from_ : Nat := 0
    let into : Nat := 0
    let r := copyRowOf g rm row
    let row_ := s.stepRow (copySender core o g) o r from_ into
    let held := (s.core core).ops = o :: os ∧ o.id = id
    let running := held ∧ o.todo = [] ∧ o.done = none ∧ o.parked = false
    let copying := running ∧ o.kind = .copy g rm row pos
    copying ∧ geomEmpty g = false ∧ good < n ∧ moves row_ n good = true := by
  repeat' apply And.intro
  all_goals first | decide +kernel | exact ok_of_toOption (by decide +kernel) | exact rfl | exact ⟨_, rfl⟩ | nofun | exact fun v => by cases v <;> decide

theorem witness_CopyAndGatherSteps_10 :
    let s : State := withOp ({ op0 (.copy (#v[0x0100000000000100, 0x0103000000000000, 8, 1, 1, 1, 0, 0, 0, 0, 0, 0, 0]) 0 0 0) with reads := [], todo := [] }) (inS id)
    let core : Nat := 0
    let id : Nat := 1
    let row : Nat := 0
    let pos : Nat := 0
    let st : Nat := 6
    let o : EngineOp := { op0 (.copy (#v[0x0100000000000100, 0x0103000000000000, 8, 1, 1, 1, 0, 0, 0, 0, 0, 0, 0]) 0 0 0) with reads := [], todo := [] }
    let os : List EngineOp := []
    let g : Vector Word 13 := #v[0x0100000000000100, 0x0103000000000000, 8, 1, 1, 1, 0, 0, 0, 0, 0, 0, 0]
    let rm : BitVec 3 := 0
    let from_ : Nat := 0
    let into : Nat := 0
    let r := copyRowOf g rm row
    let row_ := s.stepRow (copySender core o g) o r from_ into
    let held := (s.core core).ops = o :: os ∧ o.id = id
    let running := held ∧ o.todo = [] ∧ o.done = none ∧ o.parked = false
    let copying := running ∧ o.kind = .copy g rm row pos
    copying ∧ geomEmpty g = false ∧ stopsAt row_ st = true := by
  repeat' apply And.intro
  all_goals first | decide +kernel | exact ok_of_toOption (by decide +kernel) | exact rfl | exact ⟨_, rfl⟩ | nofun | exact fun v => by cases v <;> decide

theorem witness_CopyAndGatherSteps_11 :
    let s : State := withOp ({ op0 (.copy (copyGeom 8 0) 0 0 0) with reads := [], todo := [] }) (inS id)
    let core : Nat := 0
    let n : Nat := 64
    let a : Nat := 0
    let b : Nat := 0x80000000000000
    let o : EngineOp := { op0 (.copy (copyGeom 8 0) 0 0 0) with reads := [], todo := [] }
    let into : Nat := 0
    let one : Row := { src := 0x0100000000000000 + a, n := n, dst := clusterBase + b, nd := n, skip := 0, fe := false, conv := fun bs => (bs, []) }
    let fromUnit := core < 4096 ∧ 0 < n ∧ a % 64 + n ≤ 64 ∧ a + n ≤ 0x20000
    fromUnit ∧ o.reads = [] ∧ guardsPass (s.core core) o.mode one.src n .read = true ∧ 2 ^ 55 ≤ b ∧ b % 2 ^ 45 + n ≤ 2 ^
      45 ∧ b + n ≤ 2 ^ 56 ∧ guardsPass (s.core core) o.mode b n .write = true ∧ s.inCompute core = false ∧ (into ≠ 0 ∨
      s.allDown = true) := by
  repeat' apply And.intro
  all_goals first | decide +kernel | exact ok_of_toOption (by decide +kernel) | exact rfl | exact ⟨_, rfl⟩ | nofun | exact fun v => by cases v <;> decide

theorem witness_CopyAndGatherSteps_12 :
    let s : State := withOp ({ op0 (.copy (copyGeom 8 0) 0 0 0) with reads := [], todo := [] }) (inS id)
    let core : Nat := 0
    let n : Nat := 64
    let a : Nat := 0
    let b : Nat := 0xFFFFFFFFFFFFC0
    let o : EngineOp := { op0 (.copy (copyGeom 8 0) 0 0 0) with reads := [], todo := [] }
    let into : Nat := 0
    let one : Row := { src := 0x0100000000000000 + a, n := n, dst := clusterBase + b, nd := n, skip := 0, fe := false, conv := fun bs => (bs, []) }
    let fromUnit := core < 4096 ∧ 0 < n ∧ a % 64 + n ≤ 64 ∧ a + n ≤ 0x20000
    fromUnit ∧ o.reads = [] ∧ guardsPass (s.core core) o.mode one.src n .read = true ∧ 2 ^ 55 ≤ b ∧ b % 2 ^ 45 + n ≤ 2 ^
      45 ∧ b + n ≤ 2 ^ 56 ∧ guardsPass (s.core core) o.mode b n .write = true ∧ s.inCompute core = false ∧ (into ≠ 0 ∨
      s.allDown = true) := by
  repeat' apply And.intro
  all_goals first | decide +kernel | exact ok_of_toOption (by decide +kernel) | exact rfl | exact ⟨_, rfl⟩ | nofun | exact fun v => by cases v <;> decide

theorem witness_CopyAndGatherSteps_13 :
    let s : State := withOp ({ op0 (.copy (copyGeom 8 0) 0 0 0) with reads := [], todo := [] }) ({ inS id with hub := { (inS id).hub with ports := Vector.replicate 16 { Port.reset with lstate := 2 } } })
    let core : Nat := 0
    let n : Nat := 64
    let a : Nat := 0
    let b : Nat := 0x80000000000000
    let o : EngineOp := { op0 (.copy (copyGeom 8 0) 0 0 0) with reads := [], todo := [] }
    let into : Nat := 1
    let one : Row := { src := 0x0100000000000000 + a, n := n, dst := clusterBase + b, nd := n, skip := 0, fe := false, conv := fun bs => (bs, []) }
    let fromUnit := core < 4096 ∧ 0 < n ∧ a % 64 + n ≤ 64 ∧ a + n ≤ 0x20000
    fromUnit ∧ o.reads = [] ∧ guardsPass (s.core core) o.mode one.src n .read = true ∧ 2 ^ 55 ≤ b ∧ b % 2 ^ 45 + n ≤ 2 ^
      45 ∧ b + n ≤ 2 ^ 56 ∧ guardsPass (s.core core) o.mode b n .write = true ∧ s.inCompute core = false ∧ (into ≠ 0 ∨
      s.allDown = true) := by
  repeat' apply And.intro
  all_goals first | decide +kernel | exact ok_of_toOption (by decide +kernel) | exact rfl | exact ⟨_, rfl⟩ | nofun | exact fun v => by cases v <;> decide

theorem witness_CopyAndGatherSteps_14 :
    let s : State := withOp ({ op0 (.copy (copyGeom 8 0) 0 0 0) with reads := [], todo := [] }) ({ inS id with hub := { (inS id).hub with ports := Vector.replicate 16 { Port.reset with lstate := 2 } } })
    let core : Nat := 0
    let n : Nat := 64
    let a : Nat := 0
    let b : Nat := 0xFFFFFFFFFFFFC0
    let o : EngineOp := { op0 (.copy (copyGeom 8 0) 0 0 0) with reads := [], todo := [] }
    let into : Nat := 1
    let one : Row := { src := 0x0100000000000000 + a, n := n, dst := clusterBase + b, nd := n, skip := 0, fe := false, conv := fun bs => (bs, []) }
    let fromUnit := core < 4096 ∧ 0 < n ∧ a % 64 + n ≤ 64 ∧ a + n ≤ 0x20000
    fromUnit ∧ o.reads = [] ∧ guardsPass (s.core core) o.mode one.src n .read = true ∧ 2 ^ 55 ≤ b ∧ b % 2 ^ 45 + n ≤ 2 ^
      45 ∧ b + n ≤ 2 ^ 56 ∧ guardsPass (s.core core) o.mode b n .write = true ∧ s.inCompute core = false ∧ (into ≠ 0 ∨
      s.allDown = true) := by
  repeat' apply And.intro
  all_goals first | decide +kernel | exact ok_of_toOption (by decide +kernel) | exact rfl | exact ⟨_, rfl⟩ | nofun | exact fun v => by cases v <;> decide

theorem witness_CopyAndGatherSteps_15 :
    let s : State := withOp ({ op0 (.copy (copyGeom 8 0) 0 0 0) with reads := [], todo := [] }) ({ inS id with hub := { (inS id).hub with ports := Vector.replicate 16 { Port.reset with lstate := 2 } } })
    let core : Nat := 0
    let n : Nat := 64
    let a : Nat := 0
    let b : Nat := 0x80000000000000
    let o : EngineOp := { op0 (.copy (copyGeom 8 0) 0 0 0) with reads := [], todo := [] }
    let into : Nat := 4
    let one : Row := { src := 0x0100000000000000 + a, n := n, dst := clusterBase + b, nd := n, skip := 0, fe := false, conv := fun bs => (bs, []) }
    let fromUnit := core < 4096 ∧ 0 < n ∧ a % 64 + n ≤ 64 ∧ a + n ≤ 0x20000
    fromUnit ∧ o.reads = [] ∧ guardsPass (s.core core) o.mode one.src n .read = true ∧ 2 ^ 55 ≤ b ∧ b % 2 ^ 45 + n ≤ 2 ^
      45 ∧ b + n ≤ 2 ^ 56 ∧ guardsPass (s.core core) o.mode b n .write = true ∧ s.inCompute core = false ∧ (into ≠ 0 ∨
      s.allDown = true) := by
  repeat' apply And.intro
  all_goals first | decide +kernel | exact ok_of_toOption (by decide +kernel) | exact rfl | exact ⟨_, rfl⟩ | nofun | exact fun v => by cases v <;> decide

theorem witness_CopyAndGatherSteps_16 :
    let s : State := withOp ({ op0 (.copy (copyGeom 8 0) 0 0 0) with reads := [], todo := [] }) ({ inS id with hub := { (inS id).hub with ports := Vector.replicate 16 { Port.reset with lstate := 2 } } })
    let core : Nat := 0
    let n : Nat := 64
    let a : Nat := 0
    let b : Nat := 0xFFFFFFFFFFFFC0
    let o : EngineOp := { op0 (.copy (copyGeom 8 0) 0 0 0) with reads := [], todo := [] }
    let into : Nat := 4
    let one : Row := { src := 0x0100000000000000 + a, n := n, dst := clusterBase + b, nd := n, skip := 0, fe := false, conv := fun bs => (bs, []) }
    let fromUnit := core < 4096 ∧ 0 < n ∧ a % 64 + n ≤ 64 ∧ a + n ≤ 0x20000
    fromUnit ∧ o.reads = [] ∧ guardsPass (s.core core) o.mode one.src n .read = true ∧ 2 ^ 55 ≤ b ∧ b % 2 ^ 45 + n ≤ 2 ^
      45 ∧ b + n ≤ 2 ^ 56 ∧ guardsPass (s.core core) o.mode b n .write = true ∧ s.inCompute core = false ∧ (into ≠ 0 ∨
      s.allDown = true) := by
  repeat' apply And.intro
  all_goals first | decide +kernel | exact ok_of_toOption (by decide +kernel) | exact rfl | exact ⟨_, rfl⟩ | nofun | exact fun v => by cases v <;> decide

theorem witness_CopyAndGatherSteps_17 :
    let s : State := withOp ({ op0 (.copy (copyGeom 8 0) 0 0 0) with reads := [], todo := [] }) (inS id)
    let core : Nat := 0
    let n : Nat := 64
    let a : Nat := 0
    let b : Nat := 0
    let o : EngineOp := { op0 (.copy (copyGeom 8 0) 0 0 0) with reads := [], todo := [] }
    let one : Row := { src := 0x0100000000000000 + a, n := n, dst := clusterBase + b, nd := n, skip := 0, fe := false, conv := fun bs => (bs, []) }
    let fromUnit := core < 4096 ∧ 0 < n ∧ a % 64 + n ≤ 64 ∧ a + n ≤ 0x20000
    let inOne := fromUnit ∧ b % 64 + n ≤ 64 ∧ b + n ≤ 0x400000
    inOne ∧ o.reads = [] ∧ guardsPass (s.core core) o.mode one.src n .read = true ∧ guardsPass (s.core core) o.mode
      one.dst n .write = true := by
  repeat' apply And.intro
  all_goals first | decide +kernel | exact ok_of_toOption (by decide +kernel) | exact rfl | exact ⟨_, rfl⟩ | nofun | exact fun v => by cases v <;> decide

theorem witness_CopyAndGatherSteps_18 :
    let core : Nat := 0
    let n : Nat := 64
    let a : Nat := 0
    let b : Nat := 0
    let o : EngineOp := { op0 (.copy (copyGeom 8 0) 0 0 0) with reads := back0 (got0 (List.replicate 64 5)), todo := [] }
    let got : Got := got0 (List.replicate 64 5)
    let fromUnit := core < 4096 ∧ 0 < n ∧ a % 64 + n ≤ 64 ∧ a + n ≤ 0x20000
    let inOne := fromUnit ∧ b % 64 + n ≤ 64 ∧ b + n ≤ 0x400000
    let back := ∃ seq, o.reads = [{ seq := seq, got := some got }]
    inOne ∧ back ∧ got.status = 0 ∧ got.fault = none ∧ got.line = false ∧ got.data.length = n := by
  repeat' apply And.intro
  all_goals first | decide +kernel | exact ok_of_toOption (by decide +kernel) | exact rfl | exact ⟨_, rfl⟩ | nofun | exact fun v => by cases v <;> decide

theorem witness_CopyAndGatherSteps_19 :
    let o : EngineOp := { op0 (.copy (copyGeom 8 0) 0 0 0) with reads := back0 ({ got0 [] with status := 2 }), todo := [] }
    let got : Got := { got0 [] with status := 2 }
    let back := ∃ seq, o.reads = [{ seq := seq, got := some got }]
    back ∧ got.status ≠ 0 ∧ got.fault = none := by
  repeat' apply And.intro
  all_goals first | decide +kernel | exact ok_of_toOption (by decide +kernel) | exact rfl | exact ⟨_, rfl⟩ | nofun | exact fun v => by cases v <;> decide

theorem witness_CopyAndGatherSteps_20 :
    let s : State := withOp ({ op0 (.copy (copyGeom 8 0) 0 0 0) with reads := [], todo := [] }) (inS id)
    let core : Nat := 0
    let n : Nat := 64
    let a : Nat := 131008
    let b : Nat := 4194240
    let o : EngineOp := { op0 (.copy (copyGeom 8 0) 0 0 0) with reads := [], todo := [] }
    let one : Row := { src := 0x0100000000000000 + a, n := n, dst := clusterBase + b, nd := n, skip := 0, fe := false, conv := fun bs => (bs, []) }
    let fromUnit := core < 4096 ∧ 0 < n ∧ a % 64 + n ≤ 64 ∧ a + n ≤ 0x20000
    let inOne := fromUnit ∧ b % 64 + n ≤ 64 ∧ b + n ≤ 0x400000
    inOne ∧ o.reads = [] ∧ guardsPass (s.core core) o.mode one.src n .read = true ∧ guardsPass (s.core core) o.mode
      one.dst n .write = true := by
  repeat' apply And.intro
  all_goals first | decide +kernel | exact ok_of_toOption (by decide +kernel) | exact rfl | exact ⟨_, rfl⟩ | nofun | exact fun v => by cases v <;> decide

theorem witness_CopyAndGatherSteps_21 :
    let core : Nat := 0
    let n : Nat := 64
    let a : Nat := 131008
    let b : Nat := 4194240
    let o : EngineOp := { op0 (.copy (copyGeom 8 0) 0 0 0) with reads := back0 (got0 (List.replicate 64 5)), todo := [] }
    let got : Got := got0 (List.replicate 64 5)
    let fromUnit := core < 4096 ∧ 0 < n ∧ a % 64 + n ≤ 64 ∧ a + n ≤ 0x20000
    let inOne := fromUnit ∧ b % 64 + n ≤ 64 ∧ b + n ≤ 0x400000
    let back := ∃ seq, o.reads = [{ seq := seq, got := some got }]
    inOne ∧ back ∧ got.status = 0 ∧ got.fault = none ∧ got.line = false ∧ got.data.length = n := by
  repeat' apply And.intro
  all_goals first | decide +kernel | exact ok_of_toOption (by decide +kernel) | exact rfl | exact ⟨_, rfl⟩ | nofun | exact fun v => by cases v <;> decide

theorem witness_CopyAndGatherSteps_22 :
    let o : EngineOp := { op0 (.copy (copyGeom 8 0) 0 0 0) with reads := back0 ({ got0 [] with status := 2 }), todo := [] }
    let got : Got := { got0 [] with status := 2 }
    let back := ∃ seq, o.reads = [{ seq := seq, got := some got }]
    back ∧ got.status ≠ 0 ∧ got.fault = none := by
  repeat' apply And.intro
  all_goals first | decide +kernel | exact ok_of_toOption (by decide +kernel) | exact rfl | exact ⟨_, rfl⟩ | nofun | exact fun v => by cases v <;> decide

theorem witness_CopyAndGatherSteps_23 :
    let s : State := withOp ({ op0 (.copy (copyGeom 8 0) 0 0 0) with reads := [], todo := [] }) (inS id)
    let core : Nat := 0
    let n : Nat := 1
    let a : Nat := 63
    let b : Nat := 63
    let o : EngineOp := { op0 (.copy (copyGeom 8 0) 0 0 0) with reads := [], todo := [] }
    let one : Row := { src := 0x0100000000000000 + a, n := n, dst := clusterBase + b, nd := n, skip := 0, fe := false, conv := fun bs => (bs, []) }
    let fromUnit := core < 4096 ∧ 0 < n ∧ a % 64 + n ≤ 64 ∧ a + n ≤ 0x20000
    let inOne := fromUnit ∧ b % 64 + n ≤ 64 ∧ b + n ≤ 0x400000
    inOne ∧ o.reads = [] ∧ guardsPass (s.core core) o.mode one.src n .read = true ∧ guardsPass (s.core core) o.mode
      one.dst n .write = true := by
  repeat' apply And.intro
  all_goals first | decide +kernel | exact ok_of_toOption (by decide +kernel) | exact rfl | exact ⟨_, rfl⟩ | nofun | exact fun v => by cases v <;> decide

theorem witness_CopyAndGatherSteps_24 :
    let core : Nat := 0
    let n : Nat := 1
    let a : Nat := 63
    let b : Nat := 63
    let o : EngineOp := { op0 (.copy (copyGeom 8 0) 0 0 0) with reads := back0 (got0 (List.replicate 1 5)), todo := [] }
    let got : Got := got0 (List.replicate 1 5)
    let fromUnit := core < 4096 ∧ 0 < n ∧ a % 64 + n ≤ 64 ∧ a + n ≤ 0x20000
    let inOne := fromUnit ∧ b % 64 + n ≤ 64 ∧ b + n ≤ 0x400000
    let back := ∃ seq, o.reads = [{ seq := seq, got := some got }]
    inOne ∧ back ∧ got.status = 0 ∧ got.fault = none ∧ got.line = false ∧ got.data.length = n := by
  repeat' apply And.intro
  all_goals first | decide +kernel | exact ok_of_toOption (by decide +kernel) | exact rfl | exact ⟨_, rfl⟩ | nofun | exact fun v => by cases v <;> decide

theorem witness_CopyAndGatherSteps_25 :
    let o : EngineOp := { op0 (.copy (copyGeom 8 0) 0 0 0) with reads := back0 ({ got0 [] with status := 2 }), todo := [] }
    let got : Got := { got0 [] with status := 2 }
    let back := ∃ seq, o.reads = [{ seq := seq, got := some got }]
    back ∧ got.status ≠ 0 ∧ got.fault = none := by
  repeat' apply And.intro
  all_goals first | decide +kernel | exact ok_of_toOption (by decide +kernel) | exact rfl | exact ⟨_, rfl⟩ | nofun | exact fun v => by cases v <;> decide

theorem witness_CopyAndGatherSteps_26 :
    let s : State := withOp ({ op0 (.copy (copyGeom 8 0) 0 1 8) with uid := 1, done := some { status := 0, word1 := 8, flags := 0#5 } }) (inS fun z => { z with unit := some { uid := 1, job := 1, launch := 1, index := 0 } })
    let core : Nat := 0
    let id : Nat := 1
    let row : Nat := 1
    let pos : Nat := 8
    let o : EngineOp := { op0 (.copy (copyGeom 8 0) 0 1 8) with uid := 1, done := some { status := 0, word1 := 8, flags := 0#5 } }
    let os : List EngineOp := []
    let g : Vector Word 13 := copyGeom 8 0
    let rm : BitVec 3 := 0
    let out : Outcome := { status := 0, word1 := 8, flags := 0#5 }
    let held := (s.core core).ops = o :: os ∧ o.id = id
    let ended := held ∧ o.todo = [] ∧ o.done = some out ∧ o.parked = false
    ended ∧ o.kind = .copy g rm row pos := by
  repeat' apply And.intro
  all_goals first | decide +kernel | exact ok_of_toOption (by decide +kernel) | exact rfl | exact ⟨_, rfl⟩ | nofun | exact fun v => by cases v <;> decide

theorem witness_CopyAndGatherSteps_27 :
    let s : State := withOp ({ op0 (.gather ({ gather0 with mark := false }) 0 none none) with reads := [] }) (inS id)
    let core : Nat := 0
    let row : Nat := 0
    let o : EngineOp := { op0 (.gather ({ gather0 with mark := false }) 0 none none) with reads := [] }
    let q : GatherRec := { gather0 with mark := false }
    let id : Nat := 1
    let os : List EngineOp := []
    let first : Option Word := none
    let held := (s.core core).ops = o :: os ∧ o.id = id
    let running := held ∧ o.todo = [] ∧ o.done = none ∧ o.parked = false
    let gathering (index : Option Int) (first : Option Word) := running ∧ o.kind = .gather q row index first
    gathering none first ∧ row < q.nrow ∧ o.reads = [] ∧ (s.readIndex core o q row).toOption.isSome = true := by
  repeat' apply And.intro
  all_goals first | decide +kernel | exact ok_of_toOption (by decide +kernel) | exact rfl | exact ⟨_, rfl⟩ | nofun | exact fun v => by cases v <;> decide

theorem witness_CopyAndGatherSteps_28 :
    let s : State := withOp ({ op0 (.gather ({ gather0 with mark := false }) 0 none none) with reads := back0 (got0 [0xFF, 0xFF, 0xFF, 0xFF]) }) (inS id)
    let core : Nat := 0
    let id : Nat := 1
    let row : Nat := 0
    let o : EngineOp := { op0 (.gather ({ gather0 with mark := false }) 0 none none) with reads := back0 (got0 [0xFF, 0xFF, 0xFF, 0xFF]) }
    let os : List EngineOp := []
    let q : GatherRec := { gather0 with mark := false }
    let first : Option Word := none
    let got : Got := got0 [0xFF, 0xFF, 0xFF, 0xFF]
    let held := (s.core core).ops = o :: os ∧ o.id = id
    let running := held ∧ o.todo = [] ∧ o.done = none ∧ o.parked = false
    let gathering (index : Option Int) (first : Option Word) := running ∧ o.kind = .gather q row index first
    let back := ∃ seq, o.reads = [{ seq := seq, got := some got }]
    gathering none first ∧ row < q.nrow ∧ back ∧ got.status = 0 ∧ got.poison.any (fun p => p) = false := by
  repeat' apply And.intro
  all_goals first | decide +kernel | exact ok_of_toOption (by decide +kernel) | exact rfl | exact ⟨_, rfl⟩ | nofun | exact fun v => by cases v <;> decide

theorem witness_CopyAndGatherSteps_29 :
    let s : State := withOp ({ op0 (.gather ({ gather0 with mark := false }) 0 (some 0) none) with reads := [] }) (inS id)
    let core : Nat := 0
    let id : Nat := 1
    let row : Nat := 0
    let o : EngineOp := { op0 (.gather ({ gather0 with mark := false }) 0 (some 0) none) with reads := [] }
    let os : List EngineOp := []
    let q : GatherRec := { gather0 with mark := false }
    let j : Int := 0
    let first : Option Word := none
    let from_ : Nat := 0
    let into : Nat := 0
    let held := (s.core core).ops = o :: os ∧ o.id = id
    let running := held ∧ o.todo = [] ∧ o.done = none ∧ o.parked = false
    let gathering (index : Option Int) (first : Option Word) := running ∧ o.kind = .gather q row index first
    let src := (q.base.toNat : Int) + j * q.stride.toInt
    let grow := s.stepRow (gatherSender core o) o (gatherRowOf q row src.toNat) from_ into
    gathering (some j) first ∧ row < q.nrow ∧ 0 ≤ src ∧ src + q.rowb - 1 < 2 ^ 57 ∧ fetches grow = true := by
  repeat' apply And.intro
  all_goals first | decide +kernel | exact ok_of_toOption (by decide +kernel) | exact rfl | exact ⟨_, rfl⟩ | nofun | exact fun v => by cases v <;> decide

theorem witness_CopyAndGatherSteps_30 :
    let s : State := withOp ({ op0 (.gather ({ gather0 with mark := false }) 0 (some 0) none) with reads := back0 (got0 (List.replicate 8 5)) }) (inS id)
    let core : Nat := 0
    let id : Nat := 1
    let row : Nat := 0
    let n : Nat := 8
    let o : EngineOp := { op0 (.gather ({ gather0 with mark := false }) 0 (some 0) none) with reads := back0 (got0 (List.replicate 8 5)) }
    let os : List EngineOp := []
    let q : GatherRec := { gather0 with mark := false }
    let j : Int := 0
    let first : Option Word := none
    let gs : List Got := [got0 (List.replicate 8 5)]
    let from_ : Nat := 0
    let into : Nat := 0
    let held := (s.core core).ops = o :: os ∧ o.id = id
    let running := held ∧ o.todo = [] ∧ o.done = none ∧ o.parked = false
    let gathering (index : Option Int) (first : Option Word) := running ∧ o.kind = .gather q row index first
    let src := (q.base.toNat : Int) + j * q.stride.toInt
    let grow := s.stepRow (gatherSender core o) o (gatherRowOf q row src.toNat) from_ into
    gathering (some j) first ∧ row < q.nrow ∧ 0 ≤ src ∧ src + q.rowb - 1 < 2 ^ 57 ∧ readsDone o.reads = some gs ∧ moves
      grow n n = true := by
  repeat' apply And.intro
  all_goals first | decide +kernel | exact ok_of_toOption (by decide +kernel) | exact rfl | exact ⟨_, rfl⟩ | nofun | exact fun v => by cases v <;> decide

theorem witness_CopyAndGatherSteps_31 :
    let s : State := withOp ({ op0 (.gather ({ gather0 with mark := true }) 0 (some 0) none) with reads := back0 (got0 (List.replicate 8 5)) }) (inS id)
    let core : Nat := 0
    let id : Nat := 1
    let row : Nat := 0
    let n : Nat := 8
    let o : EngineOp := { op0 (.gather ({ gather0 with mark := true }) 0 (some 0) none) with reads := back0 (got0 (List.replicate 8 5)) }
    let os : List EngineOp := []
    let q : GatherRec := { gather0 with mark := true }
    let j : Int := 0
    let first : Option Word := none
    let gs : List Got := [got0 (List.replicate 8 5)]
    let from_ : Nat := 0
    let into : Nat := 0
    let held := (s.core core).ops = o :: os ∧ o.id = id
    let running := held ∧ o.todo = [] ∧ o.done = none ∧ o.parked = false
    let gathering (index : Option Int) (first : Option Word) := running ∧ o.kind = .gather q row index first
    let src := (q.base.toNat : Int) + j * q.stride.toInt
    let grow := s.stepRow (gatherSender core o) o (gatherRowOf q row src.toNat) from_ into
    gathering (some j) first ∧ row < q.nrow ∧ 0 ≤ src ∧ src + q.rowb - 1 < 2 ^ 57 ∧ readsDone o.reads = some gs ∧ moves
      grow n n = true := by
  repeat' apply And.intro
  all_goals first | decide +kernel | exact ok_of_toOption (by decide +kernel) | exact rfl | exact ⟨_, rfl⟩ | nofun | exact fun v => by cases v <;> decide

theorem witness_CopyAndGatherSteps_32 :
    let s : State := withOp ({ op0 (.gather ({ gather0 with mark := false, base := 7, stride := -8 }) 0 (some 1) none) with reads := [] }) (inS id)
    let core : Nat := 0
    let id : Nat := 1
    let row : Nat := 0
    let o : EngineOp := { op0 (.gather ({ gather0 with mark := false, base := 7, stride := -8 }) 0 (some 1) none) with reads := [] }
    let os : List EngineOp := []
    let q : GatherRec := { gather0 with mark := false, base := 7, stride := -8 }
    let j : Int := 1
    let first : Option Word := none
    let held := (s.core core).ops = o :: os ∧ o.id = id
    let running := held ∧ o.todo = [] ∧ o.done = none ∧ o.parked = false
    let gathering (index : Option Int) (first : Option Word) := running ∧ o.kind = .gather q row index first
    let src := (q.base.toNat : Int) + j * q.stride.toInt
    gathering (some j) first ∧ row < q.nrow ∧ (src < 0 ∨ 2 ^ 57 ≤ src + q.rowb - 1) := by
  repeat' apply And.intro
  all_goals first | decide +kernel | exact ok_of_toOption (by decide +kernel) | exact rfl | exact ⟨_, rfl⟩ | nofun | exact fun v => by cases v <;> decide

theorem witness_CopyAndGatherSteps_33 :
    let s : State := withOp ({ op0 (.gather ({ gather0 with mark := false, base := 0x1FFFFFFFFFFFFF9, stride := 8 }) 0 (some 0) none) with reads := [] }) (inS id)
    let core : Nat := 0
    let id : Nat := 1
    let row : Nat := 0
    let o : EngineOp := { op0 (.gather ({ gather0 with mark := false, base := 0x1FFFFFFFFFFFFF9, stride := 8 }) 0 (some 0) none) with reads := [] }
    let os : List EngineOp := []
    let q : GatherRec := { gather0 with mark := false, base := 0x1FFFFFFFFFFFFF9, stride := 8 }
    let j : Int := 0
    let first : Option Word := none
    let held := (s.core core).ops = o :: os ∧ o.id = id
    let running := held ∧ o.todo = [] ∧ o.done = none ∧ o.parked = false
    let gathering (index : Option Int) (first : Option Word) := running ∧ o.kind = .gather q row index first
    let src := (q.base.toNat : Int) + j * q.stride.toInt
    gathering (some j) first ∧ row < q.nrow ∧ (src < 0 ∨ 2 ^ 57 ≤ src + q.rowb - 1) := by
  repeat' apply And.intro
  all_goals first | decide +kernel | exact ok_of_toOption (by decide +kernel) | exact rfl | exact ⟨_, rfl⟩ | nofun | exact fun v => by cases v <;> decide

theorem witness_CopyAndGatherSteps_34 :
    let s : State := withOp ({ op0 (.gather ({ gather0 with mark := false }) 0 none none) with reads := back0 { got0 [] with status := 2 } }) (inS id)
    let core : Nat := 0
    let id : Nat := 1
    let row : Nat := 0
    let o : EngineOp := { op0 (.gather ({ gather0 with mark := false }) 0 none none) with reads := back0 { got0 [] with status := 2 } }
    let os : List EngineOp := []
    let q : GatherRec := { gather0 with mark := false }
    let first : Option Word := none
    let got : Got := { got0 [] with status := 2 }
    let held := (s.core core).ops = o :: os ∧ o.id = id
    let running := held ∧ o.todo = [] ∧ o.done = none ∧ o.parked = false
    let gathering (index : Option Int) (first : Option Word) := running ∧ o.kind = .gather q row index first
    let back := ∃ seq, o.reads = [{ seq := seq, got := some got }]
    gathering none first ∧ row < q.nrow ∧ back ∧ got.status ≠ 0 := by
  repeat' apply And.intro
  all_goals first | decide +kernel | exact ok_of_toOption (by decide +kernel) | exact rfl | exact ⟨_, rfl⟩ | nofun | exact fun v => by cases v <;> decide

theorem witness_CopyAndGatherSteps_35 :
    let s : State := withOp ({ op0 (.gather ({ gather0 with mark := true }) 1 none (some 5)) with reads := [] }) (inS id)
    let core : Nat := 0
    let id : Nat := 1
    let row : Nat := 1
    let o : EngineOp := { op0 (.gather ({ gather0 with mark := true }) 1 none (some 5)) with reads := [] }
    let os : List EngineOp := []
    let q : GatherRec := { gather0 with mark := true }
    let w : Word := 5
    let first : Option Word := (some 5)
    let held := (s.core core).ops = o :: os ∧ o.id = id
    let running := held ∧ o.todo = [] ∧ o.done = none ∧ o.parked = false
    let gathering (index : Option Int) (first : Option Word) := running ∧ o.kind = .gather q row index first
    gathering none (some w) ∧ q.nrow ≤ row ∧ s.opPending core id (s.core core).seq = false := by
  repeat' apply And.intro
  all_goals first | decide +kernel | exact ok_of_toOption (by decide +kernel) | exact rfl | exact ⟨_, rfl⟩ | nofun | exact fun v => by cases v <;> decide

theorem witness_CopyAndGatherSteps_36 :
    let s : State := withOp ({ op0 (.gather ({ gather0 with mark := false, msg := true, evt := none }) 1 none none) with reads := [] }) (inS id)
    let core : Nat := 0
    let id : Nat := 1
    let row : Nat := 1
    let o : EngineOp := { op0 (.gather ({ gather0 with mark := false, msg := true, evt := none }) 1 none none) with reads := [] }
    let os : List EngineOp := []
    let q : GatherRec := { gather0 with mark := false, msg := true, evt := none }
    let first : Option Word := none
    let held := (s.core core).ops = o :: os ∧ o.id = id
    let running := held ∧ o.todo = [] ∧ o.done = none ∧ o.parked = false
    let gathering (index : Option Int) (first : Option Word) := running ∧ o.kind = .gather q row index first
    gathering none first ∧ q.nrow ≤ row ∧ (q.mark = false ∨ first = none) ∧ q.msg = true ∧ q.evt = none := by
  repeat' apply And.intro
  all_goals first | decide +kernel | exact ok_of_toOption (by decide +kernel) | exact rfl | exact ⟨_, rfl⟩ | nofun | exact fun v => by cases v <;> decide

theorem witness_CopyAndGatherSteps_37 :
    let s : State := withOp ({ op0 (.gather ({ gather0 with mark := true, msg := true, evt := none }) 1 none none) with reads := [] }) (inS id)
    let core : Nat := 0
    let id : Nat := 1
    let row : Nat := 1
    let o : EngineOp := { op0 (.gather ({ gather0 with mark := true, msg := true, evt := none }) 1 none none) with reads := [] }
    let os : List EngineOp := []
    let q : GatherRec := { gather0 with mark := true, msg := true, evt := none }
    let first : Option Word := none
    let held := (s.core core).ops = o :: os ∧ o.id = id
    let running := held ∧ o.todo = [] ∧ o.done = none ∧ o.parked = false
    let gathering (index : Option Int) (first : Option Word) := running ∧ o.kind = .gather q row index first
    gathering none first ∧ q.nrow ≤ row ∧ (q.mark = false ∨ first = none) ∧ q.msg = true ∧ q.evt = none := by
  repeat' apply And.intro
  all_goals first | decide +kernel | exact ok_of_toOption (by decide +kernel) | exact rfl | exact ⟨_, rfl⟩ | nofun | exact fun v => by cases v <;> decide

theorem witness_CopyAndGatherSteps_38 :
    let s : State := withOp ({ op0 (.gather ({ gather0 with mark := false }) 1 none none) with uid := 1, done := some { status := 0, word1 := 8, flags := 0#5 } }) (inS fun z => { z with unit := some { uid := 1, job := 1, launch := 1, index := 0 } })
    let core : Nat := 0
    let id : Nat := 1
    let row : Nat := 1
    let o : EngineOp := { op0 (.gather ({ gather0 with mark := false }) 1 none none) with uid := 1, done := some { status := 0, word1 := 8, flags := 0#5 } }
    let os : List EngineOp := []
    let q : GatherRec := { gather0 with mark := false }
    let first : Option Word := none
    let out : Outcome := { status := 0, word1 := 8, flags := 0#5 }
    let held := (s.core core).ops = o :: os ∧ o.id = id
    let ended := held ∧ o.todo = [] ∧ o.done = some out ∧ o.parked = false
    ended ∧ o.kind = .gather q row none first := by
  repeat' apply And.intro
  all_goals first | decide +kernel | exact ok_of_toOption (by decide +kernel) | exact rfl | exact ⟨_, rfl⟩ | nofun | exact fun v => by cases v <;> decide

theorem witness_CopyAndGatherSteps_39 :
    let s : State := withOp ({ op0 (.gather ({ gather0 with mark := false, msg := false, evt := some 31 }) 1 none none) with reads := [] }) (inS id)
    let core : Nat := 0
    let id : Nat := 1
    let row : Nat := 1
    let st : Nat := 31
    let o : EngineOp := { op0 (.gather ({ gather0 with mark := false, msg := false, evt := some 31 }) 1 none none) with reads := [] }
    let os : List EngineOp := []
    let q : GatherRec := { gather0 with mark := false, msg := false, evt := some 31 }
    let first : Option Word := none
    let held := (s.core core).ops = o :: os ∧ o.id = id
    let running := held ∧ o.todo = [] ∧ o.done = none ∧ o.parked = false
    let gathering (index : Option Int) (first : Option Word) := running ∧ o.kind = .gather q row index first
    gathering none first ∧ q.nrow ≤ row ∧ (q.mark = false ∨ first = none) ∧ q.msg = false ∧ q.evt = some st := by
  repeat' apply And.intro
  all_goals first | decide +kernel | exact ok_of_toOption (by decide +kernel) | exact rfl | exact ⟨_, rfl⟩ | nofun | exact fun v => by cases v <;> decide

theorem witness_CopyAndGatherSteps_40 :
    let s : State := (inS id).modCore 0 fun z => { z with events := [(1, 31, 5)] }
    let core : Nat := 0
    let id : Nat := 1
    let st : Nat := 31
    let n : Nat := 5
    (s.core core).ops = [] ∧ (s.core core).events = [(id, st, n)] ∧ s.opPending core id n = false ∧ st < 32 := by decide +kernel

theorem witness_CopyAndGatherSteps_41 :
    let s : State := withOp ({ op0 (.copy (copyGeom 8 0) 0 0 0) with parked := true, todo := [{ (store0 (.cluster 0) 8 5).acc with answers := false, op := some 1 }] }) (inS id)
    let core : Nat := 0
    let id : Nat := 1
    let o : EngineOp := { op0 (.copy (copyGeom 8 0) 0 0 0) with parked := true, todo := [{ (store0 (.cluster 0) 8 5).acc with answers := false, op := some 1 }] }
    let os : List EngineOp := []
    let held := (s.core core).ops = o :: os ∧ o.id = id
    held ∧ o.parked = true := by
  repeat' apply And.intro
  all_goals first | decide +kernel | exact ok_of_toOption (by decide +kernel) | exact rfl | exact ⟨_, rfl⟩ | nofun | exact fun v => by cases v <;> decide

theorem witness_CopyAndGatherSteps_42 :
    let s : State := withOp ({ op0 (.gather ({ gather0 with mark := true }) 1 none (some 5)) with parked := true, todo := [{ (store0 (.cluster 0) 8 5).acc with answers := false, op := some 1 }] }) (inS id)
    let core : Nat := 0
    let id : Nat := 1
    let o : EngineOp := { op0 (.gather ({ gather0 with mark := true }) 1 none (some 5)) with parked := true, todo := [{ (store0 (.cluster 0) 8 5).acc with answers := false, op := some 1 }] }
    let os : List EngineOp := []
    let held := (s.core core).ops = o :: os ∧ o.id = id
    held ∧ o.parked = true := by
  repeat' apply And.intro
  all_goals first | decide +kernel | exact ok_of_toOption (by decide +kernel) | exact rfl | exact ⟨_, rfl⟩ | nofun | exact fun v => by cases v <;> decide

theorem witness_RelocationSteps_1 :
    let s : State := relocating false none (inS id)
    let core : Nat := 0
    let id : Nat := 1
    let d : Nat := 0
    let b : Barchan := move0 false none
    let bs : List Barchan := []
    let o : EngineOp := op0 (if false then .retire 0x1000 64 else .reloc 0x1000 0x2000 64)
    let holds := s.dies = [(d, { s.die d with barchan := b :: bs })] ∧ b.core = core ∧ b.id = id
    let busy := s.tileBusy b.old b.size || s.tileBusy b.new b.size
    let known := (s.core core).op? id = some o
    holds ∧ known ∧ b.retire = false ∧ b.phase = none ∧ busy = false := by
  repeat' apply And.intro
  all_goals first | decide +kernel | exact rfl

theorem witness_RelocationSteps_2 :
    let s : State := relocating false none (tagged { home := .slice 1, off := 56 } { slip := some (0x1000, 64) } (inS id))
    let core : Nat := 0
    let id : Nat := 1
    let d : Nat := 0
    let b : Barchan := move0 false none
    let bs : List Barchan := []
    let o : EngineOp := op0 (if false then .retire 0x1000 64 else .reloc 0x1000 0x2000 64)
    let holds := s.dies = [(d, { s.die d with barchan := b :: bs })] ∧ b.core = core ∧ b.id = id
    let busy := s.tileBusy b.old b.size || s.tileBusy b.new b.size
    let known := (s.core core).op? id = some o
    holds ∧ known ∧ b.retire = false ∧ b.phase = none ∧ busy = true := by
  repeat' apply And.intro
  all_goals first | decide +kernel | exact rfl

theorem witness_RelocationSteps_3 :
    let s : State := withOp ({ op0 (if false then .retire 0x1000 64 else .reloc 0x1000 0x2000 64) with reads := [{ seq := none, got := none }], todo := [{ (store0 (.cluster 0) 8 5).acc with answers := false, op := some 1 }] }) (relocating false (some .moving) (inS id))
    let core : Nat := 0
    let id : Nat := 1
    let d : Nat := 0
    let b : Barchan := move0 false (some .moving)
    let bs : List Barchan := []
    let o : EngineOp := { op0 (if false then .retire 0x1000 64 else .reloc 0x1000 0x2000 64) with reads := [{ seq := none, got := none }], todo := [{ (store0 (.cluster 0) 8 5).acc with answers := false, op := some 1 }] }
    let next : Access := { (store0 (.cluster 0) 8 5).acc with answers := false, op := some 1 }
    let rest : List Access := []
    let holds := s.dies = [(d, { s.die d with barchan := b :: bs })] ∧ b.core = core ∧ b.id = id
    let known := (s.core core).op? id = some o
    holds ∧ known ∧ o.parked = false ∧ o.todo = next :: rest := by
  repeat' apply And.intro
  all_goals first | decide +kernel | exact rfl

theorem witness_RelocationSteps_4 :
    let s : State := withOp ({ op0 (if false then .retire 0x1000 64 else .reloc 0x1000 0x2000 64) with reads := [{ seq := none, got := none }], todo := [{ (store0 (.cluster 0) 8 5).acc with answers := false, op := some 1 }] }) (relocating false (some .copied) (inS id))
    let core : Nat := 0
    let id : Nat := 1
    let d : Nat := 0
    let b : Barchan := move0 false (some .copied)
    let bs : List Barchan := []
    let o : EngineOp := { op0 (if false then .retire 0x1000 64 else .reloc 0x1000 0x2000 64) with reads := [{ seq := none, got := none }], todo := [{ (store0 (.cluster 0) 8 5).acc with answers := false, op := some 1 }] }
    let next : Access := { (store0 (.cluster 0) 8 5).acc with answers := false, op := some 1 }
    let rest : List Access := []
    let holds := s.dies = [(d, { s.die d with barchan := b :: bs })] ∧ b.core = core ∧ b.id = id
    let known := (s.core core).op? id = some o
    holds ∧ known ∧ o.parked = false ∧ o.todo = next :: rest := by
  repeat' apply And.intro
  all_goals first | decide +kernel | exact rfl

theorem witness_RelocationSteps_5 :
    let s : State := relocating false (some .moving) (tagged { home := .slice 0, off := 8 } { full := true } (stored { home := .slice 0, off := 8 } [7] (inS id)))
    let core : Nat := 0
    let id : Nat := 1
    let d : Nat := 0
    let b : Barchan := move0 false (some .moving)
    let bs : List Barchan := []
    let o : EngineOp := op0 (if false then .retire 0x1000 64 else .reloc 0x1000 0x2000 64)
    let holds := s.dies = [(d, { s.die d with barchan := b :: bs })] ∧ b.core = core ∧ b.id = id
    let known := (s.core core).op? id = some o
    let copying := b.retire = false ∧ b.phase = some .moving ∧ o.todo = []
    holds ∧ known ∧ copying ∧ o.reads = [] := by
  repeat' apply And.intro
  all_goals first | decide +kernel | exact rfl

theorem witness_RelocationSteps_6 :
    let s : State := withOp ({ op0 (if false then .retire 0x1000 64 else .reloc 0x1000 0x2000 64) with reads := [{ seq := some 0, got := none }], todo := [] }) (relocating false (some .moving) (inS id))
    let core : Nat := 0
    let id : Nat := 1
    let d : Nat := 0
    let b : Barchan := move0 false (some .moving)
    let bs : List Barchan := []
    let o : EngineOp := { op0 (if false then .retire 0x1000 64 else .reloc 0x1000 0x2000 64) with reads := [{ seq := some 0, got := none }], todo := [] }
    let holds := s.dies = [(d, { s.die d with barchan := b :: bs })] ∧ b.core = core ∧ b.id = id
    let known := (s.core core).op? id = some o
    let copying := b.retire = false ∧ b.phase = some .moving ∧ o.todo = []
    holds ∧ known ∧ copying ∧ o.reads ≠ [] ∧ readsDone o.reads = none := by
  repeat' apply And.intro
  all_goals first | decide +kernel | exact rfl

theorem witness_RelocationSteps_7 :
    let s : State := withOp ({ op0 (if false then .retire 0x1000 64 else .reloc 0x1000 0x2000 64) with reads := back0 { got0 (words64 [7]) with tags := [{ full := true }] }, todo := [] }) (relocating false (some .moving) (inS id))
    let core : Nat := 0
    let id : Nat := 1
    let d : Nat := 0
    let b : Barchan := move0 false (some .moving)
    let bs : List Barchan := []
    let o : EngineOp := { op0 (if false then .retire 0x1000 64 else .reloc 0x1000 0x2000 64) with reads := back0 { got0 (words64 [7]) with tags := [{ full := true }] }, todo := [] }
    let gs : List Got := [{ got0 (words64 [7]) with tags := [{ full := true }] }]
    let holds := s.dies = [(d, { s.die d with barchan := b :: bs })] ∧ b.core = core ∧ b.id = id
    let known := (s.core core).op? id = some o
    let copying := b.retire = false ∧ b.phase = some .moving ∧ o.todo = []
    holds ∧ known ∧ copying ∧ o.reads ≠ [] ∧ readsDone o.reads = some gs := by
  repeat' apply And.intro
  all_goals first | decide +kernel | exact rfl

theorem witness_RelocationSteps_8 :
    let s : State := relocating false (some .copied) (inS id)
    let core : Nat := 0
    let id : Nat := 1
    let d : Nat := 0
    let b : Barchan := move0 false (some .copied)
    let bs : List Barchan := []
    let o : EngineOp := op0 (if false then .retire 0x1000 64 else .reloc 0x1000 0x2000 64)
    let holds := s.dies = [(d, { s.die d with barchan := b :: bs })] ∧ b.core = core ∧ b.id = id
    let known := (s.core core).op? id = some o
    holds ∧ known ∧ b.phase = some .copied ∧ o.todo = [] ∧ s.opPending core id (s.core core).seq = false ∧ s.retry = [] := by
  repeat' apply And.intro
  all_goals first | decide +kernel | exact rfl

theorem witness_RelocationSteps_9 :
    let s : State := relocating false (some .installed) (inS id)
    let core : Nat := 0
    let id : Nat := 1
    let d : Nat := 0
    let b : Barchan := move0 false (some .installed)
    let bs : List Barchan := []
    let o : EngineOp := op0 (if false then .retire 0x1000 64 else .reloc 0x1000 0x2000 64)
    let holds := s.dies = [(d, { s.die d with barchan := b :: bs })] ∧ b.core = core ∧ b.id = id
    let known := (s.core core).op? id = some o
    holds ∧ known ∧ (b.phase = some .installed ∨ b.phase = some .refused) := by decide +kernel

theorem witness_RelocationSteps_10 :
    let s : State := relocating false (some .refused) (inS id)
    let core : Nat := 0
    let id : Nat := 1
    let d : Nat := 0
    let b : Barchan := move0 false (some .refused)
    let bs : List Barchan := []
    let o : EngineOp := op0 (if false then .retire 0x1000 64 else .reloc 0x1000 0x2000 64)
    let holds := s.dies = [(d, { s.die d with barchan := b :: bs })] ∧ b.core = core ∧ b.id = id
    let known := (s.core core).op? id = some o
    holds ∧ known ∧ (b.phase = some .installed ∨ b.phase = some .refused) := by decide +kernel

theorem witness_RelocationSteps_11 :
    let s : State := relocating true none ((inS id).modDie 0 fun z => { z with mgmt := 0xFFFFFFFFFFFFFFEF })
    let core : Nat := 0
    let id : Nat := 1
    let d : Nat := 0
    let b : Barchan := move0 true none
    let bs : List Barchan := []
    let o : EngineOp := op0 (if true then .retire 0x1000 64 else .reloc 0x1000 0x2000 64)
    let holds := s.dies = [(d, { s.die d with barchan := b :: bs })] ∧ b.core = core ∧ b.id = id
    let known := (s.core core).op? id = some o
    holds ∧ known ∧ b.retire = true ∧ b.phase = none ∧ (s.die (dieOf core)).mgmt.getLsbD 4 = false := by
  repeat' apply And.intro
  all_goals first | decide +kernel | exact rfl

theorem witness_RelocationSteps_12 :
    let s : State := relocating true none (tagged { home := .slice 0, off := 56 } { slip := some (0x1000, 64) } ((inS id).modDie 0 fun z => { z with mgmt := 0x10 }))
    let core : Nat := 0
    let id : Nat := 1
    let d : Nat := 0
    let b : Barchan := move0 true none
    let bs : List Barchan := []
    let o : EngineOp := op0 (if true then .retire 0x1000 64 else .reloc 0x1000 0x2000 64)
    let holds := s.dies = [(d, { s.die d with barchan := b :: bs })] ∧ b.core = core ∧ b.id = id
    let known := (s.core core).op? id = some o
    holds ∧ known ∧ b.retire = true ∧ b.phase = none ∧ (s.die (dieOf core)).mgmt.getLsbD 4 = true := by
  repeat' apply And.intro
  all_goals first | decide +kernel | exact rfl

theorem witness_MatrixSteps_1 :
    let s : State := { inS fun z => z with hub := { State.reset.hub with throttled := true } }
    let n : Nat := 0
    let free := s.stepUnderWay n = none
    free ∧ s.hub.throttled = true := by decide +kernel

theorem witness_MatrixSteps_2 :
    let s : State := inS fun z => z
    let n : Nat := 0
    let free := s.stepUnderWay n = none
    free ∧ s.hub.throttled = false ∧ s.grant n = none := by decide +kernel

theorem witness_MatrixSteps_3 :
    let s : State := (inS fun z => z).modCore 0 fun z => { z with cmds := [cmd0] }
    let n : Nat := 0
    let i : Nat := 0
    let goesOn : Bool := true
    let k : MatrixCmd := cmd0
    let ks : List MatrixCmd := []
    let c := 8 * n + i
    let head := (s.core c).cmds = k :: ks ∧ k.done = none
    let free := s.stepUnderWay n = none
    free ∧ s.hub.throttled = false ∧ i < 8 ∧ s.grant n = some (i, goesOn) ∧ head ∧ k.kind = .zero ∧ k.started = false := by decide +kernel

theorem witness_MatrixSteps_4 :
    let s : State := ((inS fun z => z).modCluster 0 fun z => { z with arbSteps := 1 }).modCore 0 fun z => { z with cmds := [{ cmd0 with k := 15 }] }
    let n : Nat := 0
    let i : Nat := 0
    let goesOn : Bool := false
    let k : MatrixCmd := { cmd0 with k := 15 }
    let ks : List MatrixCmd := []
    let c := 8 * n + i
    let head := (s.core c).cmds = k :: ks ∧ k.done = none
    let free := s.stepUnderWay n = none
    free ∧ s.hub.throttled = false ∧ i < 8 ∧ s.grant n = some (i, goesOn) ∧ head ∧ k.kind = .zero ∧ k.started = false := by decide +kernel

theorem witness_MatrixSteps_5 :
    let s : State := (inS fun z => z).modCore 0 fun z => { z with cmds := [{ cmd0 with started := true, step := some 0, todo := [{ (store0 (.cluster 0) 8 5).acc with answers := false }] }] }
    let n : Nat := 0
    let i : Nat := 0
    let blk : Nat := 0
    let k : MatrixCmd := { cmd0 with started := true, step := some 0, todo := [{ (store0 (.cluster 0) 8 5).acc with answers := false }] }
    let next : Access := { (store0 (.cluster 0) 8 5).acc with answers := false }
    let rest : List Access := []
    let c := 8 * n + i
    i < 8 ∧ s.stepUnderWay n = some (c, k, blk) ∧ k.todo = next :: rest := by decide +kernel

theorem witness_MatrixSteps_6 :
    let s : State := (inS fun z => z).modCore 0 fun z => { z with cmds := [{ cmd0 with k := 15, started := true, step := some 0, reads := [{ seq := some 0, got := none }] }] }
    let n : Nat := 0
    let i : Nat := 0
    let blk : Nat := 0
    let k : MatrixCmd := { cmd0 with k := 15, started := true, step := some 0, reads := [{ seq := some 0, got := none }] }
    let c := 8 * n + i
    i < 8 ∧ s.stepUnderWay n = some (c, k, blk) ∧ k.todo = [] ∧ readsDone k.reads = none := by decide +kernel

theorem witness_MatrixSteps_7 :
    let s : State := (inS fun z => z).modCore 0 fun z => { z with cmds := [{ cmd0 with k := 15, started := true, step := some 0 }] }
    let n : Nat := 0
    let i : Nat := 0
    let blk : Nat := 0
    let k : MatrixCmd := { cmd0 with k := 15, started := true, step := some 0 }
    let gs : List Got := []
    let c := 8 * n + i
    i < 8 ∧ s.stepUnderWay n = some (c, k, blk) ∧ k.todo = [] ∧ readsDone k.reads = some gs ∧ k.kind = .zero ∧ k.k < 16 ∧
      k.notify = false ∧ k.strand / 8 = c ∧ s.inCompute c = false := by decide +kernel

theorem witness_MatrixSteps_8 :
    let s : State := ({ inS fun z => z with cycle := 106 }).modCore 0 fun z => { z with cmds := [{ cmd0 with kind := .mma 1#3 2#3 0x0100000000000000 7, waitFrom := some 5, wlim := 100 }] }
    let n : Nat := 0
    let i : Nat := 0
    let blk : Nat := 0
    let since : Nat := 5
    let k : MatrixCmd := { cmd0 with kind := .mma 1#3 2#3 0x0100000000000000 7, waitFrom := some 5, wlim := 100 }
    let ks : List MatrixCmd := []
    let c := 8 * n + i
    let head := (s.core c).cmds = k :: ks ∧ k.done = none
    head ∧ (s.core c).pstate = .running ∧ s.waitingBlock c k = some blk ∧ k.step = none ∧ k.waitFrom = some since ∧ since
      + k.wlim < s.cycle := by decide +kernel

theorem witness_MatrixSteps_9 :
    let s : State := ({ inS fun z => z with cycle := 106 }).modCore 0 fun z => { z with cmds := [{ cmd0 with kind := .mma 1#3 3#3 0x0100000000000000 0x0100000000002000, waitFrom := some 5, wlim := 100 }] }
    let n : Nat := 0
    let i : Nat := 0
    let blk : Nat := 0
    let since : Nat := 5
    let k : MatrixCmd := { cmd0 with kind := .mma 1#3 3#3 0x0100000000000000 0x0100000000002000, waitFrom := some 5, wlim := 100 }
    let ks : List MatrixCmd := []
    let c := 8 * n + i
    let head := (s.core c).cmds = k :: ks ∧ k.done = none
    head ∧ (s.core c).pstate = .running ∧ s.waitingBlock c k = some blk ∧ k.step = none ∧ k.waitFrom = some since ∧ since
      + k.wlim < s.cycle := by decide +kernel

theorem witness_MatrixSteps_10 :
    let s : State := ({ inS fun z => z with cycle := 105 }).modCore 0 fun z => { z with cmds := [{ cmd0 with kind := .mma 1#3 2#3 0x0100000000000000 7, waitFrom := some 5, wlim := 100 }] }
    let n : Nat := 0
    let i : Nat := 0
    let since : Nat := 5
    let k : MatrixCmd := { cmd0 with kind := .mma 1#3 2#3 0x0100000000000000 7, waitFrom := some 5, wlim := 100 }
    let ks : List MatrixCmd := []
    let c := 8 * n + i
    let head := (s.core c).cmds = k :: ks ∧ k.done = none
    head ∧ k.waitFrom = some since ∧ s.cycle ≤ since + k.wlim := by decide +kernel

theorem witness_MatrixSteps_11 :
    let s : State := (inS fun z => z).modCluster 0 fun z => { z with transit := [{ src := 7, hop := 6, tile := { data := [1], poison := [], uses := 2 }, job := 1 }] }
    let n : Nat := 0
    let x : Transit := { src := 7, hop := 6, tile := { data := [1], poison := [], uses := 2 }, job := 1 }
    let target := n / 8 * 8 + (x.src + x.hop) % 8
    (s.cluster n).transit = [x] ∧ x.src < 8 ∧ x.hop < 7 ∧ (s.cluster target).sprue.toList.getD x.src none = none := by decide +kernel

theorem witness_MatrixSteps_12 :
    let s : State := withOp ({ op0 (.hot 0x82 15 routine0 { ins := [0x0100000000000100, 0x0100000000000180], outs := [0x0100000000000200], n := 1, m := 0 } .start) with todo := [{ (store0 (.cluster 0) 8 5).acc with answers := false, op := some 1 }] }) (inS fun z => z)
    let n : Nat := 0
    let i : Nat := 0
    let id : Nat := 1
    let o : EngineOp := { op0 (.hot 0x82 15 routine0 { ins := [0x0100000000000100, 0x0100000000000180], outs := [0x0100000000000200], n := 1, m := 0 } .start) with todo := [{ (store0 (.cluster 0) 8 5).acc with answers := false, op := some 1 }] }
    let next : Access := { (store0 (.cluster 0) 8 5).acc with answers := false, op := some 1 }
    let rest : List Access := []
    let c := 8 * n + i
    (s.core c).op? id = some o ∧ o.parked = false ∧ o.todo = next :: rest := by
  repeat' apply And.intro
  all_goals first | decide +kernel | exact ok_of_toOption (by decide +kernel) | exact rfl | exact ⟨_, rfl⟩ | nofun | exact fun v => by cases v <;> decide

theorem witness_MatrixSteps_13 :
    let s : State := withOp (op0 (.hot 0x82 15 routine0 { ins := [0x0100000000000100, 0x0100000000000180], outs := [0x0100000000000200], n := 1, m := 0 } .start)) (inS fun z => z)
    let o : EngineOp := op0 (.hot 0x82 15 routine0 { ins := [0x0100000000000100, 0x0100000000000180], outs := [0x0100000000000200], n := 1, m := 0 } .start)
    let n : Nat := 0
    let i : Nat := 0
    let id : Nat := 1
    let op : Nat := 0x82
    let h : Nat := 15
    let rt : Routine := routine0
    let r : HotRec := { ins := [0x0100000000000100, 0x0100000000000180], outs := [0x0100000000000200], n := 1, m := 0 }
    let c := 8 * n + i
    let copyHot (stage : HotStage) := (s.core c).op? id = some o ∧ o.parked = false ∧ o.todo = [] ∧ o.done = none ∧
      o.kind = .hot op h rt r stage
    copyHot .start := by
  repeat' apply And.intro
  all_goals first | decide +kernel | exact ok_of_toOption (by decide +kernel) | exact rfl | exact ⟨_, rfl⟩ | nofun | exact fun v => by cases v <;> decide

theorem witness_MatrixSteps_14 :
    let s : State := withOp ({ op0 (.hot 0x82 15 routine0 { ins := [0x0100000000000100, 0x0100000000000180], outs := [0x0100000000000200], n := 1, m := 0 } (.reading [] none)) with reads := [{ seq := some 0, got := none }] }) (inS fun z => z)
    let n : Nat := 0
    let i : Nat := 0
    let id : Nat := 1
    let op : Nat := 0x82
    let h : Nat := 15
    let o : EngineOp := { op0 (.hot 0x82 15 routine0 { ins := [0x0100000000000100, 0x0100000000000180], outs := [0x0100000000000200], n := 1, m := 0 } (.reading [] none)) with reads := [{ seq := some 0, got := none }] }
    let rt : Routine := routine0
    let r : HotRec := { ins := [0x0100000000000100, 0x0100000000000180], outs := [0x0100000000000200], n := 1, m := 0 }
    let short : Option (Nat × HotEnd) := none
    let checked : List Nat := []
    let c := 8 * n + i
    let copyHot (stage : HotStage) := (s.core c).op? id = some o ∧ o.parked = false ∧ o.todo = [] ∧ o.done = none ∧
      o.kind = .hot op h rt r stage
    copyHot (.reading checked short) ∧ readsDone o.reads = none := by
  repeat' apply And.intro
  all_goals first | decide +kernel | exact ok_of_toOption (by decide +kernel) | exact rfl | exact ⟨_, rfl⟩ | nofun | exact fun v => by cases v <;> decide

theorem witness_MatrixSteps_15 :
    let s : State := withOp ({ op0 (.hot 0x82 15 routine0 { ins := [0x0100000000000100, 0x0100000000000180], outs := [0x0100000000000200], n := 1, m := 0 } (.reading [] none)) with reads := back0 (got0 [1, 0, 0, 0, 0, 0, 0, 0]) ++ back0 (got0 [2, 0, 0, 0, 0, 0, 0, 0]) }) (inS fun z => z)
    let op : Nat := 0x82
    let o : EngineOp := { op0 (.hot 0x82 15 routine0 { ins := [0x0100000000000100, 0x0100000000000180], outs := [0x0100000000000200], n := 1, m := 0 } (.reading [] none)) with reads := back0 (got0 [1, 0, 0, 0, 0, 0, 0, 0]) ++ back0 (got0 [2, 0, 0, 0, 0, 0, 0, 0]) }
    let rt : Routine := routine0
    let r : HotRec := { ins := [0x0100000000000100, 0x0100000000000180], outs := [0x0100000000000200], n := 1, m := 0 }
    let short : Option (Nat × HotEnd) := none
    let gs : List Got := [got0 [1, 0, 0, 0, 0, 0, 0, 0], got0 [2, 0, 0, 0, 0, 0, 0, 0]]
    let at_ : Nat := 0
    let code : Nat := 0
    let checked : List Nat := []
    let n : Nat := 0
    let i : Nat := 0
    let id : Nat := 1
    let h : Nat := 15
    let st : Nat := 0
    let c := 8 * n + i
    let cap (frm fte fnver : Word) : Captured := { frm := frm, fte := fte, fnver := fnver.toNat % 256 }
    let w := laneWidth rt.type / 8
    let copyHot (stage : HotStage) := (s.core c).op? id = some o ∧ o.parked = false ∧ o.todo = [] ∧ o.done = none ∧
      o.kind = .hot op h rt r stage
    copyHot (.reading checked short) ∧ readsDone o.reads = some gs ∧ (s.hotResult (hotSender c o) o.mode false (cap o.frm
      o.fte o.fnver) op rt r checked short gs at_ code).1.1.stop = .status st ∧ ((s.hotResult (hotSender c o) o.mode
      false (cap o.frm o.fte o.fnver) op rt r checked short gs at_ code).2.checksFor (hotSender c o) ((s.hotResult
      (hotSender c o) o.mode false (cap o.frm o.fte o.fnver) op rt r checked short gs at_ code).1.2.flatten.map (·, w)))
      = [] := by
  repeat' apply And.intro
  all_goals first | decide +kernel | exact ok_of_toOption (by decide +kernel) | exact rfl | exact ⟨_, rfl⟩ | nofun | exact fun v => by cases v <;> decide

theorem witness_MatrixSteps_16 :
    let s : State := withOp ({ op0 (.hot 0x82 15 routine0 { ins := [0x0100000000000100, 0x0100000000000180], outs := [0x2000], n := 1, m := 0 } (.reading [] none)) with reads := back0 (got0 [1, 0, 0, 0, 0, 0, 0, 0]) ++ back0 (got0 [2, 0, 0, 0, 0, 0, 0, 0]) }) ((inS fun z => z).modCluster 0 fun z => { z with ctu := [{ asid := 0, size := 0, page := 2, leaf := 0x100000000000030F }] })
    let op : Nat := 0x82
    let o : EngineOp := { op0 (.hot 0x82 15 routine0 { ins := [0x0100000000000100, 0x0100000000000180], outs := [0x2000], n := 1, m := 0 } (.reading [] none)) with reads := back0 (got0 [1, 0, 0, 0, 0, 0, 0, 0]) ++ back0 (got0 [2, 0, 0, 0, 0, 0, 0, 0]) }
    let rt : Routine := routine0
    let r : HotRec := { ins := [0x0100000000000100, 0x0100000000000180], outs := [0x2000], n := 1, m := 0 }
    let short : Option (Nat × HotEnd) := none
    let gs : List Got := [got0 [1, 0, 0, 0, 0, 0, 0, 0], got0 [2, 0, 0, 0, 0, 0, 0, 0]]
    let at_ : Nat := 0
    let code : Nat := 0
    let checked : List Nat := []
    let n : Nat := 0
    let i : Nat := 0
    let id : Nat := 1
    let h : Nat := 15
    let c := 8 * n + i
    let cap (frm fte fnver : Word) : Captured := { frm := frm, fte := fte, fnver := fnver.toNat % 256 }
    let w := laneWidth rt.type / 8
    let copyHot (stage : HotStage) := (s.core c).op? id = some o ∧ o.parked = false ∧ o.todo = [] ∧ o.done = none ∧
      o.kind = .hot op h rt r stage
    copyHot (.reading checked short) ∧ readsDone o.reads = some gs ∧ ((s.hotResult (hotSender c o) o.mode false (cap
      o.frm o.fte o.fnver) op rt r checked short gs at_ code).2.checksFor (hotSender c o) ((s.hotResult (hotSender c o)
      o.mode false (cap o.frm o.fte o.fnver) op rt r checked short gs at_ code).1.2.flatten.map (·, w))) ≠ [] := by
  repeat' apply And.intro
  all_goals first | decide +kernel | exact ok_of_toOption (by decide +kernel) | exact rfl | exact ⟨_, rfl⟩ | nofun | exact fun v => by cases v <;> decide

theorem witness_MatrixSteps_17 :
    let s : State := withOp ({ op0 (.hot 0x82 15 routine0 { ins := [0x0100000000000100, 0x0100000000000180], outs := [0x2000], n := 1, m := 0 } (.reading [0x2000] none)) with reads := back0 (got0 [1, 0, 0, 0, 0, 0, 0, 0]) ++ back0 (got0 [2, 0, 0, 0, 0, 0, 0, 0]) ++ back0 (got0 []) }) ((inS fun z => z).modCluster 0 fun z => { z with ctu := [{ asid := 0, size := 0, page := 2, leaf := 0x100000000000030F }] })
    let op : Nat := 0x82
    let o : EngineOp := { op0 (.hot 0x82 15 routine0 { ins := [0x0100000000000100, 0x0100000000000180], outs := [0x2000], n := 1, m := 0 } (.reading [0x2000] none)) with reads := back0 (got0 [1, 0, 0, 0, 0, 0, 0, 0]) ++ back0 (got0 [2, 0, 0, 0, 0, 0, 0, 0]) ++ back0 (got0 []) }
    let rt : Routine := routine0
    let r : HotRec := { ins := [0x0100000000000100, 0x0100000000000180], outs := [0x2000], n := 1, m := 0 }
    let short : Option (Nat × HotEnd) := none
    let gs : List Got := [got0 [1, 0, 0, 0, 0, 0, 0, 0], got0 [2, 0, 0, 0, 0, 0, 0, 0], got0 []]
    let at_ : Nat := 0
    let code : Nat := 0
    let checked : List Nat := [0x2000]
    let n : Nat := 0
    let i : Nat := 0
    let id : Nat := 1
    let h : Nat := 15
    let st : Nat := 0
    let c := 8 * n + i
    let cap (frm fte fnver : Word) : Captured := { frm := frm, fte := fte, fnver := fnver.toNat % 256 }
    let copyHot (stage : HotStage) := (s.core c).op? id = some o ∧ o.parked = false ∧ o.todo = [] ∧ o.done = none ∧
      o.kind = .hot op h rt r stage
    copyHot (.reading checked short) ∧ readsDone o.reads = some gs ∧ checked ≠ [] ∧ (s.hotResult (hotSender c o) o.mode
      false (cap o.frm o.fte o.fnver) op rt r checked short gs at_ code).1.1.stop = .status st := by
  repeat' apply And.intro
  all_goals first | decide +kernel | exact ok_of_toOption (by decide +kernel) | exact rfl | exact ⟨_, rfl⟩ | nofun | exact fun v => by cases v <;> decide

theorem witness_MatrixSteps_18 :
    let s : State := withOp ({ op0 (.hot 0x82 15 routine0 { ins := [0x0100000000000100, 0x0100000000000180], outs := [0x0100000000000200], n := 1, m := 0 } (.reading [] none)) with done := some { status := 0, word1 := 8, flags := 0#5 } }) (inS fun z => z)
    let n : Nat := 0
    let i : Nat := 0
    let id : Nat := 1
    let op : Nat := 0x82
    let h : Nat := 15
    let o : EngineOp := { op0 (.hot 0x82 15 routine0 { ins := [0x0100000000000100, 0x0100000000000180], outs := [0x0100000000000200], n := 1, m := 0 } (.reading [] none)) with done := some { status := 0, word1 := 8, flags := 0#5 } }
    let rt : Routine := routine0
    let r : HotRec := { ins := [0x0100000000000100, 0x0100000000000180], outs := [0x0100000000000200], n := 1, m := 0 }
    let out : Outcome := { status := 0, word1 := 8, flags := 0#5 }
    let c := 8 * n + i
    (s.core c).op? id = some o ∧ o.parked = false ∧ o.todo = [] ∧ o.done = some out ∧ o.kind = .hot op h rt r (.reading
      [] none) := by
  repeat' apply And.intro
  all_goals first | decide +kernel | exact ok_of_toOption (by decide +kernel) | exact rfl | exact ⟨_, rfl⟩ | nofun | exact fun v => by cases v <;> decide

theorem witness_MatrixSteps_19 :
    let s : State := (inS fun z => z).modCore 0 fun z => { z with cmds := [{ cmd0 with kind := .hot 0x82 15 routine0 { ins := [0x0100000000000100, 0x0100000000000180], outs := [0x0100000000000200], n := 1, m := 0 } .start, todo := [{ (store0 (.cluster 0) 8 5).acc with answers := false }] }] }
    let n : Nat := 0
    let i : Nat := 0
    let id : Nat := 1
    let k : MatrixCmd := { cmd0 with kind := .hot 0x82 15 routine0 { ins := [0x0100000000000100, 0x0100000000000180], outs := [0x0100000000000200], n := 1, m := 0 } .start, todo := [{ (store0 (.cluster 0) 8 5).acc with answers := false }] }
    let ks : List MatrixCmd := []
    let next : Access := { (store0 (.cluster 0) 8 5).acc with answers := false }
    let rest : List Access := []
    let c := 8 * n + i
    let head := (s.core c).cmds = k :: ks ∧ k.done = none
    head ∧ k.id = id ∧ k.todo = next :: rest := by
  repeat' apply And.intro
  all_goals first | decide +kernel | exact ok_of_toOption (by decide +kernel) | exact rfl | exact ⟨_, rfl⟩ | nofun | exact fun v => by cases v <;> decide

theorem witness_MatrixSteps_20 :
    let s : State := (inS fun z => z).modCore 0 fun z => { z with cmds := [{ cmd0 with kind := .hot 0x82 15 routine0 { ins := [0x0100000000000100, 0x0100000000000180], outs := [0x0100000000000200], n := 1, m := 0 } .start }] }
    let k : MatrixCmd := { cmd0 with kind := .hot 0x82 15 routine0 { ins := [0x0100000000000100, 0x0100000000000180], outs := [0x0100000000000200], n := 1, m := 0 } .start }
    let n : Nat := 0
    let i : Nat := 0
    let id : Nat := 1
    let op : Nat := 0x82
    let h : Nat := 15
    let ks : List MatrixCmd := []
    let rt : Routine := routine0
    let r : HotRec := { ins := [0x0100000000000100, 0x0100000000000180], outs := [0x0100000000000200], n := 1, m := 0 }
    let c := 8 * n + i
    let head := (s.core c).cmds = k :: ks ∧ k.done = none
    let matrixHot (stage : HotStage) := head ∧ k.id = id ∧ k.todo = [] ∧ k.kind = .hot op h rt r stage
    matrixHot .start ∧ s.mayRun c k = true := by
  repeat' apply And.intro
  all_goals first | decide +kernel | exact ok_of_toOption (by decide +kernel) | exact rfl | exact ⟨_, rfl⟩ | nofun | exact fun v => by cases v <;> decide

theorem witness_MatrixSteps_21 :
    let s : State := ((inS fun z => z).modCore 0 fun z => { z with pstate := .saved }).modCore 0 fun z => { z with cmds := [{ cmd0 with kind := .hot 0x82 15 routine0 { ins := [0x0100000000000100, 0x0100000000000180], outs := [0x0100000000000200], n := 1, m := 0 } .start }] }
    let n : Nat := 0
    let i : Nat := 0
    let id : Nat := 1
    let op : Nat := 0x82
    let h : Nat := 15
    let k : MatrixCmd := { cmd0 with kind := .hot 0x82 15 routine0 { ins := [0x0100000000000100, 0x0100000000000180], outs := [0x0100000000000200], n := 1, m := 0 } .start }
    let ks : List MatrixCmd := []
    let rt : Routine := routine0
    let r : HotRec := { ins := [0x0100000000000100, 0x0100000000000180], outs := [0x0100000000000200], n := 1, m := 0 }
    let c := 8 * n + i
    let head := (s.core c).cmds = k :: ks ∧ k.done = none
    let matrixHot (stage : HotStage) := head ∧ k.id = id ∧ k.todo = [] ∧ k.kind = .hot op h rt r stage
    matrixHot .start ∧ s.mayRun c k = false := by
  repeat' apply And.intro
  all_goals first | decide +kernel | exact ok_of_toOption (by decide +kernel) | exact rfl | exact ⟨_, rfl⟩ | nofun | exact fun v => by cases v <;> decide

theorem witness_MatrixSteps_22 :
    let s : State := (inS fun z => z).modCore 0 fun z => { z with cmds := [{ cmd0 with kind := .hot 0x82 15 routine0 { ins := [0x0100000000000100, 0x0100000000000180], outs := [0x0100000000000200], n := 1, m := 0 } (.reading [] none), reads := back0 (got0 [1, 0, 0, 0, 0, 0, 0, 0]) ++ back0 (got0 [2, 0, 0, 0, 0, 0, 0, 0]) }] }
    let op : Nat := 0x82
    let k : MatrixCmd := { cmd0 with kind := .hot 0x82 15 routine0 { ins := [0x0100000000000100, 0x0100000000000180], outs := [0x0100000000000200], n := 1, m := 0 } (.reading [] none), reads := back0 (got0 [1, 0, 0, 0, 0, 0, 0, 0]) ++ back0 (got0 [2, 0, 0, 0, 0, 0, 0, 0]) }
    let rt : Routine := routine0
    let r : HotRec := { ins := [0x0100000000000100, 0x0100000000000180], outs := [0x0100000000000200], n := 1, m := 0 }
    let short : Option (Nat × HotEnd) := none
    let gs : List Got := [got0 [1, 0, 0, 0, 0, 0, 0, 0], got0 [2, 0, 0, 0, 0, 0, 0, 0]]
    let checked : List Nat := []
    let n : Nat := 0
    let i : Nat := 0
    let id : Nat := 1
    let h : Nat := 15
    let ks : List MatrixCmd := []
    let c := 8 * n + i
    let cap (frm fte fnver : Word) : Captured := { frm := frm, fte := fte, fnver := fnver.toNat % 256 }
    let res : HotResult := (s.hotResult (k.sender c) k.mode true (cap k.frm k.fte k.fnver) op rt r checked short gs 0 0).1.1
    let st : Nat := 0
    let head := (s.core c).cmds = k :: ks ∧ k.done = none
    let matrixHot (stage : HotStage) := head ∧ k.id = id ∧ k.todo = [] ∧ k.kind = .hot op h rt r stage
    matrixHot (.reading checked short) ∧ readsDone k.reads = some gs ∧ res.stop = .status st := by
  repeat' apply And.intro
  all_goals first | decide +kernel | exact ok_of_toOption (by decide +kernel) | exact rfl | exact ⟨_, rfl⟩ | nofun | exact fun v => by cases v <;> decide

theorem witness_MatrixSteps_23 :
    let s : State := (inS fun z => z).modCore 0 fun z => { z with cmds := [{ cmd0 with kind := .hot 0x82 15 routine0 { ins := [0x0100000000000100, 0x0100000000000180], outs := [0x0100000000000200], n := 1, m := 0 } (.ended 3 63 31 0x1F) }] }
    let n : Nat := 0
    let i : Nat := 0
    let id : Nat := 1
    let op : Nat := 0x82
    let h : Nat := 15
    let k : MatrixCmd := { cmd0 with kind := .hot 0x82 15 routine0 { ins := [0x0100000000000100, 0x0100000000000180], outs := [0x0100000000000200], n := 1, m := 0 } (.ended 3 63 31 0x1F) }
    let ks : List MatrixCmd := []
    let rt : Routine := routine0
    let r : HotRec := { ins := [0x0100000000000100, 0x0100000000000180], outs := [0x0100000000000200], n := 1, m := 0 }
    let fl : FlagSet := 0x1F
    let st : Nat := 3
    let elem : Nat := 63
    let rtpc : Nat := 31
    let c := 8 * n + i
    let head := (s.core c).cmds = k :: ks ∧ k.done = none
    let matrixHot (stage : HotStage) := head ∧ k.id = id ∧ k.todo = [] ∧ k.kind = .hot op h rt r stage
    matrixHot (.ended st elem rtpc fl) := by
  repeat' apply And.intro
  all_goals first | decide +kernel | exact ok_of_toOption (by decide +kernel) | exact rfl | exact ⟨_, rfl⟩ | nofun | exact fun v => by cases v <;> decide

theorem witness_UnitAndSuperstepSteps_1 :
    let s : State := inJob job0 (inS id)
    let job : Nat := 1
    let c : Nat := 0
    let n : Nat := 1
    let j : Job := job0
    let l : Launch := launch0
    s.job? job = some j ∧ s.dispatchChoice j = some (l, c) ∧ l.image = none ∧ s.freeStrand c = some n := by decide +kernel

theorem witness_UnitAndSuperstepSteps_2 :
    let s : State := inJob ({ job0 with launches := [{ launch0 with waiting := true }] }) (inS id)
    let job : Nat := 1
    let j : Job := { job0 with launches := [{ launch0 with waiting := true }] }
    s.job? job = some j ∧ s.dispatchChoice j = none := by decide +kernel

theorem witness_UnitAndSuperstepSteps_3 :
    let s : State := withJob ({ job0 with launches := [] }) (inS id)
    let job : Nat := 1
    let j : Job := { job0 with launches := [] }
    s.job? job = some j ∧ s.jobDone j = true := by decide +kernel

theorem witness_UnitAndSuperstepSteps_4 :
    let s : State := inJob ({ job0 with launches := [] }) (inS id)
    let job : Nat := 1
    let j : Job := { job0 with launches := [] }
    s.job? job = some j ∧ s.jobDone j = false := by decide +kernel

theorem witness_UnitAndSuperstepSteps_5 :
    let s : State := inS fun z => { z with status := .parked (.cancel [5] 1) }
    let k : Nat := 1
    let us : List Nat := [5]
    s.me.status = .parked (.cancel us k) ∧ s.anyLives us = false := by decide +kernel

theorem witness_UnitAndSuperstepSteps_6 :
    let s : State := (inJob job0 (inS id)).modCore 0 fun z => { z with held := [{ msg := { strand := 0, uid := 1, word0 := 3, word1 := 4 }, op := none, cmd := false }] }
    let c : Nat := 0
    let m : Held := { msg := { strand := 0, uid := 1, word0 := 3, word1 := 4 }, op := none, cmd := false }
    let ms : List Held := []
    (s.core c).held = m :: ms ∧ (s.core c).diverts = false ∧ coreOf m.msg.strand = c ∧ (s.core c).hasRoom m.msg.strand =
      true ∧ s.unitLives m.msg.strand m.msg.uid = true ∧ m.op = none ∧ m.cmd = false := by decide +kernel

theorem witness_UnitAndSuperstepSteps_7 :
    let s : State := arrivedAt (inJob ({ detJob with chosen := none }) (inS id))
    let job : Nat := 1
    let j : Job := { detJob with chosen := none }
    let rc : List Byte := record0
    s.job? job = some j ∧ j.det = true ∧ j.pouring = false ∧ j.chosen = none ∧ s.allArrived job j = true ∧
      j.cores.findSome? s.recordOf = some rc ∧ fieldOf rc 0 1 = 1 := by decide +kernel

theorem witness_UnitAndSuperstepSteps_8 :
    let s : State := { arrivedAt (inJob detJob (inS id)) with cycle := 128 }
    let job : Nat := 1
    let pick : Nat := 0
    let at_ : Nat := 128
    let j : Job := detJob
    let row : List Nat := [1]
    s.job? job = some j ∧ j.chosen = some (pick, row) ∧ j.pourFrom = some at_ ∧ j.pouring = false ∧ at_ ≤ s.cycle := by decide +kernel

theorem witness_UnitAndSuperstepSteps_9 :
    let s : State := { arrivedAt (inJob ({ detJob with pouring := true, toSend := [(0, planEntry)] }) (inS id)) with cycle := 128 }
    let job : Nat := 1
    let c : Nat := 0
    let k : Nat := 0
    let j : Job := { detJob with pouring := true, toSend := [(0, planEntry)] }
    let e : List Byte := planEntry
    s.job? job = some j ∧ j.toSend[k]? = some (c, e) ∧ j.pouring = true ∧ j.slotOpen c s.cycle e = true := by decide +kernel

theorem witness_UnitAndSuperstepSteps_10 :
    let s : State := inJob ({ detJob with pouring := true, flying := [(0, staged0)] }) (inS id)
    let job : Nat := 1
    let c : Nat := 0
    let k : Nat := 0
    let j : Job := { detJob with pouring := true, flying := [(0, staged0)] }
    let d : Staged := staged0
    s.job? job = some j ∧ j.flying[k]? = some (c, d) ∧ (∀ x ∈ j.flying.take k, x.1 ≠ c ∨ x.2.sameSender d = false) := by decide +kernel

theorem witness_UnitAndSuperstepSteps_11 :
    let s : State := (arrivedAt (inJob ({ detJob with pouring := true }) (inS id))).modCore 0 fun z => { z with staged := [staged0] }
    let job : Nat := 1
    let c : Nat := 0
    let n : Nat := 0
    let pick : Nat := 0
    let j : Job := { detJob with pouring := true }
    let row : List Nat := [1]
    let d : Staged := staged0
    let p : Loc := unit0 0x1000
    let w : Word := 0x0100000000000000
    let h := 8 * c + n
    s.job? job = some j ∧ j.chosen = some (pick, row) ∧ j.pouring = true ∧ j.toSend = [] ∧ j.flying = [] ∧ j.cores = [c]
      ∧ (s.core c).staged = [d] ∧ d.loc = some p ∧ d.poison = [] ∧ s.anyPoison p d.data.length = false ∧ n < 6 ∧
      (s.strand h).arrived = some w := by decide +kernel

theorem witness_UnitAndSuperstepSteps_12 :
    let s : State := (inJob ({ detJob with replays := 1 }) (inS id)).modCore 0 fun z => { z with recording := true, atCommit := [(0, Strand.reset .u)] }
    let job : Nat := 1
    let c : Nat := 0
    let i : Nat := 0
    let j : Job := { detJob with replays := 1 }
    let t0 : Strand := Strand.reset .u
    s.job? job = some j ∧ s.canReplay j = true ∧ j.cores = [c] ∧ c < 4096 ∧ i < 6 ∧ (s.core c).atCommit = [(i, t0)] := by decide +kernel

theorem witness_UnitAndSuperstepSteps_13 :
    let s : State := inJob ({ detJob with replays := 2 }) (inS id)
    let job : Nat := 1
    let j : Job := { detJob with replays := 2 }
    s.job? job = some j ∧ s.canReplay j = false := by decide +kernel

theorem witness_KernelWordResults_1 :
    let s : State := (inS fun z => { z with status := .parked (.forward true) }).modCore 4096 fun z => { z with path := [privStore 0x100008 1] }
    let core : Nat := 4096
    let seq : Nat := 1
    let b : Nat := 0
    let c : Nat := 0
    let k : Nat := 0
    let kc : Nat := 0
    let e : PathEntry := privStore 0x100008 1
    let f : Bool := true
    let n := 512 * b + c
    let h := 8 * n + k
    let puts (i : Nat) (v : Word) := writes s core seq e (.priv b) i v
    b < 8 ∧ c < 512 ∧ k < 6 ∧ kc < 64 ∧ puts (0x100000 + 96 * c + 16 * k + 8) 1#64 ∧ (s.strand h).status = .parked
      (.forward f) ∧ (s.core n).pstate ≠ .saved := by decide +kernel

theorem witness_KernelWordResults_2 :
    let s : State := (inS fun z => { z with status := .parked (.forward true) }).modCore 4096 fun z => { z with path := [privStore 0x100008 2] }
    let core : Nat := 4096
    let seq : Nat := 1
    let b : Nat := 0
    let c : Nat := 0
    let k : Nat := 0
    let kc : Nat := 0
    let e : PathEntry := privStore 0x100008 2
    let f : Bool := true
    let n := 512 * b + c
    let h := 8 * n + k
    let puts (i : Nat) (v : Word) := writes s core seq e (.priv b) i v
    b < 8 ∧ c < 512 ∧ k < 6 ∧ kc < 64 ∧ puts (0x100000 + 96 * c + 16 * k + 8) 2#64 ∧ (s.strand h).status = .parked
      (.forward f) ∧ (s.core n).pstate ≠ .saved := by decide +kernel

theorem witness_KernelWordResults_3 :
    let s : State := (withOp ({ op0 (.copy (copyGeom 8 0) 0 0 0) with parked := true }) (inS id)).modCore 4096 fun z => { z with path := [privStore 0x200010 0x10001] }
    let core : Nat := 4096
    let seq : Nat := 1
    let b : Nat := 0
    let c : Nat := 0
    let k : Nat := 0
    let kc : Nat := 0
    let e : PathEntry := privStore 0x200010 0x10001
    let v : Word := 0x10001
    let o : EngineOp := { op0 (.copy (copyGeom 8 0) 0 0 0) with parked := true }
    let n := 512 * b + c
    let control (i : Nat) : Nat := 0x200000 + 64 * c + i
    let puts (i : Nat) (v : Word) := writes s core seq e (.priv b) i v
    b < 8 ∧ c < 512 ∧ k < 6 ∧ kc < 64 ∧ puts (control 0x10) v ∧ v.toNat / 2 ^ 16 % 4 = 1 ∧ (s.core n).op? (v.toNat % 2 ^
      16) = some o ∧ o.parked = true := by decide +kernel

theorem witness_KernelWordResults_4 :
    let s : State := (inS id).modCore 4096 fun z => { z with path := [privStore 0x200010 0x10001] }
    let core : Nat := 4096
    let seq : Nat := 1
    let b : Nat := 0
    let c : Nat := 0
    let k : Nat := 0
    let kc : Nat := 0
    let e : PathEntry := privStore 0x200010 0x10001
    let v : Word := 0x10001
    let n := 512 * b + c
    let control (i : Nat) : Nat := 0x200000 + 64 * c + i
    let puts (i : Nat) (v : Word) := writes s core seq e (.priv b) i v
    b < 8 ∧ c < 512 ∧ k < 6 ∧ kc < 64 ∧ puts (control 0x10) v ∧ ((s.core n).op? (v.toNat % 2 ^ 16)).all (fun o =>
      !o.parked) = true := by decide +kernel

theorem witness_KernelWordResults_5 :
    let s : State := (withOp (op0 (.copy (copyGeom 8 0) 0 0 0)) (inS id)).modCore 4096 fun z => { z with path := [privStore 0x200010 0x10001] }
    let core : Nat := 4096
    let seq : Nat := 1
    let b : Nat := 0
    let c : Nat := 0
    let k : Nat := 0
    let kc : Nat := 0
    let e : PathEntry := privStore 0x200010 0x10001
    let v : Word := 0x10001
    let n := 512 * b + c
    let control (i : Nat) : Nat := 0x200000 + 64 * c + i
    let puts (i : Nat) (v : Word) := writes s core seq e (.priv b) i v
    b < 8 ∧ c < 512 ∧ k < 6 ∧ kc < 64 ∧ puts (control 0x10) v ∧ ((s.core n).op? (v.toNat % 2 ^ 16)).all (fun o =>
      !o.parked) = true := by decide +kernel

theorem witness_KernelWordResults_6 :
    let s : State := (inS id).modCore 4096 fun z => { z with path := [privStore 0x200010 0x20001] }
    let core : Nat := 4096
    let seq : Nat := 1
    let b : Nat := 0
    let c : Nat := 0
    let k : Nat := 0
    let kc : Nat := 0
    let e : PathEntry := privStore 0x200010 0x20001
    let v : Word := 0x20001
    let n := 512 * b + c
    let control (i : Nat) : Nat := 0x200000 + 64 * c + i
    let puts (i : Nat) (v : Word) := writes s core seq e (.priv b) i v
    b < 8 ∧ c < 512 ∧ k < 6 ∧ kc < 64 ∧ puts (control 0x10) v ∧ ((s.core n).op? (v.toNat % 2 ^ 16)).all (fun o =>
      !o.parked) = true := by decide +kernel

theorem witness_KernelWordResults_7 :
    let s : State := (withOp (op0 (.copy (copyGeom 8 0) 0 0 0)) (inS id)).modCore 4096 fun z => { z with path := [privStore 0x200010 0x20001] }
    let core : Nat := 4096
    let seq : Nat := 1
    let b : Nat := 0
    let c : Nat := 0
    let k : Nat := 0
    let kc : Nat := 0
    let e : PathEntry := privStore 0x200010 0x20001
    let v : Word := 0x20001
    let n := 512 * b + c
    let control (i : Nat) : Nat := 0x200000 + 64 * c + i
    let puts (i : Nat) (v : Word) := writes s core seq e (.priv b) i v
    b < 8 ∧ c < 512 ∧ k < 6 ∧ kc < 64 ∧ puts (control 0x10) v ∧ ((s.core n).op? (v.toNat % 2 ^ 16)).all (fun o =>
      !o.parked) = true := by decide +kernel

theorem witness_KernelWordResults_8 :
    let s : State := (withOp ({ op0 (.copy (copyGeom 8 0) 0 0 0) with parked := true }) (inS id)).modCore 4096 fun z => { z with path := [privStore 0x200010 0x20001] }
    let core : Nat := 4096
    let seq : Nat := 1
    let b : Nat := 0
    let c : Nat := 0
    let k : Nat := 0
    let kc : Nat := 0
    let e : PathEntry := privStore 0x200010 0x20001
    let v : Word := 0x20001
    let o : EngineOp := { op0 (.copy (copyGeom 8 0) 0 0 0) with parked := true }
    let g : Vector Word 13 := copyGeom 8 0
    let rm : BitVec 3 := 0
    let row : Nat := 0
    let pos : Nat := 0
    let n := 512 * b + c
    let control (i : Nat) : Nat := 0x200000 + 64 * c + i
    let puts (i : Nat) (v : Word) := writes s core seq e (.priv b) i v
    b < 8 ∧ c < 512 ∧ k < 6 ∧ kc < 64 ∧ puts (control 0x10) v ∧ v.toNat / 2 ^ 16 % 4 = 2 ∧ (s.core n).op? (v.toNat % 2 ^
      16) = some o ∧ o.parked = true ∧ s.parkedWrite n o.id o.mode = none ∧ o.done = none ∧ o.kind = .copy g rm row pos := by decide +kernel

theorem witness_KernelWordResults_9 :
    let s : State := (((withOp ({ op0 (.copy (copyGeom 8 0) 0 0 0) with parked := true }) (inS id)).modCore 0 fun z => { z with slipped := [({ (slipping 1) with acc := { (slipping 1).acc with answers := false, sure := true, op := some 1, kind := .store (bytesOfNat 8 5) none false, ending := some { status := 9, word1 := 8, flags := 0#5 } } }, hop0)] }).modCluster 0 fun z => { z with ctu := [{ asid := 0, size := 0, page := 2, leaf := 0x103 }] }).modCore 4096 fun z => { z with path := [privStore 0x200010 0x20001] }
    let core : Nat := 4096
    let seq : Nat := 1
    let b : Nat := 0
    let c : Nat := 0
    let k : Nat := 0
    let kc : Nat := 0
    let e : PathEntry := privStore 0x200010 0x20001
    let v : Word := 0x20001
    let o : EngineOp := { op0 (.copy (copyGeom 8 0) 0 0 0) with parked := true }
    let a : Access := ({ (slipping 1) with acc := { (slipping 1).acc with answers := false, sure := true, op := some 1, kind := .store (bytesOfNat 8 5) none false, ending := some { status := 9, word1 := 8, flags := 0#5 } } }).acc
    let fin : Outcome := { status := 9, word1 := 8, flags := 0#5 }
    let n := 512 * b + c
    let control (i : Nat) : Nat := 0x200000 + 64 * c + i
    let puts (i : Nat) (v : Word) := writes s core seq e (.priv b) i v
    b < 8 ∧ c < 512 ∧ k < 6 ∧ kc < 64 ∧ puts (control 0x10) v ∧ v.toNat / 2 ^ 16 % 4 = 2 ∧ (s.core n).op? (v.toNat % 2 ^
      16) = some o ∧ o.parked = true ∧ s.parkedWrite n o.id o.mode = some a ∧ a.ending = some fin := by decide +kernel

theorem witness_KernelWordResults_10 :
    let s : State := (inS id).modCore 4096 fun z => { z with path := [privStore 0x200018 0x3F] }
    let core : Nat := 4096
    let seq : Nat := 1
    let b : Nat := 0
    let c : Nat := 0
    let k : Nat := 0
    let kc : Nat := 0
    let e : PathEntry := privStore 0x200018 0x3F
    let v : Word := 0x3F
    let control (i : Nat) : Nat := 0x200000 + 64 * c + i
    let puts (i : Nat) (v : Word) := writes s core seq e (.priv b) i v
    b < 8 ∧ c < 512 ∧ k < 6 ∧ kc < 64 ∧ puts (control 0x18) v := by decide +kernel

theorem witness_KernelWordResults_11 :
    let s : State := inS fun z => { z with status := .parked (.forward false) }
    let b : Nat := 0
    let c : Nat := 0
    let k : Nat := 0
    let kc : Nat := 0
    b < 8 ∧ c < 512 ∧ k < 6 ∧ kc < 64 ∧ s.me.status = .parked (.forward false) ∧ 1 ≤ (s.die (dieOf s.here)).faultRoom := by decide +kernel

theorem witness_KernelWordResults_12 :
    let s : State := (inS id).modCore 4096 fun z => { z with path := [privStore 0x200000 1] }
    let core : Nat := 4096
    let seq : Nat := 1
    let b : Nat := 0
    let c : Nat := 0
    let k : Nat := 0
    let kc : Nat := 0
    let e : PathEntry := privStore 0x200000 1
    let n := 512 * b + c
    let control (i : Nat) : Nat := 0x200000 + 64 * c + i
    let puts (i : Nat) (v : Word) := writes s core seq e (.priv b) i v
    b < 8 ∧ c < 512 ∧ k < 6 ∧ kc < 64 ∧ puts (control 0) 1#64 ∧ (s.core n).pstate = .running := by decide +kernel

theorem witness_KernelWordResults_13 :
    let s : State := (inS id).modCore 4096 fun z => { z with path := [privStore 0x200000 4] }
    let core : Nat := 4096
    let seq : Nat := 1
    let b : Nat := 0
    let c : Nat := 0
    let k : Nat := 0
    let kc : Nat := 0
    let e : PathEntry := privStore 0x200000 4
    let n := 512 * b + c
    let control (i : Nat) : Nat := 0x200000 + 64 * c + i
    let puts (i : Nat) (v : Word) := writes s core seq e (.priv b) i v
    b < 8 ∧ c < 512 ∧ k < 6 ∧ kc < 64 ∧ puts (control 0) 4#64 ∧ (s.core n).pstate = .running := by decide +kernel

theorem witness_KernelWordResults_14 :
    let s : State := (inS fun z => { z with status := .parked (.wait { kind := 1, badva := 0, start := 0, limit := 9, timed := none }) }).modCore 4096 fun z => { z with path := [privStore 0x200000 2] }
    let core : Nat := 4096
    let seq : Nat := 1
    let b : Nat := 0
    let c : Nat := 0
    let k : Nat := 0
    let kc : Nat := 0
    let e : PathEntry := privStore 0x200000 2
    let w : Wait := { kind := 1, badva := 0, start := 0, limit := 9, timed := none }
    let n := 512 * b + c
    let h := 8 * n + k
    let control (i : Nat) : Nat := 0x200000 + 64 * c + i
    let puts (i : Nat) (v : Word) := writes s core seq e (.priv b) i v
    b < 8 ∧ c < 512 ∧ k < 6 ∧ kc < 64 ∧ puts (control 0) 2#64 ∧ (s.core n).pstate = .running ∧ (s.strand h).status =
      .parked (.wait w) := by decide +kernel

theorem witness_KernelWordResults_15 :
    let s : State := (inS fun z => { z with status := .idle }).modCore 0 fun z => { z with pstate := .saving, saveAt := 0x1000 }
    let b : Nat := 0
    let c : Nat := 0
    let k : Nat := 0
    let kc : Nat := 0
    let n := 512 * b + c
    b < 8 ∧ c < 512 ∧ k < 6 ∧ kc < 64 ∧ s.savable n = true := by decide +kernel

theorem witness_KernelWordResults_16 :
    let s : State := ((inS id).modCore 0 fun z => { z with pstate := .saved }).modCore 4096 fun z => { z with path := [privStore 0x200000 3] }
    let core : Nat := 4096
    let seq : Nat := 1
    let b : Nat := 0
    let c : Nat := 0
    let k : Nat := 0
    let kc : Nat := 0
    let e : PathEntry := privStore 0x200000 3
    let n := 512 * b + c
    let control (i : Nat) : Nat := 0x200000 + 64 * c + i
    let puts (i : Nat) (v : Word) := writes s core seq e (.priv b) i v
    b < 8 ∧ c < 512 ∧ k < 6 ∧ kc < 64 ∧ puts (control 0) 3#64 ∧ (s.core n).pstate = .saved := by decide +kernel

theorem witness_KernelWordResults_17 :
    let s : State := ((inS id).modCore 0 fun z => { z with pstate := .saved, spill := [{ kind := 0, queue := 15, size := 16, sender := 0, strand := 0, payload := List.replicate 16 7, msg := none }] }).modCore 4096 fun z => { z with path := [privStore 0x200000 3] }
    let core : Nat := 4096
    let seq : Nat := 1
    let b : Nat := 0
    let c : Nat := 0
    let k : Nat := 0
    let kc : Nat := 0
    let e : PathEntry := privStore 0x200000 3
    let n := 512 * b + c
    let control (i : Nat) : Nat := 0x200000 + 64 * c + i
    let puts (i : Nat) (v : Word) := writes s core seq e (.priv b) i v
    b < 8 ∧ c < 512 ∧ k < 6 ∧ kc < 64 ∧ puts (control 0) 3#64 ∧ (s.core n).pstate = .saved := by decide +kernel

theorem witness_KernelWordResults_18 :
    let s : State := (inS id).modCore 0 fun z => { z with pstate := .restoring, spill := [{ kind := 0, queue := 15, size := 16, sender := 0, strand := 0, payload := List.replicate 16 7, msg := none }], chan := z.chan.set 15 { base := 0, cfg := 0x100002, head := 0, tail := 0, senders := [] } }
    let b : Nat := 0
    let c : Nat := 0
    let k : Nat := 0
    let kc : Nat := 0
    let sp : Spill := { kind := 0, queue := 15, size := 16, sender := 0, strand := 0, payload := List.replicate 16 7, msg := none }
    let r : List Spill := []
    let n := 512 * b + c
    b < 8 ∧ c < 512 ∧ k < 6 ∧ kc < 64 ∧ (s.core n).pstate = .restoring ∧ (s.core n).spill = sp :: r ∧ sp.msg = none ∧
      sp.queue < 16 ∧ (s.chanQueue n sp.queue).held < (s.chanQueue n sp.queue).entries ∧ (s.chanQueue n
      sp.queue).entryBytes = sp.size ∧ (s.chanQueue n sp.queue).notify = 0 := by decide +kernel

theorem witness_KernelWordResults_19 :
    let s : State := ((inS id).modCluster 0 fun z => { z with iva := 0x1000, iasid := 5, idata := 0x10F }).modCore 4096 fun z => { z with path := [privStore 0x500018 1] }
    let core : Nat := 4096
    let seq : Nat := 1
    let b : Nat := 0
    let c : Nat := 0
    let k : Nat := 0
    let kc : Nat := 0
    let e : PathEntry := privStore 0x500018 1
    let puts (i : Nat) (v : Word) := writes s core seq e (.priv b) i v
    let insert (v : Word) := puts (0x500000 + 32 * kc + 0x18) v
    let m := 64 * b + kc
    let q := s.cluster m
    let size : BitVec 2 := q.iasid.extractLsb' 16 2
    let page := q.iva.toNat / 4096 * 4096
    let wrong := (if q.idata.getLsbD 1 then leafMalformed q.idata (sizeExp size) = true
      else sizeExp size < 21 ∨ tableMalformed q.idata = true) ∨ page % 2 ^ sizeExp size ≠ 0
    b < 8 ∧ c < 512 ∧ k < 6 ∧ kc < 64 ∧ insert 1#64 ∧ ¬ wrong := by decide +kernel

theorem witness_KernelWordResults_20 :
    let s : State := ((inS id).modCluster 0 fun z => { z with iva := 0x1000, iasid := 5, idata := 0x10E }).modCore 4096 fun z => { z with path := [privStore 0x500018 1] }
    let core : Nat := 4096
    let seq : Nat := 1
    let b : Nat := 0
    let c : Nat := 0
    let k : Nat := 0
    let kc : Nat := 0
    let e : PathEntry := privStore 0x500018 1
    let puts (i : Nat) (v : Word) := writes s core seq e (.priv b) i v
    let insert (v : Word) := puts (0x500000 + 32 * kc + 0x18) v
    let m := 64 * b + kc
    let q := s.cluster m
    let size : BitVec 2 := q.iasid.extractLsb' 16 2
    let page := q.iva.toNat / 4096 * 4096
    let wrong := (if q.idata.getLsbD 1 then leafMalformed q.idata (sizeExp size) = true
      else sizeExp size < 21 ∨ tableMalformed q.idata = true) ∨ page % 2 ^ sizeExp size ≠ 0
    b < 8 ∧ c < 512 ∧ k < 6 ∧ kc < 64 ∧ insert 1#64 ∧ ¬ wrong := by decide +kernel

theorem witness_KernelWordResults_21 :
    let s : State := ((inS id).modCluster 0 fun z => { z with iva := 0x200FFF, iasid := 5, idata := 0x10F }).modCore 4096 fun z => { z with path := [privStore 0x500018 1] }
    let core : Nat := 4096
    let seq : Nat := 1
    let b : Nat := 0
    let c : Nat := 0
    let k : Nat := 0
    let kc : Nat := 0
    let e : PathEntry := privStore 0x500018 1
    let puts (i : Nat) (v : Word) := writes s core seq e (.priv b) i v
    let insert (v : Word) := puts (0x500000 + 32 * kc + 0x18) v
    let m := 64 * b + kc
    let q := s.cluster m
    let size : BitVec 2 := q.iasid.extractLsb' 16 2
    let page := q.iva.toNat / 4096 * 4096
    let wrong := (if q.idata.getLsbD 1 then leafMalformed q.idata (sizeExp size) = true
      else sizeExp size < 21 ∨ tableMalformed q.idata = true) ∨ page % 2 ^ sizeExp size ≠ 0
    b < 8 ∧ c < 512 ∧ k < 6 ∧ kc < 64 ∧ insert 1#64 ∧ ¬ wrong := by decide +kernel

theorem witness_KernelWordResults_22 :
    let s : State := ((inS id).modCluster 0 fun z => { z with iva := 0x200FFF, iasid := 0x20005, idata := 0x2001 }).modCore 4096 fun z => { z with path := [privStore 0x500018 1] }
    let core : Nat := 4096
    let seq : Nat := 1
    let b : Nat := 0
    let c : Nat := 0
    let k : Nat := 0
    let kc : Nat := 0
    let e : PathEntry := privStore 0x500018 1
    let puts (i : Nat) (v : Word) := writes s core seq e (.priv b) i v
    let insert (v : Word) := puts (0x500000 + 32 * kc + 0x18) v
    let m := 64 * b + kc
    let q := s.cluster m
    let size : BitVec 2 := q.iasid.extractLsb' 16 2
    let page := q.iva.toNat / 4096 * 4096
    let wrong := (if q.idata.getLsbD 1 then leafMalformed q.idata (sizeExp size) = true
      else sizeExp size < 21 ∨ tableMalformed q.idata = true) ∨ page % 2 ^ sizeExp size ≠ 0
    b < 8 ∧ c < 512 ∧ k < 6 ∧ kc < 64 ∧ insert 1#64 ∧ ¬ wrong := by decide +kernel

theorem witness_KernelWordResults_23 :
    let s : State := ((inS id).modCluster 0 fun z => { z with iva := 0x1000, iasid := 5, idata := 0x10D }).modCore 4096 fun z => { z with path := [privStore 0x500018 1] }
    let core : Nat := 4096
    let seq : Nat := 1
    let b : Nat := 0
    let c : Nat := 0
    let k : Nat := 0
    let kc : Nat := 0
    let e : PathEntry := privStore 0x500018 1
    let puts (i : Nat) (v : Word) := writes s core seq e (.priv b) i v
    let insert (v : Word) := puts (0x500000 + 32 * kc + 0x18) v
    let m := 64 * b + kc
    let q := s.cluster m
    let size : BitVec 2 := q.iasid.extractLsb' 16 2
    let page := q.iva.toNat / 4096 * 4096
    let wrong := (if q.idata.getLsbD 1 then leafMalformed q.idata (sizeExp size) = true
      else sizeExp size < 21 ∨ tableMalformed q.idata = true) ∨ page % 2 ^ sizeExp size ≠ 0
    b < 8 ∧ c < 512 ∧ k < 6 ∧ kc < 64 ∧ insert 1#64 ∧ wrong := by decide +kernel

theorem witness_KernelWordResults_24 :
    let s : State := ((inS id).modCluster 0 fun z => { z with iva := 0x1000, iasid := 5, idata := 0x20000000000010F }).modCore 4096 fun z => { z with path := [privStore 0x500018 1] }
    let core : Nat := 4096
    let seq : Nat := 1
    let b : Nat := 0
    let c : Nat := 0
    let k : Nat := 0
    let kc : Nat := 0
    let e : PathEntry := privStore 0x500018 1
    let puts (i : Nat) (v : Word) := writes s core seq e (.priv b) i v
    let insert (v : Word) := puts (0x500000 + 32 * kc + 0x18) v
    let m := 64 * b + kc
    let q := s.cluster m
    let size : BitVec 2 := q.iasid.extractLsb' 16 2
    let page := q.iva.toNat / 4096 * 4096
    let wrong := (if q.idata.getLsbD 1 then leafMalformed q.idata (sizeExp size) = true
      else sizeExp size < 21 ∨ tableMalformed q.idata = true) ∨ page % 2 ^ sizeExp size ≠ 0
    b < 8 ∧ c < 512 ∧ k < 6 ∧ kc < 64 ∧ insert 1#64 ∧ wrong := by decide +kernel

theorem witness_KernelWordResults_25 :
    let s : State := ((inS id).modCluster 0 fun z => { z with iva := 0x1000, iasid := 0x10005, idata := 0x10F }).modCore 4096 fun z => { z with path := [privStore 0x500018 1] }
    let core : Nat := 4096
    let seq : Nat := 1
    let b : Nat := 0
    let c : Nat := 0
    let k : Nat := 0
    let kc : Nat := 0
    let e : PathEntry := privStore 0x500018 1
    let puts (i : Nat) (v : Word) := writes s core seq e (.priv b) i v
    let insert (v : Word) := puts (0x500000 + 32 * kc + 0x18) v
    let m := 64 * b + kc
    let q := s.cluster m
    let size : BitVec 2 := q.iasid.extractLsb' 16 2
    let page := q.iva.toNat / 4096 * 4096
    let wrong := (if q.idata.getLsbD 1 then leafMalformed q.idata (sizeExp size) = true
      else sizeExp size < 21 ∨ tableMalformed q.idata = true) ∨ page % 2 ^ sizeExp size ≠ 0
    b < 8 ∧ c < 512 ∧ k < 6 ∧ kc < 64 ∧ insert 1#64 ∧ wrong := by decide +kernel

theorem witness_KernelWordResults_26 :
    let s : State := ((withJob { job0 with asid := 9, ptroot := 0x1000 } (paged (inS id))).modCluster 0 fun z => { z with iva := 0x100, iasid := 9, idata := 7 }).modCore 4096 fun z => { z with path := [privStore 0x500018 2] }
    let core : Nat := 4096
    let seq : Nat := 1
    let b : Nat := 0
    let c : Nat := 0
    let k : Nat := 0
    let kc : Nat := 0
    let x : Nat := 31
    let lv : Nat := 1
    let e : PathEntry := privStore 0x500018 2
    let root : Word := 0x1000
    let leaf : Word := 0x72F
    let p : Loc := { home := .slice 16, off := 0 }
    let puts (i : Nat) (v : Word) := writes s core seq e (.priv b) i v
    let insert (v : Word) := puts (0x500000 + 32 * kc + 0x18) v
    let m := 64 * b + kc
    let q := s.cluster m
    b < 8 ∧ c < 512 ∧ k < 6 ∧ kc < 64 ∧ insert 2#64 ∧ s.rootOfAsid b (q.iasid.toNat % 2 ^ 16) = some root ∧ q.iva.toNat <
      2 ^ 55 ∧ s.walk root q.iva.toNat = .leaf leaf x lv p ∧ performs (s.perform core
      { strand := 0, answers := false, op := none, va := q.iva, loc := leafPlace leaf x q.iva.toNat, len := 8, kind := .mstore q.idata, sc := none, hops := [] })
      = true := by decide +kernel

theorem witness_KernelWordResults_27 :
    let s : State := ((inS id).modCluster 0 fun z => { z with iva := 0x100, iasid := 9, idata := 7 }).modCore 4096 fun z => { z with path := [privStore 0x500018 2] }
    let core : Nat := 4096
    let seq : Nat := 1
    let b : Nat := 0
    let c : Nat := 0
    let k : Nat := 0
    let kc : Nat := 0
    let e : PathEntry := privStore 0x500018 2
    let puts (i : Nat) (v : Word) := writes s core seq e (.priv b) i v
    let insert (v : Word) := puts (0x500000 + 32 * kc + 0x18) v
    let m := 64 * b + kc
    let q := s.cluster m
    b < 8 ∧ c < 512 ∧ k < 6 ∧ kc < 64 ∧ insert 2#64 ∧ s.rootOfAsid b (q.iasid.toNat % 2 ^ 16) = none := by decide +kernel

theorem witness_LinkResults_1 :
    let s : State := withPort ({ upPort with recent := List.replicate 15 0 }) (inS id)
    let port : Nat := 15
    let tc : Nat := 0
    let peer : Nat := 1
    let data : List Byte := List.replicate 236 1
    let q := s.port port
    let up := q.lstate = 2#2
    let tc0 := (q.recent.filter (· == 0#2)).length
    let slots := q.buf.toList.getD tc 0 - (q.sent.toList.getD tc 0 - q.freedByPeer.toList.getD tc 0).toNat
    let have_ := tableGet [] q.granted peer
    port < 16 ∧ up ∧ q.wait = [] ∧ q.retry.length < 512 ∧ data.length ≤ 236 ∧ tc < 3 ∧ 0 < slots ∧ (tc = 0 → tc0 < 16) ∧
      (tc = 1 → data.length ≤ have_.sum) := by decide +kernel

theorem witness_LinkResults_2 :
    let s : State := withPort ({ upPort with recent := List.replicate 15 0, granted := [(1, [200, 36])] }) (inS id)
    let port : Nat := 15
    let tc : Nat := 1
    let peer : Nat := 1
    let data : List Byte := List.replicate 236 1
    let q := s.port port
    let up := q.lstate = 2#2
    let tc0 := (q.recent.filter (· == 0#2)).length
    let slots := q.buf.toList.getD tc 0 - (q.sent.toList.getD tc 0 - q.freedByPeer.toList.getD tc 0).toNat
    let have_ := tableGet [] q.granted peer
    port < 16 ∧ up ∧ q.wait = [] ∧ q.retry.length < 512 ∧ data.length ≤ 236 ∧ tc < 3 ∧ 0 < slots ∧ (tc = 0 → tc0 < 16) ∧
      (tc = 1 → data.length ≤ have_.sum) := by decide +kernel

theorem witness_LinkResults_3 :
    let s : State := withPort ({ upPort with recent := List.replicate 15 0 }) (inS id)
    let port : Nat := 15
    let tc : Nat := 2
    let peer : Nat := 1
    let data : List Byte := List.replicate 236 1
    let q := s.port port
    let up := q.lstate = 2#2
    let tc0 := (q.recent.filter (· == 0#2)).length
    let slots := q.buf.toList.getD tc 0 - (q.sent.toList.getD tc 0 - q.freedByPeer.toList.getD tc 0).toNat
    let have_ := tableGet [] q.granted peer
    port < 16 ∧ up ∧ q.wait = [] ∧ q.retry.length < 512 ∧ data.length ≤ 236 ∧ tc < 3 ∧ 0 < slots ∧ (tc = 0 → tc0 < 16) ∧
      (tc = 1 → data.length ≤ have_.sum) := by decide +kernel

theorem witness_LinkResults_4 :
    let s : State := withPort ({ upPort with recent := List.replicate 16 0 }) (inS id)
    let port : Nat := 15
    let data : List Byte := [1]
    let q := s.port port
    let tc0 := (q.recent.filter (· == 0#2)).length
    port < 16 ∧ q.wait = [] ∧ 16 ≤ tc0 ∧ data.length ≤ 236 := by decide +kernel

theorem witness_LinkResults_5 :
    let s : State := withPort ({ upPort with wait := [(2, 1, [5]), (0, 1, [6])], recent := List.replicate 15 0 }) (inS id)
    let port : Nat := 15
    let tc : Nat := 0
    let data : List Byte := [1]
    let f : Nat × Nat × List Byte := (0, 1, [6])
    let q := s.port port
    port < 16 ∧ q.ready = true ∧ tc < 3 ∧ data.length ≤ 236 ∧ q.candidate 0 = some f := by decide +kernel

theorem witness_LinkResults_6 :
    let s : State := withPort ({ upPort with wait := [(2, 1, [5]), (1, 1, [6])], granted := [(1, [1])], recent := List.replicate 15 1 }) (inS id)
    let port : Nat := 15
    let tc : Nat := 0
    let data : List Byte := [1]
    let f : Nat × Nat × List Byte := (1, 1, [6])
    let g : Nat × Nat × List Byte := (2, 1, [5])
    let q := s.port port
    port < 16 ∧ q.ready = true ∧ tc < 3 ∧ data.length ≤ 236 ∧ q.candidate 0 = none ∧ q.candidate 1 = some f ∧ q.candidate
      2 = some g := by decide +kernel

theorem witness_LinkResults_7 :
    let s : State := withPort ({ upPort with wait := [(2, 1, [5]), (1, 1, [6])], granted := [(1, [1])], recent := 0 :: List.replicate 14 1 ++ [2] }) (inS id)
    let port : Nat := 15
    let tc : Nat := 0
    let data : List Byte := [1]
    let f : Nat × Nat × List Byte := (1, 1, [6])
    let g : Nat × Nat × List Byte := (2, 1, [5])
    let q := s.port port
    port < 16 ∧ q.ready = true ∧ tc < 3 ∧ data.length ≤ 236 ∧ q.candidate 0 = none ∧ q.candidate 1 = some f ∧ q.candidate
      2 = some g := by decide +kernel

theorem witness_LinkResults_8 :
    let s : State := (withPort Port.reset (inM id)).modCore 4096 fun z => { z with path := [{ load0 (.peer 1023 7) 8 with acc := { (load0 (.peer 1023 7) 8).acc with bulk := true } }] }
    let port : Nat := 15
    let core : Nat := 4096
    let seq : Nat := 1
    let e : PathEntry := { load0 (.peer 1023 7) 8 with acc := { (load0 (.peer 1023 7) 8).acc with bulk := true } }
    let data : List Byte := [1]
    let q := s.port port
    let up := q.lstate = 2#2
    port < 16 ∧ ¬ up ∧ s.pathEntry core seq = some e ∧ (∃ m i, e.acc.loc.home = .peer m i) ∧ data.length ≤ 236 := by
  refine ⟨by decide, by decide +kernel, by decide +kernel, ⟨_, _, rfl⟩, by decide⟩

theorem witness_LinkResults_9 :
    let s : State := (withPort Port.reset (inM id)).modCore 4096 fun z => { z with path := [{ load0 (.peer 1023 7) 8 with acc := { (load0 (.peer 1023 7) 8).acc with bulk := false } }] }
    let port : Nat := 15
    let core : Nat := 4096
    let seq : Nat := 1
    let e : PathEntry := { load0 (.peer 1023 7) 8 with acc := { (load0 (.peer 1023 7) 8).acc with bulk := false } }
    let data : List Byte := [1]
    let q := s.port port
    let up := q.lstate = 2#2
    port < 16 ∧ ¬ up ∧ s.pathEntry core seq = some e ∧ (∃ m i, e.acc.loc.home = .peer m i) ∧ data.length ≤ 236 := by
  refine ⟨by decide, by decide +kernel, by decide +kernel, ⟨_, _, rfl⟩, by decide⟩

theorem witness_LinkResults_10 :
    let s : State := withPort ({ upPort with retry := [frame0 1] }) (inS id)
    let port : Nat := 15
    let bytes : List Byte := goodFrame
    let q := s.port port
    let up := q.lstate = 2#2
    let h := headerOf bytes
    let fits := frameGood bytes = true ∧ h.seq = (q.ack + 1).toNat
    port < 16 ∧ up ∧ fits := by decide +kernel

theorem witness_LinkResults_11 :
    let s : State := withPort (upPort) (inS id)
    let port : Nat := 15
    let bytes : List Byte := [1]
    let q := s.port port
    let up := q.lstate = 2#2
    let h := headerOf bytes
    let fits := frameGood bytes = true ∧ h.seq = (q.ack + 1).toNat
    port < 16 ∧ up ∧ ¬ fits := by decide +kernel

theorem witness_LinkResults_12 :
    let s : State := withPort ({ upPort with ack := 5 }) (inS id)
    let port : Nat := 15
    let bytes : List Byte := goodFrame
    let q := s.port port
    let up := q.lstate = 2#2
    let h := headerOf bytes
    let fits := frameGood bytes = true ∧ h.seq = (q.ack + 1).toNat
    port < 16 ∧ up ∧ ¬ fits := by decide +kernel

theorem witness_LinkResults_13 :
    let s : State := withPort (upPort) (inS id)
    let port : Nat := 15
    let q := s.port port
    let up := q.lstate = 2#2
    port < 16 ∧ up := by decide +kernel

theorem witness_LinkResults_14 :
    let s : State := withPort ({ upPort with retry := [frame0 15, frame0 16] }) (inS id)
    let port : Nat := 15
    let q := s.port port
    let up := q.lstate = 2#2
    port < 16 ∧ up ∧ (∃ f ∈ q.retry, 16 ≤ f.sent) := by decide +kernel

theorem witness_LinkResults_15 :
    let s : State := withPort ({ upPort with retry := [frame0 15] }) (inS id)
    let port : Nat := 15
    let q := s.port port
    let up := q.lstate = 2#2
    port < 16 ∧ up ∧ (∀ f ∈ q.retry, f.sent < 16) := by decide +kernel

theorem witness_LinkResults_16 :
    let s : State := withPort (upPort) (inS id)
    let port : Nat := 15
    let q := s.port port
    let up := q.lstate = 2#2
    let hardware := (s.die (port / 2)).mgmt.getLsbD 3 = true
    port < 16 ∧ up ∧ hardware := by decide +kernel

theorem witness_LinkResults_17 :
    let s : State := withPort (upPort) ((inS id).modDie 7 fun z => { z with mgmt := 0 })
    let port : Nat := 15
    let q := s.port port
    let up := q.lstate = 2#2
    let hardware := (s.die (port / 2)).mgmt.getLsbD 3 = true
    port < 16 ∧ up ∧ ¬ hardware := by decide +kernel

theorem witness_LinkResults_18 :
    let s : State := withPort ({ Port.reset with lstate := 1, shake := .phy, attempt := 9 }) (inS id)
    let port : Nat := 15
    let q := s.port port
    port < 16 ∧ q.lstate = 1#2 ∧ q.shake = .phy := by decide +kernel

theorem witness_LinkResults_19 :
    let s : State := withPort ({ Port.reset with lstate := 1, shake := .hello }) ({ inS id with cycle := 1024 })
    let port : Nat := 15
    let q := s.port port
    port < 16 ∧ q.shake = .hello ∧ q.peerLid = none ∧ q.lastHello + 1024 ≤ s.cycle := by decide +kernel

theorem witness_LinkResults_20 :
    let s : State := withPort ({ Port.reset with lstate := 1, shake := .hello }) (inS id)
    let port : Nat := 15
    let q := s.port port
    port < 16 ∧ q.shake = .hello ∧ q.peerLid = none := by decide +kernel

theorem witness_LinkResults_21 :
    let s : State := withPort ({ Port.reset with lstate := 1, shake := .hello }) (inS id)
    let port : Nat := 15
    let q := s.port port
    port < 16 ∧ q.shake = .hello ∧ q.peerLid = none := by decide +kernel

theorem witness_LinkResults_22 :
    let s : State := withPort ({ Port.reset with lstate := 1, shake := .hello }) (inS id)
    let port : Nat := 15
    let q := s.port port
    let up := q.lstate = 2#2
    port < 16 ∧ ¬ up ∧ q.shake = .hello := by decide +kernel

theorem witness_LinkResults_23 :
    let s : State := withPort (upPort) (inS id)
    let port : Nat := 15
    let q := s.port port
    let up := q.lstate = 2#2
    port < 16 ∧ up := by decide +kernel

theorem witness_LinkResults_24 :
    let s : State := withPort ({ upPort with fails := 3 }) (inS id)
    let port : Nat := 15
    let q := s.port port
    let up := q.lstate = 2#2
    port < 16 ∧ up := by decide +kernel

theorem witness_LinkResults_25 :
    let s : State := withPort ({ Port.reset with lstate := 1, shake := .offered, lrec := 0x100000F0F0F0F, shakeFrom := 0 }) (inS id)
    let port : Nat := 15
    let bytes : List Byte := handFrame
    let q := s.port port
    let peerRec := BitVec.ofNat 64 (fieldOf bytes 16 8)
    let judged := s.judge q peerRec (BitVec.ofNat 64 (fieldOf bytes 24 8))
    port < 16 ∧ q.shake = .offered ∧ judged = true := by decide +kernel

theorem witness_LinkResults_26 :
    let s : State := withPort ({ Port.reset with lstate := 1, shake := .offered, target := 2, fails := 2 }) ({ inS id with cycle := 2 ^ 20 + 1 })
    let port : Nat := 15
    let bytes : List Byte := handFrame
    let q := s.port port
    let peerRec := BitVec.ofNat 64 (fieldOf bytes 16 8)
    let judged := s.judge q peerRec (BitVec.ofNat 64 (fieldOf bytes 24 8))
    port < 16 ∧ q.shake = .offered ∧ judged = false := by decide +kernel

theorem witness_LinkResults_27 :
    let s : State := withPort ({ Port.reset with lstate := 1, shake := .answered, lrec := 0x100000F0F0F0F, shakeFrom := 0 }) (inS id)
    let port : Nat := 15
    let bytes : List Byte := handFrame
    let q := s.port port
    let peerRec := BitVec.ofNat 64 (fieldOf bytes 16 8)
    let judged := s.judge q peerRec (BitVec.ofNat 64 (fieldOf bytes 24 8))
    port < 16 ∧ q.shake = .answered ∧ judged = true := by decide +kernel

theorem witness_LinkResults_28 :
    let s : State := withPort ({ Port.reset with lstate := 1, shake := .answered, target := 2, fails := 2 }) ({ inS id with cycle := 2 ^ 20 + 1 })
    let port : Nat := 15
    let bytes : List Byte := handFrame
    let q := s.port port
    let peerRec := BitVec.ofNat 64 (fieldOf bytes 16 8)
    let judged := s.judge q peerRec (BitVec.ofNat 64 (fieldOf bytes 24 8))
    port < 16 ∧ q.shake = .answered ∧ judged = false := by decide +kernel

theorem witness_LinkResults_29 :
    let s : State := withPort ({ Port.reset with lstate := 1, shake := .hello }) ({ inS id with cycle := 2 ^ 20 + 1 })
    let port : Nat := 15
    let q := s.port port
    port < 16 ∧ q.lstate = 1#2 ∧ (q.shake = .hello ∨ q.shake = .offered ∨ q.shake = .answered) ∧ q.shakeFrom + 2 ^ 20 <
      s.cycle := by decide +kernel

theorem witness_LinkResults_30 :
    let s : State := withPort ({ Port.reset with lstate := 1, shake := .offered }) ({ inS id with cycle := 2 ^ 20 + 1 })
    let port : Nat := 15
    let q := s.port port
    port < 16 ∧ q.lstate = 1#2 ∧ (q.shake = .hello ∨ q.shake = .offered ∨ q.shake = .answered) ∧ q.shakeFrom + 2 ^ 20 <
      s.cycle := by decide +kernel

theorem witness_LinkResults_31 :
    let s : State := withPort ({ Port.reset with lstate := 1, shake := .answered }) ({ inS id with cycle := 2 ^ 20 + 1 })
    let port : Nat := 15
    let q := s.port port
    port < 16 ∧ q.lstate = 1#2 ∧ (q.shake = .hello ∨ q.shake = .offered ∨ q.shake = .answered) ∧ q.shakeFrom + 2 ^ 20 <
      s.cycle := by decide +kernel

theorem witness_LinkResults_32 :
    let s : State := (withPort ({ Port.reset with lstate := 1, stepWait := true }) (inM id)).modCore 4096 fun z => { z with path := [hubStore (0x100000 + 0x100 * 15 + 0x18) 1] }
    let port : Nat := 15
    let core : Nat := 4096
    let seq : Nat := 1
    let e : PathEntry := hubStore (0x100000 + 0x100 * 15 + 0x18) 1
    let q := s.port port
    let command (v : Word) := writes s core seq e (.priv 8) (0x100000 + 0x100 * port + 0x18) v
    port < 16 ∧ command 1#64 ∧ q.stepWait = true := by decide +kernel

theorem witness_LinkResults_33 :
    let s : State := (withPort (upPort) (inM id)).modCore 4096 fun z => { z with path := [hubStore (0x100000 + 0x100 * 15 + 0x18) 2] }
    let port : Nat := 15
    let core : Nat := 4096
    let seq : Nat := 1
    let e : PathEntry := hubStore (0x100000 + 0x100 * 15 + 0x18) 2
    let command (v : Word) := writes s core seq e (.priv 8) (0x100000 + 0x100 * port + 0x18) v
    port < 16 ∧ command 2#64 := by decide +kernel

theorem witness_LinkResults_34 :
    let s : State := (withPort (upPort) (inM id)).modCore 4096 fun z => { z with path := [hubStore (0x100000 + 0x100 * 15 + 0x18) 3] }
    let port : Nat := 15
    let core : Nat := 4096
    let seq : Nat := 1
    let e : PathEntry := hubStore (0x100000 + 0x100 * 15 + 0x18) 3
    let command (v : Word) := writes s core seq e (.priv 8) (0x100000 + 0x100 * port + 0x18) v
    port < 16 ∧ command 3#64 := by decide +kernel

theorem witness_LinkResults_35 :
    let s : State := withPort (upPort) (inS id)
    let port : Nat := 15
    let n : Nat := 5000
    let q := s.port port
    port < 16 ∧ q.sources = [] ∧ 0 < n := by decide +kernel

theorem witness_LinkResults_36 :
    let s : State := withPort { upPort with sources := [(1, 4096), (2, 5)] } (inS id)
    let port : Nat := 15
    let sent : Nat := 1
    let n : Nat := 4096
    let rest : List (Nat × Nat) := [(2, 5)]
    let q := s.port port
    port < 16 ∧ q.sources = (sent, n) :: rest := by decide +kernel

theorem witness_LinkResults_37 :
    let s : State := withPort { upPort with sources := [(1, 4097)] } (inS id)
    let port : Nat := 15
    let sent : Nat := 1
    let n : Nat := 4097
    let rest : List (Nat × Nat) := []
    let q := s.port port
    port < 16 ∧ q.sources = (sent, n) :: rest := by decide +kernel

theorem witness_LinkResults_38 :
    let s : State := withPort ({ upPort with announced := [(1, 4095)], granted := [(1, List.replicate 63 4096)] }) (inS id)
    let port : Nat := 15
    let peer : Nat := 1
    let q := s.port port
    let left := tableGet 0 q.announced peer
    let have_ := tableGet [] q.granted peer
    port < 16 ∧ 0 < left ∧ have_.length < 64 := by decide +kernel

theorem witness_LinkResults_39 :
    let s : State := withPort ({ upPort with announced := [(1, 8192)], granted := [(1, List.replicate 64 1)] }) (inS id)
    let port : Nat := 15
    let peer : Nat := 1
    let q := s.port port
    let have_ := tableGet [] q.granted peer
    port < 16 ∧ 64 ≤ have_.length := by decide +kernel

theorem witness_LinkResults_40 :
    let s : State := inS id
    let die : Nat := 7
    let op : Nat := 1
    let key : BitVec 24 := 9
    let data : List Byte := [1, 2, 3, 4, 5, 6, 7, 8]
    let k : AccKind := .store [1, 2, 3, 4, 5, 6, 7, 8] none false
    requestKind op data = some k ∧ (s.die die).jobEntry key = none := by decide +kernel

theorem witness_LinkResults_41 :
    let s : State := (inS id).modDie 7 fun z => { z with jobTable := [(0, 0x8000000000090005, 0x1000)] }
    let t : State := (s.outsidePlaces 0x1000 .write true ((s.die 7).mgmt.getLsbD 1) (pieces 0x100 8)).2
    let die : Nat := 7
    let len : Nat := 8
    let op : Nat := 1
    let reason : Nat := 3
    let asid : Nat := 5
    let key : BitVec 24 := 9
    let va : Word := 0x0080000000000100
    let root : Word := 0x1000
    let data : List Byte := [1, 2, 3, 4, 5, 6, 7, 8]
    let k : AccKind := .store [1, 2, 3, 4, 5, 6, 7, 8] none false
    let a := va.toNat % 2 ^ 45
    let places := s.outsidePlaces root k.need true ((s.die die).mgmt.getLsbD 1) (pieces a len)
    requestKind op data = some k ∧ (s.die die).jobEntry key = some (asid, root) ∧ places = (.error reason, t) := by
  refine ⟨by decide +kernel, by decide +kernel, ?_⟩
  exact Prod.ext (by first | rfl | decide +kernel) rfl

theorem witness_LinkResults_42 :
    let s : State := (paged (inS id)).modDie 7 fun z => { z with jobTable := [(0, 0x8000000000090005, 0x1000)] }
    let t : State := (s.outsidePlaces 0x1000 .write true ((s.die 7).mgmt.getLsbD 1) (pieces 0x100 8)).2
    let die : Nat := 7
    let len : Nat := 8
    let op : Nat := 1
    let asid : Nat := 5
    let key : BitVec 24 := 9
    let va : Word := 0x0080000000000100
    let root : Word := 0x1000
    let data : List Byte := [1, 2, 3, 4, 5, 6, 7, 8]
    let k : AccKind := .store [1, 2, 3, 4, 5, 6, 7, 8] none false
    let l : Loc := { home := .slice 0, off := 0x100 }
    let a := va.toNat % 2 ^ 45
    let places := s.outsidePlaces root k.need true ((s.die die).mgmt.getLsbD 1) (pieces a len)
    requestKind op data = some k ∧ (s.die die).jobEntry key = some (asid, root) ∧ places = (.ok [(l, len)], t) ∧
      data.length ≤ len := by
  refine ⟨by decide +kernel, by decide +kernel, ?_, by decide⟩
  exact Prod.ext (by rfl) rfl

theorem witness_LinkResults_43 :
    let s : State := (paged (inS id)).modDie 7 fun z => { z with jobTable := [(0, 0x8000000000090005, 0x1000)] }
    let t : State := (s.outsidePlaces 0x1000 .read true ((s.die 7).mgmt.getLsbD 1) (pieces 0x100 8)).2
    let die : Nat := 7
    let len : Nat := 8
    let op : Nat := 0
    let asid : Nat := 5
    let key : BitVec 24 := 9
    let va : Word := 0x0080000000000100
    let root : Word := 0x1000
    let data : List Byte := []
    let k : AccKind := .load .plain false
    let l : Loc := { home := .slice 0, off := 0x100 }
    let a := va.toNat % 2 ^ 45
    let places := s.outsidePlaces root k.need true ((s.die die).mgmt.getLsbD 1) (pieces a len)
    requestKind op data = some k ∧ (s.die die).jobEntry key = some (asid, root) ∧ places = (.ok [(l, len)], t) ∧
      data.length ≤ len := by
  refine ⟨by decide +kernel, by decide +kernel, ?_, by decide⟩
  exact Prod.ext (by rfl) rfl

theorem witness_LinkResults_44 :
    let s : State := (paged (inS id)).modDie 7 fun z => { z with jobTable := [(0, 0x8000000000090005, 0x1000)] }
    let t : State := (s.outsidePlaces 0x1000 .both true ((s.die 7).mgmt.getLsbD 1) (pieces 0x100 8)).2
    let die : Nat := 7
    let len : Nat := 8
    let op : Nat := 16
    let asid : Nat := 5
    let key : BitVec 24 := 9
    let va : Word := 0x0080000000000100
    let root : Word := 0x1000
    let data : List Byte := [1, 2, 3, 4, 5, 6, 7, 8]
    let k : AccKind := .amo 0 0x0807060504030201
    let l : Loc := { home := .slice 0, off := 0x100 }
    let a := va.toNat % 2 ^ 45
    let places := s.outsidePlaces root k.need true ((s.die die).mgmt.getLsbD 1) (pieces a len)
    requestKind op data = some k ∧ (s.die die).jobEntry key = some (asid, root) ∧ places = (.ok [(l, len)], t) ∧
      data.length ≤ len := by
  refine ⟨by decide +kernel, by decide +kernel, ?_, by decide⟩
  exact Prod.ext (by rfl) rfl

theorem witness_PcieResults_1 :
    let s : State := withRoot ({ RootPort.reset with rtab := [(0, 0x8000000000050007, 0x1000)] }) (paged (inS id))
    let t : State := (s.outsidePlaces 0x1000 .write false true (pieces 0x100 8)).2
    let root : Nat := 3
    let rid : Nat := 7
    let len : Nat := 8
    let asid : Nat := 5
    let addr : Word := 0x100
    let ptroot : Word := 0x1000
    let data : List Byte := [1, 2, 3, 4, 5, 6, 7, 8]
    let l : Loc := { home := .slice 0, off := 0x100 }
    let r := s.root root
    let within := r.requester rid = some (asid, ptroot) ∧ addr.toNat + len ≤ 2 ^ 55
    let places (need : Need) := s.outsidePlaces ptroot need false true (pieces addr.toNat len)
    root < 4 ∧ r.inWindow addr = false ∧ within ∧ len ≤ 512 ∧ data.length = len ∧ places .write = (.ok [(l, len)], t) := by
  refine ⟨by decide, by decide +kernel, by decide +kernel, by decide, by decide, ?_⟩
  exact Prod.ext (by rfl) rfl

theorem witness_PcieResults_2 :
    let s : State := withRoot ({ RootPort.reset with rtab := [(0, 0x8000000000050007, 0x1000)] }) (paged (inS id))
    let t : State := (s.outsidePlaces 0x1000 .write false true (pieces 0x100 8)).2
    let root : Nat := 3
    let rid : Nat := 7
    let len : Nat := 8
    let asid : Nat := 5
    let addr : Word := 0x100
    let ptroot : Word := 0x1000
    let data : List Byte := [1, 2, 3, 4, 5, 6, 7, 8]
    let l : Loc := { home := .slice 0, off := 0x100 }
    let r := s.root root
    let within := r.requester rid = some (asid, ptroot) ∧ addr.toNat + len ≤ 2 ^ 55
    let places (need : Need) := s.outsidePlaces ptroot need false true (pieces addr.toNat len)
    root < 4 ∧ r.inWindow addr = false ∧ within ∧ len ≤ 512 ∧ data.length = len ∧ places .write = (.ok [(l, len)], t) := by
  refine ⟨by decide, by decide +kernel, by decide +kernel, by decide, by decide, ?_⟩
  exact Prod.ext (by rfl) rfl

theorem witness_PcieResults_3 :
    let s : State := withRoot ({ RootPort.reset with rtab := [(0, 0x8000000000050007, 0x1000)] }) (paged (inS id))
    let t : State := (s.outsidePlaces 0x1000 .read false true (pieces 0x100 8)).2
    let root : Nat := 3
    let rid : Nat := 7
    let len : Nat := 8
    let asid : Nat := 5
    let addr : Word := 0x100
    let ptroot : Word := 0x1000
    let ps : List (Loc × Nat) := [({ home := .slice 0, off := 0x100 }, 8)]
    let r := s.root root
    let within := r.requester rid = some (asid, ptroot) ∧ addr.toNat + len ≤ 2 ^ 55
    let places (need : Need) := s.outsidePlaces ptroot need false true (pieces addr.toNat len)
    root < 4 ∧ within ∧ len ≤ 4096 ∧ places .read = (.ok ps, t) := by
  refine ⟨by decide, by decide +kernel, by decide, ?_⟩
  exact Prod.ext (by rfl) rfl

theorem witness_PcieResults_4 :
    let s : State := withRoot (RootPort.reset) (inS id)
    let root : Nat := 3
    let rid : Nat := 7
    let len : Nat := 512
    let addr : Word := 0x100
    let r := s.root root
    root < 4 ∧ r.inWindow addr = false ∧ r.requester rid = none ∧ len ≤ 512 := by decide +kernel

theorem witness_PcieResults_5 :
    let s : State := withRoot ({ RootPort.reset with msibase := 0x5001 }) (inS id)
    let root : Nat := 3
    let addr : Word := 0x5FFC
    let r := s.root root
    root < 4 ∧ r.inWindow addr = true := by decide +kernel

theorem witness_PcieResults_6 :
    let s : State := withRoot ({ RootPort.reset with msibase := 0x5001 }) (inS id)
    let root : Nat := 3
    let addr : Word := 0x5FFC
    let r := s.root root
    root < 4 ∧ r.inWindow addr = true := by decide +kernel

theorem witness_PcieResults_7 :
    let s : State := withRoot ({ RootPort.reset with msibase := 0x5001 }) (inS id)
    let root : Nat := 3
    let len : Nat := 3
    let addr : Word := 0x5000
    let r := s.root root
    root < 4 ∧ r.inWindow addr = true ∧ len ≤ 512 ∧ len ≠ 4 := by decide +kernel

theorem witness_PcieResults_8 :
    let s : State := withRoot ({ RootPort.reset with msibase := 0x5001 }) (inS id)
    let root : Nat := 3
    let len : Nat := 5
    let addr : Word := 0x5000
    let r := s.root root
    root < 4 ∧ r.inWindow addr = true ∧ len ≤ 512 ∧ len ≠ 4 := by decide +kernel

theorem witness_PcieResults_9 :
    let s : State := withRoot ({ RootPort.reset with msibase := 0x5001 }) (inS id)
    let root : Nat := 3
    let len : Nat := 512
    let addr : Word := 0x5000
    let r := s.root root
    root < 4 ∧ r.inWindow addr = true ∧ len ≤ 512 ∧ len ≠ 4 := by decide +kernel

theorem witness_PcieResults_10 :
    let s : State := withRoot ({ RootPort.reset with msibase := 0x5001 }) ({ inS id with hub := { State.reset.hub with vtab := [(2047, 0x800000000000001F)] } })
    let root : Nat := 3
    let addr : Word := 0x5FFC
    let d : BitVec 32 := 2047
    let r := s.root root
    let entry := tableGet 0 s.hub.vtab (d.toNat % 2048)
    let valid := entry.getLsbD 63 = true ∧ entry.toNat % 2 ^ 12 < 32
    root < 4 ∧ r.inWindow addr = true ∧ valid := by decide +kernel

theorem witness_PcieResults_11 :
    let s : State := withRoot ({ RootPort.reset with msibase := 0x5001 }) (inS id)
    let root : Nat := 3
    let addr : Word := 0x5000
    let d : BitVec 32 := 0
    let r := s.root root
    let entry := tableGet 0 s.hub.vtab (d.toNat % 2048)
    let valid := entry.getLsbD 63 = true ∧ entry.toNat % 2 ^ 12 < 32
    root < 4 ∧ r.inWindow addr = true ∧ ¬ valid := by decide +kernel

theorem witness_PcieResults_12 :
    let s : State := ({ inM id with hub := { State.reset.hub with vstat := [(2047, 1)] } }).modCore 4096 fun z => { z with path := [hubStore (0x3004000 + 8 * 2047) 0] }
    let root : Nat := 3
    let core : Nat := 4096
    let seq : Nat := 1
    let v : Nat := 2047
    let e : PathEntry := hubStore (0x3004000 + 8 * 2047) 0
    let w : Word := 0
    root < 4 ∧ v < 2048 ∧ w.getLsbD 0 = false ∧ writes s core seq e (.priv 8) (0x3004000 + 8 * v) w := by decide +kernel

theorem witness_PcieResults_13 :
    let s : State := ({ inM id with hub := { State.reset.hub with vstat := [(0, 1)] } }).modCore 4096 fun z => { z with path := [hubStore (0x3004000) 0xFFFFFFFFFFFFFFFE] }
    let root : Nat := 3
    let core : Nat := 4096
    let seq : Nat := 1
    let v : Nat := 0
    let e : PathEntry := hubStore (0x3004000) 0xFFFFFFFFFFFFFFFE
    let w : Word := 0xFFFFFFFFFFFFFFFE
    root < 4 ∧ v < 2048 ∧ w.getLsbD 0 = false ∧ writes s core seq e (.priv 8) (0x3004000 + 8 * v) w := by decide +kernel

theorem witness_PcieResults_14 :
    let s : State := withRoot ({ RootPort.reset with pending := [pending0] }) ({ inS id with cycle := 64999999 })
    let root : Nat := 3
    let k : Nat := 0
    let q : PcieReq := pending0
    let r := s.root root
    root < 4 ∧ r.pending[k]? = some q ∧ s.cycle < q.start + 65000000 ∧ q.write = false := by decide +kernel

theorem witness_PcieResults_15 :
    let s : State := withRoot ({ RootPort.reset with pending := [pending0] }) ({ inS id with cycle := 64999999 })
    let root : Nat := 3
    let k : Nat := 0
    let q : PcieReq := pending0
    let ok : Bool := false
    let r := s.root root
    root < 4 ∧ r.pending[k]? = some q ∧ (ok = false ∨ q.start + 65000000 ≤ s.cycle) := by decide +kernel

theorem witness_PcieResults_16 :
    let s : State := withRoot ({ RootPort.reset with pending := [pending0] }) ({ inS id with cycle := 65000000 })
    let root : Nat := 3
    let k : Nat := 0
    let q : PcieReq := pending0
    let ok : Bool := false
    let r := s.root root
    root < 4 ∧ r.pending[k]? = some q ∧ (ok = false ∨ q.start + 65000000 ≤ s.cycle) ∧ q.start + 65000000 ≤ s.cycle := by decide +kernel

theorem witness_PcieResults_17 :
    let s : State := withRoot ({ RootPort.reset with pending := [pending0] }) ({ inS id with cycle := 65000000 })
    let root : Nat := 3
    let k : Nat := 0
    let q : PcieReq := pending0
    let ok : Bool := true
    let r := s.root root
    root < 4 ∧ r.pending[k]? = some q ∧ (ok = false ∨ q.start + 65000000 ≤ s.cycle) ∧ q.start + 65000000 ≤ s.cycle := by decide +kernel

theorem witness_PcieResults_18 :
    let s : State := (withRoot { RootPort.reset with rpstat := 2 } (inM id)).modCore 4096 fun z => { z with path := [hubStore (0x2000000 + 0x10000 * 3 + 8) 1] }
    let root : Nat := 3
    let core : Nat := 4096
    let seq : Nat := 1
    let e : PathEntry := hubStore (0x2000000 + 0x10000 * 3 + 8) 1
    let r := s.root root
    let command (v : Word) := writes s core seq e (.priv 8) (0x2000000 + 0x10000 * root + 8) v
    root < 4 ∧ command 1#64 ∧ r.rpstat.toNat % 4 = 2 := by decide +kernel

theorem witness_PcieResults_19 :
    let s : State := (withRoot { RootPort.reset with rpstat := 2 } (inM id)).modCore 4096 fun z => { z with path := [hubStore (0x2000000 + 0x10000 * 3 + 8) 2] }
    let root : Nat := 3
    let core : Nat := 4096
    let seq : Nat := 1
    let e : PathEntry := hubStore (0x2000000 + 0x10000 * 3 + 8) 2
    let r := s.root root
    let command (v : Word) := writes s core seq e (.priv 8) (0x2000000 + 0x10000 * root + 8) v
    root < 4 ∧ command 2#64 ∧ r.rpstat.toNat % 4 = 2 := by decide +kernel

theorem witness_PcieResults_20 :
    let s : State := (withRoot { RootPort.reset with rpstat := 2 } (inM id)).modCore 4096 fun z => { z with path := [hubStore (0x2000000 + 0x10000 * 3 + 8) 3] }
    let root : Nat := 3
    let core : Nat := 4096
    let seq : Nat := 1
    let e : PathEntry := hubStore (0x2000000 + 0x10000 * 3 + 8) 3
    let command (v : Word) := writes s core seq e (.priv 8) (0x2000000 + 0x10000 * root + 8) v
    root < 4 ∧ command 3#64 := by decide +kernel

theorem witness_PcieResults_21 :
    let s : State := (withRoot { RootPort.reset with rpstat := 0 } (inM id)).modCore 4096 fun z => { z with path := [hubStore (0x2000000 + 0x10000 * 3 + 8) 4] }
    let root : Nat := 3
    let core : Nat := 4096
    let seq : Nat := 1
    let e : PathEntry := hubStore (0x2000000 + 0x10000 * 3 + 8) 4
    let r := s.root root
    let command (v : Word) := writes s core seq e (.priv 8) (0x2000000 + 0x10000 * root + 8) v
    root < 4 ∧ command 4#64 ∧ r.rpstat.toNat % 4 = 0 := by decide +kernel

theorem witness_PcieResults_22 :
    let s : State := withRoot ({ RootPort.reset with rpstat := 1 }) (inS id)
    let root : Nat := 3
    let width : Nat := 1
    let rate : Nat := 0
    let r := s.root root
    root < 4 ∧ r.rpstat.toNat % 4 = 1 ∧ (width = 1 ∨ width = 4 ∨ width = 8 ∨ width = 16) ∧ rate ≤ 5 := by decide +kernel

theorem witness_PcieResults_23 :
    let s : State := withRoot ({ RootPort.reset with rpstat := 1 }) (inS id)
    let root : Nat := 3
    let width : Nat := 4
    let rate : Nat := 1
    let r := s.root root
    root < 4 ∧ r.rpstat.toNat % 4 = 1 ∧ (width = 1 ∨ width = 4 ∨ width = 8 ∨ width = 16) ∧ rate ≤ 5 := by decide +kernel

theorem witness_PcieResults_24 :
    let s : State := withRoot ({ RootPort.reset with rpstat := 1 }) (inS id)
    let root : Nat := 3
    let width : Nat := 8
    let rate : Nat := 2
    let r := s.root root
    root < 4 ∧ r.rpstat.toNat % 4 = 1 ∧ (width = 1 ∨ width = 4 ∨ width = 8 ∨ width = 16) ∧ rate ≤ 5 := by decide +kernel

theorem witness_PcieResults_25 :
    let s : State := withRoot ({ RootPort.reset with rpstat := 1 }) (inS id)
    let root : Nat := 3
    let width : Nat := 16
    let rate : Nat := 5
    let r := s.root root
    root < 4 ∧ r.rpstat.toNat % 4 = 1 ∧ (width = 1 ∨ width = 4 ∨ width = 8 ∨ width = 16) ∧ rate ≤ 5 := by decide +kernel

theorem witness_PcieResults_26 :
    let root : Nat := 3
    root < 4 := by decide +kernel

theorem witness_ModuleResults_1 :
    let s : State := State.reset
    s.hub.booted = false ∧ s.hub.recovery = false := by decide +kernel

theorem witness_ModuleResults_2 :
    let s : State := { inM id with hub := { State.reset.hub with recovery := true } }
    s.hub.recovery = true := by decide +kernel

theorem witness_ModuleResults_3 :
    let s : State := { inM id with hub := { State.reset.hub with leaf := 2 ^ 20 - 1 } }
    let nonce : List Byte := List.replicate 32 9
    nonce.length = 32 ∧ s.hub.leaf < 2 ^ 20 := by decide +kernel

theorem witness_ModuleResults_4 :
    let s : State := { inM id with hub := { State.reset.hub with leaf := 2 ^ 20 } }
    2 ^ 20 ≤ s.hub.leaf := by decide +kernel

theorem witness_ModuleResults_5 :
    let die : Nat := 8
    die ≤ 8 := by decide +kernel

theorem witness_StepKeepsMemoryCanonical :
    Canonical (stored (unit0 8) [5] (inS id)) ∧ (match step (stored (unit0 8) [5] (inS id)) with
      | .next _ => true
      | _ => false) = true := ⟨⟨by decide +kernel, by decide +kernel⟩, by decide +kernel⟩

theorem witness_StepRunsDecoded_1 :
    let s : State := stored (unit0 0x20000) (bytesOfNat 4 (wordOf (.add 1#5 2#5 3#5 0#1)).toNat) ((inS id).modCore 0 fun z => { z with active := true })
    let i : Instr := .add 1#5 2#5 3#5 0#1
    let w : Word32 := wordOf (.add 1#5 2#5 3#5 0#1)
    let o : Nat := 0x20000
    let t := s.me
    let runs := s.agenda = [] ∧ s.slice = none ∧ s.hub.stopped = false ∧ (s.core s.here).pstate = .running ∧
      s.hub.absent.contains s.here = false ∧ (s.core s.here).active = true ∧ s.spent s.here = false ∧
      s.cur = 8 * s.here + (s.core s.here).run ∧ t.status = .ready
    let l : Loc := { home := .unit s.here, off := o }
    runs ∧ t.inst = none ∧ s.cancelled s.cur = false ∧ s.interruptDue s.cur = none ∧ t.breakpoint = none ∧ t.log = [] ∧
      t.loopBody = none ∧ t.stream = none ∧ s.here < 4096 ∧ t.pc = BitVec.ofNat 64 (0x0100000000000000 + o) ∧ 0x20000 ≤ o
      ∧ o < 0x28000 ∧ o % 4 = 0 ∧ guardsPass (s.core s.here) t.mode t.pc.toNat 4 .fetch = true ∧ (s.tagAt l).poison =
      false ∧ s.natAt l 4 = w.toNat ∧ decode w = .ok i ∧ t.unusable = [] := by
  repeat' apply And.intro
  all_goals first | decide +kernel | exact ok_of_toOption (by decide +kernel)

theorem witness_StepRunsDecoded_2 :
    let s : State := (inS fun z => { z with inst := some (wordOf (.add 1#5 2#5 3#5 0#1)) }).modCore 0 fun z => { z with active := true }
    let i : Instr := .add 1#5 2#5 3#5 0#1
    let w : Word32 := wordOf (.add 1#5 2#5 3#5 0#1)
    let t := s.me
    let runs := s.agenda = [] ∧ s.slice = none ∧ s.hub.stopped = false ∧ (s.core s.here).pstate = .running ∧
      s.hub.absent.contains s.here = false ∧ (s.core s.here).active = true ∧ s.spent s.here = false ∧
      s.cur = 8 * s.here + (s.core s.here).run ∧ t.status = .ready
    runs ∧ t.inst = some w ∧ decode w = .ok i := by
  repeat' apply And.intro
  all_goals first | decide +kernel | exact ok_of_toOption (by decide +kernel)

theorem witness_StepRunsDecoded_3 :
    let s : State := { inS id with agenda := [.event 0 .powerThrottle] }
    let i : Instr := .powerThrottle
    let h : Nat := 0
    let ms : List Move := []
    s.hub.stopped = false ∧ s.agenda = .event h i :: ms ∧ encode i = none := by decide +kernel

theorem witness_StepRunsDecoded_4 :
    let s : State := { inS id with agenda := [.tick 3 4] }
    let n : Nat := 3
    let m : Nat := 4
    let ms : List Move := []
    s.hub.stopped = false ∧ s.agenda = .tick n m :: ms := by decide +kernel

theorem witness_NoInstructionStops_1 :
    State.reset.hub.stopped = false ∧ ({ inS id with hub := { State.reset.hub with stopped := true }, agenda := [.event 0 .moduleReset] } : State).resetNext = true := by decide +kernel

theorem witness_NoInstructionStops_2 :
    let s : State := { inS id with hub := { State.reset.hub with stopped := true } }
    s.hub.stopped = true ∧ s.resetNext = false := by decide +kernel

end Sys2Proof.Tests
end

/-! SUPPORT. Root ports by number, what a log entry and an interrupt message leave alone, and the requests and completions of
PCIe (R22 to R26). -/

namespace Sys2Proof.Machine

variable (s : State)

/-! Root ports by number. -/

/-- A port's number lies below 4: its entry of the vector. -/
theorem State.root_eq_getElem {r : Nat} (h : r < 4) : s.root r = s.hub.roots[r] := by
  simp [State.root, h]

@[simp] theorem State.root_modRoot_same {r : Nat} (h : r < 4) (f : RootPort → RootPort) :
    (s.modRoot r f).root r = f (s.root r) := by
  simp [State.root_eq_getElem, h, State.modRoot]

/-- A change of a root port is known by what it makes of the port as it is. -/
theorem State.modRoot_congr {r : Nat} {f g : RootPort → RootPort} (h : f (s.root r) = g (s.root r)) :
    s.modRoot r f = s.modRoot r g := by
  have e : (s.hub.roots.mapFinIdx fun i x _ => if i = r then f x else x) =
      s.hub.roots.mapFinIdx fun i x _ => if i = r then g x else x := by
    ext i hi
    by_cases hr : i = r
    · subst hr
      simpa [State.root_eq_getElem, hi] using h
    · simp [hr]
  simp only [State.modRoot, e]

@[simp] theorem State.modRoot_core (r c : Nat) (f : RootPort → RootPort) : (s.modRoot r f).core c = s.core c := rfl
@[simp] theorem State.root_modCore (r c : Nat) (f : Core → Core) : (s.modCore c f).root r = s.root r := rfl

/-! IPEND.EXT raised (R330, R343): a strand's pending bits and status change, and nothing else. -/

@[simp] theorem State.wakeWfi_mem (h : Nat) : (s.wakeWfi h).mem = s.mem := by unfold State.wakeWfi; split <;> rfl
@[simp] theorem State.wakeWfi_hub (h : Nat) : (s.wakeWfi h).hub = s.hub := by unfold State.wakeWfi; split <;> rfl
@[simp] theorem State.wakeWfi_cores (h : Nat) : (s.wakeWfi h).cores = s.cores := by unfold State.wakeWfi; split <;> rfl
@[simp] theorem State.wakeWfi_dies (h : Nat) : (s.wakeWfi h).dies = s.dies := by unfold State.wakeWfi; split <;> rfl
@[simp] theorem State.wakeWfi_ipend (h : Nat) : ((s.wakeWfi h).strand h).ipend = (s.strand h).ipend := by
  unfold State.wakeWfi
  split
  · simp [State.wake]
  · rfl

@[simp] theorem State.raiseExt_mem (h : Nat) : (s.raiseExt h).mem = s.mem := by simp [State.raiseExt]
@[simp] theorem State.raiseExt_hub (h : Nat) : (s.raiseExt h).hub = s.hub := by simp [State.raiseExt]
@[simp] theorem State.raiseExt_cores (h : Nat) : (s.raiseExt h).cores = s.cores := by simp [State.raiseExt]
@[simp] theorem State.raiseExt_dies (h : Nat) : (s.raiseExt h).dies = s.dies := by simp [State.raiseExt]
/-- The bit is set where it is raised. -/
@[simp] theorem State.raiseExt_ext (h : Nat) : ((s.raiseExt h).strand h).ipend.getLsbD 5 = true := by
  simp [State.raiseExt]

@[simp] theorem State.signalManager_mem (d : Nat) : (s.signalManager d).mem = s.mem := by
  unfold State.signalManager; split <;> simp
@[simp] theorem State.signalManager_hub (d : Nat) : (s.signalManager d).hub = s.hub := by
  unfold State.signalManager; split <;> simp
@[simp] theorem State.signalManager_cores (d : Nat) : (s.signalManager d).cores = s.cores := by
  unfold State.signalManager; split <;> simp
@[simp] theorem State.signalManager_dies (d : Nat) : (s.signalManager d).dies = s.dies := by
  unfold State.signalManager; split <;> simp

/-! A violation logged (R330): one more entry in the die's log; memory, the hub and the cores are as they were. -/

section
variable (d : Nat) (addr : Word) (req : Nat) (hub : Bool) (strand path cause : Nat)

@[simp] theorem State.logViolation_mem : (s.logViolation d addr req hub strand path cause).mem = s.mem := by
  simp [State.logViolation]
@[simp] theorem State.logViolation_hub : (s.logViolation d addr req hub strand path cause).hub = s.hub := by
  simp [State.logViolation]
@[simp] theorem State.logViolation_cores : (s.logViolation d addr req hub strand path cause).cores = s.cores := by
  simp [State.logViolation]
@[simp] theorem State.logViolation_head :
    ((s.logViolation d addr req hub strand path cause).die d).vlog.head = (s.die d).vlog.head + 1 := by
  simp [State.logViolation, State.die, State.modDie, State.setDie, RingLog.push]
end

/-! Requests from outside (R22 to R24). -/

/-- A request that takes one piece puts one access of its kind into the queue. -/
theorem State.enterPieces_single (q asid : Nat) (root : Option Word) (op : Option Nat) (k : AccKind) (l : Loc) (n : Nat) (va : Word)
    (hk : ∀ data fe p, k = .store data fe p → data.length ≤ n) :
    s.enterPieces q asid root op k [(l, n)] va.toNat = s.enterPath q .core
      { strand := 8 * q, answers := false, op := op, va := va, loc := l, len := n, kind := k, sc := none, hops := [],
        asid := asid, root := root } := by
  cases k with
  | store data fe p => simp [State.enterPieces, List.take_of_length_le (hk data fe p rfl)]
  | _ => simp [State.enterPieces]

/-- A write that is no message, or a read, of a requester that has an entry and whose places are all found: accesses in its port's
queue, of a write the checks first (R23, R24). -/
theorem execPcieInbound_placed {s t : State} {root rid len asid : Nat} {addr ptroot : Word} {write poisoned : Bool} {data : List Byte}
    {ps : List (Loc × Nat)} (hlen : len ≤ if write then 512 else 4096) (hw : write = true → (s.root root).inWindow addr = false)
    (hr : (s.root root).requester rid = some (asid, ptroot)) (ha : addr.toNat + len ≤ 2 ^ 55)
    (hp : s.outsidePlaces ptroot (if write then .write else .read) false true (pieces addr.toNat len) = (.ok ps, t)) :
    let put (z : State) (k : AccKind) : State :=
      z.enterPieces (rootQueue root) asid (some ptroot) (some (t.core (rootQueue root)).seq) k ps addr.toNat
    execPcieInboundMemoryRequest root rid addr write poisoned len data s =
      .next (if write then put (put t .check) (.store ((data ++ List.replicate len 0#8).take len) none poisoned)
             else put t (.load .plain false)) := by
  have hwin : (write && (s.root root).inWindow addr) = false := by cases write <;> simp_all
  simp only [execPcieInboundMemoryRequest, if_neg (Nat.not_lt.2 hlen), hwin, hr, if_neg (Nat.not_lt.2 ha), hp, Bool.false_eq_true,
    if_false]

/-- A request of a requester that no entry names is a violation (R24). -/
theorem execPcieInbound_unknown {root rid len : Nat} {addr : Word} {poisoned : Bool} {data : List Byte} (hlen : len ≤ 512)
    (hw : (s.root root).inWindow addr = false) (hr : (s.root root).requester rid = none) :
    execPcieInboundMemoryRequest root rid addr true poisoned len data s = .next (s.logPcie root addr) := by
  simp [execPcieInboundMemoryRequest, Nat.not_lt.2 hlen, hw, hr]

/-- A write into the interrupt window: a message, or of another length a violation (R26). -/
theorem execPcieInbound_window {root rid len : Nat} {addr : Word} {poisoned : Bool} {data : List Byte} (hlen : len ≤ 512)
    (hw : (s.root root).inWindow addr = true) :
    execPcieInboundMemoryRequest root rid addr true poisoned len data s =
      .next (if len = 4 then s.message root addr (BitVec.ofNat 32 (fieldOf data 0 4)) else s.logPcie root addr) := by
  simp only [execPcieInboundMemoryRequest, if_true, if_neg (Nat.not_lt.2 hlen), hw, Bool.and_self]
  split <;> rfl

/-! Interrupt messages (R26). -/

/-- The entry of an interrupt vector table names a control core and is valid. -/
def validVector (entry : Word) : Prop := entry.getLsbD 63 = true ∧ entry.toNat % 2 ^ 12 < 32

theorem execMsiMessage_window {root : Nat} (rid : Nat) {addr : Word} (d : BitVec 32) (hw : (s.root root).inWindow addr = true) :
    execMsiMessage root rid addr d s = .next (s.message root addr d) := by
  simp [execMsiMessage, hw]

/-- A message whose vector names a control core sets its status and interrupts the core. -/
theorem State.message_valid {root : Nat} {addr : Word} {d : BitVec 32} (h : validVector (tableGet 0 s.hub.vtab (d.toNat % 2048))) :
    s.message root addr d = ({ s with hub := { s.hub with vstat := tableSet s.hub.vstat (d.toNat % 2048) 1 } } : State).raiseExt
      (8 * (4096 + (tableGet 0 s.hub.vtab (d.toNat % 2048)).toNat % 2 ^ 12)) := by
  obtain ⟨hv, ht⟩ := h
  simp only [State.message, getField, hv, pow_zero, Nat.div_one, Nat.not_le.2 ht, decide_false, Bool.not_true, Bool.or_self,
    Bool.false_eq_true, if_false]

/-- Any other message is a violation. -/
theorem State.message_invalid {root : Nat} {addr : Word} {d : BitVec 32}
    (h : ¬ validVector (tableGet 0 s.hub.vtab (d.toNat % 2048))) : s.message root addr d = s.logPcie root addr := by
  have hb : (!(tableGet 0 s.hub.vtab (d.toNat % 2048)).getLsbD 63 ||
      decide (32 ≤ getField (tableGet 0 s.hub.vtab (d.toNat % 2048)) 0 12)) = true := by
    rw [Bool.or_eq_true, Bool.not_eq_true', decide_eq_true_eq, getField, pow_zero, Nat.div_one]
    by_cases hv : (tableGet 0 s.hub.vtab (d.toNat % 2048)).getLsbD 63 = true
    · exact .inr (Nat.le_of_not_lt fun ht => h ⟨hv, ht⟩)
    · exact .inl (Bool.not_eq_true _ ▸ hv)
  simp only [State.message, hb, if_true]

/-! Completions of the module's own requests (R25). -/

/-- Between `s` and `t` pending request k of a root port has ended with this answer, and memory is as it was. -/
def State.PendingEnds (s t : State) (root k : Nat) (q : PcieReq) (x : Ans) : Prop :=
  (t.root root).pending = (s.root root).pending.eraseIdx k ∧ t.mem = s.mem ∧
    (t.core (coreOf q.strand)).answers = (s.core (coreOf q.strand)).answers ++ [(q.strand, x)]

theorem State.endPending_ends {root : Nat} (h : root < 4) (k : Nat) (q : PcieReq) (x : Ans) :
    s.PendingEnds (s.endPending root k q x) root k q x :=
  ⟨by simp [State.endPending, h], rfl, by simp [State.endPending]⟩

/-- What a request that fails ends with: all ones, and one more violation in the hub die's log. -/
theorem State.failPending_ends {root : Nat} (h : root < 4) (k : Nat) (q : PcieReq) :
    s.PendingEnds (s.failPending root k q) root k q (.val (vecOfBytes (List.replicate q.len 0xFF#8)) []) ∧
      ((s.failPending root k q).die 8).vlog.head = (s.die 8).vlog.head + 1 := by
  refine ⟨?_, s.logViolation_head _ _ _ _ _ _ _⟩
  obtain ⟨hp, hm, ha⟩ := (s.logViolation 8 q.va (s.endpoint (coreOf q.strand)) true (q.strand % 8) 0 7).endPending_ends h k q
    (.val (vecOfBytes (List.replicate q.len 0xFF#8)) [])
  refine ⟨hp.trans ?_, hm.trans (State.logViolation_mem ..), ha.trans ?_⟩
  · simp only [State.root, State.logViolation_hub]
  · simp only [State.core, State.logViolation_cores]

theorem PcieReq.late_iff (q : PcieReq) (cycle : Nat) : q.late cycle = true ↔ q.start + 65000000 ≤ cycle := decide_eq_true_iff

/-- In time, a request is not late. -/
theorem PcieReq.late_eq_false {q : PcieReq} {cycle : Nat} (h : cycle < q.start + 65000000) : q.late cycle = false :=
  decide_eq_false (Nat.not_le.2 h)

section
variable {s} {root k : Nat} {q : PcieReq} (hk : (s.root root).pending[k]? = some q)
include hk

theorem execPcieCompletion_good {poisoned : Bool} {data : List Byte} (ht : s.cycle < q.start + 65000000)
    (hp : (poisoned && !q.write) = false) : execPcieCompletion root k true poisoned data s =
      .next (s.endPending root k q (.val (vecOfBytes (data.take q.len)) [])) := by
  simp [execPcieCompletion, hk, PcieReq.late_eq_false ht, hp]

theorem execPcieCompletion_poisoned {data : List Byte} (ht : s.cycle < q.start + 65000000) (hw : q.write = false) :
    execPcieCompletion root k true true data s = .next (s.endPending root k q (.trap (trapPOISON q.va))) := by
  simp [execPcieCompletion, hk, PcieReq.late_eq_false ht, hw]

/-- An error, or a completion that comes too late. -/
theorem execPcieCompletion_failed {ok poisoned : Bool} {data : List Byte} (h : ok = false ∨ q.start + 65000000 ≤ s.cycle) :
    execPcieCompletion root k ok poisoned data s = .next (s.failPending root k q) := by
  have hb : (!ok || q.late s.cycle) = true := by
    rw [Bool.or_eq_true, Bool.not_eq_true', q.late_iff]; exact h
  simp only [execPcieCompletion, hk, hb, if_true]

theorem execPcieCompletionTimeout_late (h : q.start + 65000000 ≤ s.cycle) :
    execPcieCompletionTimeout root k s = .next (s.failPending root k q) := by
  simp only [execPcieCompletionTimeout, hk, (q.late_iff _).2 h, if_true]

theorem execPcieCompletionTimeout_early (h : s.cycle < q.start + 65000000) : execPcieCompletionTimeout root k s = .next s := by
  simp [execPcieCompletionTimeout, hk, PcieReq.late_eq_false h]
end

/-! The hub die's words (R24, R26). -/

/-- A store to a word of the hub die's block below its PCIe regions belongs to the row of its offset. -/
theorem rowOf_hub {a : Access} {o : Nat} {v : Word} (hl : a.loc = { home := .priv 8, off := o }) (hv : a.stored = some v)
    (ho : o < 0x10000000) : rowOf a = hubRow o v := by
  have hn : pcieRegion o = none := by
    rw [pcieRegion, if_neg (by omega), if_neg (by omega)]
  simp [rowOf, hl, hv, hn]

/-- RPCMD of a port takes the commands 1 to 4. -/
theorem hubRow_rpcmd {root : Nat} (h : root < 4) (v : Word) : hubRow (0x2000000 + 0x10000 * root + 8) v =
    if v = 1 then .rpcmdRetrain else if v = 2 then .rpcmdHotReset else if v = 3 then .rpcmdDisable
    else if v = 4 then .rpcmdEnable else .register := by
  rw [hubRow, if_neg (by omega), if_pos (by omega)]

/-- A store to VSTAT whose bit 0 is clear. -/
theorem hubRow_vstat {n : Nat} {v : Word} (h : n < 2048) (hv : v.getLsbD 0 = false) :
    hubRow (0x3004000 + 8 * n) v = .vstatClear := by
  rw [hubRow, if_neg (by omega), if_neg (by omega), if_pos ⟨by omega, by omega, hv⟩]

/-- A command stored to RPCMD changes its port as it says, and the store is answered. -/
theorem serveStore_rpcmd {s : State} {row : DevRow} {core seq root : Nat} {e : PathEntry} {v : Word} {f g : RootPort → RootPort}
    (h : root < 4) (w : Claims.writes s core seq e (.priv 8) (0x2000000 + 0x10000 * root + 8) v)
    (hr : hubRow (0x2000000 + 0x10000 * root + 8) v = row) (hf : f (s.root root) = g (s.root root)) :
    serveStore row core seq (fun s a _ => s.modRoot (rootOfAccess a) f) s =
      .next (Claims.answered (s.modRoot root g) core e Ans.unit) := by
  obtain ⟨⟨he, hp, hl⟩, hv⟩ := w
  have ho : rootOfAccess e.acc = root := by
    rw [rootOfAccess, hl]
    show (0x2000000 + 0x10000 * root + 8 - 0x2000000) / 0x10000 = root
    omega
  rw [serveStore_offered he hp ((rowOf_hub hl hv (by omega)).trans hr) hv, ho, s.modRoot_congr hf]
  rfl

/-- A store to VSTAT with bit 0 clear takes its vector out of the table, and is answered. -/
theorem execVstatClear_offered {s : State} {core seq n : Nat} {e : PathEntry} {v : Word} (h : n < 2048) (h0 : v.getLsbD 0 = false)
    (w : Claims.writes s core seq e (.priv 8) (0x3004000 + 8 * n) v) : execVstatClear core seq s =
      .next (Claims.answered { s with hub := { s.hub with vstat := tableErase s.hub.vstat n } } core e Ans.unit) := by
  obtain ⟨⟨he, hp, hl⟩, hv⟩ := w
  have hn : (e.acc.loc.off - 0x3004000) / 8 = n := by
    rw [hl]
    show (0x3004000 + 8 * n - 0x3004000) / 8 = n
    omega
  rw [execVstatClear, serveStore_offered he hp ((rowOf_hub hl hv (by omega)).trans (hubRow_vstat h h0)) hv, hn]
  rfl

/-- A link is up where its state is 2. -/
theorem RootPort.isUp_of {r : RootPort} (h : r.rpstat.toNat % 4 = 2) : r.isUp = true := by
  simp [RootPort.isUp, getField, h]

/-- A port in training comes up with a width and a rate of R22. -/
theorem execRootPortLinkUp_trains {root width rate : Nat} (ht : (s.root root).rpstat.toNat % 4 = 1)
    (hw : width = 1 ∨ width = 4 ∨ width = 8 ∨ width = 16) (hr : rate ≤ 5) : execRootPortLinkUp root width rate s =
      .next (s.modRoot root fun r => { r with
        rpstat := BitVec.ofNat 64 (2 + width * 2 ^ 2 + rate * 2 ^ 8 + (if rate = 5 then 2 ^ 11 else 0)) }) := by
  have htrain : getField (s.root root).rpstat 0 2 = 1 := by simpa [getField] using ht
  have hwidth : width ∈ [1, 4, 8, 16] := by simpa using hw
  unfold execRootPortLinkUp
  rw [s.modRoot_congr]
  exact if_pos ⟨htrain, hwidth, hr⟩

end Sys2Proof.Machine

namespace Sys2Proof.Proofs

open Sys2Proof.Machine Sys2Proof.Claims

/-- Settles O52: each request, message, completion and command is its own rule of the layer above. -/
theorem pcieResults : Obligations.PcieResults := by
  unfold Obligations.PcieResults
  intro s t root rid core seq k v len width rate asid e addr ptroot w data d ps l q ok poisoned
  dsimp only
  intro hroot
  have hq : rootQueue root = 4128 + root := by rw [rootQueue, Nat.mod_eq_of_lt hroot]
  refine ⟨?write, ?read, ?unknown, ?msi, ?otherLength, ?valid, ?invalid, ?vstat, ?good, ?poisoned, ?failed, ?expired, ?early,
    ?retrain, ?hotReset, ?disable, ?enable, ?up, ?loss⟩
  case write =>
    intro hw ⟨hr, ha⟩ hlen hd hp
    refine (execPcieInbound_placed (write := true) hlen (fun _ => hw) hr ha hp).trans ?_
    have hd' : (data ++ List.replicate len 0#8).take len = data := by rw [← hd, List.take_left]
    have hfits : ∀ bs fe p, AccKind.store data none poisoned = .store bs fe p → bs.length ≤ len := fun _ _ _ h => by
      cases h; exact hd.le
    rw [if_pos rfl, hd', hq]
    dsimp only
    rw [State.enterPieces_single (k := .check) (hk := nofun), State.enterPieces_single (hk := hfits)]
  case read =>
    intro ⟨hr, ha⟩ hlen hp
    refine (execPcieInbound_placed (write := false) hlen nofun hr ha hp).trans ?_
    rw [if_neg nofun, hq]
  case unknown => exact fun hw hr hlen => execPcieInbound_unknown s hlen hw hr
  case msi =>
    intro hw
    refine (execPcieInbound_window s (len := 4) (by decide) hw).trans ?_
    exact (execMsiMessage_window s rid _ hw).symm
  case otherLength =>
    intro hw hlen h4
    refine (execPcieInbound_window s hlen hw).trans ?_
    rw [if_neg h4]
  case valid =>
    intro hw hv
    refine ⟨_, execMsiMessage_window s rid d hw, ?_⟩
    rw [State.message_valid s hv]
    exact ⟨State.raiseExt_mem .., by rw [State.raiseExt_hub, tableGet_tableSet_same]; rfl, State.raiseExt_ext ..⟩
  case invalid =>
    intro hw hv
    exact (execMsiMessage_window s rid d hw).trans (congrArg _ (State.message_invalid s hv))
  case vstat => exact fun hv h0 c => execVstatClear_offered hv h0 c
  case good =>
    intro hk ht
    exact ⟨_, execPcieCompletion_good hk ht rfl, State.endPending_ends s hroot k q _⟩
  case poisoned =>
    intro hk ht hq
    exact ⟨_, execPcieCompletion_poisoned hk ht hq, State.endPending_ends s hroot k q _⟩
  case failed =>
    intro hk h
    exact ⟨_, execPcieCompletion_failed hk h, State.failPending_ends s hroot k q⟩
  case expired =>
    intro hk ht
    exact ⟨_, execPcieCompletionTimeout_late hk ht, State.failPending_ends s hroot k q⟩
  case early => exact fun hk ht => execPcieCompletionTimeout_early hk ht
  case retrain =>
    exact fun c hu => serveStore_rpcmd hroot c (hubRow_rpcmd hroot _) (if_pos (RootPort.isUp_of hu))
  case hotReset =>
    exact fun c hu => serveStore_rpcmd hroot c (hubRow_rpcmd hroot _) (if_pos (RootPort.isUp_of hu))
  case disable => exact fun c => serveStore_rpcmd hroot c (hubRow_rpcmd hroot _) rfl
  case enable =>
    intro c hd
    exact serveStore_rpcmd hroot c (hubRow_rpcmd hroot _) (if_pos (by simpa [getField] using hd))
  case up => exact fun ht hw hr => execRootPortLinkUp_trains s ht hw hr
  case loss => rfl

end Sys2Proof.Proofs

/-! SUPPORT. The step in which a copy engine's higher-order operation plans the checks of its outputs (R213, R236), and two
operations of one ID, which it does not treat alike. -/

namespace Sys2Proof.Machine

/-- Once its reads are back, an operation with outputs that a slip mark could turn away plans their checks. Every operation of its
ID is changed, and each keeps the reads that it had itself. -/
theorem exec_hotOperationCompletion_checks {s t : State} {c id op h at_ code : Nat} {o : EngineOp} {rt : Routine} {r : HotRec}
    {short : Option (Nat × HotEnd)} {gs : List Got} {res : HotResult} {places : List (List Place)} {checks : List Access}
    (ho : (s.core c).op? id = some o) (hp : o.parked = false) (ht : o.todo = []) (hd : o.done = none)
    (hk : o.kind = .hot op h rt r (.reading [] short)) (hg : readsDone o.reads = some gs)
    (hr : s.hotCopied c o op rt r [] short gs at_ code = ((res, places), t))
    (hc : t.checksFor (hotSender c o) (places.flatten.map (·, laneWidth rt.type / 8)) = checks) (hne : checks ≠ []) :
    exec (.hotOperationCompletion c false id at_ code) s = .next (t.modOp c o.id fun p =>
      { p with todo := checks, reads := p.reads ++ fetchesOf checks
               kind := .hot op h rt r (.reading (checks.map fun a => a.va.toNat) short) }) := by
  have hstep : s.hotCopy c o at_ code = s.hotNext c o op h rt r [] short gs at_ code := by
    simp only [State.hotCopy, hk, hd, hg]
  have hempty : checks.isEmpty = false := by simpa using hne
  calc exec (.hotOperationCompletion c false id at_ code) s
      = stepOr c id (fun s => .next (s.hotCopy c o at_ code)) s := by
        show execHotOperationCompletion c false id at_ code s = _
        simp only [execHotOperationCompletion, ho, hp, Bool.not_false, if_true, Bool.false_eq_true, if_false]
    _ = .next (s.hotNext c o op h rt r [] short gs at_ code) := by rw [stepOr_none _ _ _ _ (s.stepOp_nil c id ho ht), hstep]
    _ = _ := by simp only [State.hotNext, hr, List.isEmpty_nil, if_true, hc, hempty, Bool.false_eq_true, if_false]

end Sys2Proof.Machine

namespace Sys2Proof.Proofs

open Sys2Proof.Machine

/-! The counterexample: an HFOLD of no elements, which has no reads to wait for and one element to write, to a page of movable
class; beside it a second operation of the same ID with a read under way. -/

def emptyFold : Routine := { assoc := true, nin := 2, nout := 1, type := 7, ident := 0, words := [] }

def foldRec : HotRec := { ins := [], outs := [0x2000], n := 0, m := 0 }

def foldOp : EngineOp :=
  { id := 1, strand := 0, uid := 0, mode := .s, frm := 0, fte := 0, fnver := 3, kind := .hot 0x80 0 emptyFold foldRec (.reading [] none)
    flags := 0, parked := false, reads := [], todo := [], done := none }

def foldTwin : EngineOp := { foldOp with reads := [{ seq := some 0, got := none }] }

/-- A command, a tile and an access of which the clause at stake says nothing. -/
def idleCmd : MatrixCmd :=
  { id := 0, strand := 0, uid := 0, launch := 0, mode := .s, k := 0, notify := false, rm := 0, cfg := MatrixCfg.start, frm := 0
    fte := 0, fnver := 3, wlim := 0, kind := .zero, started := false, seq := false, accBad := false, step := none, reads := []
    todo := [], waitFrom := none, blocks := [], done := none }

def idleTransit : Transit := { src := 0, hop := 1, tile := { data := [], poison := [], uses := 1 }, job := 0 }

def idleAccess : Access :=
  { strand := 0, answers := false, op := none, va := 0, loc := { home := .unit 0, off := 0 }, len := 8, kind := .check, sc := none
    hops := [] }

/-- Core 0 with the two operations, and in its CTU a leaf of movable class for the output's page. -/
def twinState : State :=
  (State.reset.modCluster 0 fun q => { q with ctu := [{ asid := 0, size := 0, page := 2, leaf := 0x100000000000030F }] }).modCore 0
    fun q => { q with ops := [foldOp, foldTwin] }

/-- The fold computed with its output placed. -/
def twinResult : (HotResult × List (List Place)) × State := twinState.hotCopied 0 foldOp 0x80 emptyFold foldRec [] none [] 0 0

/-- The checks that it plans. -/
def twinChecks : List Access := twinResult.2.checksFor (hotSender 0 foldOp) (twinResult.1.2.flatten.map (·, 8))

theorem twinChecks_ne_nil : twinChecks ≠ [] := by decide +kernel

/-- What the two operations wait for once the checks are planned: each for its own reads and the checks. -/
theorem twinReads_of_checks (reads : EngineOp → List Fetch) (kind : OpKind) :
    ((twinResult.2.modOp 0 1 fun p => { p with todo := twinChecks, reads := reads p, kind := kind }).core 0).ops.map EngineOp.reads =
      [reads foldOp, reads foldTwin] := by
  have hops : (twinResult.2.core 0).ops = [foldOp, foldTwin] := by decide +kernel
  rw [State.modOp_core, hops]
  rfl

/-- Refutes O48: the step that plans a higher-order operation's checks adds them to the reads that each operation of its ID has
itself (`{ o with reads := o.reads ++ … }` of `State.hotNext`), where the statement gives them all the reads of the first. In a
state with a second operation of the same ID, which has another read under way, the two differ. -/
theorem not_matrixSteps : ¬ Obligations.MatrixSteps := by
  unfold Obligations.MatrixSteps
  intro h
  have clauses := h twinState twinResult.2 0 0 1 0x80 0 0 0 false idleCmd [] idleTransit foldOp emptyFold foldRec twinResult.1.1
    twinResult.1.2 none [] [] 0 0 0 0 { status := 0, word1 := 0, flags := 0 } 0 0 [] idleAccess []
  dsimp only at clauses
  obtain ⟨-, -, -, -, -, -, -, -, -, -, -, -, -, hchecks, -⟩ := clauses
  have hop : (twinState.core 0).op? 1 = some foldOp := by decide +kernel
  have stated := (hchecks ⟨hop, rfl, rfl, rfl, rfl⟩ rfl rfl).1 rfl twinChecks_ne_nil
  have computed := exec_hotOperationCompletion_checks (at_ := 0) (code := 0) hop rfl rfl rfl rfl (gs := []) rfl
    (rfl : _ = ((twinResult.1.1, twinResult.1.2), twinResult.2)) (checks := twinChecks) rfl twinChecks_ne_nil
  have states := Host.Outcome.next.inj (computed.symm.trans stated)
  have reads := congrArg (fun z : State => (z.core 0).ops.map EngineOp.reads) states
  have : [foldOp.reads ++ fetchesOf twinChecks, foldTwin.reads ++ fetchesOf twinChecks] =
      [foldOp.reads ++ fetchesOf twinChecks, foldOp.reads ++ fetchesOf twinChecks] :=
    (twinReads_of_checks (fun p => p.reads ++ fetchesOf twinChecks) _).symm.trans
      (reads.trans (twinReads_of_checks (fun _ => foldOp.reads ++ fetchesOf twinChecks) _))
  exact absurd this (by decide +kernel)

end Sys2Proof.Proofs

/-! SUPPORT. Lanes of a vector register: what a lane reads after lanes are packed, and what a lane-wise result holds
(R34, R36, R122). -/

namespace Sys2Proof.Machine

/-! The widths of R50, and lanes packed. -/

theorem laneWidth_cases (t : BitVec 3) : laneWidth t = 8 ∨ laneWidth t = 16 ∨ laneWidth t = 32 ∨ laneWidth t = 64 := by
  revert t; decide

/-- Lanes of a width of R50 fill a register exactly, and are at most 64. -/
theorem lanes_fill {w : Nat} (hw : w = 8 ∨ w = 16 ∨ w = 32 ∨ w = 64) : w ≤ 64 ∧ 512 / w ≤ 64 ∧ w * (512 / w) = 512 := by
  rcases hw with rfl | rfl | rfl | rfl <;> decide

theorem packLanes_lt (w : Nat) (xs : List Word) : packLanes w xs < 2 ^ (w * xs.length) := by
  induction xs with
  | nil => simp [packLanes]
  | cons x xs ih =>
    have hx : x.toNat % 2 ^ w < 2 ^ w := Nat.mod_lt _ (Nat.two_pow_pos w)
    calc packLanes w (x :: xs) < 2 ^ w + 2 ^ w * packLanes w xs := Nat.add_lt_add_right hx _
      _ = 2 ^ w * (packLanes w xs + 1) := by ring
      _ ≤ 2 ^ w * 2 ^ (w * xs.length) := Nat.mul_le_mul_left _ ih
      _ = 2 ^ (w * (x :: xs).length) := by rw [List.length_cons, ← pow_add]; ring_nf

theorem packLanes_lt_of_fit {w n : Nat} {xs : List Word} (h : w * xs.length ≤ n) : packLanes w xs < 2 ^ n :=
  (packLanes_lt w xs).trans_le (Nat.pow_le_pow_right Nat.two_pos h)

theorem packLanes_div_mod (w : Nat) (xs : List Word) (j : Nat) :
    packLanes w xs / 2 ^ (w * j) % 2 ^ w = (xs.getD j 0).toNat % 2 ^ w := by
  induction xs generalizing j with
  | nil => simp [packLanes]
  | cons x xs ih =>
    cases j with
    | zero => simp [packLanes]
    | succ j =>
      have hdrop : packLanes w (x :: xs) / 2 ^ w = packLanes w xs := by
        rw [packLanes, Nat.add_mul_div_left _ _ (Nat.two_pow_pos w), Nat.div_eq_of_lt (Nat.mod_lt _ (Nat.two_pow_pos w)),
          Nat.zero_add]
      rw [Nat.mul_succ, Nat.add_comm, pow_add, ← Nat.div_div_eq_div_mul, hdrop, ih, List.getD_cons_succ]

/-- A lane of a register packed from at most as many lanes as it has. -/
theorem laneAt_vecOfLanes {w : Nat} {xs : List Word} (h : w * xs.length ≤ 512) (j : Nat) :
    laneAt w (vecOfLanes w xs) j = BitVec.ofNat 64 ((xs.getD j 0).toNat % 2 ^ w) := by
  have hfit := packLanes_lt_of_fit h
  rw [laneAt, vecOfLanes, BitVec.toNat_ofNat, Nat.mod_eq_of_lt hfit, packLanes_div_mod]

/-- A lane holds nothing above its width. -/
theorem laneAt_mod {w : Nat} (hw : w ≤ 64) (v : Vec) (j : Nat) :
    BitVec.ofNat 64 ((laneAt w v j).toNat % 2 ^ w) = laneAt w v j := by
  rw [laneAt, BitVec.toNat_ofNat, Nat.mod_mod_of_dvd _ (pow_dvd_pow 2 hw), Nat.mod_mod]

/-! Lane-wise results (R34, R122). -/

section
variable {w : Nat} (p : Word) (old : Vec) (f : Nat → LaneResult) {j : Nat}

/-- The flags of a lane: what its operation raises, or nothing where it is inactive. -/
theorem mapLanes_flags (hj : j < 512 / w) :
    (mapLanes w p old f).2[j]? = some (if laneActive p j then (f j).2 else 0#5) := by
  simp only [mapLanes, List.getElem?_map, List.getElem?_range hj, Option.map_some]
  split <;> rfl

variable (hw : w = 8 ∨ w = 16 ∨ w = 32 ∨ w = 64) (hj : j < 512 / w)
include hw hj

theorem laneAt_mapLanes : laneAt w (mapLanes w p old f).1 j =
    BitVec.ofNat 64 ((if laneActive p j then f j else quiet (laneAt w old j)).1.toNat % 2 ^ w) := by
  obtain ⟨-, -, hfill⟩ := lanes_fill hw
  have hlen : w * (((List.range (512 / w)).map fun i => if laneActive p i then f i else quiet (laneAt w old i)).map
      Prod.fst).length ≤ 512 := by simp [hfill]
  rw [mapLanes, laneAt_vecOfLanes hlen]
  simp [hj]

theorem laneAt_mapLanes_active (h : laneActive p j = true) :
    laneAt w (mapLanes w p old f).1 j = BitVec.ofNat 64 ((f j).1.toNat % 2 ^ w) := by
  rw [laneAt_mapLanes p old f hw hj, if_pos h]

theorem laneAt_mapLanes_inactive (h : laneActive p j = false) : laneAt w (mapLanes w p old f).1 j = laneAt w old j := by
  obtain ⟨hle, -, -⟩ := lanes_fill hw
  rw [laneAt_mapLanes p old f hw hj, h, if_neg Bool.false_ne_true]
  exact laneAt_mod hle old j

end

/-! Predicate results (R34). -/

/-- The number with the bits below n that `b` sets. -/
def bitsBelow (b : Nat → Bool) (n : Nat) : Nat := ((List.range n).map fun i => if b i then 2 ^ i else 0).sum

theorem mapPredicate_eq_bitsBelow (n : Nat) (p old : Word) (f : Nat → Bool) :
    mapPredicate n p old f = BitVec.ofNat 64 (bitsBelow (fun i => if laneActive p i then f i else old.getLsbD i) n) := by
  rw [mapPredicate, bitsBelow, List.sum_eq_foldr, List.foldr_map]

theorem bitsBelow_succ (b : Nat → Bool) (n : Nat) : bitsBelow b (n + 1) = 2 ^ n * (b n).toNat + bitsBelow b n := by
  rw [bitsBelow, List.range_succ, List.map_append, List.sum_append, ← bitsBelow]
  cases h : b n <;> simp [h, Nat.add_comm]

theorem bitsBelow_lt (b : Nat → Bool) (n : Nat) : bitsBelow b n < 2 ^ n := by
  induction n with
  | zero => exact Nat.one_pos
  | succ n ih =>
    rw [bitsBelow_succ, pow_succ]
    cases b n with
    | false => simp; omega
    | true => simp; omega

theorem testBit_bitsBelow (b : Nat → Bool) (n k : Nat) : (bitsBelow b n).testBit k = (decide (k < n) && b k) := by
  induction n with
  | zero => simp [bitsBelow]
  | succ n ih =>
    rw [bitsBelow_succ, Nat.testBit_two_pow_mul_add _ (bitsBelow_lt b n), ih]
    rcases lt_trichotomy k n with h | rfl | h
    · simp [h, h.trans n.lt_succ_self]
    · cases b k <;> simp
    · have hk : ¬ k < n + 1 := by omega
      obtain ⟨m, hm⟩ : ∃ m, k - n = m + 1 := ⟨k - n - 1, by omega⟩
      cases b n <;> simp [h.not_gt, hk, hm, Nat.testBit_succ]

/-- A predicate rewritten, bit by bit: below its lanes the active ones are new, and above them nothing stands. -/
theorem getLsbD_mapPredicate {n : Nat} (hn : n ≤ 64) (p old : Word) (f : Nat → Bool) (k : Nat) :
    (mapPredicate n p old f).getLsbD k = (decide (k < n) && if laneActive p k then f k else old.getLsbD k) := by
  rw [mapPredicate_eq_bitsBelow, BitVec.getLsbD_ofNat, testBit_bitsBelow]
  by_cases hk : k < n
  · simp [hk, hk.trans_le hn]
  · simp [hk]

end Sys2Proof.Machine

namespace Sys2Proof.Proofs

open Sys2Proof.Machine

/-- Settles O22: a lane and its flags are those of `mapLanes`, a predicate's bit is that of `mapPredicate`. -/
theorem laneRule : Obligations.LaneRule := by
  unfold Obligations.LaneRule
  intro w p old f j hw hj
  obtain ⟨-, hcount, -⟩ := lanes_fill hw
  refine ⟨fun hact => ⟨laneAt_mapLanes_active p old f hw hj hact, ?_⟩,
    fun hinact => ⟨laneAt_mapLanes_inactive p old f hw hj hinact, ?_⟩, fun g q k => getLsbD_mapPredicate hcount p q g k⟩
  · rw [mapLanes_flags p old f hj, laneActive, hact, if_pos rfl]
  · rw [mapLanes_flags p old f hj, laneActive, hinact, if_neg Bool.false_ne_true]

end Sys2Proof.Proofs

/-! SUPPORT. An instruction run again with every answer had (R219), as VLDX and VSTX are once their lanes are answered (R34, R247):
each of its steps takes the answers that are its own. -/

namespace Sys2Proof.Machine

/-! Steps that take answers had. -/

/-- From state `s` the step `m` takes exactly the answers `as`, gives `a` and leaves state `t`; the strand gives up the core at the end
of the instruction where `gone`. -/
def Takes (s : State) (as : List Ans) {α : Type} (m : M α) (a : α) (t : State) (gone : Bool) : Prop :=
  ∀ past new leaves, m { s := s, past := as ++ past, new := new, leaves := leaves } =
    .ok a { s := t, past := past, new := new, leaves := leaves || gone }

section
variable {s t u : State} {as bs : List Ans} {α β : Type} {m : M α} {a : α} {b : β} {gone gone' : Bool}

theorem Takes.pure (a : α) : Takes s [] (Pure.pure a : M α) a s false := fun _ _ leaves => by
  rw [run_pure, Bool.or_false]; rfl

/-- One step after another. -/
theorem Takes.bind {k : α → M β} (hm : Takes s as m a t gone) (hk : Takes t bs (k a) b u gone') :
    Takes s (as ++ bs) (m >>= k) b u (gone || gone') := fun past new leaves => by
  rw [run_bind, List.append_assoc, hm]
  exact (hk past new _).trans (by rw [Bool.or_assoc])

/-- The same, where the first does not give up the core. -/
theorem Takes.seq {k : α → M β} (hm : Takes s as m a t false) (hk : Takes t bs (k a) b u gone) :
    Takes s (as ++ bs) (m >>= k) b u gone := by
  simpa using hm.bind hk

/-- A step whose value is put to use. -/
theorem Takes.map (g : α → β) (hm : Takes s as m a t gone) : Takes s as (m >>= fun x => Pure.pure (g x)) (g a) t gone :=
  fun past new leaves => by rw [run_bind, hm]; rfl

theorem Takes.getS : Takes s [] getS s s false := fun _ _ leaves => by
  rw [run_getS, Bool.or_false]; rfl

theorem Takes.getMe : Takes s [] getMe s.me s false := fun _ _ leaves => by
  rw [run_getMe, Bool.or_false]; rfl

theorem Takes.modT (f : Strand → Strand) : Takes s [] (modT f) () (s.modMe f) false := fun _ _ leaves => by
  rw [run_modT, Bool.or_false]; rfl

theorem Takes.leaveCore : Takes s [] leaveCore () s true := fun _ _ leaves => by
  rw [run_leaveCore, Bool.or_true]; rfl

theorem Takes.act_place (f : State → Act) (va : Word) (l : Loc) (view : View) (movable : Bool) :
    Takes s [.place va l view movable] (act f) (.place va l view movable) s false := fun past new leaves => by
  rw [act_had f (p := past) rfl (by simp), Bool.or_false]

theorem Takes.act_val (f : State → Act) (v : Vec) (hops : List Hop) : Takes s [.val v hops] (act f) (.val v hops) s false :=
  fun past new leaves => by rw [act_had f (p := past) rfl (by simp), Bool.or_false]

theorem Takes.resolve (f : Form) (va : Word) (n : Nat) (p : Word) (l : Loc) (view : View) (movable : Bool) :
    Takes s [.place p l view movable] (resolve f va n) (l, view, movable) s false :=
  (Takes.act_place _ p l view movable).seq (Takes.pure _)

theorem Takes.access (va : Word) (l : Loc) (n : Nat) (k : AccKind) (sc sure : Bool) (v : Vec) (hops : List Hop) :
    Takes s [.val v hops] (access va l n k sc sure) (v, hops) s false :=
  Takes.getS.seq ((Takes.act_val _ v hops).seq (Takes.pure _))

set_option exponentiation.threshold 512 in
/-- An action whose first try did not park gives up the core once it is done (R274). The option lets Lean
evaluate the 512-bit literal that `actOnce` matches on. -/
theorem Takes.actOnce (full : State → Bool) (p : Park) (f : State → Act) :
    Takes s [.val 0 [], .val 0 []] (actOnce full p f) () s true :=
  (Takes.act_val _ 0 []).seq (Takes.leaveCore.bind ((Takes.act_val _ 0 []).map fun _ => ()))

theorem Takes.tagLane (i : Nat) (h : Takes s as m a t gone) : Takes s as (tagLane i m) a t gone := fun past new leaves => by
  rw [Machine.tagLane, h]

theorem Takes.orTrap (h : Takes s as m a t gone) : Takes s as (orTrap m) (.ok a) t gone := fun past new leaves => by
  rw [Machine.orTrap, h]

/-- Without hops the base register stays as it is (R238). -/
theorem Takes.rebase_nil (r : BitVec 5) : Takes s [] (rebase r []) () (s.modMe id) false := Takes.modT id

/-- An instruction that takes all answers that it has had is complete. -/
theorem Takes.runInstr {m : M Unit} (i : Instr) (h : Takes s s.me.log m () t gone) :
    runInstr i m s = .next (if gone then t.retire.giveUp s.here else t.retire) := by
  have hrun := h [] [] false
  rw [List.append_nil] at hrun
  rw [Machine.runInstr, hrun]
  simp

end

/-! The lanes of an indexed access. -/

/-- The lanes of an indexed access with their places found, none of them movable. -/
def placedLanes (lanes : List Nat) (places : List (Word × Loc)) : List (Nat × Loc × View × Bool) :=
  List.zipWith (fun i q => (i, q.2, .plain, false)) lanes places

/-- The answer that a place was found. -/
def foundAt (q : Word × Loc) : Ans := .place q.1 q.2 .plain false

section
variable (s : State) (n : Nat) (addr : Nat → Word)

theorem resolveLanes_takes (f : Form) : ∀ {lanes : List Nat} {places : List (Word × Loc)}, places.length = lanes.length →
    Takes s (places.map foundAt) (resolveLanes f n addr lanes) (placedLanes lanes places) s false
  | [], [], _ => Takes.pure _
  | i :: _, q :: _, h =>
    ((Takes.resolve f _ n q.1 q.2 .plain false).tagLane i).seq ((resolveLanes_takes f (Nat.succ.inj h)).map _)

/-! VLDX. -/

/-- The lanes read, each with its value and no hop. -/
def lanesGot (ls : List (Nat × Loc × View × Bool)) (vals : List Vec) : List LaneRead :=
  List.zipWith (fun l v => (l.1, .ok (v, []))) ls vals

theorem readLanes_takes {ls : List (Nat × Loc × View × Bool)} {vals : List Vec} (h : vals.length = ls.length) :
    Takes s (vals.map fun v => .val v []) (readLanes n addr ls) (lanesGot ls vals) s false := by
  induction ls generalizing vals with
  | nil =>
    obtain rfl := List.length_eq_zero_iff.1 h
    exact Takes.pure _
  | cons l ls ih =>
    obtain _ | ⟨v, vals⟩ := vals
    · simp at h
    · have hread := ((Takes.access (s := s) (addr l.1) l.2.1 n (.load l.2.2.1 false) false false v []).tagLane l.1).orTrap
      exact hread.seq ((ih (Nat.succ.inj h)).map _)

/-- Lanes that were all read draw no trap. -/
theorem lanesTrap_lanesGot (ls : List (Nat × Loc × View × Bool)) (vals : List Vec) : lanesTrap (lanesGot ls vals) = none := by
  have h : laneTraps (lanesGot ls vals) = [] := by
    induction ls generalizing vals with
    | nil => rfl
    | cons l ls ih =>
      cases vals with
      | nil => rfl
      | cons v vals => exact ih vals
  rw [lanesTrap, h]

theorem laneValues_lanesGot (lanes : List Nat) (places : List (Word × Loc)) (vals : List Vec)
    (h : places.length = lanes.length) : laneValues (lanesGot (placedLanes lanes places) vals) =
      (lanes.zip (vals.map (·.setWidth 64)), []) := by
  induction lanes generalizing places vals with
  | nil => rfl
  | cons i lanes ih =>
    cases places with
    | nil => simp at h
    | cons q places =>
      cases vals with
      | nil => rfl
      | cons v vals =>
        obtain ⟨hvals, hhops⟩ := Prod.mk.inj (ih places vals (Nat.succ.inj h))
        exact Prod.ext (congrArg ((i, v.setWidth 64) :: ·) hvals) hhops

theorem loadLanes_takes {lanes : List Nat} {places : List (Word × Loc)} {vals : List Vec}
    (hp : places.length = lanes.length) (hv : vals.length = lanes.length) :
    Takes s (vals.map fun v => .val v []) (loadLanes n addr (placedLanes lanes places))
      (lanes.zip (vals.map (·.setWidth 64)), []) s false := by
  have hlen : vals.length = (placedLanes lanes places).length := by simp [placedLanes, hp, hv]
  rw [← List.append_nil (vals.map _)]
  refine (readLanes_takes s n addr hlen).seq ?_
  rw [lanesTrap_lanesGot, laneValues_lanesGot _ _ _ hp]
  exact Takes.pure _

/-! VSTX. -/

/-- Is the place at a peer module? -/
def atPeer (q : Word × Loc) : Bool :=
  match q.2.home with
  | .peer _ _ => true
  | _ => false

theorem checkLanes_takes : ∀ {lanes : List Nat} {places : List (Word × Loc)}, places.length = lanes.length →
    Takes s ((places.filter atPeer).map fun _ => .val 0 []) (checkLanes n addr (placedLanes lanes places)) () s false
  | [], [], _ => Takes.pure _
  | i :: lanes, q :: places, h => by
    have rest := checkLanes_takes (lanes := lanes) (places := places) (Nat.succ.inj h)
    have hcheck := (Takes.access (s := s) (addr i) q.2 n .check false false 0 []).tagLane i
    rw [placedLanes, List.zipWith_cons_cons, checkLanes, List.filter_cons]
    show Takes s _ (if (false || atPeer q) = true then _ else _) () s false
    cases hq : atPeer q with
    | true => exact hcheck.seq rest
    | false => exact rest

/-- The answers that the store of a lane takes: one where the store is answered, two where it is posted, of which the first
says that there was room. -/
def storedAt (c : Nat) (q : Word × Loc) : List Ans :=
  if q.2.home = .unit c ∨ storePosts q.2 false = false then [.val 0 []] else [.val 0 [], .val 0 []]

theorem storeTo_takes (va : Word) (q : Word × Loc) (k : AccKind) (sure : Bool) :
    ∃ gone, Takes s (storedAt s.here q) (storeTo va q.2 false k n sure) [] s gone := by
  have answered (sure : Bool) : Takes s [.val 0 []] (access va q.2 n k false sure >>= fun r => pure r.2) [] s false :=
    (Takes.access va q.2 n k false sure 0 []).map Prod.snd
  by_cases hown : q.2.home = .unit s.here
  · rw [storedAt, if_pos (.inl hown)]
    refine ⟨false, Takes.getS.seq (bs := [.val 0 []]) ?_⟩
    rw [if_pos (by simpa using hown)]
    exact answered false
  · cases hpost : storePosts q.2 false with
    | true =>
      rw [storedAt, if_neg (by simp [hown, hpost])]
      refine ⟨true, Takes.getS.seq (bs := [.val 0 [], .val 0 []]) ?_⟩
      rw [if_neg (by simpa using hown), if_pos hpost]
      exact (Takes.actOnce _ _ _).map _
    | false =>
      rw [storedAt, if_pos (.inr hpost)]
      refine ⟨false, Takes.getS.seq (bs := [.val 0 []]) ?_⟩
      rw [if_neg (by simpa using hown), if_neg (by simp [hpost])]
      exact answered sure

theorem storeLanes_takes (data : Nat → Word) : ∀ {lanes : List Nat} {places : List (Word × Loc)},
    places.length = lanes.length → ∃ gone,
      Takes s (places.flatMap (storedAt s.here)) (storeLanes n addr data (placedLanes lanes places)) [] s gone
  | [], [], _ => ⟨false, Takes.pure _⟩
  | i :: lanes, q :: places, h => by
    obtain ⟨gone, rest⟩ := storeLanes_takes data (lanes := lanes) (places := places) (Nat.succ.inj h)
    obtain ⟨gone', first⟩ := storeTo_takes s n (addr i) q (storeKind q.2 (bytesOfNat n (data i).toNat)) true
    exact ⟨_, first.bind (rest.map _)⟩

end

/-! The ends of the two instructions. -/

/-- An entry of a table made of two lists. -/
theorem tableGet_zip {α : Type} (d : α) {ks : List Nat} {xs : List α} (hn : ks.Nodup) (hl : xs.length = ks.length) {k a : Nat}
    (h : ks[k]? = some a) : tableGet d (ks.zip xs) a = xs.getD k d := by
  induction ks generalizing xs k with
  | nil => simp at h
  | cons b ks ih =>
    obtain _ | ⟨x, xs⟩ := xs
    · simp at hl
    obtain ⟨hb, hks⟩ := List.nodup_cons.1 hn
    cases k with
    | zero =>
      obtain rfl : b = a := by simpa using h
      simp [tableGet]
    | succ k =>
      have hne : b ≠ a := by
        rintro rfl
        exact hb (List.mem_of_getElem? h)
      simpa [tableGet, hne] using ih hks (Nat.succ.inj hl) h

/-- Changes of the current strand that agree on it are one change. -/
theorem State.modMe_congr (s : State) {f g : Strand → Strand} (h : f s.me = g s.me) : s.modMe f = s.modMe g :=
  congrArg (s.setStrand s.cur) h

/-! A core given up: strands and memory stay as they are. -/

@[simp] theorem State.giveUp_me (s : State) (c : Nat) : (s.giveUp c).me = s.me := by
  unfold State.giveUp State.choose; split <;> rfl
@[simp] theorem State.giveUp_mem (s : State) (c : Nat) : (s.giveUp c).mem = s.mem := by
  unfold State.giveUp State.choose; split <;> rfl

/-- The register that VLDX leaves, by the values of its active lanes. -/
def vldxResult (s : State) (d : BitVec 5) (p t : BitVec 3) (vals : List Vec) : Vec :=
  (mapLanes (laneWidth t) (s.me.getP p) (s.me.getV d) fun i =>
    quiet (tableGet 0#64 ((activeLanes t (s.me.getP p)).zip (vals.map (·.setWidth 64))) i)).1

theorem activeLanes_nodup (t : BitVec 3) (p : Word) : (activeLanes t p).Nodup := List.nodup_range.filter _

theorem mem_activeLanes {t : BitVec 3} {p : Word} {lane : Nat} :
    lane ∈ activeLanes t p ↔ lane < 512 / laneWidth t ∧ laneActive p lane = true := by
  rw [activeLanes, List.mem_filter, List.mem_range, laneCount]

section
variable {s : State} {d a b : BitVec 5} {p t h : BitVec 3} {vals : List Vec}

theorem laneAt_vldxResult_active (hv : vals.length = (activeLanes t (s.me.getP p)).length) {k lane : Nat}
    (hk : (activeLanes t (s.me.getP p))[k]? = some lane) :
    laneAt (laneWidth t) (vldxResult s d p t vals) lane = BitVec.ofNat 64 ((vals.getD k 0).toNat % 2 ^ laneWidth t) := by
  obtain ⟨hle, -, -⟩ := lanes_fill (laneWidth_cases t)
  obtain ⟨hlane, hact⟩ := mem_activeLanes.1 (List.mem_of_getElem? hk)
  have hlen : (vals.map (·.setWidth 64)).length = (activeLanes t (s.me.getP p)).length := by rw [List.length_map, hv]
  have hin : k < vals.length := hv ▸ (List.getElem?_eq_some_iff.1 hk).1
  have hval : tableGet 0#64 ((activeLanes t (s.me.getP p)).zip (vals.map (·.setWidth 64))) lane =
      (vals.getD k 0).setWidth 64 := by
    rw [tableGet_zip 0#64 (activeLanes_nodup t _) hlen hk]
    simp [List.getD_eq_getElem?_getD, hin]
  rw [vldxResult, laneAt_mapLanes_active _ _ _ (laneWidth_cases t) hlane hact, quiet, hval, BitVec.toNat_setWidth,
    Nat.mod_mod_of_dvd _ (pow_dvd_pow 2 hle)]

theorem laneAt_vldxResult_inactive {lane : Nat} (hlane : lane < 512 / laneWidth t) (h : lane ∉ activeLanes t (s.me.getP p)) :
    laneAt (laneWidth t) (vldxResult s d p t vals) lane = laneAt (laneWidth t) (s.me.getV d) lane := by
  have hinact : laneActive (s.me.getP p) lane = false := by simpa [mem_activeLanes, hlane] using h
  exact laneAt_mapLanes_inactive _ _ _ (laneWidth_cases t) hlane hinact

variable {places : List (Word × Loc)} (hp : places.length = (activeLanes t (s.me.getP p)).length)
include hp

theorem execVldx_answered (hv : vals.length = (activeLanes t (s.me.getP p)).length)
    (hlog : s.me.log = places.map foundAt ++ vals.map fun v => .val v []) (hr : refusal (.vldx d a b p t h) s = none) :
    execVldx d a b p t h s = .next (s.modMe fun q => q.setV d (vldxResult s d p t vals)).retire := by
  have hlog' : s.me.log = [] ++ (places.map foundAt ++ (vals.map (fun v => .val v []) ++ ([] ++ []))) := by simpa using hlog
  let got := (activeLanes t (s.me.getP p)).zip (vals.map (·.setWidth 64))
  have complete := (Takes.rebase_nil (s := s) a).seq (k := fun _ => modT _) (Takes.modT fun q => q.setV d
    (mapLanes (laneWidth t) (q.getP p) (q.getV d) fun i => quiet (tableGet 0#64 got i)).1)
  rw [execVldx, issueRun, issue_pass _ hr]
  refine (Takes.runInstr _ (hlog' ▸ Takes.getMe.seq ((resolveLanes_takes s _ _ .xload hp).seq
    ((loadLanes_takes s _ _ hp hv).seq complete)))).trans ?_
  rw [if_neg Bool.false_ne_true, State.modMe_modMe, s.modMe_congr]
  rfl

theorem execVstx_answered (hlog : s.me.log = places.map foundAt ++ (places.filter atPeer).map (fun _ => .val 0 []) ++
      places.flatMap (storedAt s.here)) (hr : refusal (.vstx d a b p t h) s = none) :
    ∃ q, execVstx d a b p t h s = .next q ∧ q.me = s.retire.me ∧ q.mem = s.mem := by
  have hlog' : s.me.log = [] ++ (places.map foundAt ++ ((places.filter atPeer).map (fun _ => .val 0 []) ++
      (places.flatMap (storedAt s.here) ++ []))) := by simpa using hlog
  obtain ⟨gone, stores⟩ := storeLanes_takes s (laneWidth t / 8) (laneAddr s.me a b t h) (laneAt (laneWidth t) (s.me.getV d)) hp
  rw [execVstx, issueRun, issue_pass _ hr]
  refine ⟨_, Takes.runInstr _ (hlog' ▸ Takes.getMe.seq ((resolveLanes_takes s _ _ .xstore hp).seq
    ((checkLanes_takes s _ _ hp).seq (stores.bind (Takes.rebase_nil a))))), ?_⟩
  split <;> simp [State.retire]

end

end Sys2Proof.Machine

namespace Sys2Proof.Proofs

open Sys2Proof.Machine Sys2Proof.Claims

/-- Settles O29: run again, both instructions take the answers of their lanes in order and are complete. -/
theorem indexedResults : Obligations.IndexedResults := by
  unfold Obligations.IndexedResults
  intro s d a b p t h places vals act found none_ checks stored hp
  refine ⟨fun hv hlog hr => ⟨vldxResult s d p t vals, execVldx_answered hp hv hlog hr, fun k lane hk =>
    laneAt_vldxResult_active hv hk, fun lane hlane hmem => laneAt_vldxResult_inactive hlane hmem⟩, fun hlog hr => ?_⟩
  exact execVstx_answered hp hlog hr

end Sys2Proof.Proofs

/-! SUPPORT. The fields of an instruction word (R41): what a word built of fields reads in each of them, and the two directions between
the decoder and the encoder. -/

namespace Sys2Proof

/-- Bits [lo + n - 1 : lo] of the word are x. -/
def HasField (w : Word32) (lo : Nat) {n : Nat} (x : BitVec n) : Prop := w.extractLsb' lo n = x

/-- A field made of two parts is its upper part above its lower part. The encoder's words have the width 32, which is the sum of their
fields' widths by computation only: `no_index` lets `simp` find the lemma at them. -/
theorem hasField_append (w : Word32) (lo : Nat) {n m : Nat} (a : BitVec n) (b : BitVec m) :
    HasField w lo (@HAppend.hAppend _ _ (no_index _) _ a b) ↔ HasField w (lo + m) a ∧ HasField w lo b := by
  have halves : w.extractLsb' lo (n + m) = w.extractLsb' (lo + m) n ++ w.extractLsb' lo m :=
    (BitVec.extractLsb'_append_extractLsb'_eq_extractLsb' rfl).symm
  unfold HasField
  rw [halves]
  constructor
  · intro h
    have upper := congrArg (BitVec.extractLsb' m n) h
    have lower := congrArg (BitVec.extractLsb' 0 m) h
    rw [BitVec.extractLsb'_append_eq_left, BitVec.extractLsb'_append_eq_left] at upper
    rw [BitVec.extractLsb'_append_eq_right, BitVec.extractLsb'_append_eq_right] at lower
    exact ⟨upper, lower⟩
  · rintro ⟨rfl, rfl⟩; rfl

/-- A word is another where it reads as it in its one field of 32 bits. -/
theorem some_eq_iff_hasField (w x : Word32) : some x = some w ↔ HasField w 0 x := by
  rw [HasField, BitVec.extractLsb'_eq_self, Option.some_inj, eq_comm]

/-- Two fields do not go together where the one lies in the other, from its bit o on, and differs from it there. -/
theorem field_ne {w : Word32} {lo n k : Nat} {x : BitVec n} {y : BitVec k} (o : Nat) (hy : w.extractLsb' (lo + o) k = y)
    (hk : o + k ≤ n) (hne : x.extractLsb' o k ≠ y) : w.extractLsb' lo n ≠ x := by
  rintro rfl
  refine hne (hy ▸ ?_)
  ext i hi
  simp [BitVec.getElem_extractLsb', Nat.add_assoc, show o + i < n by omega]

theorem eq_ofNat_of_toNat_eq {n k : Nat} {x : BitVec n} (h : x.toNat = k) : x = BitVec.ofNat n k := by
  rw [← h, BitVec.ofNat_toNat, BitVec.setWidth_eq]

/-- A row of the decoder: the instruction comes from it, and the word has its fixed bits, or it comes from the rows after it. -/
theorem decoded_row {c : Prop} [Decidable c] {a i : Instr} {rest : Except DecodeError Instr}
    (h : (if c then .ok a else rest) = .ok i) : (c ∧ a = i) ∨ rest = .ok i := by
  by_cases hc : c
  · rw [if_pos hc] at h
    exact .inl ⟨hc, Except.ok.inj h⟩
  · rw [if_neg hc] at h
    exact .inr h

/-- A row of the decoder whose fixed bits the word has. -/
theorem row_decodes {c : Prop} [Decidable c] {a i : Instr} {rest : Except DecodeError Instr} (hc : c) (ha : a = i) :
    (if c then .ok a else rest) = .ok i := by rw [if_pos hc, ha]

/-- A row of the decoder whose fixed bits the word has not. -/
theorem next_row_decodes {c : Prop} [Decidable c] {a : Except DecodeError Instr} {i : Instr} {rest : Except DecodeError Instr}
    (hc : ¬ c) (hr : rest = .ok i) : (if c then a else rest) = .ok i := by rw [if_neg hc, hr]

/-- R57: the opcodes without rows. -/
theorem decode_reserved {w : Word32} (h : w.extractLsb' 24 8 = 0#8 ∨ 0x91 ≤ (w.extractLsb' 24 8).toNat) :
    decode w = .ok (.reservedOpcode w) := by
  have hn : (w.extractLsb' 24 8).toNat = 0 ∨ 0x91 ≤ (w.extractLsb' 24 8).toNat := h.imp_left fun e => by rw [e]; rfl
  unfold decode
  generalize (w.extractLsb' 24 8).toNat = n at hn
  split
  case h_145 => rfl
  all_goals omega

end Sys2Proof

namespace Sys2Proof.Proofs

open Sys2Proof.Machine Sys2Proof.Claims

/-- Settles O3: the opcode selects the rows that can have been read; in the row that was, its fixed bits and the fields that it
hands on are, one below the other, all 32 bits of the word. -/
theorem encodeOfDecode : Obligations.EncodeOfDecode := by
  unfold Obligations.EncodeOfDecode
  intro i w hd
  unfold decode at hd
  split at hd
  case h_145 => cases hd; rfl
  all_goals
    rename_i hop
    replace hop := eq_ofNat_of_toNat_eq hop
    repeat
      rcases decoded_row hd with ⟨hf, rfl⟩ | hd
      · simp only [encode, some_eq_iff_hasField, hasField_append, Nat.reduceAdd]
        simp only [HasField, hop, hf, and_self]
    cases hd
  all_goals
    simp only [encode, some_eq_iff_hasField, hasField_append, Nat.reduceAdd]
    simp only [HasField, hop, and_self]

/-- Settles O2: the word of an instruction reads, field by field, what the encoder put there; its opcode selects the rows, and the
first row whose fixed bits it has is the instruction's own. Where an opcode has more rows, those before it ask for other fixed bits;
CXINFO's word would have those of CXINFO.SETEXP at selector 20 only, which is not legal (R174). -/
theorem decodeOfEncode : Obligations.DecodeOfEncode := by
  unfold Obligations.DecodeOfEncode
  rintro i w ⟨hl, -⟩ he
  cases i
  case reservedOpcode v =>
    obtain rfl := Option.some.inj he
    exact decode_reserved (by simpa [legal] using hl)
  all_goals
    simp only [encode, reduceCtorEq, some_eq_iff_hasField, hasField_append, Nat.reduceAdd, and_assoc] at he
  all_goals
    simp only [HasField] at he
    obtain ⟨hop, hf⟩ := he
    rw [decode, hop]
  case addi | andi | ori | xori | slli | srli | srai | slti | lui | auipc | beq | bne | blt | bge | bltu | bgeu | jal | jalr | ld | st |
      fld | fst | vldx | vstx | amo | cas | fma | fnma | vadd | vsub | vmul | vfma | vmin | vmax | vbit | vsh | vcmp | vsel | vcvt |
      vfun | vred | vperm | vdot | mconst | csrrw | csrrs | csrrc =>
    exact congrArg Except.ok (by simp only [hf])
  case yieldEnd => exact next_row_decodes (field_ne 0 hf (by decide) (by decide)) (row_decodes hf rfl)
  case reloc =>
    obtain ⟨hd, ha, hb, h3, ht⟩ := hf
    exact next_row_decodes (field_ne 0 h3 (by decide) (by decide)) (row_decodes h3 (by simp only [*]))
  case cxinfo c x d s g =>
    obtain ⟨hc, h19, hx, hd, hs, hg⟩ := hf
    have hs20 : (320#14).extractLsb' 4 5 ≠ s := by
      rintro rfl
      simp [legal, cxinfoOk] at hl
    exact next_row_decodes (fun h => field_ne 4 hs (by decide) hs20 h.1) (row_decodes h19 (by simp only [*]))
  case cseamSend =>
    obtain ⟨hc, h12, hl, h0⟩ := hf
    exact next_row_decodes (field_ne 12 h12 (by decide) (by decide)) (row_decodes ⟨h0, h12⟩ (by simp only [*]))
  case cseamLand =>
    obtain ⟨hc, h12, hl, h0⟩ := hf
    exact next_row_decodes (field_ne 12 h12 (by decide) (by decide))
      (next_row_decodes (fun h => field_ne 0 h12 (by decide) (by decide) h.2) (row_decodes ⟨h0, h12⟩ (by simp only [*])))
  case maccLoad =>
    obtain ⟨hn, hk, ha, h3, hg⟩ := hf
    exact next_row_decodes (field_ne 3 h3 (by decide) (by decide)) (row_decodes h3 (by simp only [*]))
  case maccAdd =>
    obtain ⟨hn, hk, h13, hj, h6, hr, hg⟩ := hf
    exact next_row_decodes (field_ne 6 h6 (by decide) (by decide))
      (next_row_decodes (field_ne 3 h6 (by decide) (by decide)) (row_decodes ⟨h6, h13⟩ (by simp only [*])))
  case maccStore =>
    obtain ⟨hn, hk, ha, h6, hr, hg⟩ := hf
    exact next_row_decodes (field_ne 6 h6 (by decide) (by decide))
      (next_row_decodes (field_ne 3 h6 (by decide) (by decide))
        (next_row_decodes (fun h => field_ne 0 h.1 (by decide) (by decide) h6) (row_decodes h6 (by simp only [*]))))
  case launchJob =>
    obtain ⟨hd, ha, h0⟩ := hf
    exact next_row_decodes (field_ne 0 h0 (by decide) (by decide)) (row_decodes h0 (by simp only [*]))
  case launchQuery =>
    obtain ⟨hd, ha, h6, hl, h0⟩ := hf
    exact next_row_decodes (field_ne 0 h0 (by decide) (by decide))
      (next_row_decodes (field_ne 0 h0 (by decide) (by decide)) (row_decodes ⟨h0, h6⟩ (by simp only [*])))
  all_goals exact row_decodes (by simp only [hf, and_self]) (by simp only [hf])

/-- Words listed with the instructions whose legal encodings they are decode to them. -/
theorem decode_of_listed {l : List (Word32 × Instr)} (h : l.all fun e => legal e.2 && encode e.2 == some e.1) :
    ∀ e ∈ l, decode e.1 = .ok e.2 := by
  intro e he
  have listed := List.all_eq_true.1 h e he
  rw [Bool.and_eq_true, beq_iff_eq] at listed
  exact decodeOfEncode e.2 e.1 ⟨listed.1, by rw [listed.2]; rfl⟩ listed.2

/-- Settles O1: each word listed is what the encoder gives the legal instruction beside it; the words with a reserved bit set are of
opcodes whose only row asks for 0 there. -/
theorem decodesSpecWords : Obligations.DecodesSpecWords := by
  unfold Obligations.DecodesSpecWords
  refine ⟨decode_of_listed (by decide), decode_of_listed (by decide), decode_of_listed (by decide), decode_of_listed (by decide),
    decode_of_listed (by decide), ?_⟩
  rintro w (_ | ⟨_, _ | ⟨_, ⟨⟩⟩⟩) <;> rfl

end Sys2Proof.Proofs

/-! SUPPORT. What the shared checks of R59 stop: every instruction with a row starts with them. -/

namespace Sys2Proof.Machine

/-- A cochain instruction reads its registers before the shared checks, but does nothing with them. -/
theorem cochain_issues (i : Instr) (op : Nat) (rs : List (BitVec 4)) (types : List Byte → Bool) (range : List Byte → Nat)
    (m : Word → List Byte → M Unit) (s : State) : ∃ body, cochain i op rs types range m s = issue i body s := ⟨_, rfl⟩

theorem issues_at {i : Instr} {f : State → Result} (h : ∃ body, f = issue i body) (s : State) : ∃ body, f s = issue i body s :=
  h.imp fun _ e => congrFun e s

/-- Every instruction that a row of the decoder gives starts with the shared checks (R59). -/
theorem exec_issues {i : Instr} {w : Word32} (s : State) (he : encode i = some w) (hr : ∀ v, i ≠ .reservedOpcode v) :
    ∃ body, exec i s = issue i body s := by
  cases i
  case reservedOpcode v => exact absurd rfl (hr v)
  case cq | cdq | dext | dcob | hstar | wedge | interp | clin | cseamSend | cseamRelease | cseamLand | cred =>
    simp only [exec, execCq, execCdq, execDext, execDcob, derivative, execHstar, execWedge, execInterp, execClin, execCseamSend,
      execCseamRelease, execCseamLand, execCred]
    exact cochain_issues ..
  all_goals simp only [encode, reduceCtorEq] at he
  all_goals exact issues_at (f := exec _) ⟨_, rfl⟩ s

/-- What the shared checks stop takes their trap, and does nothing else. -/
theorem exec_refused {i : Instr} {w : Word32} {s : State} {tr : Trap} (he : encode i = some w) (hr : ∀ v, i ≠ .reservedOpcode v)
    (h : refusal i s = some tr) : exec i s = .next (s.takeTrap s.cur tr) := by
  obtain ⟨body, hb⟩ := exec_issues s he hr
  rw [hb, issue_stop body h]

theorem wordOf_eq {i : Instr} {w : Word32} (he : encode i = some w) : wordOf i = w := by rw [wordOf, he]; rfl

/-- The privileged encodings (R56). -/
theorem privileged_spec {i : Instr} (h : privileged i = true) : isControlFlow i = false ∧ ∀ v, i ≠ .reservedOpcode v := by
  cases i
  case reloc | relocRet | launchJob | eret | ctuinv | wfi => exact ⟨rfl, nofun⟩
  all_goals contradiction

/-- An instruction with a rounding field (R45) has a word, and is no control flow and no privileged encoding. -/
theorem rmField_spec {i : Instr} {r : BitVec 3} (h : rmField i = some r) :
    encode i = some (wordOf i) ∧ (∀ v, i ≠ .reservedOpcode v) ∧ isControlFlow i = false ∧ privileged i = false := by
  cases i
  all_goals simp only [rmField, reduceCtorEq] at h
  all_goals exact ⟨rfl, nofun, rfl, rfl⟩

/-- A legal rounding field holds no reserved code (R45): where a form of MACC has none, it is 0 (R204). -/
theorem rmField_codeOk {i : Instr} {r : BitVec 3} (h : rmField i = some r) (hl : legal i = true) : rmCodeOk r = true := by
  have zero {q : BitVec 3} (hq : (q == 0#3) = true) : rmCodeOk q = true := by rw [beq_iff_eq.1 hq]; rfl
  cases i
  all_goals simp only [rmField, reduceCtorEq, Option.some.injEq, Option.ite_none_right_eq_some] at h
  case maccStore | maccAdd =>
    subst h
    simp only [legal, Bool.and_eq_true] at hl
    obtain ⟨-, hr⟩ := hl
    split at hr
    all_goals simp only [hr, zero]
  all_goals simp_all [legal, varOk, vcvtOk]

theorem rmCodeOk_iff {r : BitVec 3} : rmCodeOk r = true ↔ r ≠ 5#3 ∧ r ≠ 6#3 := by
  simp [rmCodeOk]

/-- FRM holds no mode at its codes from 5 on (R45). -/
theorem effectiveRm_dyn_reserved {frm : Word} (h : 5 ≤ (frm.extractLsb' 0 3).toNat) : effectiveRm 7#3 frm = none := by
  have codes : ∀ c : BitVec 3, 5 ≤ c.toNat → Rm.ofCode c = none := by decide
  rw [effectiveRm, if_pos rfl, codes _ h]

end Sys2Proof.Machine

namespace Sys2Proof.Proofs

open Sys2Proof.Machine Sys2Proof.Claims

/-- Settles O4: a word of a reserved opcode is its own instruction; every other is stopped by the shared checks of R59, in their order:
the field codes, the mode, the rounding field. -/
theorem refusedEncodings : Obligations.RefusedEncodings := by
  unfold Obligations.RefusedEncodings
  refine ⟨fun w s h => ⟨decode_reserved h, rfl⟩, ?illegal, ?priv, ?rounding⟩
  case illegal =>
    intro i w s he hl
    by_cases hr : ∃ v, i = .reservedOpcode v
    · obtain ⟨v, rfl⟩ := hr
      obtain rfl := Option.some.inj he
      rfl
    · have stops := refusal_illegal s hl
      rw [wordOf_eq he] at stops
      exact exec_refused he (fun v e => hr ⟨v, e⟩) stops
  case priv =>
    intro i w s he hp hl hu
    obtain ⟨hc, hr⟩ := privileged_spec hp
    have stops := refusal_privileged hl hc hp hu
    rw [wordOf_eq he] at stops
    exact exec_refused he hr stops
  case rounding =>
    intro i r s hr hl
    obtain ⟨he, hn, hc, hp⟩ := rmField_spec hr
    refine ⟨rmCodeOk_iff.1 (rmField_codeOk hr hl), fun h7 hfrm => ?_⟩
    subst h7
    refine exec_refused he hn ?_
    rw [refusal_rounding hl hc hp hr, effectiveRm_dyn_reserved hfrm]
    rfl

end Sys2Proof.Proofs

/-! SUPPORT. The integer family completes with one register written (R98 to R102), and jumps outside a loop body (R104). -/

namespace Sys2Proof.Machine

/-- `f` gives a strand that differs in register d only. -/
def WritesX (d : BitVec 5) (f : Strand → Strand) : Prop := ∃ v : Strand → Word, f = fun t => t.setX d (v t)

/-- Once the shared checks let it pass, an instruction of the integer family completes with rd written. -/
theorem exec_integer {i : Instr} {d : BitVec 5} (s : State) (hd : Claims.integerDest i = some d) (hl : legal i = true) :
    ∃ f, WritesX d f ∧ exec i s = complete f s := by
  have pass (hc : isControlFlow i = false) (hp : privileged i = false) (hr : rmField i = none) : refusal i s = none :=
    refusal_none s hl hc hp hr
  cases i
  all_goals simp only [Claims.integerDest, reduceCtorEq] at hd
  all_goals
    cases hd
    exact ⟨_, ⟨_, rfl⟩, issue_pass _ (pass rfl rfl rfl)⟩

end Sys2Proof.Machine

namespace Sys2Proof.Machine

@[simp] theorem Strand.getX_advance (t : Strand) (r : BitVec 5) : t.advance.getX r = t.getX r := by
  simp only [Strand.getX, Strand.advance_x]

/-- A completed instruction leaves its strand changed, and past the instruction. -/
theorem State.me_retire (s : State) : s.retire.me = s.me.advance := State.me_modMe s _

theorem State.strand_retire_ne (s : State) {h : Nat} (n : s.cur ≠ h) : s.retire.strand h = s.strand h :=
  State.strand_modMe_ne s _ n

end Sys2Proof.Machine

namespace Sys2Proof.Proofs

open Sys2Proof.Machine Sys2Proof.Claims

/-- Settles O9: the instruction completes with a change of rd alone, and past it the strand's loop state and pc change only. -/
theorem integerFrame : Obligations.IntegerFrame := by
  unfold Obligations.IntegerFrame
  intro i d s t hd hl h
  obtain ⟨f, ⟨v, rfl⟩, hf⟩ := exec_integer s hd hl
  obtain rfl := Host.Outcome.next.inj (hf.symm.trans h)
  set u := s.modMe fun t => t.setX d (v t) with hu
  have me : u.retire.me = (s.me.setX d (v s.me)).advance := by rw [State.me_retire, hu, State.me_modMe]
  have others : ∀ k, k ≠ s.cur → u.retire.strand k = s.strand k := fun k n =>
    (u.strand_retire_ne n.symm).trans (s.strand_modMe_ne _ n.symm)
  have file : ∀ r, r ≠ d → u.retire.me.getX r = s.me.getX r := fun r n => by
    rw [me, Strand.getX_advance, Strand.getX_setX_ne _ _ n]
  refine ⟨fun l => rfl, rfl, others, rfl, rfl, rfl, rfl, rfl, rfl, rfl, rfl, rfl, file, ?_⟩
  rw [me]
  simp

end Sys2Proof.Proofs

/-! SUPPORT. Jumps outside an active loop body (R61, R104, R108). -/

namespace Sys2Proof.Machine

/-- An offset in words counts four bytes each (R41). -/
theorem wordTarget_eq {n : Nat} (pc : Word) (o : BitVec n) : wordTarget pc o = pc + 4#64 * o.signExtend 64 := by
  rw [wordTarget, immWord, BitVec.shiftLeft_eq_mul_twoPow, BitVec.mul_comm]
  rfl

/-- An address is that of a word where its bits [1:0] are 0 (R61). -/
theorem extract_low_two (a : Word) : a.extractLsb' 0 2 = 0#2 ↔ a.toNat % 4 = 0 := by
  rw [← BitVec.toNat_inj, BitVec.extractLsb'_toNat, Nat.shiftRight_zero]
  rfl

/-- A jump outside an active loop body passes the shared checks (R108). -/
theorem refusal_jump {i : Instr} {s : State} (h : s.me.inLoopBody s.me.pc = false) (hl : legal i = true) (hp : privileged i = false)
    (hr : rmField i = none) : refusal i s = none := by
  simp [refusal, h, hl, hp, hr]

end Sys2Proof.Machine

namespace Sys2Proof.Proofs

open Sys2Proof.Machine Sys2Proof.Claims

/-- Settles O11: outside an active loop body the shared checks pass; whether JALR's target is taken or traps, its bits [1:0] decide. -/
theorem jumpResults : Obligations.JumpResults := by
  unfold Obligations.JumpResults
  intro s d a o i hloop
  refine ⟨?jal, fun ht => ?aligned, fun ht => ?misaligned⟩
  case jal =>
    show execJal d o s = _
    rw [execJal, issue_pass _ (refusal_jump hloop rfl rfl rfl), ← wordTarget_eq]
    rfl
  all_goals
    show execJalr d a i s = _
    rw [execJalr, issue_pass _ (refusal_jump hloop rfl rfl rfl)]
  case aligned => exact if_pos ((extract_low_two _).2 ht)
  case misaligned => exact if_neg fun h => ht ((extract_low_two _).1 h)

end Sys2Proof.Proofs

/-! SUPPORT. The checks of one access, in their order (R59, R60, R240, R301, R318). -/

namespace Sys2Proof.Machine

variable {s : State} {c : Nat} {mode : Mode} {f : Form} {va : Word} {n : Nat}

theorem resolve_misaligned (h : va.toNat % n ≠ 0) : s.resolve c mode f va n = .trap (trapALIGN va) :=
  if_pos (by simpa using h)

theorem resolve_beyond (ha : va.toNat % n = 0) (h : 2 ^ 57 ≤ va.toNat) : s.resolve c mode f va n = .trap (trapACCERR va 0) :=
  (if_neg (by simpa using ha)).trans (if_pos h)

/-- A compute phase refuses its windows before anything is looked up (R301). -/
theorem resolve_inCompute (ha : va.toNat % n = 0) (h : va.toNat < 2 ^ 57) (hs : s.inCompute c = true)
    (hw : (windowOf va.toNat).1.refusedInCompute = true) : s.resolve c mode f va n = .trap (trapACCERR va 6) :=
  (if_neg (by simpa using ha)).trans ((if_neg (Nat.not_le.2 h)).trans (if_pos (by rw [hs, hw]; rfl)))

/-- The privileged window is no place of U mode's, whatever the form (R318). -/
theorem resolve_priv_user (ha : va.toNat % n = 0) (h : va.toNat < 2 ^ 57) (hw : (windowOf va.toNat).1 = .priv) :
    s.resolve c .u f va n = .trap (trapACCERR va 0) := by
  have place : s.windowPlace c .u f va.toNat n = .trap (trapACCERR va 0) := by
    obtain ⟨o, hv⟩ : ∃ o, windowOf va.toNat = (.priv, o) := ⟨_, Prod.ext hw rfl⟩
    simp only [State.windowPlace, hv, if_true, BitVec.ofNat_toNat, BitVec.setWidth_eq]
  have phase : ¬ (s.inCompute c && (windowOf va.toNat).1.refusedInCompute) = true := by
    rw [hw, Bool.and_eq_true]
    exact fun h => Bool.false_ne_true h.2
  refine (if_neg (by simpa using ha)).trans ((if_neg (Nat.not_le.2 h)).trans ((if_neg phase).trans ?_))
  rw [hw, place]

/-- The peer region (R314). -/
theorem windowOf_peer {a : Nat} (hlo : 2 ^ 55 ≤ a) (hhi : a < 2 ^ 56) : windowOf a = (.peer (a / 2 ^ 45 % 1024), a % 2 ^ 45) := by
  rw [windowOf, if_neg (Nat.not_lt.2 hlo), if_pos hhi]

end Sys2Proof.Machine

namespace Sys2Proof.Proofs

open Sys2Proof.Machine Sys2Proof.Claims

/-- Settles O31: each check where the ones before it pass. -/
theorem accessChecks : Obligations.AccessChecks := by
  unfold Obligations.AccessChecks
  refine ⟨fun s c mode f va n h => resolve_misaligned h, fun s c mode f va n ha => ⟨?priv, ?compute, resolve_beyond ha⟩⟩
  case priv => exact fun hw h => resolve_priv_user ha h hw
  case compute =>
    intro hs h hw
    refine resolve_inCompute ha h hs ?_
    have listed : ∀ w ∈ [Window.global, .die, .chan], w.refusedInCompute = true := by decide
    rcases hw with hw | ⟨hlo, hhi⟩
    · exact listed _ hw
    · rw [windowOf_peer hlo hhi]; rfl

end Sys2Proof.Proofs

/-! SUPPORT. The tables at reset: every entry is the reset value of its kind (R36). -/

namespace Sys2Proof.Machine

theorem reset_strand (h : Nat) : ∃ mode, State.reset.strand h = Strand.reset mode := ⟨_, rfl⟩
theorem reset_core (c : Nat) : State.reset.core c = Core.reset := rfl
theorem reset_cluster (k : Nat) : State.reset.cluster k = Cluster.reset := rfl

variable (mode : Mode)

@[simp] theorem Strand.reset_getX (r : BitVec 5) : (Strand.reset mode).getX r = 0#64 := by
  simp [Strand.getX, Strand.reset]

@[simp] theorem Strand.reset_getF (r : BitVec 5) : (Strand.reset mode).getF r = 0#64 := by
  simp [Strand.getF, Strand.reset]

@[simp] theorem Strand.reset_getV (r : BitVec 5) : (Strand.reset mode).getV r = 0#512 := by
  simp [Strand.getV, Strand.reset]

@[simp] theorem Strand.reset_getC (r : BitVec 4) : (Strand.reset mode).getC r = CochainReg.unbound := by
  simp [Strand.getC, Strand.reset]

theorem Strand.reset_getP {r : BitVec 3} (h : r ≠ 0#3) : (Strand.reset mode).getP r = 0#64 := by
  have file : ∀ r : BitVec 3, r ≠ 0#3 → (#v[BitVec.allOnes 64, 0, 0, 0, 0, 0, 0, 0] : Vector Word 8)[r.toNat] = 0#64 := by decide
  rw [Strand.getP, if_neg h]
  exact file r h

/-- The accumulators at reset (R188). -/
theorem Cluster.reset_acc : Cluster.reset.acc.toList.all (fun a => a.bits == 0 && !a.poison) = true := by
  simp [Cluster.reset]

end Sys2Proof.Machine

namespace Sys2Proof.Proofs

open Sys2Proof.Machine Sys2Proof.Claims

/-- Settles O54: the tables read as the reset values of their kinds, whatever the index; x0 and p0 by their accessors. -/
theorem resetState : Obligations.ResetState := by
  unfold Obligations.ResetState
  refine ⟨fun h c k => ?_, rfl, rfl, fun t w => ⟨rfl, rfl, rfl, rfl⟩⟩
  obtain ⟨mode, strand⟩ := reset_strand h
  rw [strand, reset_core, reset_cluster]
  exact ⟨fun r => ⟨Strand.reset_getX mode r, Strand.reset_getF mode r, Strand.reset_getV mode r⟩,
    fun _ => Strand.reset_getP mode, rfl, Strand.reset_getC mode,
    rfl, rfl, rfl, rfl, rfl, rfl, rfl, rfl, rfl, rfl, rfl, rfl, rfl, rfl, rfl, rfl, rfl, rfl, rfl,
    rfl, rfl, rfl, rfl, rfl, rfl, rfl, rfl, Cluster.reset_acc, rfl, rfl, rfl, rfl, rfl, rfl, rfl⟩

end Sys2Proof.Proofs

/-! SUPPORT. What an error logged does to a die's error log (R361), and what the module's start leaves (R376). -/

namespace Sys2Proof.Machine

/-- An error log with an event logged, or counted in the entry before it if that repeats source, address and event within
1 ms (R361). -/
def RingLog.withError (l : RingLog) (now addr : Word) (epid source event : Nat) : RingLog :=
  match tableGet [] l.ents ((l.head.toNat + 511) % 512) with
  | [time, a, w', n] =>
    if l.head ≠ 0 ∧ a = addr ∧ getField w' 24 4 = source ∧ getField w' 32 8 = event ∧ now.toNat ≤ time.toNat + 1000000 then
      { l with ents := tableSet l.ents ((l.head.toNat + 511) % 512) [time, a, w', n + 1] }
    else l.push 512 [now, addr, errorWord epid source event, 1]
  | _ => l.push 512 [now, addr, errorWord epid source event, 1]

theorem RingLog.withError_of_entry {l : RingLog} (now addr : Word) {epid source event : Nat} {time a w' n : Word}
    (last : tableGet [] l.ents ((l.head.toNat + 511) % 512) = [time, a, w', n]) :
    l.withError now addr epid source event =
      if l.head ≠ 0 ∧ a = addr ∧ getField w' 24 4 = source ∧ getField w' 32 8 = event ∧
          now.toNat ≤ time.toNat + 1000000 then
        { l with ents := tableSet l.ents ((l.head.toNat + 511) % 512) [time, a, w', n + 1] }
      else l.push 512 [now, addr, errorWord epid source event, 1] := by
  rw [RingLog.withError, last]

theorem RingLog.withError_of_none {l : RingLog} (now addr : Word) {epid source event : Nat}
    (last : ∀ time a w' n, tableGet [] l.ents ((l.head.toNat + 511) % 512) = [time, a, w', n] → False) :
    l.withError now addr epid source event = l.push 512 [now, addr, errorWord epid source event, 1] := by
  unfold RingLog.withError
  split
  case h_1 last' => exact (last _ _ _ _ last').elim
  case h_2 => rfl

theorem RingLog.push_ne (l : RingLog) (size : Nat) (ws : List Word) : l.push size ws ≠ l := by
  intro e
  have head : l.head + 1 = l.head := congrArg RingLog.head e
  bv_omega

/-- No event leaves the log as it was: a new entry moves HEAD, a repeat moves the count of the entry before it. -/
theorem RingLog.withError_ne (l : RingLog) (now addr : Word) (epid source event : Nat) :
    l.withError now addr epid source event ≠ l := by
  by_cases entry : ∃ time a w' n, tableGet [] l.ents ((l.head.toNat + 511) % 512) = [time, a, w', n]
  · obtain ⟨time, a, w', n, last⟩ := entry
    rw [RingLog.withError_of_entry now addr last]
    split
    · intro e
      have ents := congrArg (fun r : RingLog => tableGet [] r.ents ((l.head.toNat + 511) % 512)) e
      simp only [tableGet_tableSet_same, last, List.cons.injEq, and_true, true_and] at ents
      bv_omega
    · exact l.push_ne _ _
  · rw [RingLog.withError_of_none now addr fun time a w' n last => entry ⟨time, a, w', n, last⟩]
    exact l.push_ne _ _

section
variable (s : State) (d : Nat) (addr : Word) (epid source event : Nat)

theorem State.logError_elog : ((s.logError d addr epid source event).die d).elog =
    (s.die d).elog.withError s.time addr epid source event := by
  have signal (t : State) : (t.signalManager d).die d = t.die d := by simp [State.die]
  unfold State.logError
  dsimp only
  split
  case h_1 time a w' n last =>
    rw [RingLog.withError_of_entry _ _ last]
    split
    · rw [State.die_modDie_same]
    · rw [signal, State.die_modDie_same]
  case h_2 last => rw [RingLog.withError_of_none _ _ last, signal, State.die_modDie_same]

@[simp] theorem State.logError_mem : (s.logError d addr epid source event).mem = s.mem := by
  unfold State.logError
  dsimp only
  repeat' split
  all_goals simp

@[simp] theorem State.logError_hub : (s.logError d addr epid source event).hub = s.hub := by
  unfold State.logError
  dsimp only
  repeat' split
  all_goals simp

theorem State.stopModule_elog_ne : (s.stopModule.die 8).elog ≠ (s.die 8).elog := by
  have logged := State.logError_elog { s with free := s.free + 1 } 8 (Config.freeWord s.free) 0 7 (Config.freeNat s.free % 256)
  exact fun e => RingLog.withError_ne _ _ _ _ _ _ (logged.symm.trans e)

@[simp] theorem State.stopModule_mem : s.stopModule.mem = s.mem := by
  simp [State.stopModule, State.nextFree]

@[simp] theorem State.stopModule_stopped : s.stopModule.hub.stopped = true := rfl

end

/-- The image is measured, and control core 0 starts in M mode (R376, R377). -/
theorem State.startImage_spec (s : State) (image : List Byte) :
    let t := s.startImage image
    t.mem = s.mem ∧ t.hub.booted = true ∧ t.hub.recovery = false ∧ t.hub.module = s.hub.module ∧
      t.hub.log = s.hub.log ++ [sha256 image] ∧ t.hub.running = sha256 (s.hub.running ++ sha256 image) ∧
      (t.strand 32768).status = .ready ∧ (t.strand 32768).mode = .m := by
  refine ⟨rfl, rfl, rfl, rfl, rfl, rfl, ?_, ?_⟩ <;> simp [State.startImage, State.wake, State.nextFree]

/-- BOOT before the module runs: the image starts, or recovery mode is entered and event 0x0A logged. -/
theorem execBoot_fresh {s : State} {image : List Byte} {number : BitVec 10} (b : s.hub.booted = false)
    (r : s.hub.recovery = false) : execBoot image number s =
      if s.hub.imageGood image then .next (State.startImage { s with hub := { s.hub with module := number.toNat } } image)
      else .next (State.logError { s with hub := { s.hub with module := number.toNat, recovery := true } } 8 0 0 7 0x0A) := by
  rw [execBoot, b, r]
  rfl

end Sys2Proof.Machine

namespace Sys2Proof.Proofs

open Sys2Proof.Machine Sys2Proof.Claims

/-- Settles O53: by the image's check, and by what an error logged and an image started leave. -/
theorem moduleResults : Obligations.ModuleResults := by
  unfold Obligations.ModuleResults
  intro s image nonce number die
  dsimp only
  refine ⟨fun booted recovery => ?boot, fun recovery => ?received, fun length leaf => ?attested, fun spent => ?refused,
    fun hd => ?tripped, ?coolant, ?reset⟩
  case boot =>
    have run := execBoot_fresh (image := image) (number := number) booted recovery
    by_cases good : s.hub.imageGood image = true
    · rw [if_pos good] at run
      obtain ⟨mem, starts⟩ := State.startImage_spec { s with hub := { s.hub with module := number.toNat } } image
      exact ⟨_, run, mem, by rw [if_pos good]; exact starts⟩
    · rw [if_neg good] at run
      refine ⟨_, run, by simp, ?_⟩
      rw [if_neg good, State.logError_hub, State.logError_elog, State.logError_elog]
      exact ⟨rfl, booted, rfl⟩
  case received =>
    by_cases good : s.hub.imageGood image = true
    · obtain ⟨mem, starts⟩ := State.startImage_spec s image
      refine ⟨_, ?_, mem, by rw [if_pos good]; exact starts⟩
      show execRecoveryImageReceive image s = _
      simp [execRecoveryImageReceive, recovery, good]
    · refine ⟨s, ?_, rfl, by rw [if_neg good]⟩
      show execRecoveryImageReceive image s = _
      simp [execRecoveryImageReceive, good]
  case attested =>
    show execAttestationRequest nonce s = _
    rw [execAttestationRequest, if_pos ⟨length, leaf⟩]
  case refused =>
    show execAttestationRequest nonce s = _
    rw [execAttestationRequest, if_neg fun h => absurd h.2 (by omega)]
  case tripped =>
    refine ⟨s.stopModule, ?_, s.stopModule_stopped, s.stopModule_mem, s.stopModule_elog_ne⟩
    show execJunctionTrip die s = _
    rw [execJunctionTrip, if_pos hd]
  case coolant => exact ⟨s.stopModule, rfl, s.stopModule_stopped, s.stopModule_mem, s.stopModule_elog_ne⟩
  case reset => exact ⟨_, rfl, rfl, rfl, rfl, rfl, rfl, rfl, rfl, rfl, rfl⟩

end Sys2Proof.Proofs

/-! SUPPORT. An ADD under way on core 0 whose first source register has failed parity (R359): a step of it is no run of it. -/

namespace Sys2Proof.Machine

/-- The word of ADD x1, x2, x3. -/
def addWord : Word32 := 0x01088600#32

/-- At reset but for strand 0 of core 0: it runs, ADD x1, x2, x3 is under way in it, and its x2 is unusable. -/
def underWayUnusable : State :=
  (State.reset.modCore 0 fun q => { q with active := true }).modStrand 0 fun t =>
    { t with status := .ready, inst := some addWord, unusable := [(0, 2)] }

/-- The CAUSE of the current strand after a result. -/
def causeAfter : Result → Option Word
  | .next t => some t.me.cause
  | _ => none

theorem decode_addWord : decode addWord = .ok (.add 1 2 3 0) := by decide +kernel

/-- The step takes #POISON (R59, R359). -/
theorem causeAfter_step_underWayUnusable : causeAfter (step underWayUnusable) = some 0x11#64 := by decide +kernel

/-- ADD itself looks at no parity and traps nowhere. -/
theorem causeAfter_exec_underWayUnusable : causeAfter (exec (.add 1 2 3 0) underWayUnusable) = some 0#64 := by
  decide +kernel

end Sys2Proof.Machine

namespace Sys2Proof.Proofs

open Sys2Proof.Machine Sys2Proof.Claims

/-- Refutes O56: its clause for an instruction under way leaves out a register that the instruction reads and that has
become unusable; the step then takes #POISON (R59, R359), which exec of the instruction does not. -/
theorem not_stepRunsDecoded : ¬ Obligations.StepRunsDecoded := by
  unfold Obligations.StepRunsDecoded
  intro h
  obtain ⟨-, underWay, -, -⟩ := h underWayUnusable (.add 1 2 3 0) addWord 0 0 0 0 []
  have runs : step underWayUnusable = exec (.add 1 2 3 0) underWayUnusable :=
    underWay ⟨rfl, rfl, rfl, rfl, rfl, rfl, rfl, rfl, rfl⟩ rfl decode_addWord
  have same := causeAfter_step_underWayUnusable.symm.trans (runs ▸ causeAfter_exec_underWayUnusable)
  exact absurd same (by decide)

end Sys2Proof.Proofs

/-! SUPPORT. Special operands of the floating-point operations: NaNs, zeros and infinities (R66, R68, R111). -/

namespace Sys2Proof.Machine

/-! A NaN operand (R68). -/

section
variable {a b : Num} (f : Fmt) (rm : Rm)

@[simp] theorem Num.isNan_negate (a : Num) : a.negate.isNan = a.isNan := by cases a <;> rfl
@[simp] theorem Num.isSnan_negate (a : Num) : a.negate.isSnan = a.isSnan := by cases a <;> rfl

/-- A NaN is signalling or not; no other number is. -/
theorem Num.isNan_iff : a.isNan = true ↔ a = .nan a.isSnan := by cases a <;> simp [Num.isNan, Num.isSnan]

/-- A number that is no NaN does not signal. -/
theorem Num.isSnan_of_not_isNan (h : a.isNan = false) : a.isSnan = false := by cases a <;> first | rfl | cases h

/-- Of two summands of which one is a NaN, at most one is an infinity: the sum is invalid where one of them signals. -/
theorem sumExact_nan (h : (a.isNan || b.isNan) = true) : sumExact rm [a, b] = (a.isSnan || b.isSnan, .nan false) := by
  have one_infinity : ([a, b].contains (.inf false) && [a, b].contains (.inf true)) = false := by
    cases a <;> cases b <;> simp_all [Num.isNan]
  simp only [sumExact, one_infinity, List.any_cons, List.any_nil, Bool.or_false, h, if_true]

theorem mulExact_nan (h : (a.isNan || b.isNan) = true) : mulExact a b = (a.isSnan || b.isSnan, .nan false) := by
  cases a <;> cases b <;> simp_all [Num.isNan, Num.isSnan, mulExact]

/-- An invalid mark is NV, whatever NaN is delivered (R68). -/
theorem deliverMarked_nan (invalid : Bool) : deliverMarked rm f (invalid, .nan false) = (f.nan, flagIf invalid flagNV) := by
  cases invalid <;> rfl

variable {x y : Word} (h : ((unpack f x).isNan || (unpack f y).isNan) = true)
include h

theorem fpAdd_nan : fpAdd f rm x y = (f.nan, flagIf ((unpack f x).isSnan || (unpack f y).isSnan) flagNV) := by
  rw [fpAdd, sumExact_nan rm h, deliverMarked_nan]

theorem fpSub_nan : fpSub f rm x y = (f.nan, flagIf ((unpack f x).isSnan || (unpack f y).isSnan) flagNV) := by
  rw [fpSub, sumExact_nan rm (by simpa using h), deliverMarked_nan, Num.isSnan_negate]

theorem fpMul_nan : fpMul f rm x y = (f.nan, flagIf ((unpack f x).isSnan || (unpack f y).isSnan) flagNV) := by
  rw [fpMul, mulExact_nan h, deliverMarked_nan]

theorem fpDiv_nan : fpDiv f rm x y = (f.nan, flagIf ((unpack f x).isSnan || (unpack f y).isSnan) flagNV) := by
  unfold fpDiv
  cases hx : unpack f x <;> cases hy : unpack f y <;> simp_all [Num.isNan, Num.isSnan]

omit h in
theorem fpSqrt_nan (hx : (unpack f x).isNan = true) : fpSqrt f rm x = (f.nan, flagIf (unpack f x).isSnan flagNV) := by
  rw [fpSqrt, Num.isNan_iff.1 hx]
  rfl

end

/-! Special operands in FP64 (R66, R111). -/

/-- Bits [62:0] of a word, as a number. -/
theorem toNat_low63 (x : BitVec 64) : (x.extractLsb' 0 63).toNat = x.toNat % 2 ^ 63 := by
  rw [BitVec.extractLsb'_toNat, Nat.shiftRight_zero]

theorem low63_eq_zero_iff (x : BitVec 64) : x.extractLsb' 0 63 = 0#63 ↔ x.toNat % 2 ^ 63 = 0 := by
  rw [← BitVec.toNat_inj, toNat_low63]; rfl

/-- The sign bit of an FP64 value. -/
theorem sign64 (x : BitVec 64) : decide (2 ^ 63 ≤ x.toNat) = x.getLsbD 63 := (BitVec.msb_eq_decide x).symm

theorem unpack_f64_zero {x : BitVec 64} (h : x.extractLsb' 0 63 = 0#63) : unpack .f64 x = .zero (x.getLsbD 63) := by
  have hz := (low63_eq_zero_iff x).1 h
  have hlt := x.isLt
  have hex : x.toNat / 2 ^ 52 % 2 ^ 11 = 0 := by omega
  have hfr : x.toNat % 2 ^ 52 = 0 := by omega
  simp only [unpack, Fmt.width, Fmt.frac, Fmt.ebits, Nat.mod_eq_of_lt hlt, hex, hfr, if_true, ← sign64]
  exact if_neg (by decide)

/-- A finite nonzero FP64 value has its sign in bit 63. -/
theorem unpack_f64_finite {x : BitVec 64} (he : (x.extractLsb' 52 11).toNat ≠ 2047) (hx : x.extractLsb' 0 63 ≠ 0#63) :
    ∃ m e, unpack .f64 x = .fin (x.getLsbD 63) m e := by
  have hz : x.toNat % 2 ^ 63 ≠ 0 := fun h => hx ((low63_eq_zero_iff x).2 h)
  have hlt := x.isLt
  have hex : x.toNat / 2 ^ 52 % 2 ^ 11 ≠ 2 ^ 11 - 1 := by
    rwa [BitVec.extractLsb'_toNat, Nat.shiftRight_eq_div_pow] at he
  simp only [unpack, Fmt.width, Fmt.frac, Fmt.ebits, Nat.mod_eq_of_lt hlt, ← sign64]
  rw [if_neg hex]
  split
  · rw [if_neg (by omega)]
    exact ⟨_, _, rfl⟩
  · exact ⟨_, _, rfl⟩

/-- The signed zero and infinity of FP64. -/
theorem Fmt.sign_f64 (neg : Bool) : Fmt.f64.sign neg = BitVec.ofBool neg ++ 0#63 := by cases neg <;> rfl
theorem Fmt.inf_f64 (neg : Bool) : Fmt.f64.inf neg = BitVec.ofBool neg ++ 0x7FF0000000000000#63 := by cases neg <;> rfl

/-- An FP64 value whose bits [62:0] are 0 is the zero of its sign. -/
theorem sign_f64_self {x : BitVec 64} (h : x.extractLsb' 0 63 = 0#63) : Fmt.f64.sign (x.getLsbD 63) = x := by
  rw [Fmt.sign_f64, ← h]
  have top : BitVec.ofBool (x.getLsbD 63) = x.extractLsb' 63 1 := by
    ext i hi
    obtain rfl : i = 0 := by omega
    simp
  calc BitVec.ofBool (x.getLsbD 63) ++ x.extractLsb' 0 63 = x.extractLsb' 0 (1 + 63) := by
        rw [top]; exact BitVec.extractLsb'_append_extractLsb'_eq_extractLsb' rfl
    _ = x := BitVec.extractLsb'_eq_self

end Sys2Proof.Machine

namespace Sys2Proof.Proofs

open Sys2Proof.Machine

/-- Settles O20: a NaN operand decides the result whatever the other is; in FP64 the operands named unpack to zeros, infinities and
finite numbers, for which division and square root have their own cases. -/
theorem fpSpecialOperands : Obligations.FpSpecialOperands := by
  unfold Obligations.FpSpecialOperands
  refine ⟨fun k m x y => ?nan, fun m x y => ?special⟩
  case nan =>
    intro num nv h
    exact ⟨fpAdd_nan k m h, fpSub_nan k m h, fpMul_nan k m h, fpDiv_nan k m h, fpSqrt_nan k m⟩
  case special =>
    intro e hy
    have zero := unpack_f64_zero hy
    refine ⟨fun he hx => ?_, fun hx => ?_, ?_, rfl⟩
    · obtain ⟨n, g, finite⟩ := unpack_f64_finite he hx
      simp only [fpDiv, finite, zero, Fmt.inf_f64]
      rfl
    · simp only [fpDiv, unpack_f64_zero hx, zero]
      rfl
    · simp only [fpSqrt, zero, sign_f64_self hy]

end Sys2Proof.Proofs

/-! SUPPORT. How the scalar floating-point instructions end: an f or an x register written with flags, or bits moved (R38, R73). -/

namespace Sys2Proof.Machine

section
variable {i : Instr} {s : State} (d : BitVec 5) (f : Strand → Word × FlagSet)

theorem execFp_pass (h : refusal i s = none) :
    execFp i d f s = Claims.delivers s (f s.me).2 0 fun t => t.setF d (f s.me).1 := by
  rw [execFp, issue_pass _ h]; rfl

theorem execFpX_pass (h : refusal i s = none) :
    execFpX i d f s = Claims.delivers s (f s.me).2 0 fun t => t.setX d (f s.me).1 := by
  rw [execFpX, issue_pass _ h]; rfl

end

theorem fmt1_eq (g : BitVec 1) : fmt1 g = if g = 0#1 then .f32 else .f64 := by
  revert g; decide

theorem version_eq (t : Strand) : t.version = t.fnver.toNat % 256 := by
  rw [Strand.version, getField, pow_zero, Nat.div_one]; rfl

/-- An instruction without flags, once its fields are legal, completes with the value that its strand gives. -/
theorem issue_complete (i : Instr) (s : State) (f : Strand → Strand → Strand) (hl : legal i = true)
    (hc : isControlFlow i = false) (hp : privileged i = false) (hr : rmField i = none) :
    issue i (complete fun t => f t t) s = Claims.done s (f s.me) := by
  rw [issue_pass _ (refusal_none s hl hc hp hr), complete, s.modMe_congr rfl]
  rfl

/-! Comparisons (R66, R114): what the numbers of registers are worth. -/

/-- A finite number is nonzero: zeros are a kind of their own. -/
def Num.Proper : Num → Prop
  | .fin _ m _ => 0 < m
  | _ => True

theorem unpack_proper (f : Fmt) (w : Word) : (unpack f w).Proper := by
  unfold unpack
  dsimp only
  split
  · split <;> trivial
  · split
    · split
      · trivial
      · exact Nat.pos_of_ne_zero ‹_›
    · exact Nat.add_pos_left (Nat.two_pow_pos _) _

/-- A magnitude on a finer grid. -/
theorem magnitude_on_grid (m : Nat) {e q : Int} (h : q ≤ e) :
    (m : Rat) * 2 ^ e = ((m * 2 ^ (e - q).toNat : Nat) : Rat) * 2 ^ q := by
  have he : e = ((e - q).toNat : Int) + q := by omega
  conv_lhs => rw [he]
  rw [zpow_add₀ two_ne_zero, zpow_natCast]
  push_cast
  ring

section
variable (x y : Nat) (e g : Int)

/-- Two magnitudes compare as they do on the grid of the lesser exponent. -/
theorem magnitude_lt_iff : (x : Rat) * 2 ^ e < y * 2 ^ g ↔
    x * 2 ^ (e - min e g).toNat < y * 2 ^ (g - min e g).toNat := by
  rw [magnitude_on_grid x (min_le_left e g), magnitude_on_grid y (min_le_right e g),
    mul_lt_mul_iff_left₀ (zpow_pos two_pos _), Nat.cast_lt]

theorem magnitude_eq_iff : (x : Rat) * 2 ^ e = y * 2 ^ g ↔
    x * 2 ^ (e - min e g).toNat = y * 2 ^ (g - min e g).toNat := by
  rw [magnitude_on_grid x (min_le_left e g), magnitude_on_grid y (min_le_right e g),
    mul_left_inj' (zpow_pos two_pos _).ne', Nat.cast_inj]

end

theorem magnitude_pos {m : Nat} (h : 0 < m) (e : Int) : (0 : Rat) < m * 2 ^ e :=
  mul_pos (Nat.cast_pos.2 h) (zpow_pos two_pos e)

/-- `numCompare` says how the values of two numbers compare. -/
def Num.ComparesAs (a b : Num) : Prop :=
  (numCompare a b = .lt ↔ Claims.valueLess (Claims.numValue a) (Claims.numValue b)) ∧
    (numCompare a b = .eq ↔ Claims.numValue a = Claims.numValue b)

/-- Finite numbers of one sign compare by their magnitudes, negative ones in reverse. -/
theorem compares_fin_same (n : Bool) (x y : Nat) (e g : Int) : (Num.fin n x e).ComparesAs (.fin n y g) := by
  have order : numCompare (.fin n x e) (.fin n y g) =
      let o := compare (x * 2 ^ (e - min e g).toNat) (y * 2 ^ (g - min e g).toNat)
      if n then o.swap else o := by
    cases n <;> rfl
  rw [Num.ComparesAs, order]
  cases n with
  | false =>
    simp [Claims.valueLess, Claims.numValue, Nat.compare_eq_lt, magnitude_lt_iff, magnitude_eq_iff]
  | true =>
    simp [Claims.valueLess, Claims.numValue, Nat.compare_eq_gt, magnitude_lt_iff, magnitude_eq_iff, min_comm]

/-- Numbers that are no NaNs compare as their values do. -/
theorem numCompare_values {a b : Num} (ha : a.Proper) (hb : b.Proper) (na : a.isNan = false) (nb : b.isNan = false) :
    a.ComparesAs b := by
  unfold Num.ComparesAs Claims.valueLess
  cases a with
  | nan s => cases na
  | inf m =>
    cases b with
    | nan s => cases nb
    | inf n => cases m <;> cases n <;> simp [numCompare, Claims.numValue]
    | zero n => cases m <;> simp [numCompare, Claims.numValue]
    | fin n y g => cases m <;> cases n <;> simp [numCompare, Claims.numValue]
  | zero m =>
    cases b with
    | nan s => cases nb
    | inf n => cases n <;> simp [numCompare, Claims.numValue]
    | zero n => simp [numCompare, Claims.numValue]
    | fin n y g =>
      have pos := magnitude_pos hb g
      cases n <;> simp [numCompare, Claims.numValue, pos, pos.le, pos.ne, pos.ne']
  | fin m x e =>
    have pos := magnitude_pos ha e
    cases b with
    | nan s => cases nb
    | inf n => cases m <;> cases n <;> simp [numCompare, Claims.numValue]
    | zero n => cases m <;> simp [numCompare, Claims.numValue, pos, pos.le, pos.ne']
    | fin n y g =>
      have pos' := magnitude_pos hb g
      by_cases same : m = n
      · subst same
        exact compares_fin_same m x y e g
      · cases m <;> cases n <;> simp [numCompare, Claims.numValue] at same ⊢
        all_goals constructor <;> linarith

/-! The bits of a value (R117). -/

theorem Fmt.width_pos (f : Fmt) : 0 < f.width := by cases f <;> decide
theorem Fmt.width_le (f : Fmt) : f.width ≤ 64 := by cases f <;> decide

/-- The sign of a value is the uppermost bit of its format. -/
theorem decide_sign (f : Fmt) (x : Word) : decide (2 ^ (f.width - 1) ≤ x.toNat % 2 ^ f.width) = x.getLsbD (f.width - 1) := by
  obtain ⟨w, hw⟩ : ∃ w, f.width = w + 1 := ⟨f.width - 1, by have := f.width_pos; omega⟩
  rw [hw, Nat.add_sub_cancel, ← BitVec.testBit_toNat, Nat.testBit_eq_decide_div_mod_eq, decide_eq_decide]
  have split := Nat.mod_mul (a := 2 ^ w) (b := 2) (x := x.toNat)
  have low := Nat.mod_lt x.toNat (Nat.two_pow_pos w)
  rw [pow_succ, split]
  rcases Nat.mod_two_eq_zero_or_one (x.toNat / 2 ^ w) with h | h <;> rw [h] <;> omega

theorem getLsbD_sign (f : Fmt) (neg : Bool) (n : Nat) : (f.sign neg).getLsbD n = (neg && decide (n = f.width - 1)) := by
  have hw := f.width_le
  cases neg with
  | false => simp [Fmt.sign]
  | true =>
    rw [Fmt.sign, if_pos rfl, BitVec.getLsbD_ofNat, Nat.testBit_two_pow]
    have := f.width_pos
    by_cases h : n = f.width - 1
    · simp [h]; omega
    · simp [h]; omega

/-- A sign above the low bits of a value: the sign bit is the sign, the bits below are the value's, none are above. -/
theorem getLsbD_sign_or (f : Fmt) (neg : Bool) (x : Word) (n : Nat) :
    (f.sign neg ||| BitVec.ofNat 64 (x.toNat % 2 ^ f.width % 2 ^ (f.width - 1))).getLsbD n =
      if n = f.width - 1 then neg else decide (n < f.width - 1) && x.getLsbD n := by
  have hw := f.width_le
  have low : x.toNat % 2 ^ f.width % 2 ^ (f.width - 1) = x.toNat % 2 ^ (f.width - 1) :=
    Nat.mod_mod_of_dvd _ (pow_dvd_pow 2 (Nat.sub_le _ 1))
  rw [BitVec.getLsbD_or, getLsbD_sign, low, BitVec.getLsbD_ofNat, Nat.testBit_mod_two_pow, BitVec.testBit_toNat]
  by_cases h : n = f.width - 1
  · simp [h]
  · by_cases hn : n < f.width - 1
    · have : n < 64 := by omega
      simp [h, hn, this]
    · simp [h, hn]

/-- FSGNJ puts the sign that its code makes of both operands above the bits of rs1 (R117). -/
theorem fpSignInject_eq (f : Fmt) (op : BitVec 2) (x y : Word) : fpSignInject f op x y =
    f.sign (if op = 0#2 then y.getLsbD (f.width - 1) else if op = 1#2 then !y.getLsbD (f.width - 1)
      else y.getLsbD (f.width - 1) != x.getLsbD (f.width - 1)) |||
      BitVec.ofNat 64 (x.toNat % 2 ^ f.width % 2 ^ (f.width - 1)) := by
  unfold fpSignInject
  simp only [decide_sign]
  split
  case h_1 => rfl
  case h_2 => rfl
  case h_3 h0 h1 => rw [if_neg h0, if_neg h1]

/-! FCVTI (R76, R98). -/

/-- The ranges of FCVTI. -/
theorem intRange_eq (w u : BitVec 1) : intRange (if w = 1#1 then 32 else 64) u =
    (if u = 1#1 then 0 else if w = 1#1 then -2 ^ 31 else -2 ^ 63,
      if u = 1#1 then (if w = 1#1 then 2 ^ 32 - 1 else 2 ^ 64 - 1) else if w = 1#1 then 2 ^ 31 - 1 else 2 ^ 63 - 1) := by
  revert w u; decide

theorem signExtend_ofInt_width (w : BitVec 1) (v : Int) : (BitVec.ofInt (if w = 1#1 then 32 else 64) v).signExtend 64 =
    if w = 1#1 then (BitVec.ofInt 32 v).signExtend 64 else BitVec.ofInt 64 v := by
  obtain rfl | rfl : w = 0#1 ∨ w = 1#1 := by revert w; decide
  · exact BitVec.signExtend_eq (BitVec.ofInt 64 v)
  · rfl

/-! FCMP (R114). -/

section
variable (s : State) (d a b : BitVec 5) (f : BitVec 2)

/-- FCMP writes 1 where its condition holds and 0 elsewhere. -/
theorem execFcmp_of (c : BitVec 2) {r : Bool × FlagSet} (h : fpCompare (Fmt.ofCode f) (fcmpCond c) (s.me.getF a) (s.me.getF b) = r) :
    execFcmp d a b f c s = Claims.delivers s r.2 0 fun t => t.setX d (if r.1 then 1#64 else 0#64) := by
  subst h
  exact execFpX_pass d _ (refusal_none s rfl rfl rfl rfl)

end

section
variable {f : Fmt} {x y : Word}

/-- A NaN operand is unequal, not less, and unordered (R114). -/
theorem fpCompare_nan (h : ((unpack f x).isNan || (unpack f y).isNan) = true) :
    let quietly := if (unpack f x).isSnan || (unpack f y).isSnan then 0x10#5 else 0#5
    fpCompare f .eq x y = (false, quietly) ∧ fpCompare f .lt x y = (false, 0x10#5) ∧
      fpCompare f .le x y = (false, 0x10#5) ∧ fpCompare f .un x y = (true, quietly) := by
  simp only [fpCompare, h]
  exact ⟨rfl, rfl, rfl, rfl⟩

/-- Operands that are no NaNs compare as their values do, and raise nothing (R114). -/
theorem fpCompare_values (h : ((unpack f x).isNan || (unpack f y).isNan) = false) :
    fpCompare f .un x y = (false, 0#5) ∧ ∃ c0 c1 c2, fpCompare f .eq x y = (c0, 0#5) ∧ fpCompare f .lt x y = (c1, 0#5) ∧
      fpCompare f .le x y = (c2, 0#5) ∧
      (c0 = true ↔ Claims.numValue (unpack f x) = Claims.numValue (unpack f y)) ∧
      (c1 = true ↔ Claims.valueLess (Claims.numValue (unpack f x)) (Claims.numValue (unpack f y))) ∧
      (c2 = true ↔ Claims.valueLess (Claims.numValue (unpack f x)) (Claims.numValue (unpack f y)) ∨
        Claims.numValue (unpack f x) = Claims.numValue (unpack f y)) := by
  obtain ⟨hx, hy⟩ := Bool.or_eq_false_iff.1 h
  obtain ⟨less, equal⟩ := numCompare_values (unpack_proper f x) (unpack_proper f y) hx hy
  have quiet : ((unpack f x).isSnan || (unpack f y).isSnan) = false := by
    rw [Num.isSnan_of_not_isNan hx, Num.isSnan_of_not_isNan hy]; rfl
  simp only [fpCompare, h, quiet]
  refine ⟨rfl, _, _, _, rfl, rfl, rfl, ?_, ?_, ?_⟩
  · simpa using equal
  · simpa using less
  · rw [← less, ← equal]
    cases numCompare (unpack f x) (unpack f y) <;> decide

end

end Sys2Proof.Machine

namespace Sys2Proof.Proofs

open Sys2Proof.Machine Sys2Proof.Claims

/-- Settles O19: each instruction that the shared checks let pass is its own form of delivery; a comparison is that of values, FCVTI's
range and FSGNJ's bits are those of its fields. -/
theorem fpResults : Obligations.FpResults := by
  unfold Obligations.FpResults
  refine ⟨?floats, ?integers⟩
  case floats =>
    intro s d a b c r f g
    dsimp only
    rw [← fmt1_eq, ← version_eq]
    exact ⟨fun h => (execFp_pass d _ h : execFadd d a b r f s = _), fun h => (execFp_pass d _ h : execFsub d a b r f s = _),
      fun h => (execFp_pass d _ h : execFmul d a b r f s = _), fun h => (execFp_pass d _ h : execFdiv d a b r f s = _),
      fun h => (execFp_pass d _ h : execFsqrt d a r f s = _), fun h => (execFp_pass d _ h : execFma d a b c g r s = _),
      fun h => (execFp_pass d _ h : execFnma d a b c g r s = _), fun h => (execFp_pass d _ h : execFmin d a b f g s = _),
      fun h => (execFp_pass d _ h : execFmax d a b f g s = _), fun q h => (execFp_pass d _ h : execFcvt d a r f q s = _),
      fun h => (execFp_pass d _ h : execFcvtf d a r f 0#1 0#1 s = _), fun h => (execFp_pass d _ h : execFcvtf d a r f 0#1 1#1 s = _),
      fun h => (execFp_pass d _ h : execFcvtf d a r f 1#1 0#1 s = _), fun h => (execFp_pass d _ h : execFcvtf d a r f 1#1 1#1 s = _),
      fun h => (execFp_pass d _ h : execFexp d a r g s = _), fun h => (execFp_pass d _ h : execFlog d a r g s = _),
      fun h => (execFp_pass d _ h : execFerf d a r g s = _), fun q h => (execFp_pass d _ h : execFapx d a r f q s = _)⟩
  case integers =>
    intro s d a b r f
    dsimp only
    refine ⟨fun h => ?nan, fun h => ?values, ?fclass, ?fmvToX, ?fmvToF, ?fmv, fun q hq => ?fsgnj, fun w u h => ?fcvti⟩
    case nan =>
      obtain ⟨eq, lt, le, un⟩ := fpCompare_nan h
      exact ⟨execFcmp_of s d a b f 0#2 eq, execFcmp_of s d a b f 1#2 lt, execFcmp_of s d a b f 2#2 le, execFcmp_of s d a b f 3#2 un⟩
    case values =>
      obtain ⟨un, c0, c1, c2, eq, lt, le, values⟩ := fpCompare_values h
      exact ⟨execFcmp_of s d a b f 3#2 un, c0, c1, c2, execFcmp_of s d a b f 0#2 eq, execFcmp_of s d a b f 1#2 lt,
        execFcmp_of s d a b f 2#2 le, values⟩
    case fclass => exact issue_complete (.fclass d a f) s (fun t u => u.setX d (fpClass (Fmt.ofCode f) (t.getF a))) rfl rfl rfl rfl
    case fmvToX => exact issue_complete (.fmv d a f 0#2) s (fun t u => u.setX d (lowBits (Fmt.ofCode f) (t.getF a))) rfl rfl rfl rfl
    case fmvToF => exact issue_complete (.fmv d a f 1#2) s (fun t u => u.setF d (lowBits (Fmt.ofCode f) (t.getX a))) rfl rfl rfl rfl
    case fmv => exact issue_complete (.fmv d a f 2#2) s (fun t u => u.setF d (lowBits (Fmt.ofCode f) (t.getF a))) rfl rfl rfl rfl
    case fsgnj =>
      have hp := (Fmt.ofCode f).width_pos
      refine ⟨fpSignInject (Fmt.ofCode f) q (s.me.getF a) (s.me.getF b), ?_, fun n hn => ?_, ?_, fun n hn => ?_⟩
      · exact issue_complete (.fsgnj d a b f q) s (fun t u => u.setF d (fpSignInject (Fmt.ofCode f) q (t.getF a) (t.getF b)))
          (by simp [legal, hq]) rfl rfl rfl
      · rw [fpSignInject_eq, getLsbD_sign_or, if_neg hn.ne, decide_eq_true hn, Bool.true_and]
      · rw [fpSignInject_eq, getLsbD_sign_or, if_pos rfl]
        by_cases h1 : q = 1#2
        · subst h1; rfl
        · rw [if_neg h1, if_neg h1, bne_comm]
      · rw [fpSignInject_eq, getLsbD_sign_or, if_neg (by omega), decide_eq_false (by omega), Bool.false_and]
    case fcvti =>
      have run : execFcvti d a r f w u s = _ := execFpX_pass d _ h
      dsimp only at run
      rw [intRange_eq, signExtend_ofInt_width] at run
      exact ⟨_, _, rfl, run⟩

end Sys2Proof.Proofs

/-! SUPPORT. Group tables, rounds and their results (R305, R307, R308, R333), and what an answered access leaves alone. -/

namespace Sys2Proof.Machine

/-! An answer on its way (R219). -/

section
variable (s : State) (c : Nat) (e : PathEntry) (x : Ans)

@[simp] theorem State.answered_mem : (Claims.answered s c e x).mem = s.mem := by
  unfold Claims.answered State.respond
  dsimp only
  repeat' split
  all_goals rfl

@[simp] theorem State.answered_dies : (Claims.answered s c e x).dies = s.dies := by
  unfold Claims.answered State.respond
  dsimp only
  repeat' split
  all_goals rfl

/-- The rounds of every core stay as they are. -/
@[simp] theorem State.answered_rounds (n : Nat) : ((Claims.answered s c e x).core n).rounds = (s.core n).rounds := by
  have keeps : ∀ (t : State) (f : Core → Core), (∀ q, (f q).rounds = q.rounds) →
      ((t.modCore c f).core n).rounds = (t.core n).rounds := fun t f h => by
    by_cases hc : c = n
    · subst hc; rw [State.core_modCore_same, h]
    · rw [State.core_modCore_ne _ _ hc]
  have out : ((s.takeOut c e).core n).rounds = (s.core n).rounds := keeps _ _ fun _ => rfl
  unfold Claims.answered State.respond
  dsimp only
  repeat' split
  · exact out
  all_goals exact (keeps _ (fun q => { q with answers := q.answers ++ [(e.acc.strand, x)] }) fun _ => rfl).trans out

/-- What becomes of the strands is the strands' alone. -/
theorem State.answered_strands_congr {s t : State} (h : t.strands = s.strands) :
    (Claims.answered t c e x).strands = (Claims.answered s c e x).strands := by
  have same (k : Nat) : t.strand k = s.strand k := by simp only [State.strand, h]
  have put (u : State) : ((u.takeOut c e).modCore c fun q => { q with answers := q.answers ++ [(e.acc.strand, x)] }).strand e.acc.strand =
    u.strand e.acc.strand := rfl
  unfold Claims.answered State.respond
  dsimp only
  rw [put, put, same]
  repeat' split
  · exact h
  · simp only [State.modStrand, State.setStrand, put, same]
    exact congrArg (tableSet · _ _) h
  · exact h

end

/-! The words of a compute die's block (R319). -/

section
variable {a : Access} {b c g o : Nat} {v : Word}

/-- A store to a word of a compute die's block belongs to the row of its offset. -/
theorem rowOf_priv (hl : a.loc = { home := .priv b, off := o }) (hv : a.stored = some v) (hb : b < 8) : rowOf a = privRow o v := by
  have : b ≠ 8 := by omega
  simp [rowOf, hl, hv, this]

theorem privRow_groupTable (hc : c < 512) (hg : g < 64) : privRow (0x300000 + 512 * c + 8 * g) v = .groupTable := by
  rw [privRow, if_neg (by omega), if_neg (by omega), if_pos (by omega)]

theorem groupAt_offset (hg : g < 64) : groupAt b (0x300000 + 512 * c + 8 * g) = (512 * b + c, g) := by
  rw [groupAt, Prod.mk.injEq]
  omega

theorem privRow_go (hv : v.getLsbD 63 = true) : privRow (0x600000 + 0x2000 * c + 0x80 * g + 0x40) v = .collectiveGo := by
  rw [privRow, if_neg (by omega), if_neg (by omega), if_neg (by omega), if_neg (by omega), if_pos (by omega),
    if_pos ⟨by omega, hv⟩]

theorem resultAt_offset (hg : g < 64) : resultAt b (0x600000 + 0x2000 * c + 0x80 * g + 0x40) = (512 * b + c, g, 8) := by
  rw [resultAt, Prod.mk.injEq, Prod.mk.injEq]
  omega

end

section
variable {s : State} {core seq b c g : Nat} {e : PathEntry} {v : Word} (hb : b < 8) (hg : g < 64)
include hb hg

/-- A group table entry stored (R305). -/
theorem execGroupTableWrite_offered (hc : c < 512) (w : Claims.writes s core seq e (.priv b) (0x300000 + 512 * c + 8 * g) v) :
    execGroupTableWrite core seq s = .next (Claims.answered (if groupRefused v then s else
      (s.modCore (512 * b + c) fun t => { t with groups := t.groups.setIfInBounds g (v &&& groupMask) }).recheckCore (512 * b + c))
        core e Ans.unit) := by
  obtain ⟨⟨he, hp, hl⟩, hv⟩ := w
  have hn : groupAt (blockOfAccess e.acc) e.acc.loc.off = (512 * b + c, g) := by
    rw [blockOfAccess, hl]
    exact groupAt_offset hg
  rw [execGroupTableWrite, serveStore_offered he hp ((rowOf_priv hl hv hb).trans (privRow_groupTable hc hg)) hv, hn]
  rfl

/-- GO stored (R333). -/
theorem execCollectiveGo_offered (hgo : v.getLsbD 63 = true)
    (w : Claims.writes s core seq e (.priv b) (0x600000 + 0x2000 * c + 0x80 * g + 0x40) v) :
    execCollectiveGo core seq s = .next (Claims.answered (if (s.die b).mgmt.getLsbD 2 then s
      else if s.goDelivers (512 * b + c) g then
        (s.modDie b fun d => d.setResult (512 * b + c) g 8 (v &&& 0x1F#64)).deliverResult (512 * b + c) g
          (((s.die b).result (512 * b + c) g).take 8) (v.extractLsb' 0 5)
      else s.logViolation b 0 (s.endpoint (512 * b + c)) false 7 4 6) core e Ans.unit) := by
  obtain ⟨⟨he, hp, hl⟩, hv⟩ := w
  have hn : resultAt b e.acc.loc.off = (512 * b + c, g, 8) := by
    rw [hl]
    exact resultAt_offset hg
  have hbl : blockOfAccess e.acc = b := by rw [blockOfAccess, hl]
  rw [execCollectiveGo, serveStore_offered he hp ((rowOf_priv hl hv hb).trans (privRow_go hgo)) hv, hbl]
  dsimp only
  rw [hn]
  rfl

end

/-! Results sent down (R305). -/

/-- What no step of a fold changes, the fold does not. -/
theorem foldl_keeps {α β γ : Type} (f : α → γ) {step : α → β → α} (h : ∀ a b, f (step a b) = f a) (bs : List β) (a : α) :
    f (bs.foldl step a) = f a := by
  induction bs generalizing a with
  | nil => rfl
  | cons b bs ih => rw [List.foldl_cons, ih, h]

/-- Does a round wait for its result? -/
def Round.awaits (r : Round) : Bool := r.coming.isNone && r.result.isNone

theorem Round.awaits_eq : Round.awaits = fun r => r.coming.isNone && r.result.isNone := rfl

/-- A round of a group takes the result that is sent down, where its core has opened it and it has none yet. -/
def Round.receive (g : Nat) (res : List Word × FlagSet) (r : Round) : Round :=
  if r.group = g ∧ r.opened ∧ r.coming.isNone ∧ r.result.isNone then { r with coming := some res } else r

section
variable (g : Nat) (res : List Word × FlagSet) (r : Round)

@[simp] theorem Round.receive_group : (r.receive g res).group = r.group := by unfold Round.receive; split <;> rfl
@[simp] theorem Round.receive_opened : (r.receive g res).opened = r.opened := by unfold Round.receive; split <;> rfl

theorem Round.receive_awaiting {r : Round} (hg : r.group = g) (ho : r.opened = true) (ha : r.awaits = true) :
    r.receive g res = { r with coming := some res } := by
  obtain ⟨hc, hr⟩ := Bool.and_eq_true_iff.1 ha
  exact if_pos ⟨hg, ho, hc, hr⟩

/-- A result that has been taken is not taken again. -/
theorem Round.receive_receive : (r.receive g res).receive g res = r.receive g res := by
  by_cases h : r.group = g ∧ r.opened ∧ r.coming.isNone ∧ r.result.isNone
  · have taken : r.receive g res = { r with coming := some res } := if_pos h
    rw [taken]
    exact if_neg fun again => Bool.false_ne_true again.2.2.1
  · have left : r.receive g res = r := if_neg h
    rw [left, left]

end

/-- A core's rounds each take the result. -/
def Core.receive (g : Nat) (res : List Word × FlagSet) (c : Core) : Core := { c with rounds := c.rounds.map (Round.receive g res) }

theorem Core.openRound_receive (g : Nat) (res : List Word × FlagSet) (c : Core) :
    (c.receive g res).openRound g = (c.openRound g).map (Round.receive g res) := by
  simp only [Core.openRound, Core.receive, List.find?_map]
  congr 2
  funext r
  simp

/-- The open round of a core is of the group asked for, and open. -/
theorem Core.openRound_spec {c : Core} {g : Nat} {r : Round} (h : c.openRound g = some r) : r.group = g ∧ r.opened = true := by
  simpa using List.find?_some h

section
variable (g : Nat) (lanes : List Word) (flags : FlagSet)

theorem State.sendDown_cons (s : State) (c : Nat) (cs : List Nat) :
    s.sendDown g (c :: cs) lanes flags = (s.modCore c (Core.receive g (lanes, flags))).sendDown g cs lanes flags := rfl

/-- What each core's change leaves alone, all of them do. -/
theorem State.sendDown_keeps {α : Type} (f : State → α) (h : ∀ (s : State) c k, f (s.modCore c k) = f s) (s : State) (cs : List Nat) :
    f (s.sendDown g cs lanes flags) = f s := foldl_keeps f (fun s c => h s c _) cs s

/-- The open round of a core that the result is sent to takes it. -/
theorem State.openRound_sendDown (s : State) {cs : List Nat} {n : Nat} (h : n ∈ cs) :
    ((s.sendDown g cs lanes flags).core n).openRound g = ((s.core n).openRound g).map (Round.receive g (lanes, flags)) := by
  induction cs generalizing s with
  | nil => cases h
  | cons c cs ih =>
    rw [State.sendDown_cons]
    by_cases later : n ∈ cs
    · rw [ih _ later]
      by_cases now : c = n
      · subst now
        rw [State.core_modCore_same, Core.openRound_receive, Option.map_map]
        congr 1
        funext r
        exact Round.receive_receive g _ r
      · rw [State.core_modCore_ne _ _ now]
    · obtain rfl : n = c := by simpa [later] using h
      have rest : ∀ (ds : List Nat) (t : State), n ∉ ds → (t.sendDown g ds lanes flags).core n = t.core n := by
        intro ds
        induction ds with
        | nil => intro t _; rfl
        | cons d ds ih =>
          intro t hd
          obtain ⟨hne, hds⟩ := List.ne_and_not_mem_of_not_mem_cons hd
          rw [State.sendDown_cons, ih _ hds, State.core_modCore_ne _ _ hne.symm]
      rw [rest _ _ later, State.core_modCore_same, Core.openRound_receive]

/-- An open round that awaits its result gets it. -/
theorem State.coming_sendDown (s : State) {cs : List Nat} {n : Nat} (h : n ∈ cs)
    (ha : ((s.core n).openRound g).any Round.awaits = true) :
    (((s.sendDown g cs lanes flags).core n).openRound g).bind Round.coming = some (lanes, flags) := by
  obtain ⟨r, hr, har⟩ := (Option.any_eq_true _ _).1 ha
  obtain ⟨hg, ho⟩ := Core.openRound_spec hr
  rw [s.openRound_sendDown g lanes flags h, hr, Option.map_some, Round.receive_awaiting g _ hg ho har]
  rfl

end

/-! GO (R333). -/

/-- The tree below a router is the group tables' alone. -/
theorem State.treeLeaves_congr {s t : State} (h : t.cores = s.cores) (g fuel c : Nat) : t.treeLeaves g fuel c = s.treeLeaves g fuel c := by
  have same (k : Nat) : t.core k = s.core k := by simp only [State.core, h]
  induction fuel generalizing c with
  | zero => rfl
  | succ fuel ih => simp only [State.treeLeaves, same, ih]

/-- A core's group table makes it a root in use. -/
def rootOf (e : Word) : Prop := e.getLsbD 0 = true ∧ groupParent e = 7

theorem State.goDelivers_iff (s : State) (c g : Nat) : s.goDelivers c g = true ↔ rootOf ((s.core c).groupEntry g) ∧
    ∃ n ∈ s.treeLeaves g 384 c, ((s.core n).openRound g).any Round.awaits = true := by
  simp only [State.goDelivers, Bool.and_eq_true, beq_iff_eq, List.any_eq_true, rootOf, Round.awaits_eq]

/-- The kernel's words as the elements of the group (R333). -/
def groupElements (e : Word) (words : List Word) : List Word :=
  (lanesOf (laneWidth (groupFmt e)) (BitVec.ofNat 512 (natOfBytes (words.flatMap fun w => bytesOfNat 8 w.toNat)))).take (groupLen e)

/-- The result that GO sends is on its way to every leaf that awaits it; its flags read back, and nothing else changes. -/
theorem State.deliverResult_spec (s : State) (b c g : Nat) (words : List Word) (flags : FlagSet) (w : Word) :
    let t := (s.modDie b fun d => d.setResult c g 8 w).deliverResult c g words flags
    t.mem = s.mem ∧ t.strands = s.strands ∧ t.die b = (s.die b).setResult c g 8 w ∧
      ∀ n ∈ s.treeLeaves g 384 c, ((s.core n).openRound g).any Round.awaits = true →
        ((t.core n).openRound g).bind Round.coming = some (groupElements ((s.core c).groupEntry g) words, flags) := by
  set u := s.modDie b fun d => d.setResult c g 8 w with hu
  have leaves (fuel : Nat) : u.treeLeaves g fuel c = s.treeLeaves g fuel c := State.treeLeaves_congr (s := s) (t := u) rfl g fuel c
  have keeps {α : Type} (f : State → α) (h : ∀ (s : State) c k, f (s.modCore c k) = f s) :
      f (u.deliverResult c g words flags) = f u := State.sendDown_keeps g _ flags f h u _
  refine ⟨keeps State.mem fun _ _ _ => rfl, keeps State.strands fun _ _ _ => rfl, ?_, fun n hn ha => ?_⟩
  · rw [keeps (fun t => t.die b) fun _ _ _ => rfl, hu, State.die_modDie_same]
  · exact u.coming_sendDown g _ flags ((leaves 384).symm ▸ hn) ha

/-! Rounds combined (R305, R307). -/

section
variable {s : State} {core g p : Nat} {r : Round} {rest : List Round} {x : Contribution}
  (hr : (s.core core).rounds = r :: rest) (hg : r.group = g) (hs : r.sent = false) (hh : r.hosted = none) (hp : r.ports = [(0, x)])
  (hv : groupValid ((s.core core).groupEntry g) = true) (hc : groupChildren ((s.core core).groupEntry g) = [0])
  (hm : (s.die (dieOf core)).mgmt.getLsbD 2 = true)

/-- The state once a router has combined its round. -/
def State.combined (s : State) (core g : Nat) : State := s.modCore core fun c => { c with rounds := closeGathering g c.rounds }

include hr hg hs hh hp hv hc hm

/-- A router whose one child has contributed combines its round: at the root to the result, elsewhere for PARENT's neighbour. -/
theorem execCollectiveCombine_single : execCollectiveCombine core g s =
    if groupParent ((s.core core).groupEntry g) = 7 then
      let res := rootResult ((s.core core).groupEntry g) x s.free
      let t := { s.combined core g with free := s.free + groupLen ((s.core core).groupEntry g) }
      let t := match res.2 with
        | some n => t.logViolation (dieOf core) 0 (t.endpoint core) false 7 4 n
        | none => t
      .next (t.sendDown g (t.localLeaves x) res.1.1 res.1.2)
    else
      match neighbour core (groupParent ((s.core core).groupEntry g)) with
      | some p => .next ((s.combined core g).contribute p g (oppositePort (groupParent ((s.core core).groupEntry g))) x)
      | none => .next (s.combined core g) := by
  have gathering : (s.core core).gathering g = some r := by
    simp [Core.gathering, hr, hg, hs, hh]
  have kids : (groupChildren ((s.core core).groupEntry g)).filterMap (fun p => (r.ports.find? fun q => q.1 == p).map Prod.snd) = [x] := by
    simp [hc, hp]
  have ready : (!groupValid ((s.core core).groupEntry g) || [x].length != (groupChildren ((s.core core).groupEntry g)).length ||
      !(s.die (dieOf core)).mgmt.getLsbD 2) = false := by
    rw [hv, hc, hm]; rfl
  simp only [execCollectiveCombine, gathering, kids, ready, Bool.false_eq_true, if_false, List.foldl_nil] <;> rfl

/-- Such a router sends the contribution on to PARENT's neighbour. -/
theorem execCollectiveCombine_onward (hparent : groupParent ((s.core core).groupEntry g) ≠ 7)
    (hn : neighbour core (groupParent ((s.core core).groupEntry g)) = some p) : execCollectiveCombine core g s =
      .next ((s.combined core g).contribute p g (oppositePort (groupParent ((s.core core).groupEntry g))) x) := by
  rw [execCollectiveCombine_single hr hg hs hh hp hv hc hm, if_neg hparent, hn]

/-- At the root, a result without a cause to log goes down to the leaves of this module. -/
theorem execCollectiveCombine_root (hparent : groupParent ((s.core core).groupEntry g) = 7) {res : List Word × FlagSet}
    (hres : rootResult ((s.core core).groupEntry g) x s.free = (res, none)) : execCollectiveCombine core g s =
      .next (State.sendDown { s.combined core g with free := s.free + groupLen ((s.core core).groupEntry g) } g (s.localLeaves x)
        res.1 res.2) := by
  rw [execCollectiveCombine_single hr hg hs hh hp hv hc hm, if_pos hparent, hres]
  rfl

end

/-- A port that leads to a neighbour is a mesh port, and so is the one by which the neighbour reaches back (R305). -/
theorem oppositePort_ne_zero {c port p : Nat} (h : neighbour c port = some p) : oppositePort port ≠ 0 := by
  have mesh : port ≠ 0 := by
    rintro rfl
    exact absurd h (by simp [neighbour])
  unfold oppositePort
  repeat' split
  all_goals omega

/-- A contribution from another router stands in the neighbour's rounds. -/
theorem State.contribute_rounds (s : State) (c g : Nat) {port : Nat} (x : Contribution) (h : port ≠ 0) :
    ((s.contribute c g port x).core c).rounds = addPort g port x (s.core c).rounds := by
  rw [State.contribute, State.core_modCore_same]
  exact if_neg h

/-! The integer sum of one leaf is what the leaf contributed (R93). -/

theorem laneOfInt_toNat {w : Nat} {v : Word} (h : v.toNat < 2 ^ w) : laneOfInt w (v.toNat : Int) = v := by
  have small : v.toNat % 2 ^ w = v.toNat := Nat.mod_eq_of_lt h
  apply BitVec.eq_of_toNat_eq
  rw [laneOfInt, BitVec.ofInt_natCast, BitVec.toNat_ofNat, BitVec.toNat_ofNat, small, Nat.mod_eq_of_lt v.isLt]

theorem combineLane_sum_single {t : BitVec 3} {rm : Rm} {v : Word} (ht : isFloatType t = false) (h : v.toNat < 2 ^ laneWidth t) :
    combineLane 0 t rm [v] = (v, 0#5) := by
  simp [combineLane, ht, quiet, laneOfInt_toNat h]

/-- Lanes without flags have none together. -/
theorem orFlags_zeros (n : Nat) : orFlags (List.replicate n 0#5) = 0#5 := by
  induction n with
  | zero => rfl
  | succ n ih => exact ih

/-- What the root makes of the one integer contribution of a sum. -/
theorem rootResult_single {e : Word} {x : Contribution} {k : Nat} {lanes : List Word} (free : Nat) (hn : groupLeaves e = 1)
    (ha : x.agrees = true) (ho : groupOper e = 0) (hf : isFloatType (groupFmt e) = false) (hx : x.leaves = [(k, lanes)])
    (hlen : lanes.length = groupLen e) (hfit : ∀ w ∈ lanes, w.toNat < 2 ^ laneWidth (groupFmt e)) :
    rootResult e x free = ((lanes, 0#5), none) := by
  have each (rm : Rm) : (List.range (groupLen e)).map (fun i => combineLane 0 (groupFmt e) rm [lanes.getD i 0]) =
      lanes.map fun w => (w, 0#5) := by
    rw [← hlen]
    apply List.ext_getElem
    · simp
    · intro i h _
      have hi : i < lanes.length := by simpa using h
      simp [hi, combineLane_sum_single hf (hfit _ (List.getElem_mem hi))]
  rw [rootResult, if_neg (by simp [hx, hn]), if_neg (by simp [ha]), if_neg (by omega)]
  simp only [hf, ho, hx, Bool.false_and, List.map_cons, List.map_nil, each]
  simp [Function.comp_def, orFlags_zeros]

/-- The leaf of a contribution from this module is its core (R11). -/
theorem State.localLeaves_single (s : State) {x : Contribution} {core : Nat} {lanes : List Word}
    (hx : x.leaves = [(s.endpoint core, lanes)]) (hc : core < 4096) : s.localLeaves x = [core] := by
  have he : s.endpoint core = s.hub.module % 1024 * 4096 + core := by
    simp [State.endpoint, isControl, Nat.not_le.2 hc]
  have hq : s.endpoint core / 4096 = s.hub.module % 1024 := by omega
  have hm : s.endpoint core % 4096 = core := by omega
  simp [State.localLeaves, hx, hq, hm]

/-- A leaf's round that its router has combined stays open, without its contributions. -/
theorem closeGathering_cons {g : Nat} {r : Round} (rs : List Round) (hg : r.group = g) (hs : r.sent = false) (ho : r.opened = true) :
    closeGathering g (r :: rs) = { r with sent := true, ports := [] } :: closeGathering g rs := by
  simp [closeGathering, hg, hs, ho]

theorem State.combined_rounds (s : State) (core g : Nat) :
    ((s.combined core g).core core).rounds = closeGathering g (s.core core).rounds := by
  rw [State.combined, State.core_modCore_same]

/-! A result that arrives (R305, R308). -/

/-- Only strands change where those that wait for a result are ready again. -/
theorem State.wakeCollective_keeps {α : Type} (f : State → α) (h : ∀ (s : State) n k, f (s.modStrand n k) = f s) (s : State)
    (c g : Nat) :
    f (s.wakeCollective c g) = f s := by
  refine foldl_keeps f (fun t k => ?_) _ s
  repeat' split
  · exact h t _ _
  all_goals rfl

theorem execCollectiveResultArrival_coming {s : State} {core g : Nat} {r : Round} {rest : List Round}
    (hr : (s.core core).rounds = r :: rest) (hg : r.group = g) (hc : r.coming.isSome = true) :
    execCollectiveResultArrival core g s = .next ((s.modCore core fun c => { c with rounds := c.rounds.map fun r =>
      if r.group = g ∧ r.coming.isSome then { r with result := r.coming, coming := none } else r }).wakeCollective core g) := by
  have found : ((s.core core).rounds.find? fun r => r.group == g && r.coming.isSome) = some r := by
    rw [hr, List.find?_cons_of_pos (by simp [hg, hc])]
  rw [execCollectiveResultArrival, found]

/-! Records written to the fault queue (R332, R333). -/

/-- Records that find room move TAIL on by as many; memory and the cores are as they were. -/
theorem State.pushFault_room {s : State} {d : Nat} {recs : List (List Word)} (h : recs.length ≤ (s.die d).faultRoom) :
    ∃ t, s.pushFault d recs = some t ∧ t.mem = s.mem ∧ t.cores = s.cores ∧
      (t.die d).fqTail = (s.die d).fqTail + BitVec.ofNat 32 recs.length := by
  have count : ∀ (rs : List (List Word)) (a : Nat × List (Nat × List Word)),
      (rs.foldl (fun a r => (a.1 + 1, tableSet a.2 (a.1 % 1024) r)) a).1 = a.1 + rs.length := by
    intro rs
    induction rs with
    | nil => intro a; rfl
    | cons r rs ih => intro a; rw [List.foldl_cons, ih, List.length_cons, Nat.add_right_comm, Nat.add_assoc]
  refine ⟨_, if_neg (Nat.not_lt.2 h), ?_, ?_, ?_⟩
  · rw [State.signalManager_mem, State.modDie_mem]
  · rw [State.signalManager_cores, State.modDie_cores]
  · have same (t : State) : (t.signalManager d).die d = t.die d := by simp only [State.die, State.signalManager_dies]
    rw [same, State.die_modDie_same]
    show BitVec.ofNat 32 (recs.foldl _ ((s.die d).fqTail.toNat, _)).1 = _
    rw [count, BitVec.ofNat_add, BitVec.ofNat_toNat, BitVec.setWidth_eq]

theorem execCollectiveQueueRecord_hosted {s t : State} {core g : Nat} {r : Round} {rest : List Round} {recs : List (List Word)}
    (hr : (s.core core).rounds = r :: rest) (hg : r.group = g) (hh : r.hosted = some recs)
    (hp : s.pushFault (dieOf core) recs = some t) :
    execCollectiveQueueRecord core g s = .next (t.modCore core fun c => { c with rounds := c.rounds.map fun q =>
      if q.group = g ∧ q.hosted.isSome then { q with hosted := none } else q }) := by
  have found : ((s.core core).rounds.find? fun r => r.group == g && r.hosted.isSome) = some r := by
    rw [hr, List.find?_cons_of_pos (by simp [hg, hh])]
  simp only [execCollectiveQueueRecord, found, hh, Option.getD_some, hp]

end Sys2Proof.Machine

namespace Sys2Proof.Proofs

open Sys2Proof.Machine Sys2Proof.Claims

/-- Settles O44: a store to the table or to GO is its row's; a round at the head of its core's rounds is the one that its step finds;
a result that is sent down is taken by each leaf whose open round awaits it. -/
theorem collectiveDeviceResults : Obligations.CollectiveDeviceResults := by
  unfold Obligations.CollectiveDeviceResults
  intro s core seq b c g p e v r x lanes res recs
  dsimp only
  intro hb hc hg
  refine ⟨fun w h => ?entry, fun w h => ?refusedEntry, ?onward, ?root, ?arrival, ?records, ?hardware, ?ignored, ?delivered⟩
  case entry =>
    refine (execGroupTableWrite_offered hb hg hc w).trans ?_
    rw [h]; rfl
  case refusedEntry =>
    refine (execGroupTableWrite_offered hb hg hc w).trans ?_
    rw [if_pos h]
  case onward =>
    rintro ⟨rest, hr, hrg⟩ hs hh hp hv hch hm hpar hn
    refine ⟨_, execCollectiveCombine_onward hr hrg hs hh hp hv hch hm hpar hn, rfl, rfl, fun hne => ?_⟩
    rw [State.contribute_rounds _ _ _ _ (oppositePort_ne_zero hn), State.combined, State.core_modCore_ne _ _ hne.symm]
  case root =>
    rintro ⟨rest, hr, hrg⟩ hs hh hp ho hcm hrs hv hch hm hpar hlv ha hop hf hx hlen hfit hcore
    have fits : ∀ w ∈ lanes, w.toNat < 2 ^ laneWidth (groupFmt ((s.core core).groupEntry g)) := by simpa using hfit
    refine ⟨_, execCollectiveCombine_root hr hrg hs hh hp hv hch hm hpar (rootResult_single s.free hlv ha hop hf hx hlen fits), ?_, ?_⟩
    · exact State.sendDown_keeps g _ _ State.mem (fun _ _ _ => rfl) _ _
    · rw [s.localLeaves_single hx hcore, State.sendDown_cons]
      show (((State.modCore _ core _).core core).rounds.head?).map Round.coming = _
      rw [State.core_modCore_same]
      show ((((s.combined core g).core core).rounds.map _).head?).map Round.coming = _
      rw [State.combined_rounds, hr, closeGathering_cons rest hrg hs ho, List.map_cons, Round.receive_awaiting]
      · rfl
      · exact hrg
      · exact ho
      · rw [Round.awaits, hcm, hrs]; rfl
  case arrival =>
    rintro ⟨rest, hr, hrg⟩ hcm
    refine ⟨_, execCollectiveResultArrival_coming hr hrg (by rw [hcm]; rfl), ?_, ?_⟩
    · exact State.wakeCollective_keeps State.mem (fun _ _ _ => rfl) _ core g
    · rw [State.wakeCollective_keeps (fun t => t.core core) (fun _ _ _ => rfl), State.core_modCore_same, hr]
      simp [hrg, hcm]
  case records =>
    rintro ⟨rest, hr, hrg⟩ hh hroom
    obtain ⟨t, hp, hmem, hcores, htail⟩ := State.pushFault_room hroom
    have same : t.core core = s.core core := by simp only [State.core, hcores]
    refine ⟨_, execCollectiveQueueRecord_hosted hr hrg hh hp, hmem, ?_, htail⟩
    rw [State.core_modCore_same, same, hr]
    simp [hrg, hh]
  case hardware =>
    rintro ⟨w, hgo⟩ hm
    refine (execCollectiveGo_offered hb hg hgo w).trans ?_
    rw [if_pos (by simpa using hm)]
  case ignored =>
    rintro ⟨w, hgo⟩ hm hno
    have idle : s.goDelivers (512 * b + c) g ≠ true := by
      rw [Ne, State.goDelivers_iff]
      rintro ⟨hroot, n, hn, ha⟩
      rcases hno with hno | hno
      · exact hno hroot
      · exact Bool.false_ne_true ((hno n hn).symm.trans ha)
    refine (execCollectiveGo_offered hb hg hgo w).trans ?_
    rw [if_neg (by simpa using hm), if_neg idle]
  case delivered =>
    rintro ⟨w, hgo⟩ hm hroot hawait
    have delivers : s.goDelivers (512 * b + c) g = true := (s.goDelivers_iff _ g).2 ⟨hroot, hawait⟩
    have run := execCollectiveGo_offered hb hg hgo w
    rw [if_neg (by simpa using hm), if_pos delivers] at run
    obtain ⟨hmem, hstr, hdie, hcoming⟩ := s.deliverResult_spec b (512 * b + c) g (((s.die b).result (512 * b + c) g).take 8)
      (v.extractLsb' 0 5) (v &&& 0x1F#64)
    refine ⟨_, run, (State.answered_mem ..).trans hmem, State.answered_strands_congr core e _ hstr, ?_, fun n hn ha => ?_⟩
    · rw [← hdie]
      simp only [State.die, State.answered_dies]
    · refine Eq.trans ?_ (hcoming n hn ha)
      simp only [Core.openRound, State.answered_rounds]

end Sys2Proof.Proofs

/-! SUPPORT. What the current strand has had of its instruction (its log) matters to no home: a write leaves the same state but for
it (R218, R219). -/

namespace Sys2Proof.Machine

/-- A strand with other answers had. -/
def Strand.withLog (t : Strand) (l : List Ans) : Strand := { t with log := l }

/-- The current strand with other answers had. -/
def State.withLog (s : State) (l : List Ans) : State := s.modMe (·.withLog l)

section
variable (t : Strand) (l : List Ans)

@[simp] theorem Strand.advance_withLog : (t.withLog l).advance = t.advance := rfl
@[simp] theorem Strand.endProgress_withLog : (t.withLog l).endProgress = t.endProgress.withLog l := rfl
@[simp] theorem Strand.setC_withLog (r : BitVec 4) (c : CochainReg) : (t.withLog l).setC r c = (t.setC r c).withLog l := rfl
@[simp] theorem Strand.setX_withLog (r : BitVec 5) (w : Word) : (t.withLog l).setX r w = (t.setX r w).withLog l := by
  unfold Strand.setX; split <;> rfl

end

/-- Entries of a table at two keys, set in either order. -/
theorem tableSet_comm {α : Type} (t : List (Nat × α)) {a b : Nat} (x y : α) (h : a ≠ b) :
    tableSet (tableSet t a x) b y = tableSet (tableSet t b y) a x := by
  induction t with
  | nil => grind [tableSet]
  | cons e r ih => grind [tableSet]

section
variable (s : State) (l : List Ans)

@[simp] theorem State.withLog_me : (s.withLog l).me = s.me.withLog l := State.me_modMe s _

theorem State.strand_withLog (h : Nat) : (s.withLog l).strand h = if s.cur = h then (s.strand h).withLog l else s.strand h := by
  by_cases hc : s.cur = h
  · subst hc; rw [if_pos rfl]; exact State.me_modMe s _
  · rw [if_neg hc]; exact State.strand_modMe_ne s _ hc

/-- A change of a strand that does not look at the log. -/
theorem State.modStrand_withLog (h : Nat) {f : Strand → Strand} (hf : ∀ t, f (t.withLog l) = (f t).withLog l) :
    (s.withLog l).modStrand h f = (s.modStrand h f).withLog l := by
  by_cases hc : s.cur = h
  · subst hc
    show (s.modMe _).modMe f = (s.modMe f).modMe _
    rw [State.modMe_modMe, State.modMe_modMe]
    exact s.modMe_congr (hf s.me)
  · rw [State.modStrand, s.strand_withLog, if_neg hc]
    have other : (s.modStrand h f).strand s.cur = s.strand s.cur := State.strand_modStrand_ne s f (Ne.symm hc)
    show _ = (s.modStrand h f).setStrand s.cur (((s.modStrand h f).strand s.cur).withLog l)
    rw [other]
    show { s with strands := tableSet (tableSet s.strands s.cur _) h _ } = { s with strands := tableSet (tableSet s.strands h _) s.cur _ }
    rw [tableSet_comm _ _ _ hc]

/-! What reads a strand reads no log. -/

section
variable (h : Nat)

@[simp] theorem State.strand_withLog_watch : ((s.withLog l).strand h).watch = (s.strand h).watch := by
  rw [s.strand_withLog]; split <;> rfl
@[simp] theorem State.strand_withLog_status : ((s.withLog l).strand h).status = (s.strand h).status := by
  rw [s.strand_withLog]; split <;> rfl
@[simp] theorem State.strand_withLog_ien : ((s.withLog l).strand h).ien = (s.strand h).ien := by
  rw [s.strand_withLog]; split <;> rfl
@[simp] theorem State.strand_withLog_ipend : ((s.withLog l).strand h).ipend = (s.strand h).ipend := by
  rw [s.strand_withLog]; split <;> rfl
@[simp] theorem State.strand_withLog_timecmp : ((s.withLog l).strand h).timecmp = (s.strand h).timecmp := by
  rw [s.strand_withLog]; split <;> rfl
@[simp] theorem State.strand_withLog_m : ((s.withLog l).strand h).m = (s.strand h).m := by
  rw [s.strand_withLog]; split <;> rfl

@[simp] theorem State.ipend_withLog : (s.withLog l).ipend h = s.ipend h := by
  simp only [State.ipend, State.strand_withLog_ipend, State.strand_withLog_timecmp]
  rfl
@[simp] theorem State.mipend_withLog : (s.withLog l).mipend h = s.mipend h := by
  simp only [State.mipend, State.strand_withLog_m, State.ipend_withLog]
@[simp] theorem State.wfiDone_withLog : (s.withLog l).wfiDone h = s.wfiDone h := by
  simp only [State.wfiDone, State.strand_withLog_ien, State.strand_withLog_m, State.ipend_withLog, State.mipend_withLog]

/-! An interrupt raised, an event logged, a watch fired (R287, R330, R361). -/

theorem State.wakeWfi_withLog : (s.withLog l).wakeWfi h = (s.wakeWfi h).withLog l := by
  unfold State.wakeWfi
  rw [State.strand_withLog_status, State.wfiDone_withLog]
  split
  · exact s.modStrand_withLog l h fun _ => rfl
  · rfl

theorem State.raiseExt_withLog : (s.withLog l).raiseExt h = (s.raiseExt h).withLog l := by
  unfold State.raiseExt
  rw [s.modStrand_withLog l h fun _ => rfl, State.wakeWfi_withLog]

theorem State.signalManager_withLog (d : Nat) : (s.withLog l).signalManager d = (s.signalManager d).withLog l := by
  have same : (s.withLog l).manager d = s.manager d := rfl
  unfold State.signalManager
  rw [same]
  split
  · exact s.raiseExt_withLog l _
  · rfl

theorem State.logError_withLog (d : Nat) (addr : Word) (epid source event : Nat) :
    (s.withLog l).logError d addr epid source event = (s.logError d addr epid source event).withLog l := by
  have put (f : Die → Die) : (s.withLog l).modDie d f = (s.modDie d f).withLog l := rfl
  have last : (s.withLog l).die d = s.die d := rfl
  have now : (s.withLog l).time = s.time := rfl
  unfold State.logError
  dsimp only
  rw [last, now]
  split
  · split
    · exact put _
    · rw [put, State.signalManager_withLog]
  · rw [put, State.signalManager_withLog]

theorem State.fireWatch_withLog : (s.withLog l).fireWatch h = (s.fireWatch h).withLog l := by
  have drop (t : State) : (t.withLog l).dropWatch h = (t.dropWatch h).withLog l := rfl
  have wait : ((s.withLog l).strand h).waiting? = (s.strand h).waiting? := by
    unfold Strand.waiting?
    rw [State.strand_withLog_status]
  unfold State.fireWatch
  dsimp only
  rw [State.strand_withLog_watch, wait]
  split
  · rw [s.modStrand_withLog l h fun _ => rfl, drop]
    split
    · split
      · exact State.modStrand_withLog _ l h fun _ => rfl
      · rfl
    · rfl
  · rfl

end

/-! A write and what it does at a home (R218, R242, R362). -/

theorem State.fireWatches_withLog (ws : List Loc) : (s.withLog l).fireWatches ws = (s.fireWatches ws).withLog l :=
  List.foldl_hom (State.withLog · l) fun t _ => State.fireWatch_withLog t l _

theorem State.recordLine_withLog (c : Nat) (w : Loc) : (s.withLog l).recordLine c w = (s.recordLine c w).withLog l := by
  unfold State.recordLine
  dsimp only
  rw [apply_ite (State.withLog · l), apply_ite (State.withLog · l), apply_ite (State.withLog · l)]
  rfl

theorem State.writeWord_withLog (w k : Loc) (bs : List Byte) (fe : Option Bool) :
    (s.withLog l).writeWord w k bs fe = (s.writeWord w k bs fe).withLog l := by
  have tag : (s.withLog l).tagAt w = s.tagAt w := rfl
  have poisoned : (s.withLog l).logAt w 3 = (s.logAt w 3).withLog l := s.logError_withLog l _ _ _ _ _
  unfold State.writeWord
  dsimp only
  rw [tag, poisoned]
  repeat' split
  all_goals rfl

theorem State.write_withLog (c : Nat) (k : Loc) (bs : List Byte) (fe : Option Bool) :
    (s.withLog l).write c k bs fe = (s.write c k bs fe).withLog l := by
  have hit (w : Loc) : (s.withLog l).writesWord w k bs.length = s.writesWord w k bs.length := rfl
  unfold State.write
  simp only [hit]
  rw [List.foldl_hom (State.withLog · l) fun t w => State.recordLine_withLog t l c w,
    List.foldl_hom (State.withLog · l) fun t w => State.writeWord_withLog t l w k bs fe, State.fireWatches_withLog]

/-- A store that its home performs is performed, whatever the strand has had of its instruction. -/
theorem State.perform_store_withLog {s t : State} {c : Nat} {a : Access} {data : List Byte} {fe : Option Bool} {z : Vec}
    (hk : a.kind = .store data fe false) (h : s.perform c a = .done t z) : (s.withLog l).perform c a = .done (t.withLog l) z := by
  have tag : (s.withLog l).tagAt a.loc = s.tagAt a.loc := rfl
  have moving : (s.withLog l).movingAt a.loc = s.movingAt a.loc := rfl
  unfold State.perform at h ⊢
  simp only [hk, tag, moving] at h ⊢
  split at h
  · cases h
  · cases h
  · cases h
    rw [State.write_withLog]
    rfl

end

end Sys2Proof.Machine

/-! SUPPORT. A cochain instruction that goes on from the progress that it holds (R166 to R169). -/

namespace Sys2Proof.Machine

/-! Where a run goes on. -/

/-- The progress of an instruction that has begun. -/
def Prog.begin (g : Prog) : Prog := { g with began := true }

/-- The run of a cochain instruction behind its checks, with progress g and the answers had. -/
def State.goingOn (s : State) (g : Prog) (had : List Ans) : Run :=
  { s := s.withLog (.progress g :: had), past := had, new := [], leaves := false }

/-- A slot that is not BUSY and holds the generation of a register (R140, R153). -/
def State.Steady (s : State) (r : BitVec 4) : Prop :=
  (s.slotAt (s.me.getC r).slot.toNat).state ≠ .busy ∧ (s.slotAt (s.me.getC r).slot.toNat).gen = (s.me.getC r).gen

section
variable {r : Run} {rs : List (BitVec 4)} (h : ∀ q ∈ rs, r.s.Steady q)
include h

theorem busyWaits_pass : (rs.forM fun q => busyWait (r.s.me.getC q).slot.toNat) r = .ok () r := by
  induction rs with
  | nil => rfl
  | cons q qs ih =>
    obtain ⟨hq, hqs⟩ := List.forall_mem_cons.1 h
    show (busyWait (r.s.me.getC q).slot.toNat >>= fun _ => qs.forM fun q => busyWait (r.s.me.getC q).slot.toNat) r = _
    rw [run_bind, busyWait, if_neg hq.1]
    exact ih hqs

theorem genCheck_pass (resumed : Bool) : genCheck resumed rs r = .ok () r := by
  induction rs with
  | nil => rfl
  | cons q qs ih =>
    obtain ⟨⟨hbusy, hgen⟩, hqs⟩ := List.forall_mem_cons.1 h
    have same : ((r.s.slotAt (r.s.me.getC q).slot.toNat).gen == (r.s.me.getC q).gen) = true := by simpa using hgen
    rw [genCheck, run_bind, run_getMe]
    dsimp only
    rw [run_bind, busyWait, if_neg hbusy]
    dsimp only
    rw [run_bind, run_getS]
    dsimp only
    rw [run_bind, run_require, same, if_pos rfl]
    exact ih hqs

end

/-- The current strand's log changed is the log it then has. -/
theorem modProg_log {r : Run} {g : Prog} {l : List Ans} (f : Prog → Prog) (h : r.s.me.log = .progress g :: l) :
    r.modProg f = { r with s := r.s.withLog (.progress (f g) :: l) } := by
  unfold Run.modProg
  rw [h]
  rfl

theorem generations_pass {s : State} {g : Prog} {had : List Ans} {rs : List (BitVec 4)} (resumed : Bool)
    (hl : s.me.log = .progress g :: had) (h : ∀ q ∈ rs, s.Steady q) :
    generations resumed rs { s := s, past := had, new := [], leaves := false } = .ok () (s.goingOn g.begin had) := by
  rw [generations, run_bind, run_getMe]
  dsimp only
  rw [run_bind, busyWaits_pass (r := { s := s, past := had, new := [], leaves := false }) h]
  dsimp only
  rw [run_bind, genCheck_pass (r := { s := s, past := had, new := [], leaves := false }) h]
  exact congrArg (EStateM.Result.ok ()) (modProg_log _ hl)

/-- Progress held is gone on from, with the answers behind it; a trap that came as the last of them would be taken instead. -/
theorem progress_had {r : Run} {g : Prog} {had : List Ans} (op : Nat) (first : Word) (hp : r.past = .progress g :: had)
    (ht : ∀ t, .trap t ∉ had) : progress op first r = .ok (g, .goesOn) { r with past := had } := by
  have last : ∀ t, had.getLast? ≠ some (.trap t) := fun t e => ht t (List.mem_of_getLast? e)
  unfold progress
  rw [hp]
  dsimp only
  split
  · exact absurd ‹_› (last _)
  · rfl

theorem withProgress_congr {m k : M Unit} {r : Run} (h : m r = k r) : withProgress m r = withProgress k r := by
  rw [withProgress, withProgress, h]

/-- Two meanings that agree on the run that an instruction starts with end alike. -/
theorem runInstr_congr {i : Instr} {m k : M Unit} {s : State}
    (h : m { s := s, past := s.me.log, new := [], leaves := false } = k { s := s, past := s.me.log, new := [], leaves := false }) :
    runInstr i m s = runInstr i k s := by
  rw [runInstr, runInstr, h]

/-- A cochain instruction that goes on: its body from the progress held, with the answers had (R167, R169). -/
theorem cochain_goesOn {i : Instr} {op : Nat} {rs : List (BitVec 4)} {types : List Byte → Bool} {range : List Byte → Nat}
    {body : Word → List Byte → M Unit} {s : State} {g : Prog} {had : List Ans} (hr : refusal i s = none)
    (hl : s.me.log = .progress g :: had) (ht : ∀ t, .trap t ∉ had) (h : ∀ q ∈ rs, s.Steady q) :
    cochain i op rs types range body s = runInstr i (withProgress fun _ =>
      body g.start (s.slotAt (s.me.getC (rs.headD 0)).slot.toNat).desc (s.goingOn g.begin had)) s := by
  rw [cochain, issueRun, issue_pass _ hr]
  refine runInstr_congr (withProgress_congr ?_)
  rw [run_bind, progress_had op _ hl ht]
  dsimp only
  rw [run_bind, run_getMe]
  dsimp only
  rw [if_neg (by decide), run_bind]
  rw [generations_pass _ hl h]
  rfl

/-! How such an instruction ends. -/

section
variable {i : Instr} {s : State} {g : Prog} {had : List Ans}

/-- It is complete, and nothing is kept for it. -/
theorem runInstr_completes {x : EStateM.Result Stop Run Unit} {r : Run} (hx : x = .ok () r) (hv : r.leaves = false) :
    runInstr i (withProgress fun _ => x) s = Claims.done r.s Strand.endProgress := by
  subst hx
  simp only [runInstr, withProgress, hv, Bool.false_eq_true, if_false]
  rfl

/-- The strand parks. -/
theorem runInstr_parks {x : EStateM.Result Stop Run Unit} {r : Run} {p : Park} (hx : x = .error (.park p) r) :
    runInstr i (withProgress fun _ => x) s =
      .next ((r.s.modMe fun t => { t with inst := some (wordOf i), log := t.log ++ r.new }).park s.cur p) := by
  subst hx
  rfl

/-- What the strand has had is of no account once it is complete. -/
theorem done_withLog (s : State) (l : List Ans) : Claims.done (s.withLog l) Strand.endProgress = Claims.done s Strand.endProgress := by
  rw [Claims.done, Claims.done, State.retire, State.retire, State.withLog, State.modMe_modMe, State.modMe_modMe, State.modMe_modMe]
  rfl

end

/-! Steps of its body. -/

/-- Where answers had are left, an element begins at once. -/
theorem gate_had {r : Run} (h : r.past ≠ []) : gate r = .ok () r := by
  have : (!r.past.isEmpty) = true := by simpa using h
  rw [gate, if_pos this]

/-- An element is complete: the answers had are not needed any more. -/
theorem checkpoint_run (w : Word) (fl : FlagSet) (r : Run) :
    ∃ new, checkpoint w fl r = .ok () { r with s := r.s.withLog [], new := new } := ⟨_, rfl⟩

@[simp] theorem rmOf_run (m : BitVec 3) (r : Run) : rmOf m r = .ok (r.s.me.rm m) r := rfl

/-- The bits of an owned element, whose place and value have been had. -/
theorem Takes.elementBits {s : State} {c : CochainReg} {n : Nat} (cell : Nat) (hn : n < c.count.toNat) (va : Word) (l : Loc) (m : Bool)
    (x : Word) : Takes s [.place va l .plain m, .val (x.setWidth 512) []] (elementBits c n cell) x s false := by
  have back : (x.setWidth 512).setWidth 64 = x := by simp
  rw [Machine.elementBits, if_pos hn]
  have value := (Takes.access (s := s) (BitVec.ofNat 64 (c.dbase.toNat + c.size * n)) l c.size (.load .plain false) false false
    (x.setWidth 512) []).map fun r => r.1.setWidth 64
  rw [back] at value
  exact (Takes.resolve .cochainRead _ c.size va l .plain m).seq value

/-! Pass 2 (R166). -/

section
variable {op : Nat} {w : Word} {c : CochainReg} (hp : progPass w = 1)
include hp

theorem passes_second (elem : Nat → M Elem) : passes op w c elem = pass2 op c elem (c.count.toNat - progNext w) (progNext w) := by
  rw [passes]
  exact if_neg (by omega)

/-- Behind the last element nothing is left to do. -/
theorem passes_behind (hn : progNext w = c.count.toNat) (elem : Nat → M Elem) (r : Run) : passes op w c elem r = .ok () r := by
  rw [passes_second hp, hn, Nat.sub_self]
  rfl

theorem rmOf_passes_behind (hn : progNext w = c.count.toNat) (rm : BitVec 3) (elem : Rm → Nat → M Elem) (r : Run) :
    (rmOf rm >>= fun m => passes op w c (elem m)) r = .ok () r := passes_behind hp hn (elem (r.s.me.rm rm)) r

end

/-! The ends of the cochain instructions behind their last element (R166, R178, R181 to R184). -/

/-- What the strand has had is of no account once it is changed and complete. -/
theorem done_modMe_withLog (s : State) (l : List Ans) {f h : Strand → Strand}
    (hf : (f (s.me.withLog l)).endProgress.advance = (h s.me).advance) :
    Claims.done ((s.withLog l).modMe f) Strand.endProgress = Claims.done s h := by
  simp only [Claims.done, State.retire, State.withLog, State.modMe_modMe]
  exact congrArg Host.Outcome.next (s.modMe_congr hf)

/-- A CI64 register's exponent set as the instruction ends (R178, R181). -/
theorem done_setExp (s : State) (l : List Ans) (c : BitVec 4) (e : BitVec 16) :
    Claims.done (if (s.me.getC c).isInt then (s.withLog l).modMe fun t => t.setC c { t.getC c with exp := e } else s.withLog l)
      Strand.endProgress =
    Claims.done s fun t => (if (s.me.getC c).isInt then t.setC c { s.me.getC c with exp := e } else t).endProgress := by
  cases (s.me.getC c).isInt with
  | true => exact done_modMe_withLog s l rfl
  | false => exact done_withLog s l

section
variable {i : Instr} {op : Nat} {rs : List (BitVec 4)} {types : List Byte → Bool} {range : List Byte → Nat} {s : State} {g : Prog}
  (hr : refusal i s = none) (hl : s.me.log = [.progress g]) (h : ∀ q ∈ rs, s.Steady q)
include hr hl h

/-- A cochain instruction without answers had is complete with what its body leaves. -/
theorem cochain_completes {body : Word → List Byte → M Unit} {t : State} {f : Strand → Strand}
    (hb : body g.start (s.slotAt (s.me.getC (rs.headD 0)).slot.toNat).desc (s.goingOn g.begin []) =
      .ok () { s.goingOn g.begin [] with s := t })
    (ht : Claims.done t Strand.endProgress = Claims.done s f) :
    cochain i op rs types range body s = Claims.done s f := by
  rw [cochain_goesOn hr hl (fun _ => List.not_mem_nil) h, runInstr_completes hb rfl, ht]

/-- One whose body does nothing any more. -/
theorem cochain_completes_idle {body : Word → List Byte → M Unit}
    (hb : body g.start (s.slotAt (s.me.getC (rs.headD 0)).slot.toNat).desc (s.goingOn g.begin []) = .ok () (s.goingOn g.begin [])) :
    cochain i op rs types range body s = Claims.done s Strand.endProgress :=
  cochain_completes hr hl h hb (done_withLog s _)

/-- One whose body only sets the exponent of a CI64 register any more. -/
theorem cochain_completes_setExp {body : Word → List Byte → M Unit} {c : BitVec 4} {e : BitVec 16}
    (hb : body g.start (s.slotAt (s.me.getC (rs.headD 0)).slot.toNat).desc (s.goingOn g.begin []) =
      (if (s.me.getC c).isInt = true then modT fun t => t.setC c { t.getC c with exp := e } else pure PUnit.unit)
        (s.goingOn g.begin [])) :
    cochain i op rs types range body s = Claims.done s fun t =>
      (if (s.me.getC c).isInt then t.setC c { s.me.getC c with exp := e } else t).endProgress := by
  refine cochain_completes hr hl h (hb.trans ?_) (done_setExp s [.progress g.begin] c e)
  cases (s.me.getC c).isInt <;> rfl

end

/-! Each instruction behind its last element. -/

section
variable {s : State} {g : Prog} (c a b : BitVec 4) (r : BitVec 3) (hl : s.me.log = [.progress g]) (hp : progPass g.start = 1)
  (hn : progNext g.start = (s.me.getC c).count.toNat)
include hl hp hn

theorem execCq_ends (hr : refusal (.cq c a r) s = none) (h : ∀ q ∈ [c, a], s.Steady q) :
    execCq c a r s = Claims.done s Strand.endProgress := by
  unfold execCq
  exact cochain_completes_idle hr hl h (rmOf_passes_behind hp hn r _ _)

theorem execCdq_ends (hr : refusal (.cdq c a r) s = none) (h : ∀ q ∈ [c, a], s.Steady q) :
    execCdq c a r s = Claims.done s Strand.endProgress := by
  unfold execCdq
  exact cochain_completes_idle hr hl h (rmOf_passes_behind hp hn r _ _)

theorem execHstar_ends (hr : refusal (.hstar c a r) s = none) (h : ∀ q ∈ [c, a], s.Steady q) :
    execHstar c a r s = Claims.done s Strand.endProgress := by
  unfold execHstar
  exact cochain_completes_idle hr hl h (rmOf_passes_behind hp hn r _ _)

theorem execInterp_ends (m : BitVec 2) (hr : refusal (.interp c a r m) s = none) (h : ∀ q ∈ [c, a], s.Steady q) :
    execInterp c a r m s = Claims.done s Strand.endProgress := by
  unfold execInterp
  exact cochain_completes_idle hr hl h (rmOf_passes_behind hp hn r _ _)

theorem execClin_ends (p q : BitVec 4) (hr : refusal (.clin c a b r p q) s = none) (h : ∀ q ∈ [c, a, b], s.Steady q) :
    execClin c a b r p q s = Claims.done s Strand.endProgress := by
  unfold execClin
  exact cochain_completes_idle hr hl h (rmOf_passes_behind hp hn r _ _)

theorem derivative_ends {i : Instr} (op : Nat) (up : Bool) (hr : refusal i s = none) (h : ∀ q ∈ [c, a], s.Steady q) :
    derivative i op up c a r s = Claims.done s fun t =>
      (if (s.me.getC c).isInt then t.setC c { s.me.getC c with exp := (s.me.getC a).exp } else t).endProgress := by
  unfold derivative
  refine cochain_completes_setExp hr hl h ?_
  rw [run_bind, rmOf_run]
  dsimp only
  rw [run_bind, passes_behind hp hn]

theorem execWedge_ends (sh : BitVec 7) (hr : refusal (.wedge c a b r sh) s = none) (h : ∀ q ∈ [c, a, b], s.Steady q) :
    execWedge c a b r sh s = Claims.done s fun t =>
      (if (s.me.getC c).isInt then t.setC c { s.me.getC c with
        exp := BitVec.ofInt 16 ((s.me.getC a).exp.toInt + (s.me.getC b).exp.toInt + sh.toNat) } else t).endProgress := by
  unfold execWedge
  refine cochain_completes_setExp hr hl h ?_
  rw [run_bind, rmOf_run]
  dsimp only
  have second : (progPass g.start == 0) = false := by rw [hp]; rfl
  rw [run_bind, run_require, second, Bool.and_false, Bool.false_and, Bool.not_false, if_pos rfl]
  dsimp only
  rw [run_bind, passes_behind hp hn]
  rfl

end

section
variable {s : State} {g : Prog} (c k : BitVec 4) (hl : s.me.log = [.progress g])
include hl

theorem execCseamRelease_ends (hn : progNext g.start = (s.me.getC c).gcount.toNat) (hr : refusal (.cseamRelease c) s = none)
    (h : ∀ q ∈ [c], s.Steady q) : execCseamRelease c s = Claims.done s Strand.endProgress := by
  unfold execCseamRelease
  refine cochain_completes_idle hr hl h ?_
  rw [hn, Nat.sub_self]
  rfl

theorem execCseamSend_ends
    (hn : progNext g.start = cxNseam (s.slotAt (s.me.getC c).slot.toNat).desc (if (s.me.getC c).dual then
      cxDim (s.slotAt (s.me.getC c).slot.toNat).desc - (s.me.getC c).deg.toNat else (s.me.getC c).deg.toNat))
    (hr : refusal (.cseamSend c k) s = none) (h : ∀ q ∈ [c], s.Steady q) :
    execCseamSend c k s = Claims.done s Strand.endProgress := by
  unfold execCseamSend
  refine cochain_completes_idle hr hl h ?_
  rw [List.headD_cons, ← hn, Nat.sub_self]
  rfl

/-- CSEAM LAND sets its landing register and tests the core's waits again (R183). -/
theorem execCseamLand_completes (h : ∀ q ∈ [c], s.Steady q) : execCseamLand c k s =
    Claims.done (((s.withLog [.progress g.begin]).modCore s.here fun q =>
      { q with landing := q.landing.setIfInBounds k.toNat { valid := true, err := false, reg := s.me.getC c } }).recheckCore s.here)
      Strand.endProgress := by
  unfold execCseamLand
  rw [cochain_goesOn (refusal_none s rfl rfl rfl rfl) hl (fun _ => List.not_mem_nil) h]
  exact runInstr_completes rfl rfl

end

/-! Waits tested again (R280): strands, and what is withdrawn of a core's accesses, may change; nothing else does. -/

/-- What neither a change of a strand nor accesses withdrawn can change, waits tested again do not. -/
theorem State.recheckCore_keeps {α : Type} (f : State → α) (hs : ∀ (s : State) n k, f (s.modStrand n k) = f s)
    (hw : ∀ (s : State) n, f (s.withdraw n) = f s) (s : State) (c : Nat) : f (s.recheckCore c) = f s := by
  refine foldl_keeps f (fun t k => ?_) _ s
  unfold State.recheck
  split
  · split
    · unfold State.trapWait State.answer State.wake
      exact (hs _ _ _).trans ((hs _ _ _).trans (hw _ _))
    · rfl
  · rfl

@[simp] theorem State.recheckCore_mem (s : State) (c : Nat) : (s.recheckCore c).mem = s.mem :=
  State.recheckCore_keeps State.mem (fun _ _ _ => rfl) (fun _ _ => rfl) s c

@[simp] theorem State.recheckCore_landing (s : State) (c n : Nat) : ((s.recheckCore c).core n).landing = (s.core n).landing := by
  refine State.recheckCore_keeps (fun t => (t.core n).landing) (fun _ _ _ => rfl) (fun t h => ?_) s c
  unfold State.withdraw
  dsimp only
  by_cases e : coreOf h = n
  · rw [e, State.core_modCore_same]; rfl
  · rw [State.core_modCore_ne _ _ e]; rfl

/-- What CSEAM LAND leaves (R183). -/
theorem landed_spec (s : State) (l : List Ans) (k : BitVec 4) (x : Landing) :
    ∃ t, Claims.done (((s.withLog l).modCore s.here fun q => { q with landing := q.landing.setIfInBounds k.toNat x }).recheckCore s.here)
        Strand.endProgress = .next t ∧ t.me.ciprog = 0#64 ∧ t.mem = s.mem ∧
      (t.core s.here).landing.toList.getD k.toNat Landing.reset = x := by
  refine ⟨_, rfl, ?_, ?_, ?_⟩
  · rw [State.me_retire, State.me_modMe, Strand.advance_ciprog]
    rfl
  · rw [State.retire_mem, State.modMe_mem, State.recheckCore_mem]
    rfl
  · have core (t : State) (f : Strand → Strand) : ((t.modMe f).retire.core s.here).landing = (t.core s.here).landing := rfl
    rw [core, State.recheckCore_landing, State.core_modCore_same]
    have hk : k.toNat < 16 := k.isLt
    simp [hk]

end Sys2Proof.Machine

/-! SUPPORT. Integers as exact numbers (R68, R78): their products, sums and roundings are exact. -/

namespace Sys2Proof.Machine

/-- The number stands for an integer, in units of 2^0; a zero may have either sign. -/
inductive Num.Whole : Num → Int → Prop
  | zero (neg : Bool) : Num.Whole (.zero neg) 0
  | fin (n : Int) (hn : n ≠ 0) : Num.Whole (.fin (decide (n < 0)) n.natAbs 0) n

theorem numOfInt_whole (n : Int) : (numOfInt n 0).Whole n := by
  unfold numOfInt
  split
  · next h => rw [h]; exact .zero false
  · next h => exact .fin n h

namespace Num.Whole

variable {a b : Num} {m n : Int}

/-- The magnitude with its sign is the integer. -/
theorem signed_natAbs (n : Int) : (if decide (n < 0) then -(n.natAbs : Int) else n.natAbs) = n := by
  simp only [decide_eq_true_eq]; split <;> omega

theorem isNan (h : a.Whole n) : a.isNan = false := by cases h <;> rfl

theorem toInt (h : a.Whole n) : a.toInt = n := by
  cases h with
  | zero => rfl
  | fin _ hn => simp only [Num.toInt, Int.toNat_zero, pow_zero, mul_one, decide_eq_true_eq]; split <;> omega

/-- The product of integers is exact (R68). -/
theorem mul (ha : a.Whole m) (hb : b.Whole n) : (mulExact a b).1 = false ∧ (mulExact a b).2.Whole (m * n) := by
  cases ha with
  | zero =>
    cases hb with
    | zero => exact ⟨rfl, .zero _⟩
    | fin => rw [zero_mul]; exact ⟨rfl, .zero _⟩
  | fin _ hm =>
    cases hb with
    | zero => rw [mul_zero]; exact ⟨rfl, .zero _⟩
    | fin _ hn =>
      refine ⟨rfl, ?_⟩
      have sign : (decide (m < 0) != decide (n < 0)) = decide (m * n < 0) := by
        rcases lt_or_gt_of_ne hm with h | h <;> rcases lt_or_gt_of_ne hn with k | k
        · simp [h, k, (mul_pos_of_neg_of_neg h k).not_gt]
        · simp [h, k.not_gt, mul_neg_of_neg_of_pos h k]
        · simp [h.not_gt, k, mul_neg_of_pos_of_neg h k]
        · simp [h.not_gt, k.not_gt, (mul_pos h k).not_gt]
      show (Num.fin (decide (m < 0) != decide (n < 0)) (m.natAbs * n.natAbs) (0 + 0)).Whole (m * n)
      rw [sign, ← Int.natAbs_mul]
      exact .fin _ (mul_ne_zero hm hn)

/-- On the grid 2^0 an integer needs no rounding (R78). -/
theorem onGrid (rm : Rm) (h : a.Whole n) : numOnGrid rm 0 a = some (n, false) := by
  cases h with
  | zero => rfl
  | fin _ hn =>
    have exact0 : roundAt rm (decide (n < 0)) n.natAbs 0 false 0 = (n.natAbs, false) := by simp [roundAt, Nat.mod_one]
    simp only [numOnGrid, max_self, exact0, sub_self, Int.toNat_zero, pow_zero, mul_one, signed_natAbs]

/-- A number on the grid 2^0 is what it adds there, and no infinity; one that is not zero has the exponent 0. -/
theorem sumOnGrid_cons (h : a.Whole n) (ts : List Num) : sumOnGrid 0 (a :: ts) = n + sumOnGrid 0 ts := by
  cases h with
  | zero => rw [zero_add]; rfl
  | fin _ hn => simp only [sumOnGrid, sub_self, Int.toNat_zero, pow_zero, mul_one, signed_natAbs]

theorem ne_inf (h : a.Whole n) (neg : Bool) : Num.inf neg ≠ a := by cases h <;> exact Num.noConfusion

/-- Two integers have the grid 2^0 in common, unless both are zero. -/
theorem leastExp_pair (ha : a.Whole m) (hb : b.Whole n) : leastExp 16384 [a, b] = if m = 0 ∧ n = 0 then 16384 else 0 := by
  cases ha with
  | zero =>
    cases hb with
    | zero => rfl
    | fin _ hn => simp [leastExp, hn]
  | fin _ hm => cases hb <;> simp [leastExp, hm]

/-- On any grid the sum of two zeros is zero. -/
theorem sumOnGrid_pair (ha : a.Whole m) (hb : b.Whole n) : sumOnGrid (leastExp 16384 [a, b]) [a, b] = m + n := by
  rw [leastExp_pair ha hb]
  split
  · next h =>
    obtain ⟨rfl, rfl⟩ := h
    cases ha with
    | zero => cases hb with
      | zero => rfl
      | fin _ hn => exact absurd rfl hn
    | fin _ hm => exact absurd rfl hm
  · rw [sumOnGrid_cons ha, sumOnGrid_cons hb, sumOnGrid, add_zero]

/-- The sum of two integers is exact (R68, R69). -/
theorem add (rm : Rm) (ha : a.Whole m) (hb : b.Whole n) :
    (sumExact rm [a, b]).1 = false ∧ (sumExact rm [a, b]).2.Whole (m + n) := by
  have nan : [a, b].any Num.isNan = false := by simp [ha.isNan, hb.isNan]
  have inf (neg : Bool) : [a, b].contains (.inf neg) = false := by simp [ha.ne_inf, hb.ne_inf]
  simp only [sumExact, nan, inf, Bool.false_eq_true, if_false, Bool.and_self, sumOnGrid_pair ha hb]
  split
  · next h =>
    rw [h]
    split
    · exact ⟨rfl, .zero _⟩
    · split <;> exact ⟨rfl, .zero _⟩
  · next h =>
    have grid : leastExp 16384 [a, b] = 0 := by rw [leastExp_pair ha hb, if_neg (by omega)]
    rw [grid]
    exact ⟨rfl, .fin _ h⟩

end Num.Whole

end Sys2Proof.Machine

/-! SUPPORT. CRED, and the last element of pass 2 in CQ, CDQ and CLIN (R166 to R168, R177, R182, R185). -/

namespace Sys2Proof.Machine

/-! CRED of CI64 elements whose values have been had (R185). -/

/-- What a strand has had of elements: their places and their values. -/
def elementsHad (va : Word) (pl : Loc) (vs : List Word) : List Ans :=
  vs.flatMap fun v => [.place va pl .plain false, .val (v.setWidth 512) []]

theorem elementsHad_cons (va : Word) (pl : Loc) (v : Word) (vs : List Word) : elementsHad va pl (v :: vs) =
    [.place va pl .plain false, .val (v.setWidth 512) []] ++ elementsHad va pl vs := List.flatMap_cons

/-- A word kept as CIPROG changes nothing but the log's head. -/
theorem mark_run {r : Run} {g : Prog} {l : List Ans} (w : Word) (h : r.s.me.log = .progress g :: l) :
    mark w r = .ok () { r with s := r.s.withLog (.progress { g with now := w } :: l) } :=
  congrArg (EStateM.Result.ok ()) (modProg_log _ h)

@[simp] theorem State.withLog_withLog (s : State) (l k : List Ans) : (s.withLog l).withLog k = s.withLog k := by
  simp only [State.withLog, State.modMe_modMe]
  rfl

/-- The value of a CI64 element, in units of 2^EXP. -/
theorem Takes.valUnits {s : State} {c : CochainReg} {n : Nat} (hint : c.isInt = true) (hn : n < c.count.toNat) (va : Word) (l : Loc)
    (m : Bool) (x : Word) :
    Takes s [.place va l .plain m, .val (x.setWidth 512) []] (valUnits c n n) (numOfInt x.toInt 0) s false := by
  have value := (Takes.elementBits (s := s) n hn va l m x).map (elementNum c false)
  have number : elementNum c false x = numOfInt x.toInt 0 := by rw [elementNum, if_pos hint]; rfl
  rwa [number] at value

/-- Elements without weights, their values had, are those integers. -/
theorem weighted_had {c : CochainReg} (hint : c.isInt = true) (s : State) (va : Word) (pl : Loc) (l : List Ans) :
    ∀ (vs : List Word) (i : Nat) (g : Prog), i + vs.length ≤ c.count.toNat →
      ∃ ts g', weighted c none vs.length i ⟨s.withLog (.progress g :: l), elementsHad va pl vs, [], false⟩ =
        .ok ts ⟨s.withLog (.progress g' :: l), [], [], false⟩ ∧
        ts.map (fun p => p.2.toInt) = vs.map BitVec.toInt := by
  intro vs
  induction vs with
  | nil => exact fun _ g _ => ⟨[], g, rfl, rfl⟩
  | cons v vs ih =>
    intro i g hi
    rw [List.length_cons] at hi
    obtain ⟨ts, g', rest, ints⟩ := ih (i + 1) { g with now := progWord 0x7A 0 0 i } (by omega)
    obtain ⟨-, one⟩ := (numOfInt_whole 1).mul (numOfInt_whole v.toInt)
    have value := Takes.valUnits (s := s.withLog (.progress { g with now := progWord 0x7A 0 0 i } :: l)) hint (n := i) (by omega)
      va pl false v (elementsHad va pl vs) [] false
    refine ⟨((mulExact (numOfInt 1 0) (numOfInt v.toInt 0)).1 || (numOfInt v.toInt 0).isNan, _) :: ts, g', ?_,
      congrArg₂ List.cons (one.toInt.trans (one_mul _)) ints⟩
    rw [List.length_cons, weighted, run_bind, gate_had (List.cons_ne_nil _ _)]
    dsimp only
    rw [run_bind, mark_run (g := g) (l := l) _ (by rw [State.withLog_me]; rfl), State.withLog_withLog]
    dsimp only
    rw [run_bind, run_pure]
    dsimp only
    rw [elementsHad_cons, run_bind, value, Bool.or_false]
    dsimp only
    rw [run_bind, rest]
    rfl

/-- CRED of CI64 elements whose values have been had: their sum (R185). -/
theorem execCred_had {s : State} {g : Prog} (c : BitVec 4) (d : BitVec 5) (r : BitVec 3) (vs : List Word) (va : Word) (pl : Loc)
    (hr : refusal (.cred c 0#5 d r 0#1) s = none) (hint : (s.me.getC c).isInt = true) (hlen : vs.length = (s.me.getC c).count.toNat)
    (hl : s.me.log = .progress g :: elementsHad va pl vs) (h : ∀ q ∈ [c], s.Steady q)
    (hsum : inCI64 (vs.map BitVec.toInt).sum = true) :
    execCred c 0#5 d r 0#1 s = Claims.done s fun t => (t.setX d (BitVec.ofInt 64 (vs.map BitVec.toInt).sum)).endProgress := by
  have ht : ∀ t, Ans.trap t ∉ elementsHad va pl vs := by simp [elementsHad]
  obtain ⟨ts, g', had, ints⟩ := weighted_had hint s va pl (elementsHad va pl vs) vs 0 g.begin (by omega)
  unfold execCred
  rw [cochain_goesOn hr hl ht h]
  refine (runInstr_completes (r := ⟨(s.withLog (.progress g' :: elementsHad va pl vs)).modMe
    (·.setX d (BitVec.ofInt 64 (vs.map BitVec.toInt).sum)), [], [], false⟩) ?_ rfl).trans
    (done_modMe_withLog s _ (by simp))
  rw [run_bind, rmOf_run]
  dsimp only
  rw [run_bind, run_getMe]
  dsimp only
  rw [if_neg (by decide), ← hlen, run_bind, State.goingOn, had]
  dsimp only
  rw [if_pos hint, ints, run_bind, run_require, hsum, if_pos rfl]
  rfl

/-! The last element of pass 2, its operands and its place had (R166, R167). -/

/-- The store of an element, by the strand whose turn it is. -/
def State.elementStore (s : State) (c : CochainReg) (n : Nat) (l : Loc) (w : Word) : Access :=
  Claims.accessOf s true (c.elemAddr n) l c.size (.store (bytesOfNat c.size w.toNat) none false)

/-- What is left of an element once its result is known: its store, and the checkpoint behind it. -/
def storeElement (op : Nat) (c : CochainReg) (n : Nat) (l : Loc) (w : Word) : M Unit := do
  cochainStore (c.elemAddr n) l (.store (bytesOfNat c.size w.toNat) none false) c.size
  checkpoint (progWord op 1 0 (n + 1))

/-- The last element of pass 2, where the answers had give its result and its place. -/
theorem pass2_last {s : State} {c : CochainReg} {n : Nat} {elem : Nat → M Elem} {as : List Ans} {v : Word × FlagSet} (op : Nat)
    (he : Takes s as (elem n) (some v) s false) (vd : Word) (l : Loc) (m : Bool) (rest new : List Ans) (leaves : Bool) :
    pass2 op c elem 1 n ⟨s, as ++ [.place vd l .plain m] ++ rest, new, leaves⟩ =
      storeElement op c n l v.1 ⟨s, rest, new, leaves⟩ := by
  have placed := Takes.resolve (s := s) .cochainWrite (c.elemAddr n) c.size vd l .plain m rest new leaves
  have result := he ([.place vd l .plain m] ++ rest) new leaves
  rw [Bool.or_false] at placed result
  rw [pass2, run_bind, gate_had (by simp)]
  dsimp only
  rw [List.append_assoc, run_bind, result]
  dsimp only
  rw [run_bind, pass2Word, run_pure]
  dsimp only
  rw [run_bind, writeElem, run_bind, placed, storeElement, run_bind]
  dsimp only
  cases cochainStore (c.elemAddr n) l (.store (bytesOfNat c.size v.1.toNat) none false) c.size ⟨s, rest, new, leaves⟩ <;> rfl

/-! Its store elsewhere parks the strand (R167, R219; log 61). -/

section
variable (s : State) (c : Nat) (h : Home → Bool)

theorem State.movePosted_keeps {α : Type} (f : State → α) (hf : ∀ (s : State) k, f (s.modCore c k) = f s) :
    f (s.movePosted c h) = f s :=
  (foldl_keeps f (fun t _ => hf t _) _ _).trans (hf s _)

@[simp] theorem State.movePosted_cur : (s.movePosted c h).cur = s.cur := State.movePosted_keeps s c h State.cur fun _ _ => rfl
@[simp] theorem State.movePosted_me : (s.movePosted c h).me = s.me := State.movePosted_keeps s c h State.me fun _ _ => rfl
@[simp] theorem State.movePosted_mem : (s.movePosted c h).mem = s.mem := State.movePosted_keeps s c h State.mem fun _ _ => rfl

end

theorem State.giveUp_path (s : State) (c n : Nat) : ((s.giveUp c).core n).path = (s.core n).path := by
  have same (f : Core → Core) (hf : ∀ k, (f k).path = k.path) : ((s.modCore c f).core n).path = (s.core n).path := by
    by_cases e : c = n
    · rw [e, State.core_modCore_same, hf]
    · rw [State.core_modCore_ne _ _ e]
  unfold State.giveUp State.choose
  split <;> exact same _ fun _ => rfl

theorem State.me_park (s : State) (p : Park) : (s.park s.cur p).me = { s.me with status := .parked p } := by
  rw [State.park, State.giveUp_me]
  exact State.me_modMe s _

/-- What a strand leaves that has sent an access and parks: the access is the last of its core's path queue. -/
theorem sent_spec (s : State) (a : Access) (f : Strand → Strand) :
    let t := (((s.movePosted s.here (· == a.loc.home)).enterPath s.here .core a).modMe f).park s.cur .answer
    t.me.status = .parked .answer ∧ t.me.pc = (f s.me).pc ∧ t.mem = s.mem ∧
      ((t.core s.here).path.getLast?).map PathEntry.acc = some a := by
  intro t
  have cur : (((s.movePosted s.here (· == a.loc.home)).enterPath s.here .core a).modMe f).cur = s.cur := State.movePosted_cur s _ _
  have me : t.me = { f s.me with status := .parked .answer } := by
    have sent : ((s.movePosted s.here (· == a.loc.home)).enterPath s.here .core a).me = s.me := State.movePosted_me s _ _
    have park := State.me_park (((s.movePosted s.here (· == a.loc.home)).enterPath s.here .core a).modMe f) .answer
    rwa [cur, State.me_modMe, sent] at park
  refine ⟨by rw [me], by rw [me], ?_, ?_⟩
  · show (State.giveUp _ _).mem = _
    rw [State.giveUp_mem]
    exact State.movePosted_mem s _ _
  · show (((State.giveUp _ _).core s.here).path.getLast?).map PathEntry.acc = _
    rw [State.giveUp_path]
    show (((((s.movePosted s.here _).enterPath s.here .core a).core s.here).path.getLast?).map PathEntry.acc) = _
    rw [State.enterPath, State.core_modCore_same]
    simp

/-! The store of an element, as it is sent, answered, or performed at once (R167, R219; log 61). -/

@[simp] theorem State.movePosted_here (s : State) (c : Nat) (h : Home → Bool) : (s.movePosted c h).here = s.here :=
  State.movePosted_keeps s c h State.here fun _ _ => rfl

/-- An access of a strand is sent behind the posted stores that are bound for its home (R220). -/
theorem sendAct_accessOf (s : State) (answers : Bool) (va : Word) (l : Loc) (n : Nat) (k : AccKind) :
    sendAct (Claims.accessOf s answers va l n k) false s = .park .answer
      ((s.movePosted s.here (· == l.home)).enterPath s.here .core (Claims.accessOf s answers va l n k)) := by
  rw [sendAct, State.movePosted_here]
  rfl

section
variable {s t : State} {op n : Nat} {c : CochainReg} {l : Loc} {w : Word}

theorem access_sent {va : Word} {bs : List Byte} {new : List Ans} {leaves : Bool} (hl : l.home ≠ .unit s.here) :
    access va l n (.store bs none false) false false ⟨s, [], new, leaves⟩ = .error (.park .answer)
      ⟨(s.movePosted s.here (· == l.home)).enterPath s.here .core (Claims.accessOf s true va l n (.store bs none false)),
        [], new, leaves⟩ := by
  have own : (l.home == .unit s.here) = false := by simpa using hl
  have sent : sendAct { s.accessOf true va l n (.store bs none false) with sure := false } false s = _ :=
    sendAct_accessOf s true va l n (.store bs none false)
  dsimp only at sent
  rw [access, run_bind, run_getS]
  dsimp only
  rw [own, run_bind, act_now _ rfl, Bool.false_and, Bool.false_and, if_neg Bool.false_ne_true, sent]

theorem access_performed {va : Word} {bs : List Byte} {new : List Ans} {leaves : Bool} {z : Vec} (hl : l.home = .unit s.here)
    (h : s.perform s.here (Claims.accessOf s true va l n (.store bs none false)) = .done t z) :
    access va l n (.store bs none false) false false ⟨s, [], new, leaves⟩ = .ok (z, []) ⟨t, [], new ++ [.val z []], leaves⟩ := by
  have own : (l.home == .unit s.here) = true := by simpa using hl
  have now : s.performNow s.here { s.accessOf true va l n (.store bs none false) with sure := false } = .ok (.val z []) t := by
    show s.performNow s.here (Claims.accessOf s true va l n (.store bs none false)) = _
    rw [State.performNow, h]
  dsimp only at now
  rw [access, run_bind, run_getS]
  dsimp only
  rw [own, run_bind, act_now _ rfl, Bool.not_false, Bool.and_true, Bool.and_true, if_pos rfl, now]
  rfl

theorem storeElement_sent (hl : l.home ≠ .unit s.here) : storeElement op c n l w ⟨s, [], [], false⟩ =
    .error (.park .answer) ⟨(s.movePosted s.here (· == l.home)).enterPath s.here .core (s.elementStore c n l w), [], [], false⟩ := by
  rw [storeElement, run_bind, cochainStore, run_bind, access_sent hl]
  rfl

theorem storeElement_answered (z : Vec) (h : List Hop) :
    ∃ new, storeElement op c n l w ⟨s, [.val z h], [], false⟩ = .ok () ⟨s.withLog [], [], new, false⟩ := ⟨_, rfl⟩

theorem storeElement_performed {z : Vec} (hl : l.home = .unit s.here) (h : s.perform s.here (s.elementStore c n l w) = .done t z) :
    ∃ new, storeElement op c n l w ⟨s, [], [], false⟩ = .ok () ⟨t.withLog [], [], new, false⟩ := by
  obtain ⟨new, hnew⟩ := checkpoint_run (progWord op 1 0 (n + 1)) 0#5 ⟨t, [], [.val z []], false⟩
  refine ⟨new, ?_⟩
  rw [storeElement, run_bind, cochainStore, run_bind, access_performed hl h]
  exact hnew

end

/-! A cochain instruction that comes to its last element in pass 2 (R166, R167; log 61). -/

/-- How such an instruction ends whose answers had are `had` but for the store's: the store of element n, in the own unit scratch
performed at once, elsewhere sent, the strand parked for its answer. -/
def StoresLast (s : State) (i : Instr) (c : CochainReg) (n : Nat) (l : Loc) (had : List Ans) (w : Word) : Prop :=
  (s.me.log = had → l.home ≠ .unit s.here → ∃ t, exec i s = .next t ∧ t.me.status = .parked .answer ∧ t.me.pc = s.me.pc ∧
    t.mem = s.mem ∧ ((t.core s.here).path.getLast?).map PathEntry.acc = some (s.elementStore c n l w)) ∧
  (∀ z h, s.me.log = had ++ [.val z h] → l.home ≠ .unit s.here → exec i s = Claims.done s Strand.endProgress) ∧
  (∀ t z, s.me.log = had → l.home = .unit s.here → s.perform s.here (s.elementStore c n l w) = .done t z →
    exec i s = Claims.done t Strand.endProgress)

theorem cochain_storesLast {i : Instr} {op : Nat} {rs : List (BitVec 4)} {types : List Byte → Bool} {range : List Byte → Nat}
    {body : Word → List Byte → M Unit} {s : State} {g : Prog} {had : List Ans} {o n : Nat} {c : CochainReg} {l : Loc} {w : Word}
    (hi : exec i s = cochain i op rs types range body s) (hr : refusal i s = none) (h : ∀ q ∈ rs, s.Steady q)
    (ht : ∀ t, .trap t ∉ had)
    (hb : ∀ rest, body g.start (s.slotAt (s.me.getC (rs.headD 0)).slot.toNat).desc (s.goingOn g.begin (had ++ rest)) =
      storeElement o c n l w ⟨s.withLog (.progress g.begin :: (had ++ rest)), rest, [], false⟩) :
    StoresLast s i c n l (.progress g :: had) w := by
  refine ⟨fun hl hown => ?_, fun z hops hl _ => ?_, fun t z hl hown hp => ?_⟩
  · have hb := hb []
    rw [List.append_nil] at hb
    obtain ⟨status, pc, mem, path⟩ := sent_spec (s.withLog (.progress g.begin :: had)) (s.elementStore c n l w)
      fun t => { t with inst := some (wordOf i), log := t.log ++ [] }
    rw [State.withLog_me] at pc
    exact ⟨_, hi.trans ((cochain_goesOn hr hl ht h).trans (runInstr_parks (hb.trans (storeElement_sent hown)))), status, pc, mem, path⟩
  · have ht' : ∀ t, .trap t ∉ had ++ [.val z hops] := by simpa using ht
    obtain ⟨new, hx⟩ := storeElement_answered (s := s.withLog (.progress g.begin :: (had ++ [.val z hops]))) (op := o) (n := n)
      (c := c) (l := l) (w := w) z hops
    have ends := done_withLog (s.withLog (.progress g.begin :: (had ++ [.val z hops]))) []
    exact hi.trans ((cochain_goesOn hr hl ht' h).trans ((runInstr_completes ((hb _).trans hx) rfl).trans
      (ends.trans (done_withLog s _))))
  · have hb := hb []
    rw [List.append_nil] at hb
    obtain ⟨new, hx⟩ := storeElement_performed (s := s.withLog (.progress g.begin :: had)) (op := o) hown
      (State.perform_store_withLog _ rfl hp)
    have ends := done_withLog (t.withLog (.progress g.begin :: had)) []
    exact hi.trans ((cochain_goesOn hr hl ht h).trans ((runInstr_completes (hb.trans hx) rfl).trans (ends.trans (done_withLog t _))))

/-! The last element of CQ, CDQ and CLIN (R168, R177, R182). -/

/-- The value of an element: `val` of R168. -/
theorem Takes.val {s : State} {c : CochainReg} {n : Nat} (hn : n < c.count.toNat) (va : Word) (l : Loc) (m : Bool) (x : Word) :
    Takes s [.place va l .plain m, .val (x.setWidth 512) []] (val c n n) (elementNum c true x) s false :=
  (Takes.elementBits n hn va l m x).map _

theorem elementNum_int {c : CochainReg} (h : c.isInt = true) (scaled : Bool) (x : Word) :
    elementNum c scaled x = numOfInt x.toInt (if scaled then c.expo else 0) := if_pos h

theorem elementNum_flt {c : CochainReg} (h : c.isInt = false) (scaled : Bool) (x : Word) : elementNum c scaled x = unpack c.flt x := by
  rw [elementNum, h, if_neg Bool.false_ne_true]

theorem putNum_int {c : CochainReg} (h : c.isInt = true) (rm : Rm) (x : Bool × Num) : putNum c rm x = qround rm c.expo x.2 := if_pos h

/-- An exact value that is not invalid is delivered as it is (R70). -/
theorem putNum_flt {c : CochainReg} (h : c.isInt = false) (rm : Rm) (x : Num) : putNum c rm (false, x) = some (deliver rm c.flt x) := by
  rw [putNum, h, if_neg Bool.false_ne_true, deliverMarked]
  simp [flagIf]

/-- An integer is rounded to itself. -/
theorem Num.Whole.qround {x : Num} {n : Int} (h : x.Whole n) (rm : Rm) : qround rm 0 x = ci64 n 0#5 := by
  rw [Machine.qround, h.onGrid]
  rfl

/-- What CLIN makes of two values (R182). -/
def linearElem (c : CochainReg) (rm : Rm) (p q : BitVec 4) (u v : Num) : Elem :=
  let m := mulExact (numOfInt p.toInt 0) u
  let n := mulExact (numOfInt q.toInt 0) v
  let z := sumExact rm [m.2, n.2]
  putNum c rm (m.1 || n.1 || z.1, z.2)

/-- Of integers in units of 1 it is their linear combination. -/
theorem linearElem_whole {c : CochainReg} (hint : c.isInt = true) (hexp : c.expo = 0) (rm : Rm) (p q : BitVec 4) {u v : Num} {m n : Int}
    (hu : u.Whole m) (hv : v.Whole n) : linearElem c rm p q u v = ci64 (p.toInt * m + q.toInt * n) 0#5 := by
  obtain ⟨-, pm⟩ := (numOfInt_whole p.toInt).mul hu
  obtain ⟨-, qn⟩ := (numOfInt_whole q.toInt).mul hv
  obtain ⟨-, sum⟩ := pm.add rm qn
  rw [linearElem, putNum_int hint, hexp]
  exact sum.qround rm

theorem CochainReg.expo_zero {c : CochainReg} (h : c.exp = 0#16) : c.expo = 0 := by rw [CochainReg.expo, h]; rfl

section
variable {s : State} {g : Prog} {c : CochainReg} (hp : progPass g.start = 1) (hn : progNext g.start + 1 = c.count.toNat)
include hp hn

/-- A cochain instruction with the two passes that is at its last element in pass 2, the answers for its result and its place had. -/
theorem passes_storesLast {i : Instr} {op o : Nat} {rs : List (BitVec 4)} {types : List Byte → Bool} {range : List Byte → Nat}
    {r : BitVec 3} {elem : Rm → Nat → M Elem} {as : List Ans} {v : Word × FlagSet} (vd : Word) (l : Loc) (m : Bool)
    (hi : exec i s = cochain i op rs types range (fun w _ => rmOf r >>= fun m => passes o w c (elem m)) s)
    (hr : refusal i s = none) (h : ∀ q ∈ rs, s.Steady q) (ht : ∀ t, .trap t ∉ as)
    (he : ∀ t, Takes t as (elem (s.me.rm r) (c.count.toNat - 1)) (some v) t false) :
    StoresLast s i c (c.count.toNat - 1) l (.progress g :: as ++ [.place vd l .plain m]) v.1 := by
  refine cochain_storesLast (o := o) hi hr h (by simpa using ht) fun rest => ?_
  have rm (k : List Ans) : (s.withLog k).me.rm r = s.me.rm r := by rw [State.withLog_me]; rfl
  have one : c.count.toNat - progNext g.start = 1 := by omega
  have last : progNext g.start = c.count.toNat - 1 := by omega
  rw [run_bind, rmOf_run]
  dsimp only
  rw [passes_second hp, one, last, State.goingOn, rm]
  exact pass2_last o (he _) vd l m rest [] false

end

section
variable {s : State} {g : Prog} (c a b : BitVec 4) (r : BitVec 3) (x y : Word) (va vb vd : Word) (l l2 l3 : Loc) (m m2 : Bool)
  (hp : progPass g.start = 1) (hn : progNext g.start + 1 = (s.me.getC c).count.toNat)
  (ha : (s.me.getC c).count.toNat ≤ (s.me.getC a).count.toNat)
include hp hn ha

/-- CQ (R177): the value rounded to the grid of the destination. -/
theorem execCq_storesLast {v : Word × FlagSet} (hr : refusal (.cq c a r) s = none) (h : ∀ q ∈ [c, a], s.Steady q)
    (hflt : (s.me.getC a).isInt = false) (hv : qround (s.me.rm r) (s.me.getC c).expo (unpack (s.me.getC a).flt x) = some v) :
    StoresLast s (.cq c a r) (s.me.getC c) ((s.me.getC c).count.toNat - 1) l3
      (.progress g :: [.place va l .plain m, .val (x.setWidth 512) []] ++ [.place vd l3 .plain m2]) v.1 := by
  refine passes_storesLast hp hn vd l3 m2 (show exec (.cq c a r) s = execCq c a r s from rfl) hr h (by simp) fun t => ?_
  have element := (Takes.val (s := t) (c := s.me.getC a) (n := (s.me.getC c).count.toNat - 1) (by omega) va l m x).map
    (qround (s.me.rm r) (s.me.getC c).expo)
  rwa [elementNum_flt hflt, hv] at element

/-- CDQ (R177): the scaled integer rounded to the destination's format. -/
theorem execCdq_storesLast (hr : refusal (.cdq c a r) s = none) (h : ∀ q ∈ [c, a], s.Steady q)
    (hint : (s.me.getC a).isInt = true) (hflt : (s.me.getC c).isInt = false) :
    StoresLast s (.cdq c a r) (s.me.getC c) ((s.me.getC c).count.toNat - 1) l3
      (.progress g :: [.place va l .plain m, .val (x.setWidth 512) []] ++ [.place vd l3 .plain m2])
      (deliver (s.me.rm r) (s.me.getC c).flt (numOfInt x.toInt (s.me.getC a).expo)).1 := by
  refine passes_storesLast hp hn vd l3 m2 (show exec (.cdq c a r) s = execCdq c a r s from rfl) hr h (by simp) fun t => ?_
  have element := (Takes.val (s := t) (c := s.me.getC a) (n := (s.me.getC c).count.toNat - 1) (by omega) va l m x).map
    fun k => putNum (s.me.getC c) (s.me.rm r) (false, k)
  rwa [elementNum_int hint, putNum_flt hflt] at element

/-- CLIN (R182) of integers in units of 1: their linear combination. -/
theorem execClin_storesLast (p q : BitVec 4) {v : Word × FlagSet} (hb : (s.me.getC c).count.toNat ≤ (s.me.getC b).count.toNat)
    (hr : refusal (.clin c a b r p q) s = none) (h : ∀ q ∈ [c, a, b], s.Steady q) (ic : (s.me.getC c).isInt = true)
    (ia : (s.me.getC a).isInt = true) (ib : (s.me.getC b).isInt = true) (ea : (s.me.getC a).exp = 0#16) (eb : (s.me.getC b).exp = 0#16)
    (ec : (s.me.getC c).exp = 0#16) (hv : ci64 (p.toInt * x.toInt + q.toInt * y.toInt) 0#5 = some v) :
    StoresLast s (.clin c a b r p q) (s.me.getC c) ((s.me.getC c).count.toNat - 1) l3
      (.progress g :: ([.place va l .plain m, .val (x.setWidth 512) []] ++ [.place vb l2 .plain m, .val (y.setWidth 512) []]) ++
        [.place vd l3 .plain m2]) v.1 := by
  refine passes_storesLast hp hn vd l3 m2 (show exec (.clin c a b r p q) s = execClin c a b r p q s from rfl) hr h (by simp) fun t => ?_
  have first := Takes.val (s := t) (c := s.me.getC a) (n := (s.me.getC c).count.toNat - 1) (by omega) va l m x
  have second := Takes.val (s := t) (c := s.me.getC b) (n := (s.me.getC c).count.toNat - 1) (by omega) vb l2 m y
  rw [elementNum_int ia, if_pos rfl, CochainReg.expo_zero ea] at first
  rw [elementNum_int ib, if_pos rfl, CochainReg.expo_zero eb] at second
  have result := linearElem_whole ic (CochainReg.expo_zero ec) (s.me.rm r) p q (numOfInt_whole x.toInt) (numOfInt_whole y.toInt)
  rw [← hv, ← result]
  exact first.seq (k := fun u => val (s.me.getC b) _ _ >>= fun v => pure (linearElem (s.me.getC c) (s.me.rm r) p q u v))
    (second.map (linearElem (s.me.getC c) (s.me.rm r) p q _))

end

end Sys2Proof.Machine

namespace Sys2Proof.Proofs

open Sys2Proof.Machine Sys2Proof.Claims

/-- Settles O41: behind the last element each body does nothing any more but set the exponent; at the last element of pass 2 the answers
had give its operands and its place, and its store is left. -/
theorem cochainResults : Obligations.CochainResults := by
  unfold Obligations.CochainResults
  refine ⟨?_, ?_⟩
  · intro s c a b l p q d r m sh g vs va pl clean steady rc ra rb ends setExp ds
    refine ⟨fun hc ha => ?_, fun hc ha hb => ?_, fun hc => ?_⟩
    · have hs : ∀ k ∈ [c, a], s.Steady k := by simpa using ⟨hc, ha⟩
      exact ⟨fun hr hl hp hn => execCq_ends c a r hl hp hn hr hs, fun hr hl hp hn => execCdq_ends c a r hl hp hn hr hs,
        fun hr hl hp hn => execHstar_ends c a r hl hp hn hr hs, fun hr hl hp hn => execInterp_ends c a r hl hp hn m hr hs,
        fun hr hl hp hn => derivative_ends c a r hl hp hn _ true hr hs, fun hr hl hp hn => derivative_ends c a r hl hp hn _ false hr hs⟩
    · have hs : ∀ k ∈ [c, a, b], s.Steady k := by simpa using ⟨hc, ha, hb⟩
      exact ⟨fun hr hl hp hn => execClin_ends c a b r hl hp hn p q hr hs, fun hr hl hp hn => execWedge_ends c a b r hl hp hn sh hr hs⟩
    · have hs : ∀ k ∈ [c], s.Steady k := List.forall_mem_singleton.2 hc
      refine ⟨fun hr hl _ hn => execCseamRelease_ends c hl hn hr hs, fun hr hl _ hn => execCseamSend_ends c l hl hn hr hs, fun hl => ?_,
        fun hr hint hlen hl hsum => execCred_had c d r vs va pl hr hint hlen hl hs hsum⟩
      obtain ⟨t, ht, landed⟩ := landed_spec s [.progress g.begin] l { valid := true, err := false, reg := rc }
      exact ⟨t, (execCseamLand_completes c l hl hs).trans ht, landed⟩
  · intro s c a b p q r g x y l l2 l3 va vb vd m m2 rc ra rb steady rm own stores last head val1 val2 place hlast hc ha hb
    obtain ⟨hp, hn, hca, hcb⟩ := hlast
    have two : ∀ k ∈ [c, a], s.Steady k := by simpa using ⟨hc, ha⟩
    have three : ∀ k ∈ [c, a, b], s.Steady k := by simpa using ⟨hc, ha, hb⟩
    refine ⟨fun hr hflt v hv => execCq_storesLast c a r x va vd l l3 m m2 hp hn hca hr two hflt hv, fun hr hint hflt v hv => ?_,
      fun hr ic ia ib ea eb ec v hv =>
        execClin_storesLast c a b r x y va vb vd l l2 l3 m m2 hp hn hca p q hcb hr three ic ia ib ea eb ec hv⟩
    obtain rfl := Option.some.inj hv
    exact execCdq_storesLast c a r x va vd l l3 m m2 hp hn hca hr two hint hflt

end Sys2Proof.Proofs

/-! SUPPORT. The integer register instructions (R98 to R100): operations in the width of W, counts of bits, fields of a word, and the
division rule. -/

namespace Sys2Proof.Machine

/-- The shared checks stop no instruction of the integer family whose fields are legal. -/
theorem refusal_integer {i : Instr} {d : BitVec 5} (s : State) (hd : Claims.integerDest i = some d) (hl : legal i = true) :
    refusal i s = none := by
  cases i
  all_goals simp only [Claims.integerDest, reduceCtorEq] at hd
  all_goals exact refusal_none s hl rfl rfl rfl

/-- An instruction that raises nothing completes with what its strand gives, once the shared checks let it pass. -/
theorem issue_done {i : Instr} {s : State} (hr : refusal i s = none) {f g : Strand → Strand} (h : f s.me = g s.me) :
    issue i (complete f) s = Claims.done s g := by
  rw [issue_pass _ hr, complete, s.modMe_congr h]
  rfl

/-- An instruction of the integer family completes with what its strand gives. -/
theorem integer_complete {i : Instr} {d : BitVec 5} (s : State) {f g : Strand → Strand} (h : f s.me = g s.me)
    (hd : Claims.integerDest i = some d := by rfl) (hl : legal i = true := by rfl) : issue i (complete f) s = Claims.done s g :=
  issue_done (refusal_integer s hd hl) h

/-! Operations in the width of W (R42, R98). -/

theorem width_cases (w : BitVec 1) : w = 0#1 ∨ w = 1#1 := by revert w; decide

theorem underW_eq_inWidth (w : BitVec 1) {f g : (n : Nat) → BitVec n → BitVec n → BitVec n} (h : ∀ n p q, f n p q = g n p q)
    (x y : Word) : underW w f x y = Claims.inWidth w g x y := by
  rcases width_cases w with rfl | rfl
  · exact h 64 x y
  · have halves : ∀ v : Word, v.setWidth 32 = v.extractLsb' 0 32 := fun v => BitVec.setWidth_eq_extractLsb' (by decide)
    show (f 32 (x.setWidth 32) (y.setWidth 32)).signExtend 64 = (g 32 (x.extractLsb' 0 32) (y.extractLsb' 0 32)).signExtend 64
    rw [h, halves, halves]

/-- An integer register instruction writes its operation in the width of W. -/
theorem execInt_done {i : Instr} {d a b : BitVec 5} {w : BitVec 1} {f g : (n : Nat) → BitVec n → BitVec n → BitVec n} (s : State)
    (h : ∀ n p q, f n p q = g n p q) (hd : Claims.integerDest i = some d := by rfl) (hl : legal i = true := by rfl) :
    execInt i d a b w f s = Claims.done s fun t => t.setX d (Claims.inWidth w g (t.getX a) (t.getX b)) :=
  integer_complete s (congrArg (s.me.setX d) (underW_eq_inWidth w h _ _)) hd hl

/-! Operations of R98 that the model spells in its own way. -/

theorem lessThan_eq_below (u : BitVec 1) {n : Nat} (p q : BitVec n) : lessThan u p q = Claims.below u p q := by
  rcases width_cases u with rfl | rfl
  · rfl
  · rfl

theorem opSlt_eq (u : BitVec 1) (n : Nat) (p q : BitVec n) : opSlt u n p q = if Claims.below u p q then 1#n else 0#n := by
  rw [opSlt, lessThan_eq_below]

theorem opMin_eq (u : BitVec 1) (n : Nat) (p q : BitVec n) : opMin u n p q = if Claims.below u p q then p else q := by
  rw [opMin, lessThan_eq_below]

theorem opMax_eq (u : BitVec 1) (n : Nat) (p q : BitVec n) : opMax u n p q = if Claims.below u p q then q else p := by
  rw [opMax, lessThan_eq_below]

theorem opMul_eq (n : Nat) (p q : BitVec n) : opMul n p q = BitVec.ofNat n (p.toNat * q.toNat) := by
  rw [opMul, BitVec.ofNat_mul, BitVec.ofNat_toNat, BitVec.ofNat_toNat, BitVec.setWidth_eq, BitVec.setWidth_eq]

theorem opMulh_signed (n : Nat) (p q : BitVec n) : opMulh 0#1 n p q = BitVec.ofInt n (p.toInt * q.toInt / 2 ^ n) := by
  rw [opMulh, if_neg (by decide), Nat.cast_pow]
  rfl

/-! Counts of bits (R98). -/

theorem countOnes_eq (k x : Nat) : countOnes k x = ((List.range k).filter fun i => x.testBit i).length := by
  induction k generalizing x with
  | zero => rfl
  | succ k ih =>
    have rest : ((fun i => x.testBit i) ∘ Nat.succ) = fun i => (x / 2).testBit i := funext fun i => Nat.testBit_succ x i
    have first : x.testBit 0 = decide (x % 2 = 1) := Nat.testBit_zero x
    rw [countOnes, ih, List.range_succ_eq_map, List.filter_cons, List.filter_map, rest, first]
    rcases Nat.mod_two_eq_zero_or_one x with h | h
    · simp [h]
    · simp [h, Nat.add_comm]

theorem trailingZeros_le (k x : Nat) : trailingZeros k x ≤ k := by
  induction k generalizing x with
  | zero => exact Nat.le_refl 0
  | succ k ih =>
    rw [trailingZeros]
    split
    · exact Nat.zero_le _
    · have := ih (x / 2); omega

theorem testBit_below_trailingZeros (k x : Nat) {i : Nat} (h : i < trailingZeros k x) : x.testBit i = false := by
  induction k generalizing x i with
  | zero => exact absurd h (Nat.not_lt_zero i)
  | succ k ih =>
    rw [trailingZeros] at h
    split at h
    case isTrue => exact absurd h (Nat.not_lt_zero i)
    case isFalse odd =>
      cases i with
      | zero => rw [Nat.testBit_zero, decide_eq_false odd]
      | succ i =>
        rw [Nat.testBit_succ]
        exact ih (x / 2) (by omega)

theorem testBit_trailingZeros (k x : Nat) (h : trailingZeros k x < k) : x.testBit (trailingZeros k x) = true := by
  induction k generalizing x with
  | zero => exact absurd h (Nat.not_lt_zero _)
  | succ k ih =>
    rw [trailingZeros] at h ⊢
    split at h
    case isTrue odd => rw [if_pos odd, Nat.testBit_zero, decide_eq_true odd]
    case isFalse odd =>
      rw [if_neg odd, Nat.add_comm, Nat.testBit_succ]
      exact ih (x / 2) (by omega)

/-- Leading zeros of a value of n bits. -/
def leadingZeros {n : Nat} (p : BitVec n) : Nat := if p = 0#n then n else n - 1 - Nat.log2 p.toNat

theorem opClz_eq (n : Nat) (p q : BitVec n) : opClz n p q = BitVec.ofNat n (leadingZeros p) := rfl

section
variable {n : Nat} (p : BitVec n)

theorem leadingZeros_le : leadingZeros p ≤ n := by
  unfold leadingZeros
  split <;> omega

theorem getMsbD_below_leadingZeros {i : Nat} (h : i < leadingZeros p) : p.getMsbD i = false := by
  by_cases hp : p = 0#n
  · rw [hp, BitVec.getMsbD_zero]
  · rw [leadingZeros, if_neg hp] at h
    have small : p.toNat < 2 ^ (n - 1 - i) :=
      Nat.lt_log2_self.trans_le (Nat.pow_le_pow_right Nat.two_pos (by omega))
    rw [BitVec.getMsbD_eq_getLsbD, ← BitVec.testBit_toNat, Nat.testBit_lt_two_pow small, Bool.and_false]

theorem getMsbD_leadingZeros (h : leadingZeros p < n) : p.getMsbD (leadingZeros p) = true := by
  have hp : p ≠ 0#n := fun hp => absurd h (by simp [leadingZeros, hp])
  have nonzero : p.toNat ≠ 0 := fun h0 => hp (BitVec.eq_of_toNat_eq h0)
  have top : Nat.log2 p.toNat < n := (Nat.log2_lt nonzero).2 p.isLt
  have place : n - 1 - (n - 1 - Nat.log2 p.toNat) = Nat.log2 p.toNat := by omega
  rw [leadingZeros, if_neg hp] at h ⊢
  rw [BitVec.getMsbD_eq_getLsbD, decide_eq_true h, place, ← BitVec.testBit_toNat, Nat.testBit_log2 nonzero]
  rfl

end

/-- A count of at most the width is the same number in 64 bits. -/
theorem underW_count (w : BitVec 1) {f : (n : Nat) → BitVec n → BitVec n → BitVec n} (count : (n : Nat) → BitVec n → Nat)
    (hf : ∀ n p q, f n p q = BitVec.ofNat n (count n p)) (hle : ∀ n p, count n p ≤ n) (x y : Word) :
    underW w f x y = BitVec.ofNat 64 (if w = 0#1 then count 64 x else count 32 (x.extractLsb' 0 32)) := by
  rw [underW_eq_inWidth w hf]
  rcases width_cases w with rfl | rfl
  · rfl
  · have hz := hle 32 (x.extractLsb' 0 32)
    show (BitVec.ofNat 32 (count 32 (x.extractLsb' 0 32))).signExtend 64 = BitVec.ofNat 64 (count 32 (x.extractLsb' 0 32))
    generalize count 32 (x.extractLsb' 0 32) = z at hz
    have small : ∀ z : Fin 33, (BitVec.ofNat 32 z).signExtend 64 = BitVec.ofNat 64 z := by decide
    exact small ⟨z, Nat.lt_succ_of_le hz⟩

/-- One bits of a value of n bits. -/
def onesOf (n : Nat) (p : BitVec n) : Nat := countOnes n p.toNat

theorem onesOf_le (n : Nat) (p : BitVec n) : onesOf n p ≤ n := by
  rw [onesOf, countOnes_eq]
  exact (List.length_filter_le _ _).trans_eq List.length_range

theorem testBit_half (x : Word) {k : Nat} (h : k < 32) : (x.extractLsb' 0 32).toNat.testBit k = x.getLsbD k := by
  rw [BitVec.testBit_toNat, BitVec.getLsbD_extractLsb', decide_eq_true h, Bool.true_and, Nat.zero_add]

theorem onesOf_half (x : Word) : onesOf 32 (x.extractLsb' 0 32) = ((List.range 32).filter fun k => x.getLsbD k).length := by
  rw [onesOf, countOnes_eq, List.filter_congr fun k hk => testBit_half x (List.mem_range.1 hk)]

section
variable (s : State) (d a : BitVec 5) (w : BitVec 1)

/-- CLZ, CTZ and POPC write a count, in the width of W. -/
theorem execCount_done {i : Instr} {f : (n : Nat) → BitVec n → BitVec n → BitVec n} (count : (n : Nat) → BitVec n → Nat)
    (hf : ∀ n p q, f n p q = BitVec.ofNat n (count n p)) (hle : ∀ n p, count n p ≤ n)
    (hd : Claims.integerDest i = some d := by rfl) (hl : legal i = true := by rfl) :
    execInt i d a 0#5 w f s = Claims.done s fun t => t.setX d
      (BitVec.ofNat 64 (if w = 0#1 then count 64 (s.me.getX a) else count 32 ((s.me.getX a).extractLsb' 0 32))) :=
  integer_complete s (congrArg (s.me.setX d) (underW_count w count hf hle _ _)) hd hl

theorem execClz_done : execClz d a w s = Claims.done s fun t => t.setX d (BitVec.ofNat 64
    (if w = 0#1 then leadingZeros (s.me.getX a) else leadingZeros ((s.me.getX a).extractLsb' 0 32))) :=
  execCount_done s d a w (fun _ p => leadingZeros p) opClz_eq fun _ => leadingZeros_le

theorem execCtz_done : execCtz d a w s = Claims.done s fun t => t.setX d (BitVec.ofNat 64
    (if w = 0#1 then trailingZeros 64 (s.me.getX a).toNat else trailingZeros 32 ((s.me.getX a).extractLsb' 0 32).toNat)) :=
  execCount_done s d a w (fun n p => trailingZeros n p.toNat) (fun _ _ _ => rfl) fun n p => trailingZeros_le n p.toNat

theorem execPopc_done : execPopc d a w s = Claims.done s fun t => t.setX d (BitVec.ofNat 64
    (if w = 0#1 then onesOf 64 (s.me.getX a) else onesOf 32 ((s.me.getX a).extractLsb' 0 32))) :=
  execCount_done s d a w onesOf (fun _ _ _ => rfl) onesOf_le

end

/-! BFX (R100). -/

/-- The value of a field of `len` bits: read unsigned, or by its own top bit signed. -/
theorem toInt_field {n : Nat} (p : BitVec n) (pos len : Nat) :
    (p.extractLsb' pos len).toInt =
      if p.toNat / 2 ^ pos % 2 ^ len / 2 ^ (len - 1) % 2 = 1 then (p.toNat / 2 ^ pos % 2 ^ len : Nat) - (2 : Int) ^ len
      else (p.toNat / 2 ^ pos % 2 ^ len : Nat) := by
  have value : (p.extractLsb' pos len).toNat = p.toNat / 2 ^ pos % 2 ^ len := by
    rw [BitVec.extractLsb'_toNat, Nat.shiftRight_eq_div_pow]
  have top : (p.extractLsb' pos len).msb = decide (p.toNat / 2 ^ pos % 2 ^ len / 2 ^ (len - 1) % 2 = 1) := by
    rw [BitVec.msb_eq_getLsbD_last, ← BitVec.testBit_toNat, value, Nat.testBit_eq_decide_div_mod_eq]
  rw [BitVec.toInt_eq_msb_cond, top, value, Nat.cast_pow, Nat.cast_ofNat]
  simp only [decide_eq_true_eq]

/-- The field of `l` bits of p from `pos` on, as many as lie below the width, extended to the width (R100). -/
def extendedField (k : BitVec 1) {n : Nat} (p : BitVec n) (pos l : Nat) : BitVec n :=
  let len := min l (n - pos)
  if k = 1#1 then (p.extractLsb' pos len).signExtend n else (p.extractLsb' pos len).setWidth n

/-- The field as a number: nothing where it has no bits below the width. -/
theorem ofInt_field (k : BitVec 1) {n : Nat} (p : BitVec n) (pos l : Nat) :
    let len := min l (n - pos)
    let v := p.toNat / 2 ^ pos % 2 ^ len
    BitVec.ofInt n (if l = 0 ∨ n ≤ pos then 0 else if k = 1#1 ∧ v / 2 ^ (len - 1) % 2 = 1 then (v : Int) - 2 ^ len else v) =
      extendedField k p pos l := by
  intro len v
  by_cases noBits : l = 0 ∨ n ≤ pos
  · have hlen : len = 0 := by omega
    have empty : p.extractLsb' pos len = BitVec.ofNat len 0 := by rw [hlen, BitVec.of_length_zero (x := p.extractLsb' pos 0)]
    show _ = if k = 1#1 then (p.extractLsb' pos len).signExtend n else (p.extractLsb' pos len).setWidth n
    rw [if_pos noBits, empty, BitVec.signExtend, BitVec.toInt_zero, BitVec.setWidth_zero]
    exact (ite_self _).symm
  · rw [if_neg noBits]
    rcases width_cases k with rfl | rfl
    · have value : v = (p.extractLsb' pos len).toNat := by rw [BitVec.extractLsb'_toNat, Nat.shiftRight_eq_div_pow]
      rw [if_neg (fun h => absurd h.1 (by decide)), value, BitVec.ofInt_natCast, BitVec.ofNat_toNat]
      rfl
    · have value := toInt_field p pos len
      simp only [true_and]
      rw [← value]
      rfl

theorem bitField_eq (k w : BitVec 1) (x y : Word) : bitField k w x y =
    Claims.inWidth w (fun _ p q => extendedField k p (q.extractLsb' 0 6).toNat (q.extractLsb' 6 7).toNat) x y := by
  rcases width_cases w with rfl | rfl
  · have field := ofInt_field k x (y.extractLsb' 0 6).toNat (y.extractLsb' 6 7).toNat
    rw [← Nat.mod_eq_of_lt x.isLt] at field
    exact field
  · have field := ofInt_field k (x.extractLsb' 0 32) (y.extractLsb' 0 6).toNat (y.extractLsb' 6 7).toNat
    have low : (x.extractLsb' 0 32).toNat = x.toNat % 2 ^ 32 := BitVec.extractLsb'_toNat 0 32 x
    have pos : (y.extractLsb' 0 32).extractLsb' 0 6 = y.extractLsb' 0 6 := by ext i hi; simp
    have len : (y.extractLsb' 0 32).extractLsb' 6 7 = y.extractLsb' 6 7 := by ext i hi; simp
    rw [low] at field
    show (BitVec.ofInt 32 _).signExtend 64 = (extendedField k (x.extractLsb' 0 32) ((y.extractLsb' 0 32).extractLsb' 0 6).toNat
      ((y.extractLsb' 0 32).extractLsb' 6 7).toNat).signExtend 64
    rw [pos, len, ← field]
    rfl

theorem execBfx_done (s : State) (d a b : BitVec 5) (k w : BitVec 1) : execBfx d a b k w s = Claims.done s fun t => t.setX d
    (Claims.inWidth w (fun _ p q => extendedField k p (q.extractLsb' 0 6).toNat (q.extractLsb' 6 7).toNat) (t.getX a) (t.getX b)) :=
  integer_complete s (congrArg (s.me.setX d) (bitField_eq k w _ _))

/-! The division rule (R99). -/

/-- Only all ones are read as -1, where there is a bit at all. -/
theorem eq_allOnes_iff {n : Nat} {q : BitVec n} (h : q ≠ 0#n) : q = BitVec.allOnes n ↔ q.toInt = -1 := by
  have hn : 0 < n := by
    rcases Nat.eq_zero_or_pos n with rfl | hn
    · exact absurd (BitVec.of_length_zero) h
    · exact hn
  rw [← BitVec.toInt_inj, BitVec.toInt_allOnes, if_pos hn]

/-- Quotient and remainder of the division rule, case by case. -/
theorem divRem_eq (u : BitVec 1) (n : Nat) (p q : BitVec n) : divRem u n p q =
    if q = 0#n then (BitVec.allOnes n, p)
    else if u = 0#1 ∧ p = BitVec.intMin n ∧ q.toInt = -1 then (BitVec.intMin n, 0#n)
    else if u = 0#1 then (BitVec.ofInt n (p.toInt.tdiv q.toInt), BitVec.ofInt n (p.toInt.tmod q.toInt))
    else (BitVec.ofNat n (p.toNat / q.toNat), BitVec.ofNat n (p.toNat % q.toNat)) := by
  unfold divRem
  by_cases zero : q = 0#n
  · rw [if_pos zero, if_pos zero]
  rw [if_neg zero, if_neg zero]
  rcases width_cases u with rfl | rfl
  · simp only [eq_allOnes_iff zero, Int.tmod_def, true_and, if_true, if_neg (show ¬ (0#1 = 1#1) by decide)]
  · rw [if_pos rfl, if_neg (fun h => absurd h.1 (by decide)), if_neg (by decide)]
    have quot : p.udiv q = BitVec.ofNat n (p.toNat / q.toNat) := BitVec.udiv_def
    have rem : p.umod q = BitVec.ofNat n (p.toNat % q.toNat) := BitVec.umod_def
    rw [quot, rem]

section
variable (u : BitVec 1) (n : Nat) (p q : BitVec n)

theorem opDiv_eq : opDiv u n p q =
    if q = 0#n then BitVec.allOnes n
    else if u = 0#1 ∧ p = BitVec.intMin n ∧ q.toInt = -1 then BitVec.intMin n
    else if u = 0#1 then BitVec.ofInt n (p.toInt.tdiv q.toInt) else BitVec.ofNat n (p.toNat / q.toNat) := by
  rw [opDiv, divRem_eq]
  simp only [apply_ite Prod.fst]

theorem opRem_eq : opRem u n p q =
    if q = 0#n then p
    else if u = 0#1 ∧ p = BitVec.intMin n ∧ q.toInt = -1 then 0#n
    else if u = 0#1 then BitVec.ofInt n (p.toInt.tmod q.toInt) else BitVec.ofNat n (p.toNat % q.toNat) := by
  rw [opRem, divRem_eq]
  simp only [apply_ite Prod.snd]

end

end Sys2Proof.Machine

namespace Sys2Proof.Proofs

open Sys2Proof.Machine Sys2Proof.Claims

/-- Settles O5: each instruction writes its operation in the width of W; a count is the place of a bit, or the number of bits. -/
theorem integerRegisterResults : Obligations.IntegerRegisterResults := by
  unfold Obligations.IntegerRegisterResults
  refine ⟨fun s d a b w u => ?operations, fun s d a b k w => ?field⟩
  case field => exact execBfx_done s d a b k w
  case operations =>
    refine ⟨(execInt_done s (fun _ _ _ => rfl) : execAdd d a b w s = _), (execInt_done s (fun _ _ _ => rfl) : execSub d a b w s = _),
      (execInt_done s (fun _ _ _ => rfl) : execAnd d a b w s = _), (execInt_done s (fun _ _ _ => rfl) : execOr d a b w s = _),
      (execInt_done s (fun _ _ _ => rfl) : execXor d a b w s = _), (execInt_done s (fun _ _ _ => rfl) : execSll d a b w s = _),
      (execInt_done s (fun _ _ _ => rfl) : execSrl d a b w s = _), (execInt_done s (fun _ _ _ => rfl) : execSra d a b w s = _),
      (execInt_done s opMul_eq : execMul d a b w s = _), (execInt_done s (fun _ _ _ => rfl) : execMulh d a b w 1#1 s = _),
      (execInt_done s opMulh_signed : execMulh d a b w 0#1 s = _), (execInt_done s (opSlt_eq u) : execSlt d a b w u s = _),
      (execInt_done s (opMin_eq u) : execMin d a b w u s = _), (execInt_done s (opMax_eq u) : execMax d a b w u s = _),
      ?clz, ?clzw, ?ctz, ?ctzw, ?popc⟩
    case clz =>
      exact ⟨_, leadingZeros_le _, execClz_done s d a 0#1, fun n hn => getMsbD_below_leadingZeros _ hn, getMsbD_leadingZeros _⟩
    case clzw =>
      exact ⟨_, leadingZeros_le _, execClz_done s d a 1#1, fun n hn => getMsbD_below_leadingZeros _ hn, getMsbD_leadingZeros _⟩
    case ctz =>
      exact ⟨_, trailingZeros_le _ _, execCtz_done s d a 0#1, fun n hn => testBit_below_trailingZeros _ _ hn, testBit_trailingZeros _ _⟩
    case ctzw =>
      have hle := trailingZeros_le 32 ((s.me.getX a).extractLsb' 0 32).toNat
      refine ⟨_, hle, execCtz_done s d a 1#1, fun n hn => ?_, fun h => ?_⟩
      · rw [← testBit_half _ (hn.trans_le hle)]
        exact testBit_below_trailingZeros _ _ hn
      · rw [← testBit_half _ h]
        exact testBit_trailingZeros _ _ h
    case popc =>
      have count : (if w = 0#1 then onesOf 64 (s.me.getX a) else onesOf 32 ((s.me.getX a).extractLsb' 0 32)) =
          ((List.range (if w = 0#1 then 64 else 32)).filter fun k => (s.me.getX a).getLsbD k).length := by
        rcases width_cases w with rfl | rfl
        · exact countOnes_eq 64 _
        · exact onesOf_half _
      rw [← count]
      exact execPopc_done s d a w

/-- Settles O6: the model's quotient and remainder are the rule's, in either width. -/
theorem divisionRule : Obligations.DivisionRule := by
  unfold Obligations.DivisionRule
  exact fun s d a b w u => ⟨(execInt_done s (opDiv_eq u) : execDiv d a b w u s = _),
    (execInt_done s (opRem_eq u) : execRem d a b w u s = _)⟩

end Sys2Proof.Proofs

/-! SUPPORT. The immediates of R101 and R102: their values, and the instructions that take them. -/

namespace Sys2Proof.Machine

/-- An immediate instruction writes its operation on rs1 and the immediate. -/
theorem execImm_done {i : Instr} {d a : BitVec 5} {f : Word → Word → Word} {k : Word} {g : Word → Word} (s : State)
    (h : ∀ x, f x k = g x) (hl : legal i = true) (hd : Claims.integerDest i = some d := by rfl) :
    execImm i d a f k s = Claims.done s fun t => t.setX d (g (t.getX a)) :=
  integer_complete s (congrArg (s.me.setX d) (h _)) hd hl

/-- A shift amount below 64 is the number that its immediate stands for (R54, R101). -/
theorem toNat_immWord {i : BitVec 14} (h : i.toNat < 64) : (immWord i).toNat = i.toNat := by
  have positive : i.msb = false := by rw [BitVec.msb_eq_false_iff_two_mul_lt]; omega
  rw [immWord, BitVec.signExtend_eq_setWidth_of_msb_false positive, BitVec.toNat_setWidth_of_le (by decide)]

/-- The value of a U-format immediate (R102). -/
theorem upperImm_eq (i : BitVec 19) : upperImm i = BitVec.ofInt 64 (i.toInt * 2 ^ 13) := by
  rw [upperImm, BitVec.signExtend, BitVec.toInt_append, if_neg (by decide), Int.mul_comm]
  exact congrArg (BitVec.ofInt 64) (Int.add_zero _)

end Sys2Proof.Machine

namespace Sys2Proof.Proofs

open Sys2Proof.Machine Sys2Proof.Claims

/-- Settles O7: an immediate instruction is its operation on the sign-extended immediate; a shift by more than 63 has an illegal field. -/
theorem immediateResults : Obligations.ImmediateResults := by
  unfold Obligations.ImmediateResults
  intro s d a i
  refine ⟨(execImm_done s (fun _ => rfl) rfl : execAddi d a i s = _), (execImm_done s (fun _ => rfl) rfl : execAndi d a i s = _),
    (execImm_done s (fun _ => rfl) rfl : execOri d a i s = _), (execImm_done s (fun _ => rfl) rfl : execXori d a i s = _),
    fun h => ?shift, fun h => ?tooFar, ?slti⟩
  case shift =>
    have fits : decide (i.toNat ≤ 63) = true := decide_eq_true (Nat.le_of_lt_succ h)
    have amount := toNat_immWord h
    exact ⟨(execImm_done s (fun x => congrArg (x <<< ·) amount) fits : execSlli d a i s = _),
      (execImm_done s (fun x => congrArg (x >>> ·) amount) fits : execSrli d a i s = _),
      (execImm_done s (fun x => congrArg x.sshiftRight amount) fits : execSrai d a i s = _)⟩
  case tooFar =>
    have illegal : decide (i.toNat ≤ 63) = false := decide_eq_false (Nat.not_le.2 h)
    simp only [List.forall_mem_cons, List.not_mem_nil, false_implies, implies_true, and_true]
    exact ⟨exec_refused rfl nofun (refusal_illegal s illegal), exec_refused rfl nofun (refusal_illegal s illegal),
      exec_refused rfl nofun (refusal_illegal s illegal)⟩
  case slti =>
    have less (x : Word) : (if x.slt (immWord i) then 1#64 else 0#64) = if x.toInt < (immWord i).toInt then 1#64 else 0#64 := by
      simp only [BitVec.slt_iff_toInt_lt]
    exact (execImm_done s less rfl : execSlti d a i s = _)

/-- Settles O8: the upper immediate alone, or added to the pc. -/
theorem upperImmediateResults : Obligations.UpperImmediateResults := by
  unfold Obligations.UpperImmediateResults
  intro s d i
  rw [← upperImm_eq]
  exact ⟨(integer_complete s rfl : execLui d i s = _), (integer_complete s rfl : execAuipc d i s = _)⟩

end Sys2Proof.Proofs

/-! SUPPORT. The body of an active loop (R106 to R108): where it lies, and where a strand goes after its last word. -/

namespace Sys2Proof.Machine

section
variable {t : Strand} {first behind : Word}

/-- A body is not empty and does not wrap: it holds the word before its end. -/
theorem Strand.inLoopBody_last (h : t.loopBody = some (first, behind)) (last : t.pc + 4 = behind) : t.inLoopBody t.pc = true := by
  have inside : first.toNat ≤ t.pc.toNat ∧ t.pc.toNat < behind.toNat := by
    unfold Strand.loopBody at h
    dsimp only at h
    split at h
    case isTrue => cases h
    case isFalse active =>
      have len : getField t.lbody 18 7 < 2 ^ 7 := Nat.mod_lt _ (Nat.two_pow_pos 7)
      have start : getField t.lbody 0 18 < 2 ^ 18 := Nat.mod_lt _ (Nat.two_pow_pos 18)
      generalize getField t.lbody 18 7 = n at *
      generalize getField t.lbody 0 18 = o at *
      simp only [Option.some.injEq, Prod.mk.injEq] at h
      obtain ⟨hf, hb⟩ := h
      have hn : n ≠ 0 := fun h => active (.inr h)
      have ends := congrArg BitVec.toNat last
      subst hb hf
      simp only [BitVec.ofNat_eq_ofNat, BitVec.toNat_add, BitVec.toNat_ofNat] at ends ⊢
      omega
  rw [Strand.inLoopBody, h]
  exact decide_eq_true inside

/-- Outside the body a strand goes to the next word. -/
theorem Strand.advance_outside (h : t.inLoopBody t.pc = false) : t.advance = t.goTo (t.pc + 4) := by
  unfold Strand.advance
  split
  case h_1 first behind body =>
    have notLast : t.pc + 4 ≠ behind := fun last => by
      rw [Strand.inLoopBody_last body last] at h
      cases h
    rw [if_neg notLast]
  case h_2 => rfl

/-- After the last word with iterations left the strand goes to the first. -/
theorem Strand.advance_again (h : t.loopBody = some (first, behind)) (last : t.pc + 4 = behind) (more : 1 < t.lcnt.toNat) :
    t.advance.pc = first ∧ t.advance.lcnt = t.lcnt - 1#64 ∧ t.advance.lbody = t.lbody := by
  simp only [Strand.advance, h, if_pos last, if_pos more]
  exact ⟨rfl, rfl, rfl⟩

/-- After the last word of the last iteration the loop ends. -/
theorem Strand.advance_end (h : t.loopBody = some (first, behind)) (last : t.pc + 4 = behind) (one : t.lcnt = 1#64) :
    t.advance.pc = behind ∧ t.advance.lcnt = 0#64 ∧ t.advance.lbody = 0#64 := by
  have noMore : ¬ 1 < t.lcnt.toNat := by rw [one]; decide
  simp only [Strand.advance, h, if_pos last, if_neg noMore]
  exact ⟨rfl, rfl, rfl⟩

/-- The body that LBODY describes (R106). -/
theorem Strand.loopBody_of {start n : Nat} (hn : 1 ≤ n) (hn' : n ≤ 64) (hs : start < 0x28000)
    (h : t.lbody = BitVec.ofNat 64 (n * 2 ^ 18 + start)) (active : t.lcnt ≠ 0#64) :
    t.loopBody = some (BitVec.ofNat 64 (0x0100000000000000 + start), BitVec.ofNat 64 (0x0100000000000000 + start + 4 * n)) := by
  have bits : t.lbody.toNat = n * 2 ^ 18 + start := by
    rw [h, BitVec.toNat_ofNat]
    exact Nat.mod_eq_of_lt (by omega)
  have len : getField t.lbody 18 7 = n := by rw [getField, bits]; omega
  have first : getField t.lbody 0 18 = start := by rw [getField, bits]; omega
  have nonempty : ¬ (t.lcnt = 0#64 ∨ n = 0) := by rintro (h | h); exacts [active h, by omega]
  rw [Strand.loopBody, len, first]
  simp only [if_neg nonempty, BitVec.ofNat_add]

end

theorem State.retire_outside {s : State} (h : s.me.inLoopBody s.me.pc = false) : s.retire = s.jumpTo (s.me.pc + 4#64) :=
  s.modMe_congr (Strand.advance_outside h)

/-- A branch outside an active loop body goes where its condition says (R103). -/
theorem execBranch_goes {i : Instr} {s : State} {a b : BitVec 5} {o : BitVec 14} {c : Word → Word → Bool} {p : Prop} [Decidable p]
    (hb : s.me.inLoopBody s.me.pc = false) (hl : legal i = true) (hp : privileged i = false) (hr : rmField i = none)
    (h : c (s.me.getX a) (s.me.getX b) = decide p) :
    execBranch i a b o c s =
      .next (s.jumpTo (if decide p then s.me.pc + 4#64 * o.signExtend 64 else s.me.pc + 4#64)) := by
  rw [execBranch, issue_pass _ (refusal_jump hb hl hp hr)]
  dsimp only
  rw [h, wordTarget_eq, State.retire_outside hb]
  cases decide p <;> rfl

end Sys2Proof.Machine

namespace Sys2Proof.Proofs

open Sys2Proof.Machine Sys2Proof.Claims

/-- Settles O10: outside an active body the word after a branch is the one at PC + 4; the conditions are those of the operands' values. -/
theorem branchResults : Obligations.BranchResults := by
  unfold Obligations.BranchResults
  intro s a b o hb
  dsimp only
  have signed (x y : Word) : (!x.slt y) = decide (y.toInt ≤ x.toInt) :=
    decide_not.symm.trans (decide_eq_decide.2 not_lt)
  have unsigned (x y : Word) : (!x.ult y) = decide (y.toNat ≤ x.toNat) :=
    decide_not.symm.trans (decide_eq_decide.2 not_lt)
  exact ⟨(execBranch_goes hb rfl rfl rfl rfl : execBeq a b o s = _),
    (execBranch_goes hb rfl rfl rfl decide_not.symm : execBne a b o s = _),
    (execBranch_goes hb rfl rfl rfl rfl : execBlt a b o s = _), (execBranch_goes hb rfl rfl rfl (signed _ _) : execBge a b o s = _),
    (execBranch_goes hb rfl rfl rfl rfl : execBltu a b o s = _), (execBranch_goes hb rfl rfl rfl (unsigned _ _) : execBgeu a b o s = _)⟩

end Sys2Proof.Proofs

/-! SUPPORT. LOOP outside an active body (R107). -/

namespace Sys2Proof.Machine

section
variable {s : State} {a : BitVec 5} {n : BitVec 14} (hb : s.me.inLoopBody s.me.pc = false) (hn : 1 ≤ n.toNat ∧ n.toNat ≤ 64)
include hb hn

/-- LOOP, once the shared checks have let it pass. -/
theorem execLoop_eq : execLoop a n s =
    if isControl s.here || !inUnitCode (s.me.pc + 4#64).toNat || !inUnitCode (s.me.pc + BitVec.ofNat 64 (4 * n.toNat)).toNat then
      .next (s.takeTrap s.cur (trapACCERR (s.me.pc + 4#64) 0))
    else if s.me.getX a = 0#64 then .next (s.jumpTo (s.me.pc + BitVec.ofNat 64 (4 * n.toNat) + 4#64))
    else .next (s.modMe fun t => { (t.goTo (s.me.pc + 4#64)) with
      lcnt := s.me.getX a, lbody := BitVec.ofNat 64 (n.toNat * 2 ^ 18 + ((s.me.pc + 4#64).toNat - unitBase))
      loopBuf := s.loopWords (s.me.pc + 4#64) n.toNat, unusable := t.clearCsrs [8, 9] }) :=
  issue_pass _ (refusal_jump hb (decide_eq_true hn) rfl rfl)

end

/-- An instruction of control flow has a word. -/
theorem controlFlow_spec {i : Instr} (h : isControlFlow i = true) : encode i = some (wordOf i) ∧ ∀ v, i ≠ .reservedOpcode v := by
  cases i
  all_goals simp only [isControlFlow, reduceCtorEq] at h
  all_goals exact ⟨rfl, nofun⟩

theorem refusal_inBody {i : Instr} {s : State} (hc : isControlFlow i = true) (hb : s.me.inLoopBody s.me.pc = true) :
    refusal i s = some (trapILL (wordOf i)) := by
  simp [refusal, hc, hb]

end Sys2Proof.Machine

namespace Sys2Proof.Proofs

open Sys2Proof.Machine Sys2Proof.Claims

/-- Settles O12: LOOP by where its body lies and its count; the last word of an active body by the body that LBODY describes; control
flow inside one by the shared checks. -/
theorem loopRule : Obligations.LoopRule := by
  unfold Obligations.LoopRule
  refine ⟨fun s a n hb h1 h64 hc => ?loop, fun t start n h1 h64 hlo hhi hbody hpc => ?last, fun s i hc hb => ?inside⟩
  case inside =>
    obtain ⟨he, hr⟩ := controlFlow_spec hc
    exact exec_refused he hr (refusal_inBody hc hb)
  case last =>
    have next : t.pc + 4 = BitVec.ofNat 64 (0x0100000000000000 + start + 4 * n) := by
      have fourth : 0x0100000000000000 + start + 4 * (n - 1) + 4 = 0x0100000000000000 + start + 4 * n := by omega
      rw [hpc, ← fourth, BitVec.ofNat_add _ 4]
      rfl
    refine ⟨fun more => ?_, fun one => ?_⟩
    · have active : t.lcnt ≠ 0#64 := fun h => by simp [h] at more
      exact Strand.advance_again (Strand.loopBody_of h1 h64 hhi hbody active) next more
    · have active : t.lcnt ≠ 0#64 := by rw [one]; decide
      exact Strand.advance_end (Strand.loopBody_of h1 h64 hhi hbody active) next one
  case loop =>
    have run : exec (.loop a n) s = _ := execLoop_eq hb ⟨h1, h64⟩
    have unitCode (w : Word) : inUnitCode w.toNat = decide (0x0100000000020000 ≤ w.toNat ∧ w.toNat < 0x0100000000028000) := rfl
    rw [run, hc, unitCode, unitCode]
    dsimp only
    refine ⟨fun hf hl zero => ?skips, fun hf hl count => ?starts, fun out => ?refused⟩
    case skips => rw [decide_eq_true hf, decide_eq_true hl, if_pos zero]; rfl
    case starts =>
      rw [decide_eq_true hf, decide_eq_true hl, if_neg count]
      refine ⟨_, rfl, ?_⟩
      rw [State.me_modMe]
      exact ⟨rfl, rfl, rfl, rfl, rfl⟩
    case refused =>
      rw [if_pos]
      · rfl
      · simpa [← Bool.not_and, ← Bool.decide_and] using out

end Sys2Proof.Proofs

/-! SUPPORT. EBREAK and ECALL (R344), and the forward of a fault to the kernel (R331, R332). -/

namespace Sys2Proof.Machine

/-! A manager signalled (R330, R340): its strand is a control core's, and every other strand is as it was. -/

section
variable (s : State)

@[simp] theorem State.wakeWfi_cur (h : Nat) : (s.wakeWfi h).cur = s.cur := by unfold State.wakeWfi; split <;> rfl
@[simp] theorem State.raiseExt_cur (h : Nat) : (s.raiseExt h).cur = s.cur := by simp [State.raiseExt]
@[simp] theorem State.signalManager_cur (d : Nat) : (s.signalManager d).cur = s.cur := by
  unfold State.signalManager; split <;> simp

theorem State.wakeWfi_strand_ne {h k : Nat} (n : h ≠ k) : (s.wakeWfi h).strand k = s.strand k := by
  unfold State.wakeWfi
  split
  · exact s.strand_modStrand_ne _ n
  · rfl

theorem State.raiseExt_strand_ne {h k : Nat} (n : h ≠ k) : (s.raiseExt h).strand k = s.strand k := by
  rw [State.raiseExt, State.wakeWfi_strand_ne _ n, State.strand_modStrand_ne _ _ n]

theorem State.manager_control {d h : Nat} (e : s.manager d = some h) : 4096 ≤ coreOf h := by
  unfold State.manager at e
  dsimp only at e
  split at e
  · cases e; unfold coreOf; omega
  · cases e

theorem State.signalManager_strand {d k : Nat} (hk : coreOf k < 4096) : (s.signalManager d).strand k = s.strand k := by
  unfold State.signalManager
  split
  case h_1 h e =>
    refine s.raiseExt_strand_ne fun hne => ?_
    subst hne
    exact absurd (s.manager_control e) (Nat.not_le.2 hk)
  case h_2 => rfl

theorem State.signalManager_ext {d h : Nat} (e : s.manager d = some h) : ((s.signalManager d).strand h).ipend.getLsbD 5 = true := by
  rw [State.signalManager, e]
  exact s.raiseExt_ext h

end

/-! One record written to a die's fault queue (R332). -/

/-- A record at TAIL, and TAIL gone on. -/
def Die.enqueue (r : List Word) (q : Die) : Die :=
  { q with fqTail := q.fqTail + 1, fqRecs := tableSet q.fqRecs (q.fqTail.toNat % 1024) r }

/-- The die's manager is told of it. -/
def State.recorded (s : State) (d : Nat) (r : List Word) : State := (s.modDie d (Die.enqueue r)).signalManager d

section
variable {s : State} {d : Nat}

theorem State.pushFault_one (r : List Word) (h : 0 < (s.die d).faultRoom) :
    s.pushFault d [r] = some (s.recorded d r) := by
  have tail : BitVec.ofNat 32 ((s.die d).fqTail.toNat + 1) = (s.die d).fqTail + 1 := by
    rw [BitVec.ofNat_add, BitVec.ofNat_toNat, BitVec.setWidth_eq]; rfl
  have fits : ¬ (s.die d).faultRoom < [r].length := Nat.not_lt.2 h
  rw [State.pushFault, if_neg fits]
  show some ((s.modDie d fun q =>
    { q with fqTail := BitVec.ofNat 32 ((s.die d).fqTail.toNat + 1)
             fqRecs := tableSet (s.die d).fqRecs ((s.die d).fqTail.toNat % 1024) r }).signalManager d) = _
  rw [tail]
  rfl

theorem State.pushFault_full (r : List Word) (h : (s.die d).faultRoom = 0) : s.pushFault d [r] = none :=
  if_pos (by rw [h]; exact Nat.one_pos)

end

section
variable (s : State) (d : Nat) (r : List Word)

theorem State.recorded_die : (s.recorded d r).die d = Die.enqueue r (s.die d) := by
  rw [State.recorded, State.die, State.signalManager_dies]
  exact s.die_modDie_same d _

theorem State.recorded_mem : (s.recorded d r).mem = s.mem := State.signalManager_mem _ d

theorem State.recorded_cur : (s.recorded d r).cur = s.cur := State.signalManager_cur _ d

/-- A strand of a compute core is as it was: only the manager is told. -/
theorem State.recorded_me (h : s.here < 4096) : (s.recorded d r).me = s.me := by
  rw [State.me, s.recorded_cur]
  exact State.signalManager_strand _ h

/-- The manager is named by what the record leaves as it is. -/
theorem State.recorded_ext {h : Nat} (e : s.manager d = some h) : ((s.recorded d r).strand h).ipend.getLsbD 5 = true := by
  have same : (s.modDie d (Die.enqueue r)).manager d = s.manager d := by
    rw [State.manager, s.die_modDie_same]
    rfl
  exact State.signalManager_ext _ (same.trans e)

end

/-- What a compute strand's ECALL records (R332). -/
theorem State.forwardRecord_eq (s : State) : s.forwardRecord s.cur =
    [BitVec.ofNat 64 (s.endpoint s.here % 2 ^ 22 + s.cur % 8 * 2 ^ 24), s.me.cause, s.me.epc, s.me.badva, s.me.tval2,
      s.me.getX 10#5, (s.core s.here).asid &&& 0xFFFF#64, 0#64] := by
  rw [State.forwardRecord, faultWord, Nat.mod_mod, Nat.zero_mul, Nat.add_zero]
  rfl

/-! The strand parked with its ECALL under way (R331). -/

/-- The current strand waits for the kernel; `written` says whether its record is in the queue. -/
def State.forwarded (s : State) (written : Bool) : State :=
  (s.modMe fun t => { t with inst := some (wordOf .ecall), log := [] }).park s.cur (.forward written)

section
variable (s : State) (written : Bool)

theorem State.forwarded_me : (s.forwarded written).me =
    { s.me with inst := some (wordOf .ecall), log := [], status := .parked (.forward written) } := by
  rw [State.forwarded, ← s.modMe_cur, State.me_park, State.me_modMe]

theorem State.forwarded_mem : (s.forwarded written).mem = s.mem := by
  rw [State.forwarded, State.park, State.giveUp_mem]
  rfl

theorem State.giveUp_strand (c h : Nat) : (s.giveUp c).strand h = s.strand h := by
  unfold State.giveUp State.choose; split <;> rfl
theorem State.giveUp_dies (c : Nat) : (s.giveUp c).dies = s.dies := by
  unfold State.giveUp State.choose; split <;> rfl

theorem State.forwarded_dies : (s.forwarded written).dies = s.dies := by
  rw [State.forwarded, State.park, State.giveUp_dies]
  rfl

theorem State.forwarded_ipend (h : Nat) : ((s.forwarded written).strand h).ipend = (s.strand h).ipend := by
  rw [State.forwarded, State.park, State.giveUp_strand, State.modMe, State.modStrand_modStrand]
  by_cases hc : s.cur = h
  · subst hc; rw [State.strand_modStrand_same]
  · rw [State.strand_modStrand_ne _ _ hc]

end

section
variable {s : State} (hm : s.me.mode = .s) (hc : isControl s.here = false)
include hm hc

theorem execEcall_room (h : 0 < (s.die (dieOf s.here)).faultRoom) : execEcall s =
    .next ((s.recorded (dieOf s.here) (s.forwardRecord s.cur)).forwarded true) := by
  rw [execEcall, issue_pass _ (refusal_none s rfl rfl rfl rfl)]
  simp only [hm, hc, State.pushFault_one _ h]
  rw [if_neg Bool.false_ne_true, State.forwarded, State.recorded_cur]

theorem execEcall_full (h : (s.die (dieOf s.here)).faultRoom = 0) : execEcall s = .next (s.forwarded false) := by
  rw [execEcall, issue_pass _ (refusal_none s rfl rfl rfl rfl)]
  simp only [hm, hc, State.pushFault_full _ h]
  rfl

end

end Sys2Proof.Machine

namespace Sys2Proof.Proofs

open Sys2Proof.Machine Sys2Proof.Claims

/-- Settles O15: EBREAK and ECALL are traps by mode and core, but for the forward of a compute strand in S mode: its record is written
where its die's queue has room, and it parks in either case. -/
theorem systemCalls : Obligations.SystemCalls := by
  unfold Obligations.SystemCalls
  intro s
  dsimp only
  have pass : refusal .ecall s = none := refusal_none s rfl rfl rfl rfl
  refine ⟨rfl, fun hm => ?user, fun hm => ?machine, fun hm hc => ?control, fun hm hc => ?forward⟩
  case user | machine =>
    show execEcall s = _
    rw [execEcall, issue_pass _ pass, hm]
    rfl
  case control =>
    have control : isControl s.here = true := decide_eq_true hc
    show execEcall s = _
    rw [execEcall, issue_pass _ pass, hm]
    exact if_pos control
  case forward =>
    have compute : isControl s.here = false := decide_eq_false (Nat.not_le.2 hc)
    rcases Nat.eq_zero_or_pos (s.die (dieOf s.here)).faultRoom with full | room
    · refine ⟨_, execEcall_full hm compute full, ?_⟩
      rw [State.forwarded_me, full]
      exact ⟨rfl, rfl, rfl, s.forwarded_mem false, fun h => absurd h (Nat.lt_irrefl 0), fun _ => s.forwarded_dies false⟩
    · refine ⟨_, execEcall_room hm compute room, ?_⟩
      have tail := State.recorded_die s (dieOf s.here) (s.forwardRecord s.cur)
      have manager := @State.recorded_ext s (dieOf s.here) (s.forwardRecord s.cur)
      set u := s.recorded (dieOf s.here) (s.forwardRecord s.cur)
      have dies : ∀ d, (u.forwarded true).die d = u.die d := fun d => by rw [State.die, u.forwarded_dies]; rfl
      rw [u.forwarded_me, s.recorded_me _ _ hc, u.forwarded_mem, dies, tail, decide_eq_true room, ← s.forwardRecord_eq]
      refine ⟨rfl, rfl, rfl, s.recorded_mem _ _, fun _ => ⟨rfl, ?_, fun h e => ?_⟩, fun h => absurd (h ▸ room) (Nat.lt_irrefl 0)⟩
      · exact tableGet_tableSet_same _ _ _ _
      · rw [u.forwarded_ipend]
        exact manager e

end Sys2Proof.Proofs

/-! SUPPORT. The vector instructions (R119 to R135): how they end, and the lane functions that the model spells in its own way. -/

namespace Sys2Proof.Machine

/-! How a vector instruction ends (R73, R122). -/

section
variable {i : Instr} {s : State} (hr : refusal i s = none)
include hr

/-- A lane-wise instruction that the shared checks let pass is its lane function, flags and all. -/
theorem execLanes_pass {w : Nat} {d : BitVec 5} {p : BitVec 3} {f : Strand → Nat → LaneResult} {g : Nat → LaneResult}
    (h : ∀ j, f s.me j = g j) : execLanes i w d p f s = Claims.lanewise s w d p g := by
  obtain rfl : f s.me = g := funext h
  rw [execLanes, issue_pass _ hr]
  rfl

/-- The same for a function of two lanes. -/
theorem execLanes2_pass {d a b : BitVec 5} {p t : BitVec 3} {f : Strand → Word → Word → LaneResult} {g : Nat → LaneResult}
    (h : ∀ j, f s.me (laneAt (laneWidth t) (s.me.getV a) j) (laneAt (laneWidth t) (s.me.getV b) j) = g j) :
    execLanes2 i d a b p t f s = Claims.lanewise s (laneWidth t) d p g := by
  rw [execLanes2]
  exact execLanes_pass hr h

/-- VCMP and VCVT deliver the flags of their lanes with what they compute. -/
theorem issue_lanes (fls : State → List FlagSet) (put : State → Strand → Strand) :
    issue i (fun s => deliverLanes (fls s) (put s) s) s =
      Claims.delivers s (orFlags (fls s)) ((firstEnabledLane s.me.fte 0 (fls s)).getD 0) (put s) := by
  rw [issue_pass _ hr]
  rfl

/-- VRED delivers the flags of its nodes together. -/
theorem issue_flags (fl : State → FlagSet) (put : State → Strand → Strand) :
    issue i (fun s => deliverFlags (fl s) 0 (put s) s) s = Claims.delivers s (fl s) 0 (put s) := by
  rw [issue_pass _ hr]
  rfl

end

/-! Lane functions. -/

/-- VBIT's population count (R124). -/
theorem laneBit_ones (w : Nat) (x y : Word) :
    laneBit w 4#3 x y = BitVec.ofNat 64 ((List.range w).filter fun k => x.getLsbD k).length :=
  congrArg (BitVec.ofNat 64) (countOnes_eq w x.toNat)

/-- VSH's arithmetic shift (R124). -/
theorem laneShift_signed (w : Nat) (x y : Word) :
    laneShift w 2#3 x y = BitVec.ofNat 64 ((BitVec.ofNat w x.toNat).sshiftRight (y.toNat % w)).toNat := by
  rw [BitVec.sshiftRight, Int.shiftRight_eq_div_pow]
  rfl

/-- An integer as a lane of 64 bits. -/
theorem laneOfInt_word (v : Int) : laneOfInt 64 v = BitVec.ofInt 64 v := by
  rw [laneOfInt, BitVec.ofNat_toNat, BitVec.setWidth_eq]

theorem isFloatType_true {t : BitVec 3} (h : 3 < t.toNat) : isFloatType t = true := decide_eq_true h

theorem isFloatType_false {t : BitVec 3} (h : t.toNat ≤ 3) : isFloatType t = false :=
  decide_eq_false (Nat.not_le.2 (Nat.lt_succ_of_le h))

/-- The lane that VSEL takes (R126). -/
theorem laneAt_ite (w : Nat) (c : Bool) (x y : Vec) (j : Nat) :
    laneAt w (if c then x else y) j = if c then laneAt w x j else laneAt w y j := by
  cases c <;> rfl

/-- VPERM with var 001 (R130). -/
theorem lanePermute_bounded (w : Nat) (tab idx : Vec) (j : Nat) : lanePermute w 1#3 tab idx j =
    if 512 / w ≤ (laneAt w idx j).toNat then 0#64 else laneAt w tab ((laneAt w idx j).toNat % (512 / w)) := by
  simp only [lanePermute, true_and]

/-- VEXTR writes one lane (R130): a float as it is, an integer extended by its var. -/
theorem execVextr_done {s : State} {d a b : BitVec 5} {t v : BitVec 3} (h : refusal (.vextr d a b t v) s = none) :
    let l := laneAt (laneWidth t) (s.me.getV a) ((s.me.getX b).toNat % (512 / laneWidth t))
    execVextr d a b t v s = Claims.done s fun u =>
      if isFloatType t then u.setF d l else u.setX d (if v = 1#3 then l else BitVec.ofInt 64 (laneInt (laneWidth t) l)) := by
  dsimp only
  rw [← laneOfInt_word]
  exact issue_done h rfl

end Sys2Proof.Machine

namespace Sys2Proof.Proofs

open Sys2Proof.Machine Sys2Proof.Claims

/-- Settles O21: a lane-wise instruction is its lane function on the active lanes; the others deliver or write what they compute. -/
theorem vectorResults : Obligations.VectorResults := by
  unfold Obligations.VectorResults
  refine ⟨fun s d a b p t r => ?lanes, fun s d a b p t r => ?others⟩
  case lanes =>
    dsimp only
    refine ⟨fun h => (execLanes2_pass h fun _ => rfl : execVadd d a b p t r s = _),
      fun h => (execLanes2_pass h fun _ => rfl : execVsub d a b p t r s = _),
      fun h => (execLanes2_pass h fun _ => rfl : execVmul d a b p t r s = _),
      fun h => (execLanes_pass h fun _ => rfl : execVfma d a b p t r s = _),
      fun h => (execLanes2_pass h fun _ => rfl : execVmin d a b p t r s = _),
      fun h => (execLanes2_pass h fun _ => rfl : execVmax d a b p t r s = _),
      fun h => (execLanes2_pass h fun _ => rfl : execVbit d a b p t 0#3 s = _),
      fun h => (execLanes2_pass h fun _ => rfl : execVbit d a b p t 1#3 s = _),
      fun h => (execLanes2_pass h fun _ => rfl : execVbit d a b p t 2#3 s = _),
      fun h => (execLanes2_pass h fun _ => rfl : execVbit d a b p t 3#3 s = _),
      fun h => (execLanes2_pass h fun _ => congrArg quiet (laneBit_ones _ _ _) : execVbit d a 0#5 p t 4#3 s = _),
      fun h => (execLanes2_pass h fun _ => rfl : execVsh d a b p t 0#3 s = _),
      fun h => (execLanes2_pass h fun _ => rfl : execVsh d a b p t 1#3 s = _),
      fun h => (execLanes2_pass h fun _ => congrArg quiet (laneShift_signed _ _ _) : execVsh d a b p t 2#3 s = _),
      fun q h => (execLanes_pass h fun j => congrArg quiet (laneAt_ite _ _ _ _ j) : execVsel d a b p t q s = _),
      fun f h => (execLanes_pass h fun j => congrArg (laneFunction f t (s.me.rm r) · _) (version_eq s.me) : execVfun d a f p t r s = _),
      fun ht h => (execLanes_pass h fun _ => congrArg quiet (if_pos (isFloatType_true ht)) :
        execVsplat d a p t r s = _),
      fun ht h => (execLanes_pass h fun _ => congrArg quiet (if_neg (ne_true_of_eq_false (isFloatType_false ht))) :
        execVsplat d a p t r s = _),
      fun h => (execLanes_pass h fun _ => rfl : execVperm d a b p t 0#3 s = _),
      fun h => (execLanes_pass h fun j => congrArg quiet (lanePermute_bounded _ _ _ j) : execVperm d a b p t 1#3 s = _),
      fun h => (execLanes_pass h fun _ => rfl : execVhash d a b p 0#3 s = _),
      fun h => (execLanes_pass h fun _ => rfl : execVhash d a b p 1#3 s = _),
      fun h => (execLanes_pass h fun _ => rfl : execVpfx d a p 0#3 s = _),
      fun h => (execLanes_pass h fun _ => rfl : execVpfx d a p 1#3 s = _),
      fun q h => (execLanes_pass h fun _ => rfl : execVisect d a b p q s = _),
      fun h => (execLanes_pass h fun _ => rfl : execVdot d a b p t r s = _)⟩
  case others =>
    dsimp only
    refine ⟨fun c q h => (issue_lanes h _ _ : execVcmp c q a b p t r s = _),
     fun q e h => (issue_lanes h _ _ : execVcvt d a q e p t r s = _),
     fun o h => (issue_flags h _ _ : execVred d a o p t r s = _),
     fun h => ⟨fun ht => ?float, fun ht hr => ?unsigned, fun ht hr => ?signed⟩,
      fun q => (issue_done (refusal_none s rfl rfl rfl rfl) rfl : execVbmand d a b p q s = _)⟩
    all_goals
      show execVextr d a b t _ s = _
      rw [execVextr_done h]
    case float => rw [isFloatType_true ht]; rfl
    case unsigned => rw [isFloatType_false ht, hr]; rfl
    case signed => rw [isFloatType_false ht, hr]; rfl

end Sys2Proof.Proofs

/-! SUPPORT. CXINFO, SETEXP and CBIND with no progress held (R140, R174, R175). -/

namespace Sys2Proof.Machine

/-! A cochain instruction that issues with no progress held (R169). -/

/-- The progress of an instruction that starts at a word. -/
def Prog.startingAt (w : Word) : Prog := { start := w, now := w, began := false, flags := 0#5 }

/-- No progress is held, and the strand has had no answers: the next cochain instruction issues and starts. -/
def Strand.Fresh (t : Strand) : Prop := t.log = [] ∧ t.ciprog.getLsbD 63 = false

/-- The run of an instruction that issues and has started from progress g. -/
def State.starting (s : State) (g : Prog) : Run := { s := s, past := [], new := [.progress g], leaves := false }

section
variable {s : State} (h : s.me.Fresh)
include h

theorem single_fresh (op : Nat) : single op { s := s, past := [], new := [], leaves := false } =
    .ok (Prog.startingAt (progWord op 0 0 0)) (s.starting (Prog.startingAt (progWord op 0 0 0))) := by
  have starts : progress op (progWord op 0 0 0) { s := s, past := [], new := [], leaves := false } =
      .ok (Prog.startingAt (progWord op 0 0 0), .fresh) (s.starting (Prog.startingAt (progWord op 0 0 0))) := by
    simp only [progress, h.2, Bool.not_false, if_true]
    rfl
  rw [single, run_bind, starts]
  rfl

theorem generations_fresh {g : Prog} {rs : List (BitVec 4)} (resumed : Bool) (hs : ∀ q ∈ rs, s.Steady q) :
    generations resumed rs (s.starting g) = .ok () (s.starting g.begin) := by
  have begins : (s.starting g).modProg (fun g => { g with began := true }) = s.starting g.begin := by
    unfold Run.modProg
    rw [show (s.starting g).s.me.log = [] from h.1]
    rfl
  rw [generations, run_bind, run_getMe]
  dsimp only
  rw [run_bind, busyWaits_pass (r := s.starting g) hs]
  dsimp only
  rw [run_bind, genCheck_pass (r := s.starting g) hs]
  exact congrArg (EStateM.Result.ok ()) begins

/-- Such an instruction is complete with what its meaning leaves of the strand, and nothing is kept for it. -/
theorem issueRun_fresh {i : Instr} {m : M Unit} {f : Strand → Strand} (hr : refusal i s = none)
    (hm : ∃ new, m { s := s, past := [], new := [], leaves := false } =
      .ok () { s := s.modMe f, past := [], new := new, leaves := false }) :
    issueRun i (withProgress m) s = Claims.done s fun t => (f t).endProgress := by
  obtain ⟨new, hm⟩ := hm
  rw [issueRun, issue_pass _ hr, runInstr, h.1, withProgress, hm]
  simp only [Bool.false_eq_true, if_false, State.modMe_modMe]
  rfl

end

theorem busyWait_pass {n : Nat} {r : Run} (h : (r.s.slotAt n).state ≠ .busy) : busyWait n r = .ok () r := if_neg h

theorem bound_pass {c : BitVec 4} {r : Run} (h : (r.s.me.getC c).bound = true) : bound c r = .ok () r := by
  rw [bound, run_bind, run_getMe]
  dsimp only
  rw [run_require, h, if_pos rfl]

/-! CXINFO and SETEXP (R174). -/

/-- The word of a landing register's two bits. -/
theorem landingWord (l : Landing) : BitVec.ofNat 64 ((if l.valid then 1 else 0) + if l.err then 2 else 0) =
    (if l.valid then 1#64 else 0) + if l.err then 2#64 else 0 := by
  cases l.valid <;> cases l.err <;> rfl

section
variable {s : State} (c : BitVec 4) (d sel : BitVec 5) (k : BitVec 4) (h : s.me.Fresh)
include h

theorem execCxinfo_slot (hok : cxinfoOk c 0#5 sel k = true) (hsel : sel.toNat ≤ 7) (hfree : (s.slotAt c.toNat).state ≠ .busy) :
    execCxinfo c 0#5 d sel k s =
      Claims.done s fun t => (t.setX d (slotInfo (s.slotAt c.toNat) sel.toNat k.toNat)).endProgress := by
  unfold execCxinfo
  refine issueRun_fresh h (refusal_none s hok rfl rfl rfl) ?_
  rw [run_bind, single_fresh h]
  dsimp only
  rw [if_pos hsel, run_bind, busyWait_pass (r := s.starting _) hfree]
  exact ⟨_, rfl⟩

theorem execCxinfo_landing : execCxinfo 0#4 0#5 d 8#5 k s = Claims.done s fun t => (t.setX d
    ((if ((s.core s.here).landing.toList.getD k.toNat Landing.reset).valid then 1#64 else 0) +
      if ((s.core s.here).landing.toList.getD k.toNat Landing.reset).err then 2#64 else 0)).endProgress := by
  unfold execCxinfo
  refine issueRun_fresh h (refusal_none s rfl rfl rfl rfl) ?_
  rw [run_bind, single_fresh h, ← landingWord]
  exact ⟨_, rfl⟩

theorem execCxinfo_register (hlo : 16 ≤ sel.toNat) (hhi : sel.toNat ≤ 19) (hb : (s.me.getC c).bound = true) (hs : s.Steady c) :
    execCxinfo c 0#5 d sel 0#4 s =
      Claims.done s fun t => (t.setX d ((s.me.getC c).bits.extractLsb' (64 * (sel.toNat % 4)) 64)).endProgress := by
  have hok : cxinfoOk c 0#5 sel 0#4 = true := by
    rw [cxinfoOk, if_neg (by omega), if_neg (by omega), decide_eq_true ⟨hlo, hhi⟩]
    rfl
  have same : s.modMe (fun t => t.setX d ((t.getC c).bits.extractLsb' (64 * (sel.toNat % 4)) 64)) =
      s.modMe (fun t => t.setX d ((s.me.getC c).bits.extractLsb' (64 * (sel.toNat % 4)) 64)) := s.modMe_congr rfl
  unfold execCxinfo
  refine issueRun_fresh h (refusal_none s hok rfl rfl rfl) ?_
  rw [run_bind, single_fresh h]
  dsimp only
  rw [if_neg (by omega), if_neg (by omega), run_bind, bound_pass (r := s.starting _) hb]
  dsimp only
  rw [run_bind, generations_fresh h _ (List.forall_mem_singleton.2 hs), ← same]
  exact ⟨_, rfl⟩

theorem execCxinfoSetexp_done (x : BitVec 5) (hb : (s.me.getC c).bound = true) (hf : (s.me.getC c).fmt = 0#2) (hs : s.Steady c) :
    execCxinfoSetexp c x s =
      Claims.done s fun t => (t.setC c { s.me.getC c with exp := (s.me.getX x).setWidth 16 }).endProgress := by
  have same : s.modMe (fun t => t.setC c { t.getC c with exp := (t.getX x).setWidth 16 }) =
      s.modMe (fun t => t.setC c { s.me.getC c with exp := (s.me.getX x).setWidth 16 }) := s.modMe_congr rfl
  have int : ((s.me.getC c).fmt == 0#2) = true := beq_iff_eq.2 hf
  unfold execCxinfoSetexp
  refine issueRun_fresh h (refusal_none s rfl rfl rfl rfl) ?_
  rw [run_bind, single_fresh h]
  dsimp only
  rw [run_bind, bound_pass (r := s.starting _) hb]
  dsimp only
  rw [run_bind, run_getMe]
  dsimp only
  rw [run_bind, run_require, show (s.starting _).s.me = s.me from rfl, int, if_pos rfl]
  dsimp only
  rw [run_bind, generations_fresh h _ (List.forall_mem_singleton.2 hs), ← same]
  exact ⟨_, rfl⟩

end

/-! CBIND (R175). -/

theorem baseAlign_pass {v : Word} {r : Run} (h : v.toNat % 8 = 0) : baseAlign v r = .ok () r := by
  rw [baseAlign, run_require, beq_iff_eq.2 h, if_pos rfl]

theorem baseWindow_pass {v : Word} {r : Run} (h : v.toNat < 2 ^ 57) : baseWindow v r = .ok () r := by
  rw [baseWindow, run_require, beq_iff_eq.2 (Nat.div_eq_of_lt h), if_pos rfl]

/-- The word of no register is that of x0. -/
theorem Strand.getX_or_zero (t : Strand) (g : BitVec 5) : (if g = 0#5 then 0#64 else t.getX g) = t.getX g := by
  split
  · subst g; rfl
  · rfl

/-- The register that CBIND makes (R151, R175): of a cochain of degree e, dual where u, on a slot of the number n. -/
def boundReg (sl : ComplexSlot) (f : BitVec 2) (u : BitVec 1) (e n : BitVec 2) (owned ghosts : Word) : CochainReg :=
  let k := if u = 1#1 then cxDim sl.desc - e.toNat else e.toNat
  { bound := true, fmt := f, dual := u == 1#1, deg := e, slot := n, gen := sl.gen, exp := 0
    gcount := BitVec.ofNat 21 (cxNghost sl.desc k), count := BitVec.ofNat 21 (cxNown sl.desc k)
    gbase := ghosts.setWidth 57, dbase := owned.setWidth 57 }

theorem execCbind_done {s : State} (c : BitVec 4) (x g : BitVec 5) {f : BitVec 2} (u : BitVec 1) {e n : BitVec 2} (h : s.me.Fresh)
    (hf : f ≠ 3#2) (hl : (s.slotAt n.toNat).state = .loaded) (he : e.toNat ≤ cxDim (s.slotAt n.toNat).desc)
    (hg : g = 0#5 → cxNghost (s.slotAt n.toNat).desc
      (if u = 1#1 then cxDim (s.slotAt n.toNat).desc - e.toNat else e.toNat) = 0)
    (ha : (s.me.getX x).toNat % 8 = 0) (hga : (s.me.getX g).toNat % 8 = 0) (hw : (s.me.getX x).toNat < 2 ^ 57)
    (hgw : (s.me.getX g).toNat < 2 ^ 57) :
    execCbind c x g f u e n s =
      Claims.done s fun t => (t.setC c (boundReg (s.slotAt n.toNat) f u e n (s.me.getX x) (s.me.getX g))).endProgress := by
  have legal : (f != 3#2) = true := bne_iff_ne.2 hf
  have free : (s.slotAt n.toNat).state ≠ .busy := by rw [hl]; decide
  have ghosts : (if g = 0#5 then 0 else s.me.getX g) = s.me.getX g := s.me.getX_or_zero g
  have same : s.modMe (fun t => t.setC c (boundReg (s.slotAt n.toNat) f u e n (t.getX x) (s.me.getX g))) =
      s.modMe (fun t => t.setC c (boundReg (s.slotAt n.toNat) f u e n (s.me.getX x) (s.me.getX g))) := s.modMe_congr rfl
  unfold execCbind
  refine issueRun_fresh h (refusal_none s legal rfl rfl rfl) ?_
  rw [run_bind, single_fresh h]
  dsimp only
  rw [run_bind, busyWait_pass (r := s.starting _) free]
  dsimp only
  rw [run_bind, run_getS]
  dsimp only [State.starting]
  rw [run_bind, run_require, if_pos (by simpa [hl, he, imp_iff_not_or] using hg)]
  dsimp only
  rw [ghosts, run_bind, baseAlign_pass ha]
  dsimp only
  rw [run_bind, baseAlign_pass hga]
  dsimp only
  rw [run_bind, baseWindow_pass hw]
  dsimp only
  rw [run_bind, baseWindow_pass hgw, ← same]
  exact ⟨_, rfl⟩

end Sys2Proof.Machine

/-! SUPPORT. Slots, and CXLOAD behind its last element (R138, R140, R170, R171). -/

namespace Sys2Proof.Machine

/-! A slot changed, and the strands that wait for it ready again (R138, R140). -/

theorem State.slotAt_setSlot (s : State) {n : Nat} (hn : n < 4) (f : ComplexSlot → ComplexSlot) :
    (s.setSlot n f).slotAt n = f (s.slotAt n) := by
  have place : (s.setSlot n f).here = s.here := rfl
  rw [State.slotAt, place, State.setSlot, State.core_modCore_same, State.slotAt]
  simp [List.getD, hn]

@[simp] theorem State.slotAt_modMe (s : State) (f : Strand → Strand) (n : Nat) : (s.modMe f).slotAt n = s.slotAt n := rfl

/-- A slot as it is once its CXLOAD or CXEDIT holds it no longer. -/
def ComplexSlot.released (x : ComplexSlot) (st : SlotState) : ComplexSlot := { x with state := st, holder := none }

/-- What `settleSlot` does to the state. -/
def State.slotSettled (s : State) (n : Nat) (st : SlotState) : State := (s.setSlot n (·.released st)).slotFreed s.here n

theorem settleSlot_run (n : Nat) (st : SlotState) (r : Run) : settleSlot n st r = .ok () { r with s := r.s.slotSettled n st } := rfl

section
variable (s : State)

/-- Strands made ready change nothing else. -/
theorem State.slotFreed_keeps {α : Type} (f : State → α) (hf : ∀ (s : State) h k, f (s.modStrand h k) = f s) (c n : Nat) :
    f (s.slotFreed c n) = f s := by
  refine foldl_keeps f (fun t k => ?_) _ s
  split
  · split
    · exact hf _ _ _
    · rfl
  · rfl

variable {n : Nat} (st : SlotState)

@[simp] theorem State.slotSettled_mem : (s.slotSettled n st).mem = s.mem :=
  State.slotFreed_keeps _ State.mem (fun _ _ _ => rfl) _ _

theorem State.slotAt_slotSettled (hn : n < 4) : (s.slotSettled n st).slotAt n = (s.slotAt n).released st := by
  rw [State.slotSettled, State.slotFreed_keeps _ (State.slotAt · n) (fun _ _ _ => rfl)]
  exact s.slotAt_setSlot hn _

/-- What a CXLOAD or CXEDIT leaves that settles its slot and returns its status. -/
theorem done_settled (hn : n < 4) (d : BitVec 5) (v : Word) :
    ∃ t, Claims.done ((s.slotSettled n st).modMe (·.setX d v)) Strand.endProgress = .next t ∧ (d ≠ 0#5 → t.me.getX d = v) ∧
      t.me.ciprog = 0#64 ∧ t.mem = s.mem ∧ t.slotAt n = (s.slotAt n).released st := by
  refine ⟨_, rfl, fun hd => ?_, ?_, ?_, ?_⟩
  · rw [State.me_retire, State.me_modMe, State.me_modMe, Strand.getX_advance]
    exact Strand.getX_setX_same _ v hd
  · rw [State.me_retire, State.me_modMe, Strand.advance_ciprog]
    rfl
  · rw [State.retire_mem, State.modMe_mem, State.modMe_mem, State.slotSettled_mem]
  · rw [State.retire, State.slotAt_modMe, State.slotAt_modMe, State.slotAt_modMe, s.slotAt_slotSettled st hn]

end

/-- A CXLOAD or CXEDIT that has come to the end of its run is complete. -/
theorem issueRun_settles {i : Instr} {m : M Unit} {s u : State} {n : Nat} {st : SlotState} {d : BitVec 5} {v : Word} {new : List Ans}
    (hr : refusal i s = none) (hm : m { s := s, past := s.me.log, new := [], leaves := false } =
      (settleSlot n st >>= fun _ => modT (·.setX d v)) { s := u, past := [], new := new, leaves := false }) :
    issueRun i (withProgress m) s = Claims.done ((u.slotSettled n st).modMe (·.setX d v)) Strand.endProgress := by
  rw [issueRun, issue_pass _ hr]
  refine (runInstr_congr (withProgress_congr hm)).trans
    (runInstr_completes (r := ⟨(u.slotSettled n st).modMe (·.setX d v), [], new, false⟩) ?_ rfl)
  rw [run_bind, settleSlot_run]
  exact run_modT _ _

/-! CXLOAD (R170, R171). -/

/-- A word of the pass over the seams is none of the pass over the cells. -/
theorem ne_progWord_of_pass {w : Word} (hp : progPass w = 1) : w ≠ progWord 0x6D 0 0 0 := by
  rintro rfl
  exact absurd hp (by decide)

section
variable {w : Word} {ds : List Byte} (hp : progPass w = 1) (hk : progDeg w = cxDim ds) (hn : progNext w = cxNseam ds (cxDim ds))
include hp hk hn

/-- Behind the last seam entry of the highest degree nothing is left to check. -/
theorem cxloadChecks_behind (r : Run) : ∃ new, cxloadChecks ds w r = .ok 0#64 { r with s := r.s.withLog [], new := new } := by
  have first : ¬ (progPass w = 0 ∧ progDeg w = 0 ∧ progNext w = 0) := by omega
  have cells : ¬ progPass w = 0 := by omega
  obtain ⟨new, marked⟩ := checkpoint_run (progWord 0x6D 1 (min (cxDim ds + 1) (cxDim ds))
    (if cxDim ds + 1 ≤ cxDim ds then 0 else cxNseam ds (cxDim ds))) 0#5 r
  refine ⟨new, ?_⟩
  rw [cxloadChecks, if_neg first]
  dsimp only
  rw [if_neg cells, if_neg cells, run_bind, run_pure]
  dsimp only
  rw [hk, hn, Nat.add_sub_cancel_left, run_bind, checkDegrees, Nat.sub_self, run_bind, checkSeams, run_pure]
  dsimp only
  rw [run_bind, marked]
  rfl

theorem execCxload_behind {s : State} {n : BitVec 2} (x d : BitVec 5) {p : Prog} (hs : (s.slotAt n.toNat).desc = ds)
    (hw : p.start = w) (hl : s.me.log = [.progress p]) (hb : p.began = true) :
    execCxload n x d s = Claims.done (((s.withLog []).slotSettled n.toNat .loaded).modMe (·.setX d 0#64)) Strand.endProgress := by
  subst hw hs
  obtain ⟨new, checked⟩ := cxloadChecks_behind hp hk hn { s := s, past := [], new := [], leaves := false }
  unfold execCxload
  refine issueRun_settles (new := new) (refusal_none s rfl rfl rfl rfl) ?_
  rw [run_bind, run_getMe]
  dsimp only
  rw [run_bind, progress_had (had := []) _ _ hl (fun _ => List.not_mem_nil)]
  dsimp only
  rw [hb, if_neg (by decide), if_neg (by decide), if_neg (ne_progWord_of_pass hp), run_bind, run_getS]
  dsimp only
  rw [run_bind, run_require, hk, decide_eq_true le_rfl, if_pos rfl]
  dsimp only
  rw [hp, if_neg Nat.one_ne_zero, ← hn, run_bind, inRange, run_require, decide_eq_true le_rfl, Bool.or_true, if_pos rfl]
  dsimp only
  rw [run_bind, checked]
  rfl

end

end Sys2Proof.Machine

/-! SUPPORT. Writes of a strand to its own unit scratch (R218, R219, R242): what they leave alone. -/

namespace Sys2Proof.Machine

/-! What a write to bytes with keys from `lo` up to `hi` leaves alone. -/

/-- From s to t no more changed, of what the accesses of a strand to its own unit scratch depend on, than bytes with keys from `lo` up
to `hi`; where no tile was moving none is. -/
structure State.WritesWithin (lo hi : Nat) (s t : State) : Prop where
  cur : t.cur = s.cur
  mode : ∀ h, (t.strand h).mode = (s.strand h).mode
  slots : ∀ c, (t.core c).slots = (s.core c).slots
  moving : ∀ q, s.movingAt q = none → t.movingAt q = none
  slip : ∀ q, (t.tagAt q).slip = (s.tagAt q).slip
  bytes : ∀ q : Loc, ¬ (lo ≤ q.key ∧ q.key < hi) → t.byteAt q = s.byteAt q

namespace State.WritesWithin

variable {lo hi : Nat} {s t u : State}

theorem refl (lo hi : Nat) (s : State) : WritesWithin lo hi s s :=
  ⟨rfl, fun _ => rfl, fun _ => rfl, fun _ => id, fun _ => rfl, fun _ _ => rfl⟩

theorem trans (h : WritesWithin lo hi s t) (k : WritesWithin lo hi t u) : WritesWithin lo hi s u where
  cur := k.cur.trans h.cur
  mode n := (k.mode n).trans (h.mode n)
  slots c := (k.slots c).trans (h.slots c)
  moving q := k.moving q ∘ h.moving q
  slip q := (k.slip q).trans (h.slip q)
  bytes q n := (k.bytes q n).trans (h.bytes q n)

theorem mono {lo' hi' : Nat} (h : WritesWithin lo hi s t) (hlo : lo' ≤ lo) (hhi : hi ≤ hi') : WritesWithin lo' hi' s t :=
  { h with bytes := fun q n => h.bytes q fun k => n ⟨hlo.trans k.1, k.2.trans_le hhi⟩ }

theorem foldl {β : Type} {step : State → β → State} (h : ∀ s b, WritesWithin lo hi s (step s b)) (bs : List β) (s : State) :
    WritesWithin lo hi s (bs.foldl step s) := by
  induction bs generalizing s with
  | nil => exact refl lo hi s
  | cons b bs ih => exact (h s b).trans (ih _)

/-! The updates of the state that are such writes. -/

theorem modStrand (h : Nat) {f : Strand → Strand} (hf : ∀ t, (f t).mode = t.mode) : WritesWithin lo hi s (s.modStrand h f) :=
  { refl lo hi s with
    mode := fun n => by
      by_cases e : h = n
      · rw [e, State.strand_modStrand_same, hf]
      · rw [State.strand_modStrand_ne s f e] }

theorem modCore (c : Nat) {f : Core → Core} (hf : ∀ t, (f t).slots = t.slots) : WritesWithin lo hi s (s.modCore c f) :=
  { refl lo hi s with
    slots := fun n => by
      by_cases e : c = n
      · rw [e, State.core_modCore_same, hf]
      · rw [State.core_modCore_ne s f e] }

theorem retry (r : List (Nat × PathEntry)) : WritesWithin lo hi s { s with retry := r } := { refl lo hi s with }

theorem setTag (l : Loc) {x : WordTag} (hx : x.slip = (s.tagAt l).slip) : WritesWithin lo hi s (s.setTag l x) :=
  { refl lo hi s with
    slip := fun q => by
      rw [State.tagAt_setTag]
      split
      · rw [hx, State.tagAt, State.tagAt, ‹l.key / 8 = q.key / 8›]
      · rfl }

theorem putRaw (l : Loc) (bs : List Byte) (h : ∀ k, l.key ≤ k ∧ k < l.key + bs.length → lo ≤ k ∧ k < hi) :
    WritesWithin lo hi s (s.putRaw l bs) :=
  { refl lo hi s with bytes := fun q n => s.byteAt_putRaw_other l q bs fun k => n (h q.key k) }

end State.WritesWithin

/-- A table's entry is one that is listed, or the blank one. -/
theorem tableGet_mem {α : Type} (d : α) (t : List (Nat × α)) (a : Nat) : tableGet d t a = d ∨ (a, tableGet d t a) ∈ t := by
  induction t with
  | nil => exact .inl rfl
  | cons e r ih =>
    obtain ⟨k, x⟩ := e
    by_cases h : k = a
    · subst h; exact .inr (by simp [tableGet])
    · rw [tableGet, if_neg h]
      exact ih.imp_right (List.mem_cons_of_mem _)

namespace State.WritesWithin

variable {lo hi : Nat} {s : State}

theorem modDie (d : Nat) {f : Die → Die} (hf : ∀ t, (f t).barchan = t.barchan) : WritesWithin lo hi s (s.modDie d f) :=
  { refl lo hi s with
    moving := fun q none => by
      have listed : ∀ b ∈ (s.modDie d f).dies.flatMap fun d => d.2.barchan, b ∈ s.dies.flatMap fun d => d.2.barchan := by
        intro b hb
        obtain ⟨e, he, hbe⟩ := List.mem_flatMap.1 hb
        rcases mem_tableSet _ _ _ _ he with rfl | old
        · rw [hf] at hbe
          rcases tableGet_mem Die.reset s.dies d with blank | entry
          · rw [State.die, blank] at hbe
            exact absurd hbe List.not_mem_nil
          · exact List.mem_flatMap.2 ⟨_, entry, hbe⟩
        · exact List.mem_flatMap.2 ⟨e, old, hbe⟩
      rw [State.movingAt, List.find?_eq_none] at none ⊢
      exact fun b hb => none b (listed b hb) }

/-! An event logged, a watch fired, a line recorded: no bytes change (R287, R361, R362). -/

theorem signalManager (d : Nat) : WritesWithin lo hi s (s.signalManager d) := by
  have wake (s : State) (h : Nat) : WritesWithin lo hi s (s.wakeWfi h) := by
    unfold State.wakeWfi
    split
    · exact modStrand h fun _ => rfl
    · exact refl lo hi s
  unfold State.signalManager
  split
  · unfold State.raiseExt
    refine trans ?_ (wake _ _)
    exact modStrand _ fun _ => rfl
  · exact refl lo hi s

theorem logError (d : Nat) (addr : Word) (epid source event : Nat) : WritesWithin lo hi s (s.logError d addr epid source event) := by
  have put (f : Die → Die) (hf : ∀ t, (f t).barchan = t.barchan) : WritesWithin lo hi s ((s.modDie d f).signalManager d) :=
    (modDie d hf).trans (signalManager d)
  unfold State.logError
  dsimp only
  split
  · split
    · exact modDie d fun _ => rfl
    · exact put _ fun _ => rfl
  · exact put _ fun _ => rfl

theorem fireWatch (h : Nat) : WritesWithin lo hi s (s.fireWatch h) := by
  unfold State.fireWatch
  dsimp only
  split
  · have fired (va : Word) : WritesWithin lo hi s ((s.modStrand h fun t => { t with watch := .fired va }).dropWatch h) := by
      refine trans ?_ (retry _)
      exact modStrand h fun _ => rfl
    split
    · split
      · exact (fired _).trans (modStrand h fun _ => rfl)
      · exact fired _
    · exact fired _
  · exact refl lo hi s

theorem recordLine (c : Nat) (w : Loc) : WritesWithin lo hi s (s.recordLine c w) := by
  have noted : WritesWithin lo hi s (s.modCore c fun t => t.noteWrite w) :=
    modCore c fun t => by unfold Core.noteWrite; split <;> rfl
  unfold State.recordLine
  dsimp only
  split
  · exact refl lo hi s
  · split
    · exact noted
    · split
      · exact noted.trans (modCore c fun _ => rfl)
      · exact noted.trans (modCore c fun _ => rfl)

/-! The write itself (R218, R242). -/

variable (l : Loc) (bs : List Byte)

theorem writeWord (w : Loc) (fe : Option Bool) : WritesWithin l.key (l.key + bs.length) s (s.writeWord w l bs fe) := by
  have part : WritesWithin l.key (l.key + bs.length) s (s.putRaw { l with off := max w.off l.off }
      ((bs.drop (max w.off l.off - l.off)).take (min (w.off + 8) (l.off + bs.length) - max w.off l.off))) := by
    refine putRaw _ _ fun k hk => ?_
    rw [List.length_take, List.length_drop] at hk
    simp only [Loc.key] at hk ⊢
    omega
  unfold State.writeWord
  dsimp only
  split
  · exact part.trans (setTag w rfl)
  · split
    · exact logError _ _ _ _ _
    · split
      · exact part.trans (setTag w rfl)
      · exact part

theorem write (c : Nat) (fe : Option Bool) : WritesWithin l.key (l.key + bs.length) s (s.write c l bs fe) := by
  unfold State.write
  exact ((foldl (fun s w => recordLine c w) _ s).trans (foldl (fun s w => writeWord l bs w fe) _ _)).trans
    (foldl (fun _ (e : Nat × PathEntry) => fireWatch e.2.acc.strand) _ _)

end State.WritesWithin

end Sys2Proof.Machine

/-! SUPPORT. Loads and stores of a strand in its own unit scratch, performed at issue (R141, R167, R219, R314). -/

namespace Sys2Proof.Machine

/-! The unit window (R314). -/

theorem windowOf_unit {a : Nat} (hlo : unitBase ≤ a) (hhi : a < unitBase + 0x28000) : windowOf a = (.unit, a - unitBase) := by
  simp only [unitBase] at hlo hhi ⊢
  have first : (a - 2 ^ 56) / 2 ^ 40 = 0 := by omega
  have offset : (a - 2 ^ 56) % 2 ^ 40 = a - 0x0100000000000000 := by omega
  rw [windowOf, if_neg (by omega), if_neg (by omega), if_neg (by omega)]
  dsimp only
  rw [first, offset]
  rfl

theorem twoWindows_unit {a n : Nat} (hlo : unitBase ≤ a) (hhi : a + n ≤ unitBase + 0x28000) : twoWindows a n = false := by
  by_cases h : 0 < n
  · rw [twoWindows, windowOf_unit hlo (by omega), windowOf_unit (by omega) (by omega), bne_self_eq_false, Bool.and_false]
  · rw [twoWindows, decide_eq_false h, Bool.false_and]

/-! Pieces (R141). -/

theorem mem_pieces {a n : Nat} {p : Nat × Nat} (h : p ∈ pieces a n) : a ≤ p.1 ∧ p.1 + p.2 ≤ a + n := by
  unfold pieces at h
  split at h
  · exact absurd h List.not_mem_nil
  · obtain ⟨i, hi, rfl⟩ := List.mem_map.1 h
    have := List.mem_range.1 hi
    dsimp only
    omega

theorem pieces_lines {a : Nat} (h : a % 64 = 0) : pieces a 128 = [(a, 64), (a + 64, 64)] := by
  have lines : (a + 128 - 1) / 64 - a / 64 + 1 = 2 := by omega
  rw [pieces, if_neg (by decide)]
  dsimp only
  rw [lines]
  simp only [List.range, List.range.loop, List.map, List.cons.injEq, Prod.mk.injEq, and_true]
  omega

/-! Bytes as they are read, and kept in a vector. -/

theorem getBytes_append (m : List Host.Cell) (k a b : Nat) : getBytes m k (a + b) = getBytes m k a ++ getBytes m (k + a) b := by
  induction a generalizing k with
  | zero => rw [Nat.zero_add]; rfl
  | succ a ih => rw [Nat.add_right_comm, getBytes, ih, getBytes, Nat.add_right_comm, Nat.add_assoc]; rfl

@[simp] theorem length_getBytes (m : List Host.Cell) (k n : Nat) : (getBytes m k n).length = n := by
  induction n generalizing k with
  | zero => rfl
  | succ n ih => rw [getBytes, List.length_cons, ih]

theorem State.length_bytesAt (s : State) (l : Loc) (n : Nat) : (s.bytesAt l n).length = n := length_getBytes _ _ n

theorem bytesOfNat_natOfBytes (bs : List Byte) : bytesOfNat bs.length (natOfBytes bs) = bs := by
  induction bs with
  | nil => rfl
  | cons b bs ih =>
    have low : BitVec.ofNat 8 (b.toNat + 256 * natOfBytes bs) = b := BitVec.eq_of_toNat_eq (by
      have := b.isLt
      rw [BitVec.toNat_ofNat]
      omega)
    have rest : (b.toNat + 256 * natOfBytes bs) / 256 = natOfBytes bs := by
      have := b.isLt
      omega
    rw [List.length_cons, natOfBytes, bytesOfNat, low, rest, ih]

set_option exponentiation.threshold 512 in
/-- At most 64 bytes fill a vector register no further than it holds. The option lets Lean evaluate the bound of its 512 bits. -/
theorem bytesOfNat_vecOfBytes {bs : List Byte} {n : Nat} (hn : bs.length = n) (h : n ≤ 64) :
    bytesOfNat n (vecOfBytes bs).toNat = bs := by
  have fits : natOfBytes bs < 2 ^ 512 :=
    calc natOfBytes bs < 256 ^ n := hn ▸ natOfBytes_lt bs
      _ = 2 ^ (8 * n) := (Nat.pow_mul 2 8 n).symm
      _ ≤ 2 ^ 512 := Nat.pow_le_pow_right (by decide) (by omega)
  rw [vecOfBytes, BitVec.toNat_ofNat, Nat.mod_eq_of_lt fits, ← hn, bytesOfNat_natOfBytes]

theorem mem_wordsOf {l w : Loc} {n : Nat} :
    w ∈ wordsOf l n ↔ n ≠ 0 ∧ ∃ k, l.off / 8 ≤ k ∧ k ≤ (l.off + n - 1) / 8 ∧ { l with off := 8 * k } = w := by
  by_cases h : n = 0
  · simp [wordsOf, h]
  · rw [wordsOf, if_neg h, List.mem_map]
    simp only [List.mem_range]
    constructor
    · rintro ⟨i, hi, e⟩
      exact ⟨h, l.off / 8 + i, by omega, by omega, e⟩
    · rintro ⟨-, k, h1, h2, e⟩
      exact ⟨k - l.off / 8, by omega, by rw [← e, Nat.add_sub_cancel' h1]⟩

/-- A part of bytes without poison has none (R242). -/
theorem State.firstPoison_part {s : State} {l : Loc} {n i k : Nat} (h : s.firstPoison l n = none) (hik : i + k ≤ n) :
    s.firstPoison (l.plus i) k = none := by
  rw [State.firstPoison, Option.map_eq_none_iff, List.find?_eq_none] at h ⊢
  intro w hw
  obtain ⟨hk, q, h1, h2, e⟩ := mem_wordsOf.1 hw
  have h1 : (l.off + i) / 8 ≤ q := h1
  have h2 : q ≤ (l.off + i + k - 1) / 8 := h2
  exact h w (mem_wordsOf.2 ⟨by omega, q, by omega, by omega, e⟩)

/-! Own unit scratch, with no tile moving or slipped. -/

/-- The place of an address in the own unit scratch. -/
def State.scratch (s : State) (a : Nat) : Loc := { home := .unit s.here, off := a - unitBase }

/-- A compute strand that no guard stops, where no tile moves and none has slipped: its own unit scratch answers at issue. -/
structure State.ScratchOpen (s : State) : Prop where
  compute : s.here < 4096
  mode : s.me.mode ≠ .u
  still : ∀ q, s.movingAt q = none ∧ (s.tagAt q).slip = none

theorem State.scratch_key_add (s : State) {a : Nat} (n : Nat) (h : unitBase ≤ a) : (s.scratch (a + n)).key = (s.scratch a).key + n := by
  simp only [State.scratch, Loc.key]
  omega

theorem State.scratch_key_le (s : State) {a b : Nat} (h : a ≤ b) : (s.scratch a).key ≤ (s.scratch b).key := by
  simp only [State.scratch, Loc.key]
  omega

section
variable {lo hi : Nat} {s t : State} (h : State.WritesWithin lo hi s t)
include h

theorem State.WritesWithin.here : t.here = s.here := by rw [State.here, h.cur, State.here]

theorem State.WritesWithin.scratch (a : Nat) : t.scratch a = s.scratch a := by rw [State.scratch, h.here, State.scratch]

theorem State.WritesWithin.slotAt (n : Nat) : t.slotAt n = s.slotAt n := by rw [State.slotAt, h.here, h.slots, State.slotAt]

end

theorem State.ScratchOpen.of_writesWithin {lo hi : Nat} {s t : State} (h : s.ScratchOpen) (w : State.WritesWithin lo hi s t) :
    t.ScratchOpen where
  compute := w.here ▸ h.compute
  mode := by rw [State.me, w.cur, w.mode]; exact h.mode
  still q := ⟨w.moving q (h.still q).1, (w.slip q).trans (h.still q).2⟩

theorem guardsPass_privileged {c : Core} {mode : Mode} (h : mode ≠ .u) (a n : Nat) (need : Need) : guardsPass c mode a n need = true :=
  if_pos (bne_iff_ne.2 h)

section
variable {s : State} (h : s.ScratchOpen) {a n : Nat} (new : List Ans) (leaves : Bool)
include h

section
variable {f : Form} (hw : f ≠ .watch) (hs : f ≠ .sweep) (hlo : unitBase ≤ a) (hhi : a + n ≤ unitBase + 0x20000)
include hw hs hlo hhi

theorem State.windowPlace_scratch : s.windowPlace s.here s.me.mode f a n = .ok (s.scratch a) .plain false := by
  have control : isControl s.here = false := decide_eq_false (Nat.not_le.2 h.compute)
  have inside : ¬ 0x28000 < a - unitBase + n := by omega
  rw [State.windowPlace]
  rw [windowOf_unit hlo (by omega)]
  dsimp only
  rw [control, decide_eq_false inside, beq_eq_false_iff_ne.2 hw, beq_eq_false_iff_ne.2 hs]
  rfl

theorem State.resolve_scratch : s.resolve s.here s.me.mode f (BitVec.ofNat 64 a) n true = .ok (s.scratch a) .plain false := by
  have bound : unitBase + 0x20000 < 2 ^ 57 := by decide
  have toNat : (BitVec.ofNat 64 a).toNat = a := by rw [BitVec.toNat_ofNat]; omega
  have window := windowOf_unit hlo (show a < unitBase + 0x28000 by omega)
  have phase : ¬ ((s.inCompute s.here && (windowOf a).1.refusedInCompute) = true) := by
    rw [window, show Window.refusedInCompute .unit = false from rfl, Bool.and_false]
    decide
  rw [State.resolve, toNat, if_neg (by simp), if_neg (by omega), if_neg phase, window]
  dsimp only
  rw [State.windowPlace_scratch h hw hs hlo hhi]
  dsimp only
  rw [guardsPass_privileged h.mode, if_pos rfl]

theorem resolve_scratch_run : ∃ new', resolve f (BitVec.ofNat 64 a) n true ⟨s, [], new, leaves⟩ =
    .ok (s.scratch a, .plain, false) ⟨s, [], new', leaves⟩ := by
  refine ⟨new ++ [.place (BitVec.ofNat 64 a) (s.scratch a) .plain false], ?_⟩
  rw [resolve, run_bind, act_now _ rfl]
  simp only [resolveAct, State.resolve_scratch h hw hs hlo hhi]
  rfl

end

/-! Loads (R219). -/

theorem State.perform_load {l : Loc} {x : Access} (hl : x.loc = l) (hk : x.kind = .load .plain false) (hn : x.len = n)
    (hp : s.firstPoison l n = none) (c : Nat) : s.perform c x = .done s (vecOfBytes (s.bytesAt l n)) := by
  obtain ⟨moving, slip⟩ := h.still l
  simp only [State.perform, hl, hk, hn, moving, slip, State.viewPoison, State.readView, hp]
  rfl

theorem access_load_scratch (va : Word) (hp : s.firstPoison (s.scratch a) n = none) :
    ∃ new', access va (s.scratch a) n (.load .plain false) false false ⟨s, [], new, leaves⟩ =
      .ok (vecOfBytes (s.bytesAt (s.scratch a) n), []) ⟨s, [], new', leaves⟩ := by
  have own : ((s.scratch a).home == .unit s.here) = true := beq_self_eq_true _
  have now : s.performNow s.here { s.accessOf true va (s.scratch a) n (.load .plain false) with sure := false } =
      .ok (.val (vecOfBytes (s.bytesAt (s.scratch a) n)) []) s := by
    show s.performNow s.here (Claims.accessOf s true va (s.scratch a) n (.load .plain false)) = _
    rw [State.performNow, State.perform_load h (l := s.scratch a) (n := n) rfl rfl rfl hp]
  refine ⟨new ++ [.val (vecOfBytes (s.bytesAt (s.scratch a) n)) []], ?_⟩
  rw [access, run_bind, run_getS]
  dsimp only
  rw [own, run_bind, act_now _ rfl, Bool.not_false, Bool.and_true, Bool.and_true, if_pos rfl]
  dsimp only at now ⊢
  rw [now]
  rfl

end

section
variable {s : State} (h : s.ScratchOpen) (new : List Ans) (leaves : Bool)
include h

/-- Pieces of the own unit scratch without poison are read as they stand. -/
theorem peekPieces_scratch (ps : List (Nat × Nat))
    (hps : ∀ p ∈ ps, unitBase ≤ p.1 ∧ p.1 + p.2 ≤ unitBase + 0x20000 ∧ p.2 ≤ 64 ∧ s.firstPoison (s.scratch p.1) p.2 = none) :
    ∃ new', peekPieces ps ⟨s, [], new, leaves⟩ =
      .ok (ps.flatMap fun p => s.bytesAt (s.scratch p.1) p.2) ⟨s, [], new', leaves⟩ := by
  induction ps generalizing new with
  | nil => exact ⟨new, rfl⟩
  | cons p ps ih =>
    obtain ⟨⟨hlo, hhi, h64, clean⟩, rest⟩ := List.forall_mem_cons.1 hps
    obtain ⟨new1, placed⟩ := resolve_scratch_run h new leaves (f := .cochainRead) (by decide) (by decide) hlo hhi
    obtain ⟨new2, loaded⟩ := access_load_scratch h new1 leaves (BitVec.ofNat 64 p.1) clean
    obtain ⟨new3, others⟩ := ih new2 rest
    refine ⟨new3, ?_⟩
    rw [peekPieces, run_bind, placed]
    dsimp only
    rw [run_bind, loaded]
    dsimp only
    rw [run_bind, others]
    dsimp only
    rw [run_pure, bytesOfNat_vecOfBytes (s.length_bytesAt _ _) h64]
    rfl

/-- A record of two lines in the own unit scratch. -/
theorem peek_scratch {a : Nat} (ha : a % 64 = 0) (hlo : unitBase ≤ a) (hhi : a + 128 ≤ unitBase + 0x20000)
    (hp : s.firstPoison (s.scratch a) 128 = none) :
    ∃ new', peek a 128 ⟨s, [], new, leaves⟩ = .ok (s.bytesAt (s.scratch a) 128) ⟨s, [], new', leaves⟩ := by
  have first : (s.scratch a).plus 0 = s.scratch a := by rw [Loc.plus, Nat.add_zero]
  have second : (s.scratch a).plus 64 = s.scratch (a + 64) := by
    simp only [State.scratch, Loc.plus, Loc.mk.injEq, true_and]
    omega
  have bytes : s.bytesAt (s.scratch a) 128 = s.bytesAt (s.scratch a) 64 ++ (s.bytesAt (s.scratch (a + 64)) 64 ++ []) := by
    rw [List.append_nil, State.bytesAt, State.bytesAt, State.bytesAt, s.scratch_key_add 64 hlo]
    exact getBytes_append _ _ 64 64
  have poison1 : s.firstPoison ((s.scratch a).plus 0) 64 = none := State.firstPoison_part hp (by omega)
  have poison2 : s.firstPoison ((s.scratch a).plus 64) 64 = none := State.firstPoison_part hp (by omega)
  rw [first] at poison1
  rw [second] at poison2
  have window : twoWindows a 128 = false := twoWindows_unit hlo (hhi.trans (Nat.add_le_add_left (by decide) _))
  rw [peek, window, pieces_lines ha, bytes]
  refine peekPieces_scratch h new leaves _ ?_
  simp only [List.forall_mem_cons, List.not_mem_nil, false_imp_iff, implies_true, and_true]
  exact ⟨⟨hlo, by omega, by decide, poison1⟩, by omega, by omega, by decide, poison2⟩

end

/-! Stores (R173, R219). -/

theorem State.perform_store {s : State} (h : s.ScratchOpen) (a : Nat) (va : Word) (n : Nat) (bs : List Byte) :
    s.perform s.here (Claims.accessOf s true va (s.scratch a) n (.store bs none false)) = .done (s.write s.here (s.scratch a) bs) 0 := by
  obtain ⟨moving, slip⟩ := h.still (s.scratch a)
  simp only [State.perform, Claims.accessOf, moving, slip]
  rfl

/-- Performed at once from every state whose own unit scratch answers, the step changes bytes of the own unit scratch from address `lo`
up to `hi` only. -/
def WritesScratch (lo hi : Nat) (m : M Unit) : Prop :=
  ∀ (s : State) (new : List Ans) (leaves : Bool), s.ScratchOpen → ∃ t new', m ⟨s, [], new, leaves⟩ = .ok () ⟨t, [], new', leaves⟩ ∧
    State.WritesWithin (s.scratch lo).key (s.scratch hi).key s t

section
variable {lo hi : Nat} {m k : M Unit}

theorem WritesScratch.pure : WritesScratch lo hi (Pure.pure ()) := fun s new _ _ => ⟨s, new, rfl, .refl _ _ s⟩

theorem WritesScratch.bind (hm : WritesScratch lo hi m) (hk : WritesScratch lo hi k) : WritesScratch lo hi (m >>= fun _ => k) := by
  intro s new leaves h
  obtain ⟨t, new1, first, ht⟩ := hm s new leaves h
  obtain ⟨u, new2, second, hu⟩ := hk t new1 leaves (h.of_writesWithin ht)
  rw [ht.scratch, ht.scratch] at hu
  exact ⟨u, new2, by rw [run_bind, first]; exact second, ht.trans hu⟩

/-- One piece stored. -/
theorem WritesScratch.piece {a n : Nat} {bs : List Byte} (hbs : bs.length ≤ n) (hlo : unitBase ≤ lo)
    (hhi : hi ≤ unitBase + 0x20000) (ha : lo ≤ a) (han : a + n ≤ hi) :
    WritesScratch lo hi (resolve .cochainWrite (BitVec.ofNat 64 a) n true >>= fun x =>
      cochainStore (BitVec.ofNat 64 a) x.1 (.store bs none false) n) := by
  intro s new leaves h
  obtain ⟨new1, placed⟩ := resolve_scratch_run h new leaves (f := .cochainWrite) (by decide) (by decide) (hlo.trans ha) (han.trans hhi)
  refine ⟨s.write s.here (s.scratch a) bs, new1 ++ [.val 0 []], ?_, (State.WritesWithin.write _ bs _ none).mono (s.scratch_key_le ha) ?_⟩
  · rw [run_bind, placed]
    dsimp only
    rw [cochainStore, run_bind, access_performed rfl (State.perform_store h a _ n bs)]
    rfl
  · calc (s.scratch a).key + bs.length ≤ (s.scratch a).key + n := Nat.add_le_add_left hbs _
      _ = (s.scratch (a + n)).key := (s.scratch_key_add n (hlo.trans ha)).symm
      _ ≤ (s.scratch hi).key := s.scratch_key_le han

theorem WritesScratch.pokePieces (hlo : unitBase ≤ lo) (hhi : hi ≤ unitBase + 0x20000) (bs : List Byte) (start : Nat)
    (ps : List (Nat × Nat)) (hps : ∀ p ∈ ps, lo ≤ p.1 ∧ p.1 + p.2 ≤ hi) : WritesScratch lo hi (pokePieces bs start ps) := by
  induction ps with
  | nil => exact .pure
  | cons p ps ih =>
    obtain ⟨⟨ha, han⟩, rest⟩ := List.forall_mem_cons.1 hps
    have stored := (WritesScratch.piece (bs := (bs.drop (p.1 - start)).take p.2) (List.length_take_le _ _) hlo hhi ha han).bind
      (ih rest)
    rwa [bind_assoc] at stored

theorem WritesScratch.poke {a : Nat} {bs : List Byte} (hlo : unitBase ≤ lo) (hhi : hi ≤ unitBase + 0x20000) (ha : lo ≤ a)
    (han : a + bs.length ≤ hi) : WritesScratch lo hi (poke a bs) := by
  rw [Machine.poke, twoWindows_unit (hlo.trans ha) (by omega)]
  exact WritesScratch.pure.bind (.pokePieces hlo hhi bs a _ fun p hp => by
    have := mem_pieces hp
    omega)

end

end Sys2Proof.Machine

/-! SUPPORT. CXEDIT behind its last entry (R171 to R173). -/

namespace Sys2Proof.Machine

/-- A record in pass 2 that has no entries: nothing is left but the descriptor as it will stand. -/
theorem cxeditRun_noEntries {old h : List Byte} {va w : Word} {r r1 : Run} {p : Prog} (hpeek : peek va.toNat 128 r = .ok h r1)
    (hnone : fieldOf h 0 4 = 0) (hp : progPass w = 1) (hn : progNext w = 0) (hl : r1.s.me.log = [.progress p]) :
    ∃ g, cxeditRun old va w r = .ok (0#64, editedDesc old h) { r1 with s := r1.s.withLog [.progress g] } := by
  refine ⟨{ p with now := progWord 0x6E 1 0 0 }, ?_⟩
  rw [cxeditRun, run_bind, hpeek]
  dsimp only
  rw [hnone, if_neg (by decide), run_bind, run_require, hn, decide_eq_true (Nat.le_refl 0), if_pos rfl]
  dsimp only
  rw [hp, if_neg Nat.one_ne_zero, run_bind, readEntries, run_pure]
  dsimp only
  rw [if_neg Nat.one_ne_zero, run_bind, run_pure]
  dsimp only
  rw [if_neg (not_not_intro rfl), run_bind, mark_run _ hl]
  rfl

theorem State.WritesWithin.withLog {lo hi : Nat} {s : State} (l : List Ans) : State.WritesWithin lo hi s (s.withLog l) :=
  .modStrand s.cur (f := (·.withLog l)) fun _ => rfl

/-- The counts, the seams and the generation that CXEDIT writes into a descriptor in memory (R173). -/
def pokeDescriptor (x : ComplexSlot) (new : List Byte) : M Unit := do
  poke (x.addr.toNat + 0x10) ((new.drop 0x10).take 16)
  poke (x.addr.toNat + 0x20) ((new.drop 0x20).take 16)
  poke (x.addr.toNat + 0x98) ((new.drop 0x98).take 48)
  poke (x.addr.toNat + 4) (bytesOfNat 4 x.gen.toNat)

theorem pokeDescriptor_bind (x : ComplexSlot) (new : List Byte) (k : M Unit) :
    (do
      poke (x.addr.toNat + 0x10) ((new.drop 0x10).take 16)
      poke (x.addr.toNat + 0x20) ((new.drop 0x20).take 16)
      poke (x.addr.toNat + 0x98) ((new.drop 0x98).take 48)
      poke (x.addr.toNat + 4) (bytesOfNat 4 x.gen.toNat)
      k) = (pokeDescriptor x new >>= fun _ => k) := by
  simp only [pokeDescriptor, bind_assoc]

theorem pokeDescriptor_writes (x : ComplexSlot) (new : List Byte) (hlo : unitBase ≤ x.addr.toNat)
    (hhi : x.addr.toNat + 256 ≤ unitBase + 0x20000) :
    WritesScratch x.addr.toNat (x.addr.toNat + 256) (pokeDescriptor x new) := by
  have part (o n : Nat) (h : o + n ≤ 256) :
      WritesScratch x.addr.toNat (x.addr.toNat + 256) (poke (x.addr.toNat + o) ((new.drop o).take n)) := by
    have := List.length_take_le n (new.drop o)
    exact .poke hlo hhi (Nat.le_add_right _ o) (by omega)
  refine (part 0x10 16 (by decide)).bind ((part 0x20 16 (by decide)).bind ((part 0x98 48 (by decide)).bind ?_))
  exact .poke hlo hhi (Nat.le_add_right _ 4) (by rw [length_bytesOfNat]; omega)

/-- A slot with another descriptor. -/
def ComplexSlot.withDesc (x : ComplexSlot) (ds : List Byte) : ComplexSlot := { x with desc := ds }

section
variable {s : State} {n : BitVec 2} (x d : BitVec 5) {p : Prog} (hl : s.me.log = [.progress p]) (hb : p.began = true)
  (hp : progPass p.start = 1) (hn : progNext p.start = 0)
include hl hb hp hn

/-- Its record read, CXEDIT writes the words of the descriptor and settles its slot. -/
theorem execCxedit_noEntries {bs : List Byte} {new : List Ans}
    (record : peek (s.me.getX x).toNat 128 ⟨s, [], [], false⟩ = .ok bs ⟨s, [], new, false⟩) (hnone : fieldOf bs 0 4 = 0) :
    ∃ g, ∀ u new', pokeDescriptor (s.slotAt n.toNat) (editedDesc (s.slotAt n.toNat).desc bs)
        ⟨s.withLog [.progress g], [], new, false⟩ = .ok () ⟨u, [], new', false⟩ →
      execCxedit n x d s = Claims.done (((u.setSlot n.toNat (·.withDesc (editedDesc (s.slotAt n.toNat).desc bs))).slotSettled
        n.toNat .loaded).modMe (·.setX d 0#64)) Strand.endProgress := by
  obtain ⟨g, edited⟩ := cxeditRun_noEntries (old := (s.slotAt n.toNat).desc) record hnone hp hn hl
  refine ⟨g, fun u new' written => ?_⟩
  unfold execCxedit
  refine issueRun_settles (new := new') (refusal_none s rfl rfl rfl rfl) ?_
  rw [run_bind, run_getMe]
  dsimp only
  rw [run_bind, progress_had (had := []) _ _ hl (fun _ => List.not_mem_nil)]
  dsimp only
  rw [hb, if_neg (by decide), if_neg (by decide), run_bind, run_getS]
  dsimp only
  rw [run_bind, edited]
  dsimp only
  rw [if_pos (show 0#64 = 0 from rfl), pokeDescriptor_bind, run_bind, written]
  rfl

/-- The same with its record and the descriptor in the own unit scratch, where every access is performed at once. -/
theorem execCxedit_scratch (h : s.ScratchOpen) (ha : (s.me.getX x).toNat % 64 = 0) (hlo : unitBase ≤ (s.me.getX x).toNat)
    (hhi : (s.me.getX x).toNat + 128 ≤ unitBase + 0x20000) (hpoison : s.firstPoison (s.scratch (s.me.getX x).toNat) 128 = none)
    (hnone : s.natAt (s.scratch (s.me.getX x).toNat) 4 = 0) (hylo : unitBase ≤ (s.slotAt n.toNat).addr.toNat)
    (hyhi : (s.slotAt n.toNat).addr.toNat + 256 ≤ unitBase + 0x20000) :
    ∃ u, State.WritesWithin (s.scratch (s.slotAt n.toNat).addr.toNat).key (s.scratch ((s.slotAt n.toNat).addr.toNat + 256)).key s u ∧
      execCxedit n x d s = Claims.done (((u.setSlot n.toNat (·.withDesc (editedDesc (s.slotAt n.toNat).desc
        (s.bytesAt (s.scratch (s.me.getX x).toNat) 128)))).slotSettled n.toNat .loaded).modMe (·.setX d 0#64)) Strand.endProgress := by
  have noEntries : fieldOf (s.bytesAt (s.scratch (s.me.getX x).toNat) 128) 0 4 = 0 := by
    have first := getBytes_append s.mem (s.scratch (s.me.getX x).toNat).key 4 124
    rw [fieldOf, List.drop_zero, State.bytesAt, first, List.take_left' (length_getBytes _ _ _)]
    exact hnone
  obtain ⟨new, record⟩ := peek_scratch h [] false ha hlo hhi hpoison
  obtain ⟨g, ends⟩ := execCxedit_noEntries (n := n) x d hl hb hp hn record noEntries
  have marked (lo hi : Nat) : State.WritesWithin lo hi s (s.withLog [.progress g]) := .withLog _
  obtain ⟨u, new', written, within⟩ := pokeDescriptor_writes (s.slotAt n.toNat) _ hylo hyhi _ new false (h.of_writesWithin (marked 0 0))
  exact ⟨u, (marked _ _).trans within, ends u new' written⟩

end

end Sys2Proof.Machine

namespace Sys2Proof.Proofs

open Sys2Proof.Machine Sys2Proof.Claims

/-- Settles O40: with no progress held each instruction runs through to its result; CXLOAD and CXEDIT behind their last element have
only their slot to settle, and CXEDIT the descriptor's words to write first. -/
theorem complexResults : Obligations.ComplexResults := by
  unfold Obligations.ComplexResults
  intro s c x g d sel k f e n u p clean fresh r free base ghosts sl deg land unit
  have hslot : n.toNat < 4 := n.isLt
  refine ⟨fun h hok hsel hfree => execCxinfo_slot c d sel k h hok hsel hfree, fun h => execCxinfo_landing d k h,
    fun h hlo hhi hb hfree hgen => execCxinfo_register c d sel h hlo hhi hb ⟨hfree, hgen⟩,
    fun h hb hf hfree hgen => execCxinfoSetexp_done c h x hb hf ⟨hfree, hgen⟩, ?bind, ?load, ?edit⟩
  case bind =>
    intro h hf hl he hg ha hga hw hgw
    have one : ghosts = s.me.getX g := s.me.getX_or_zero g
    rw [one] at hga hgw ⊢
    exact execCbind_done c x g u h hf hl he hg ha hga hw hgw
  case load =>
    intro hl hb hp hk hn
    obtain ⟨t, ht, result, ciprog, mem, slot⟩ := done_settled (s.withLog []) .loaded hslot d 0#64
    refine ⟨t, (execCxload_behind hp hk hn x d rfl rfl hl hb).trans ht, result, ciprog, mem, ?_⟩
    rw [slot]
    exact ⟨rfl, rfl, rfl, rfl⟩
  case edit =>
    intro hl hb hp hn hmode still hhere ha hlo hhi hpoison hnone _ hylo hyhi
    obtain ⟨v, within, ends⟩ := execCxedit_scratch (n := n) x d hl hb hp hn ⟨hhere, hmode, still⟩ ha hlo hhi hpoison hnone hylo hyhi
    obtain ⟨t, ht, result, ciprog, mem, slot⟩ := done_settled
      (v.setSlot n.toNat (·.withDesc (editedDesc sl.desc (s.bytesAt (s.scratch base.toNat) 128)))) .loaded hslot d 0#64
    rw [v.slotAt_setSlot hslot, within.slotAt] at slot
    refine ⟨t, ends.trans ht, result, ciprog, ?_, ?_, ?_, fun q hq => ?_⟩
    · rw [slot]; rfl
    · rw [slot]; rfl
    · rw [slot]; rfl
    · rw [State.byteAt, mem]
      rw [s.scratch_key_add 256 hylo] at within
      exact within.bytes q hq

end Sys2Proof.Proofs

/-! SUPPORT. Commands of the matrix unit at issue (R190, R196): the queue that a command enters, and what its strand is left as. -/

namespace Sys2Proof.Machine

/-! What a core given up, and a head command that begins to wait, leave alone. -/

@[simp] theorem State.giveUp_tags (s : State) (c : Nat) : (s.giveUp c).tags = s.tags := by
  unfold State.giveUp State.choose; split <;> rfl

/-- A core given up changes no more of a core than which of its strands runs, and since when. -/
theorem State.giveUp_core_keeps {α : Type} (f : Core → α)
    (hf : ∀ q run active since, f { q with run := run, active := active, turnStart := since } = f q) (s : State) (c n : Nat) :
    f ((s.giveUp c).core n) = f (s.core n) := by
  have same (g : Core → Core) (hg : ∀ q, f (g q) = f q) : f ((s.modCore c g).core n) = f (s.core n) := by
    by_cases e : c = n
    · rw [e, State.core_modCore_same, hg]
    · rw [State.core_modCore_ne _ _ e]
  unfold State.giveUp State.choose
  split
  · exact same _ fun q => hf q _ _ _
  · exact same _ fun q => hf q q.run _ q.turnStart

@[simp] theorem State.giveUp_cmds (s : State) (c n : Nat) : ((s.giveUp c).core n).cmds = (s.core n).cmds :=
  State.giveUp_core_keeps Core.cmds (fun _ _ _ _ => rfl) s c n

section
variable (s : State) (c : Nat)

theorem State.headWaits_keeps {α : Type} (f : State → α) (hf : ∀ g, f (s.modCore c g) = f s) : f (s.headWaits c) = f s := by
  unfold State.headWaits
  split
  · split
    · exact hf _
    · rfl
  · rfl

@[simp] theorem State.headWaits_me : (s.headWaits c).me = s.me := s.headWaits_keeps c State.me fun _ => rfl
@[simp] theorem State.headWaits_mem : (s.headWaits c).mem = s.mem := s.headWaits_keeps c State.mem fun _ => rfl
@[simp] theorem State.headWaits_tags : (s.headWaits c).tags = s.tags := s.headWaits_keeps c State.tags fun _ => rfl

/-- The cycle from which it waits is all that changes of a command. -/
theorem State.headWaits_cmds {α : Type} (f : MatrixCmd → α) (hf : ∀ k w, f { k with waitFrom := w } = f k) :
    ((s.headWaits c).core c).cmds.map f = (s.core c).cmds.map f := by
  have waits (k : MatrixCmd) (w : Option Nat) :
      ((s.core c).modCmd k fun k => { k with waitFrom := w }).cmds.map f = (s.core c).cmds.map f := by
    rw [Core.modCmd, List.map_map]
    refine List.map_congr_left fun q _ => ?_
    rw [Function.comp_apply]
    split
    · exact hf q w
    · rfl
  unfold State.headWaits
  split
  · split
    · rw [State.core_modCore_same, waits]
    · rfl
  · rfl

end

/-! A command entered (R190, R196, R197). -/

/-- What a command holds from its entry until it starts: its fields, but for what it has captured of its strand. -/
def MatrixCmd.entry (q : MatrixCmd) : Nat × Nat × Nat × Bool × BitVec 3 × MatrixKind × Bool × Option Outcome :=
  (q.id, q.strand, q.k, q.notify, q.rm, q.kind, q.started, q.done)

/-- The strand with the ID of its next command in MSEQ (R196). -/
def Strand.withMseq (t : Strand) : Strand := { t with mcfg := { t.mcfg with mseq := BitVec.ofNat 64 (nextSeq t.mcfg.mseq) } }

theorem Strand.advance_withMseq (t : Strand) : t.withMseq.advance = t.advance.withMseq := by
  have body : t.withMseq.loopBody = t.loopBody := rfl
  unfold Strand.advance
  rw [body]
  cases t.loopBody with
  | none => rfl
  | some b =>
    show ite _ (ite _ _ _) _ = Strand.withMseq (ite _ (ite _ _ _) _)
    rw [apply_ite Strand.withMseq, apply_ite Strand.withMseq]
    rfl

section
variable (s : State) (kind : MatrixKind) (k : Nat) (n : Bool) (r : BitVec 3)

@[simp] theorem State.enterCmd_me : (s.enterCmd kind k n r).me = s.me.withMseq :=
  (State.headWaits_me _ _).trans ((State.me_modCore _ _ _).trans (State.me_modMe s _))

@[simp] theorem State.enterCmd_mem : (s.enterCmd kind k n r).mem = s.mem := State.headWaits_mem _ _
@[simp] theorem State.enterCmd_tags : (s.enterCmd kind k n r).tags = s.tags := State.headWaits_tags _ _

/-- The command stands at the end of its core's queue. -/
theorem State.enterCmd_cmds : ((s.enterCmd kind k n r).core s.here).cmds.map MatrixCmd.entry =
    (s.core s.here).cmds.map MatrixCmd.entry ++
      [(nextSeq s.me.mcfg.mseq, s.cur, k, n, if r = 7#3 then s.me.frm.extractLsb' 0 3 else r, kind, false, none)] := by
  have queue (u : State) (c : Nat) (f : Core → Core) :
      (((u.modCore c f).headWaits c).core c).cmds.map MatrixCmd.entry = (f (u.core c)).cmds.map MatrixCmd.entry := by
    rw [State.headWaits_cmds _ _ _ fun _ _ => rfl, State.core_modCore_same]
  exact (queue _ s.here _).trans List.map_append

/-- The command entered last is of the kind entered. -/
theorem State.enterCmd_last : (((s.enterCmd kind k n r).core s.here).cmds.getLast?).map MatrixCmd.kind = some kind := by
  have last := congrArg List.getLast? (s.enterCmd_cmds kind k n r)
  rw [List.getLast?_concat, List.getLast?_map, Option.map_eq_some_iff] at last
  obtain ⟨q, found, entry⟩ := last
  simp only [MatrixCmd.entry, Prod.mk.injEq] at entry
  obtain ⟨-, -, -, -, -, hkind, -⟩ := entry
  rw [found, Option.map_some, hkind]

end

/-! The end of an instruction's run (R274). -/

/-- An instruction that ran to its end is complete, and its strand has given up the core where `gone`. -/
def State.completed (t : State) (c : Nat) (gone : Bool) : State := if gone then t.retire.giveUp c else t.retire

section
variable (t : State) (c : Nat) (gone : Bool)

@[simp] theorem State.completed_me : (t.completed c gone).me = t.me.advance := by
  cases gone
  · exact t.me_retire
  · exact (State.giveUp_me _ c).trans t.me_retire

@[simp] theorem State.completed_mem : (t.completed c gone).mem = t.mem := by
  cases gone
  · rfl
  · exact State.giveUp_mem _ c

@[simp] theorem State.completed_tags : (t.completed c gone).tags = t.tags := by
  cases gone
  · rfl
  · exact State.giveUp_tags _ c

@[simp] theorem State.completed_cmds (n : Nat) : ((t.completed c gone).core n).cmds = (t.core n).cmds := by
  cases gone
  · rfl
  · exact State.giveUp_cmds _ c n

end

/-- A strand whose instruction has not parked gives up the core at its end. -/
theorem run_leaveOnce (r : Run) : leaveOnce r = .ok () { r with leaves := r.leaves || r.s.me.inst.isNone } := by
  rw [leaveOnce, run_bind, run_getMe, Bool.or_comm]
  dsimp only
  cases r.s.me.inst <;> rfl

/-! The matrix commands (R190, R199). -/

section
variable {i : Instr} {check : State → Option Trap} {kind : State → MatrixKind} {k : BitVec 4} {n : BitVec 1} {r : BitVec 3} {s : State}

theorem execMatrix_traps {tr : Trap} (hr : refusal i s = none) (hc : check s = some tr) :
    execMatrix i check kind k n r s = Claims.traps s tr := by
  rw [execMatrix, issueRun, issue_pass _ hr, runInstr, run_bind, run_getS]
  dsimp only
  rw [hc]
  rfl

/-- A command whose checks pass parks its strand while the queue is full, and else enters it. -/
theorem execMatrix_checked (hr : refusal i s = none) (hc : check s = none) (hlog : s.me.log = []) :
    execMatrix i check kind k n r s =
      if (s.core s.here).cmdsFull then
        .next ((s.modMe fun t => { t with inst := some (wordOf i), log := t.log ++ [] }).park s.cur .matrixFull)
      else .next ((s.enterCmd (kind s) k.toNat (n == 1#1) r).completed s.here s.me.inst.isNone) := by
  rw [execMatrix, issueRun, issue_pass _ hr, runInstr, hlog, run_bind, run_getS]
  dsimp only
  rw [hc]
  dsimp only
  rw [run_bind, run_leaveOnce]
  dsimp only
  rw [run_bind, act_now _ rfl]
  dsimp only
  cases (s.core s.here).cmdsFull <;> rfl

end

/-- What a matrix command leaves whose checks pass, in a queue with room and in a full one. -/
theorem execMatrix_results (i : Instr) (rm : BitVec 3) {check : State → Option Trap} {kind : State → MatrixKind} {k : BitVec 4}
    {n : BitVec 1} {r : BitVec 3} {s : State} (hx : exec i s = execMatrix i check kind k n r s)
    (hrm : (if r = 7#3 then s.me.frm.extractLsb' 0 3 else r) = rm) (hc : check s = none)
    (hr : refusal i s = none) (hlog : s.me.log = []) :
    ((s.core s.here).cmds.length < 4 → ∃ z, exec i s = .next z ∧
      z.me.mcfg.mseq = BitVec.ofNat 64 (nextSeq s.me.mcfg.mseq) ∧ z.mem = s.mem ∧ z.tags = s.tags ∧ z.me.x = s.me.x ∧
      z.me.pc = s.retire.me.pc ∧ (z.core s.here).cmds.length = (s.core s.here).cmds.length + 1 ∧
      (z.core s.here).cmds.getLast?.map MatrixCmd.entry =
        some (nextSeq s.me.mcfg.mseq, s.cur, k.toNat, n == 1#1, rm, kind s, false, none)) ∧
    (4 ≤ (s.core s.here).cmds.length → ∃ z, exec i s = .next z ∧ z.me.status = .parked .matrixFull ∧ z.me.pc = s.me.pc) := by
  have run := hx.trans (execMatrix_checked hr hc hlog)
  refine ⟨fun room => ?_, fun full => ?_⟩
  · rw [Core.cmdsFull, decide_eq_false (Nat.not_le.2 room), if_neg Bool.false_ne_true] at run
    have queue := s.enterCmd_cmds (kind s) k.toNat (n == 1#1) r
    rw [hrm] at queue
    have me : ((s.enterCmd (kind s) k.toNat (n == 1#1) r).completed s.here s.me.inst.isNone).me = s.me.advance.withMseq := by
      rw [State.completed_me, State.enterCmd_me, Strand.advance_withMseq]
    refine ⟨_, run, ?_, by simp, by simp, ?_, ?_, ?_, ?_⟩
    · rw [me, Strand.withMseq, Strand.advance_mcfg]
    · rw [me]
      exact s.me.advance_x
    · rw [me, s.me_retire]
      rfl
    · rw [State.completed_cmds]
      simpa using congrArg List.length queue
    · rw [State.completed_cmds, ← List.getLast?_map, queue, List.getLast?_concat]
  · rw [Core.cmdsFull, decide_eq_true full, if_pos rfl] at run
    have me (f : Strand → Strand) : ((s.modMe f).park s.cur .matrixFull).me = { f s.me with status := .parked .matrixFull } := by
      rw [← s.modMe_cur f, State.me_park, State.me_modMe]
    exact ⟨_, run, by rw [me], by rw [me]⟩

/-! The checks of a matrix command, one after the other (R40, R59, R188, R199). -/

theorem firstTrap_pass {t : Option Trap} {ts : List (Option Trap)} (h : t = none) (hs : firstTrap ts = none) :
    firstTrap (t :: ts) = none := by
  subst h
  exact hs

theorem alignTrap_pass {base stride : Word} {w : Nat} (hb : base.toNat % w = 0) (hs : stride.toNat % w = 0) :
    alignTrap base stride w = none := by
  rw [alignTrap, hb, hs]
  rfl

/-- One accumulator passes where MACCMASK names it. -/
theorem State.accTrap_single (s : State) (k : Nat) : s.accTrap k false =
    if (s.core s.here).maccmask.getLsbD k = true then none else some (trapACCERR 0 0) := by
  rw [State.accTrap, Bool.not_false, Bool.true_or, Bool.and_true]

/-! MCFG (R194, R195). -/

theorem execMcfg_eq {s : State} {d a : BitVec 5} {c : BitVec 3} (hc : c.toNat ≤ 5) : execMcfg d a c s =
    if a = 0#5 then Claims.done s fun t => t.setX d (s.me.mcfg.get c.toNat)
    else if mcfgLegal c.toNat (s.me.getX a) then
      Claims.done s fun t => { t with mcfg := t.mcfg.put c.toNat (s.me.getX a) }.setX d (s.me.mcfg.get c.toNat)
    else Claims.traps s (trapILL (wordOf (.mcfg d a c))) := by
  rw [execMcfg, issue_pass _ (refusal_none (i := .mcfg d a c) s (decide_eq_true hc) rfl rfl rfl)]
  rfl

end Sys2Proof.Machine

namespace Sys2Proof.Proofs

open Sys2Proof.Machine Sys2Proof.Claims

/-- Settles O36: the three forms of MCFG by its equation, and every matrix command by what its issue leaves once its checks pass. -/
theorem matrixIssue : Obligations.MatrixIssue := by
  unfold Obligations.MatrixIssue
  intro s n e k j d a b t r f c3 c x y code seq enters word
  refine ⟨fun hc ha => (execMcfg_eq hc).trans (if_pos ha), fun ha hc lo hi => ?kblocks, fun ha hc => ?mseq,
    fun checks => execMatrix_results (.mma n k a b t r c) code rfl rfl checks, fun owned hx hsb rows table => ?mconst,
    fun owned => execMatrix_results (.maccZero n k) 0#3 rfl rfl ((s.accTrap_single _).trans (if_pos owned)),
    fun unowned hr => execMatrix_traps hr ((s.accTrap_single _).trans (if_neg (Bool.eq_false_iff.1 unowned))),
    fun checks => execMatrix_results (.maccLoad n k a f) 0#3 rfl rfl checks,
    fun checks => execMatrix_results (.maccStore n k a r f) code rfl rfl checks,
    fun first second => execMatrix_results (.maccAdd n k j r f) code rfl rfl (firstTrap_pass first (firstTrap_pass second rfl))⟩
  case kblocks =>
    subst hc
    exact ((execMcfg_eq (by decide)).trans (if_neg ha)).trans (if_pos (decide_eq_true ⟨lo, hi⟩))
  case mseq =>
    subst hc
    exact ((execMcfg_eq (by decide)).trans (if_neg ha)).trans (if_neg Bool.false_ne_true)
  case mconst =>
    have permutation : (if c = 1#2 then s.rowTrap { n := 32, cluster := false, q4 := false, write := false } y else none) = none := by
      split
      · exact table ‹_›
      · rfl
    exact execMatrix_results (.mconst n k a b t r c e) code rfl rfl (firstTrap_pass owned (firstTrap_pass (alignTrap_pass hx hsb)
      (firstTrap_pass rows (firstTrap_pass permutation rfl))))

end Sys2Proof.Proofs

/-! SUPPORT. Records in the own UNIT data scratch, RTDEF, and the higher-order instructions at issue (R207 to R212). -/

namespace Sys2Proof.Machine

/-! Records read at issue (R27, R242, R321). -/

/-- The n bytes at the address lie in the own UNIT data scratch, no guard stops the strand from reading them, and none is poisoned. -/
def State.Readable (s : State) (va : Word) (n : Nat) : Prop :=
  s.here < 4096 ∧ unitBase ≤ va.toNat ∧ va.toNat + n ≤ unitBase + 0x20000 ∧
    guardsPass (s.core s.here) s.me.mode va.toNat n .read = true ∧ s.firstPoison (s.scratch va.toNat) n = none

theorem unitRead_run {r : Run} {va : Word} {n : Nat} (h : r.s.Readable va n) :
    unitRead va n r = .ok (r.s.bytesAt (r.s.scratch va.toNat) n) r := by
  obtain ⟨compute, lo, hi, guard, clean⟩ := h
  have inside : (!isControl r.s.here && inUnitData va.toNat n) = true := by
    rw [isControl, decide_eq_false (Nat.not_le.2 compute), inUnitData, decide_eq_true ⟨lo, hi⟩]
    rfl
  rw [State.scratch] at clean
  rw [unitRead, run_bind, run_getS]
  dsimp only
  rw [run_bind, run_require, if_pos inside]
  dsimp only
  rw [run_bind, run_require, if_pos guard]
  dsimp only
  rw [clean]
  rfl

theorem recordRead_run {r : Run} {va : Word} {n : Nat} (ha : va.toNat % 64 = 0) (h : r.s.Readable va n) :
    recordRead va n r = .ok (r.s.bytesAt (r.s.scratch va.toNat) n) r := by
  rw [recordRead, run_bind, run_require, if_pos (beq_iff_eq.2 ha)]
  exact unitRead_run h

/-! RTDEF (R207, R208). -/

/-- A well-formed record is copied into its handle. -/
theorem execRtdef_done {s : State} {a : BitVec 5} (h : BitVec 4) {hd : List Byte} {ws : List Word32} (ha : (s.me.getX a).toNat % 16 = 0)
    (head : s.Readable (s.me.getX a) 16) (bytes : s.bytesAt (s.scratch (s.me.getX a).toNat) 16 = hd) (good : headerReason hd = none)
    (whole : s.Readable (s.me.getX a) (16 + 4 * fieldOf hd 0 1))
    (words : wordsOfBytes ((s.bytesAt (s.scratch (s.me.getX a).toNat) (16 + 4 * fieldOf hd 0 1)).drop 16) = ws)
    (legal : wordsReason (BitVec.ofNat 3 (fieldOf hd 3 1)) 0 ws = none) : execRtdef h a s =
      Claims.done s fun t => { t with handles := t.handles.setIfInBounds h.toNat (some (routineOf hd ws)) } := by
  rw [execRtdef, issueRun, issue_pass _ (refusal_none s rfl rfl rfl rfl), runInstr, run_bind, run_getMe]
  dsimp only
  rw [run_bind, run_require, if_pos (beq_iff_eq.2 ha)]
  dsimp only
  rw [run_bind, unitRead_run head, bytes]
  dsimp only
  rw [good]
  dsimp only
  rw [run_bind, unitRead_run whole]
  dsimp only
  rw [words, legal]
  rfl

/-! The higher-order instructions (R210, R211). -/

/-- FRM 0 names a mode, so that DYN may stand in a routine (R45, R209). -/
theorem usesDyn_pass (rt : Routine) : (!(rt.usesDyn && (effectiveRm 7#3 0#64).isNone)) = true := by
  rw [show (effectiveRm 7#3 0#64).isNone = false from rfl, Bool.and_false]
  rfl

section
variable {s : State} {i : Instr} {op : Nat} {d a : BitVec 5} {h : BitVec 4} {mat : Bool} (hr : refusal i s = none)
include hr

theorem higherOrder_empty (held : s.me.handles.toList.getD h.toNat none = none) :
    higherOrder i op d a h mat s = Claims.traps s (trapCTYPE 0) := by
  rw [higherOrder, issueRun, issue_pass _ hr, runInstr, run_bind, run_getMe]
  dsimp only
  rw [held]
  rfl

/-- What a higher-order instruction does whose routine, record and streams pass their checks: where its engine has no room it returns
0; else it enters its command, or starts its operation, and returns the ID. -/
theorem higherOrder_checked {rt : Routine} {bs : List Byte} (held : s.me.handles.toList.getD h.toNat none = some rt)
    (hfrm : s.me.frm = 0#64) (ha : (s.me.getX a).toNat % 64 = 0) (readable : s.Readable (s.me.getX a) 64)
    (bytes : s.bytesAt (s.scratch (s.me.getX a).toNat) 64 = bs) (fields : hotReject op bs rt = none)
    (streams : s.streamsTrap mat (laneWidth rt.type / 8) ((hotRecOf bs).inputs op rt) ((hotRecOf bs).outputs op rt) = none) :
    higherOrder i op d a h mat s =
      if mat then
        if (s.core s.here).cmdsFull then Claims.done s fun t => t.setX d 0#64
        else .next (((s.enterCmd (.hot op h.toNat rt (hotRecOf bs) .start) 0 true 0#3).modMe fun t =>
          t.setX d t.mcfg.mseq).completed s.here true)
      else if (s.core s.here).opsFull then Claims.done s fun t => t.setX d 0#64
      else Claims.done (s.startOp (.hot op h.toNat rt (hotRecOf bs) .start)).1 fun t =>
        t.setX d (BitVec.ofNat 64 (s.core s.here).newId) := by
  rw [higherOrder, issueRun, issue_pass _ hr, runInstr, run_bind, run_getMe]
  dsimp only
  rw [held]
  dsimp only
  rw [run_bind, run_pure]
  dsimp only
  rw [run_bind, run_require, hfrm, if_pos (usesDyn_pass rt)]
  dsimp only
  rw [run_bind, recordRead_run ha readable, bytes]
  dsimp only
  rw [fields]
  dsimp only
  rw [run_bind, run_getS]
  dsimp only
  rw [streams]
  dsimp only
  cases mat with
  | true =>
    rw [if_pos rfl, if_pos rfl]
    cases (s.core s.here).cmdsFull <;> rfl
  | false =>
    rw [if_neg Bool.false_ne_true, if_neg Bool.false_ne_true]
    cases (s.core s.here).opsFull <;> rfl

end

/-- The four higher-order instructions, each with its opcode, are that (R210). -/
theorem exec_higherOrder (s : State) (d a : BitVec 5) (h : BitVec 4) {i : Nat × (BitVec 2 → Instr)}
    (hi : i ∈ [(0x80, Instr.hfold d a h), (0x81, Instr.hscan d a h), (0x82, Instr.hzip d a h), (0x83, Instr.houter d a h)])
    {e : BitVec 2} (he : e.toNat ≤ 1) :
    exec (i.2 e) s = higherOrder (i.2 e) i.1 d a h (e == 1#2) s ∧ refusal (i.2 e) s = none := by
  simp only [List.mem_cons, List.not_mem_nil, or_false] at hi
  rcases hi with rfl | rfl | rfl | rfl <;> exact ⟨rfl, refusal_none s (decide_eq_true he) rfl rfl rfl⟩

/-- An operation started stands behind those in flight, with the ID that the core gives it (R259). -/
theorem State.startOp_last (s : State) (kind : OpKind) :
    (((s.startOp kind).1.core s.here).ops.getLast?).map (fun o => (o.id, o.kind)) = some ((s.core s.here).newId, kind) := by
  rw [State.startOp, State.core_modCore_same, List.getLast?_concat]
  rfl

end Sys2Proof.Machine

namespace Sys2Proof.Proofs

open Sys2Proof.Machine Sys2Proof.Claims

/-- Settles O37: RTDEF runs through to its handle, and a higher-order instruction whose checks pass does what its engine has room for. -/
theorem routineStarts : Obligations.RoutineStarts := by
  unfold Obligations.RoutineStarts
  intro s d a h rt q va place readable hd len ws bs r held
  refine ⟨fun ha head whole good legal => execRtdef_done h ha head rfl good whole rfl legal, fun i hi => ⟨fun empty e he => ?_,
    fun defined ha record hfrm fields => ?_⟩⟩
  · obtain ⟨run, passes⟩ := exec_higherOrder s d a h hi he
    exact run.trans (higherOrder_empty passes empty)
  obtain ⟨copyRun, copyPasses⟩ : exec (i.2 0#2) s = higherOrder (i.2 0#2) i.1 d a h false s ∧ _ :=
    exec_higherOrder s d a h hi (by decide)
  obtain ⟨matRun, matPasses⟩ : exec (i.2 1#2) s = higherOrder (i.2 1#2) i.1 d a h true s ∧ _ :=
    exec_higherOrder s d a h hi (by decide)
  refine ⟨fun streams room => ?start, fun streams full => ?noRoom, fun streams room => ?enter⟩
  case start =>
    have run := copyRun.trans (higherOrder_checked copyPasses defined hfrm ha record rfl fields streams)
    rw [if_neg Bool.false_ne_true, Core.opsFull, decide_eq_false (Nat.not_le.2 room), if_neg Bool.false_ne_true] at run
    refine ⟨_, run, fun hd => ?_, rfl, s.startOp_last _⟩
    rw [State.me_retire, State.me_modMe, Strand.getX_advance, Strand.getX_setX_same _ _ hd]
  case noRoom =>
    have run := copyRun.trans (higherOrder_checked copyPasses defined hfrm ha record rfl fields streams)
    rwa [if_neg Bool.false_ne_true, Core.opsFull, decide_eq_true full, if_pos rfl] at run
  case enter =>
    have run := matRun.trans (higherOrder_checked matPasses defined hfrm ha record rfl fields streams)
    rw [if_pos rfl, Core.cmdsFull, decide_eq_false (Nat.not_le.2 room), if_neg Bool.false_ne_true] at run
    refine ⟨_, run, fun hd => ?_, ?_, ?_⟩
    · rw [State.completed_me, State.me_modMe, Strand.getX_advance, Strand.getX_setX_same _ _ hd, Strand.advance_mcfg, Strand.setX_mcfg]
    · rw [State.completed_mem, State.modMe_mem, State.enterCmd_mem]
    · rw [State.completed_cmds, State.core_modMe]
      exact s.enterCmd_last _ _ _ _

end Sys2Proof.Proofs

/-! SUPPORT. Memory and its word tags as one store: which operations on the state leave it as it is. -/

namespace Sys2Proof.Machine

/-- The bytes of memory and the word tags: what the canonical form speaks of. -/
abbrev Store := List Host.Cell × List (Nat × WordTag)

/-- The store of a state. -/
def State.store (s : State) : Store := (s.mem, s.tags)

theorem State.mem_of_store {s t : State} (h : t.store = s.store) : t.mem = s.mem := congrArg Prod.fst h
theorem State.tags_of_store {s t : State} (h : t.store = s.store) : t.tags = s.tags := congrArg Prod.snd h

section
variable (s : State)

@[simp] theorem State.setStrand_store (h : Nat) (t : Strand) : (s.setStrand h t).store = s.store := (rfl)
@[simp] theorem State.modStrand_store (h : Nat) (f : Strand → Strand) : (s.modStrand h f).store = s.store := (rfl)
@[simp] theorem State.setCore_store (c : Nat) (t : Core) : (s.setCore c t).store = s.store := (rfl)
@[simp] theorem State.modCore_store (c : Nat) (f : Core → Core) : (s.modCore c f).store = s.store := (rfl)
@[simp] theorem State.setCluster_store (k : Nat) (t : Cluster) : (s.setCluster k t).store = s.store := (rfl)
@[simp] theorem State.modCluster_store (k : Nat) (f : Cluster → Cluster) : (s.modCluster k f).store = s.store := (rfl)
@[simp] theorem State.setDie_store (d : Nat) (t : Die) : (s.setDie d t).store = s.store := (rfl)
@[simp] theorem State.modDie_store (d : Nat) (f : Die → Die) : (s.modDie d f).store = s.store := (rfl)
@[simp] theorem State.modJob_store (j : Nat) (f : Job → Job) : (s.modJob j f).store = s.store := (rfl)
@[simp] theorem State.modMe_store (f : Strand → Strand) : (s.modMe f).store = s.store := (rfl)
@[simp] theorem State.choose_store (c : Nat) : (s.choose c).store = s.store := by unfold State.choose; split <;> rfl
@[simp] theorem State.giveUp_store (c : Nat) : (s.giveUp c).store = s.store := by simp [State.giveUp]
@[simp] theorem State.wake_store (h : Nat) : (s.wake h).store = s.store := (rfl)
@[simp] theorem State.park_store (h : Nat) (p : Park) : (s.park h p).store = s.store := by simp [State.park]
@[simp] theorem State.answer_store (h : Nat) (a : Ans) : (s.answer h a).store = s.store := (rfl)
@[simp] theorem State.wakeWfi_store (h : Nat) :
    (s.wakeWfi h).store = s.store := by unfold State.wakeWfi; split <;> rfl
@[simp] theorem State.raiseExt_store (h : Nat) : (s.raiseExt h).store = s.store := by simp [State.raiseExt]
@[simp] theorem State.signalManager_store (d : Nat) : (s.signalManager d).store = s.store := by
  unfold State.signalManager; split <;> simp
@[simp] theorem State.logViolation_store (d : Nat) (addr : Word) (req : Nat) (hub : Bool) (strand path cause : Nat) :
    (s.logViolation d addr req hub strand path cause).store = s.store := by
  simp [State.logViolation]
@[simp] theorem State.logError_store (d : Nat) (addr : Word) (epid source event : Nat) :
    (s.logError d addr epid source event).store = s.store := by
  unfold State.logError; dsimp only; repeat' split
  all_goals simp
@[simp] theorem State.trapEntry_store (h : Nat) (int : Bool) (tr : Trap) (epc : Word) :
    (s.trapEntry h int tr epc).store = s.store := (rfl)
@[simp] theorem State.takeTrap_store (h : Nat) (tr : Trap) : (s.takeTrap h tr).store = s.store := (rfl)
@[simp] theorem State.retire_store : (s.retire).store = s.store := (rfl)
@[simp] theorem State.jumpTo_store (pc : Word) : (s.jumpTo pc).store = s.store := (rfl)
@[simp] theorem State.dropWatch_store (h : Nat) : (s.dropWatch h).store = s.store := (rfl)
@[simp] theorem State.fireWatch_store (h : Nat) : (s.fireWatch h).store = s.store := by
  unfold State.fireWatch; dsimp only; repeat' split
  all_goals rfl
@[simp] theorem State.fireWatches_store (ws : List Loc) : (s.fireWatches ws).store = s.store :=
  foldl_keeps State.store (fun _ _ => by simp) _ _
@[simp] theorem State.wakeMatrix_store (c : Nat) : (s.wakeMatrix c).store = s.store :=
  foldl_keeps State.store (fun _ _ => by split <;> simp) _ _
@[simp] theorem State.freeHeld_store (m : Held) :
    (s.freeHeld m).store = s.store := by unfold State.freeHeld; split <;> simp
@[simp] theorem State.placeMessage_store (m : Held) : (s.placeMessage m).store = s.store := by
  unfold State.placeMessage; dsimp only; repeat' split
  all_goals simp
@[simp] theorem State.startWalk_store (c : Nat) (mode : Mode) (va : Word) (write setsA : Bool) :
    (s.startWalk c mode va write setsA).store = s.store := (rfl)
@[simp] theorem State.recordLine_store (c : Nat) (w : Loc) : (s.recordLine c w).store = s.store := by
  unfold State.recordLine; dsimp only; repeat' split
  all_goals rfl
@[simp] theorem State.logAt_store (l : Loc) (event : Nat) : (s.logAt l event).store = s.store := by simp [State.logAt]
@[simp] theorem State.enterPath_store (c : Nat) (p : Path) (a : Access) : (s.enterPath c p a).store = s.store := (rfl)
@[simp] theorem State.enterRetry_store (c : Nat) (p : Path) (a : Access) :
    (s.enterRetry c p a).store = s.store := (rfl)
@[simp] theorem State.movePosted_store (c : Nat) (h : Home → Bool) : (s.movePosted c h).store = s.store :=
  foldl_keeps State.store (fun _ _ => by simp) _ _
@[simp] theorem State.withdraw_store (h : Nat) : (s.withdraw h).store = s.store := (rfl)
@[simp] theorem State.trapWait_store (h : Nat) (t : Trap) : (s.trapWait h t).store = s.store := (rfl)
@[simp] theorem State.recheck_store (h : Nat) : (s.recheck h).store = s.store := by
  unfold State.recheck; repeat' split
  all_goals rfl
@[simp] theorem State.recheckCore_store (c : Nat) : (s.recheckCore c).store = s.store :=
  foldl_keeps State.store (fun _ _ => by simp) _ _
@[simp] theorem State.recheckCluster_store (k : Nat) : (s.recheckCluster k).store = s.store :=
  foldl_keeps State.store (fun _ _ => by simp) _ _
@[simp] theorem State.leaveWait_store (h : Nat) : (s.leaveWait h).store = s.store := (rfl)
@[simp] theorem State.deliver_store (m : Held) : (s.deliver m).store = s.store := by simp [State.deliver]
@[simp] theorem State.placeUnit_store (jn : Nat) (j : Job) (l : Launch) (c : Nat) :
    (s.placeUnit jn j l c).store = s.store := by
  unfold State.placeUnit; split <;> rfl
@[simp] theorem State.closePhase_store (j : Nat) : (s.closePhase j).store = s.store := (rfl)
@[simp] theorem State.endJob_store (jn : Nat) (j : Job) : (s.endJob jn j).store = s.store :=
  foldl_keeps State.store (fun _ _ => by simp) _ _
@[simp] theorem State.send_store (q : Sender) (va : Word) (l : Loc) (k : AccKind) (n : Nat) :
    (s.send q va l k n).store = s.store := (rfl)
@[simp] theorem State.noteFetch_store (c seq : Nat) (g : Got) : (s.noteFetch c seq g).store = s.store := (rfl)
@[simp] theorem State.modOp_store (c id : Nat) (f : EngineOp → EngineOp) : (s.modOp c id f).store = s.store := (rfl)
@[simp] theorem State.planOp_store (c id : Nat) (as : List Access) : (s.planOp c id as).store = s.store := (rfl)
@[simp] theorem State.respond_store (c : Nat) (a : Access) (x : Ans) : (s.respond c a x).store = s.store := by
  unfold State.respond; dsimp only; repeat' split
  all_goals rfl
@[simp] theorem State.keepAccesses_store (c : Nat) (keep : PathEntry → Bool) :
    (s.keepAccesses c keep).store = s.store := (rfl)
@[simp] theorem State.failWrite_store (c id : Nat) (out : Outcome) (a : Access) :
    (s.failWrite c id out a).store = s.store := by
  unfold State.failWrite; split <;> rfl
@[simp] theorem State.failAccess_store (c : Nat) (e : PathEntry) (t : Trap) (status : Nat) :
    (s.failAccess c e t status).store = s.store := by
  unfold State.failAccess; repeat' split
  all_goals simp
@[simp] theorem State.setSlot_store (n : Nat) (f : ComplexSlot → ComplexSlot) :
    (s.setSlot n f).store = s.store := (rfl)
@[simp] theorem State.headWaits_store (c : Nat) : (s.headWaits c).store = s.store := by
  unfold State.headWaits; repeat' split
  all_goals rfl
@[simp] theorem State.enterCmd_store (kind : MatrixKind) (k : Nat) (n : Bool) (r : BitVec 3) :
    (s.enterCmd kind k n r).store = s.store := by
  simp [State.enterCmd]
@[simp] theorem State.csrWrite_store (n : Nat) (v : Word) : (s.csrWrite n v).store = s.store := by
  unfold State.csrWrite; dsimp only; repeat' split
  all_goals rfl
@[simp] theorem State.newPass_store (a : Access) : (s.newPass a).store = s.store := (rfl)
@[simp] theorem State.restoreAccs_store (cs : List Nat) : (s.restoreAccs cs).store = s.store :=
  foldl_keeps State.store (fun _ _ => by simp) _ _
@[simp] theorem State.rearm_store (h : Nat) : (s.rearm h).store = s.store := by unfold State.rearm; split <;> rfl
@[simp] theorem State.replayCore_store (c : Nat) : (s.replayCore c).store = s.store :=
  foldl_keeps State.store (fun _ _ => by simp) _ _
@[simp] theorem State.refuseSeam_store (c : Nat) (m : SeamMsg) : (s.refuseSeam c m).store = s.store := by
  simp [State.refuseSeam]
@[simp] theorem State.arrive_store (rec : Word) : (s.arrive rec).store = s.store := by
  unfold State.arrive; dsimp only; repeat' split
  all_goals rfl
@[simp] theorem State.syncStrand_store (h pick : Nat) : (s.syncStrand h pick).store = s.store := by
  unfold State.syncStrand; dsimp only; repeat' split
  all_goals rfl
@[simp] theorem State.enterBarchan_store (die id : Nat) (old new : Loc) (oldVa newVa : Word) (size : Nat) (retire : Bool) :
    (s.enterBarchan die id old new oldVa newVa size retire).store = s.store := (rfl)
@[simp] theorem State.stopOp_store (c id : Nat) (status : Nat) (word1 : Word) (flags : FlagSet) :
    (s.stopOp c id status word1 flags).store = s.store := (rfl)
@[simp] theorem State.signalLine_store (k n amount : Nat) : (s.signalLine k n amount).store = s.store := (rfl)
@[simp] theorem State.endGather_store (c : Nat) (o : EngineOp) (g : GatherRec) :
    (s.endGather c o g).store = s.store := by
  unfold State.endGather; repeat' split
  all_goals simp
@[simp] theorem State.modBarchan_store (d c id : Nat) (f : Barchan → Barchan) :
    (s.modBarchan d c id f).store = s.store := (rfl)
@[simp] theorem State.logPcie_store (root : Nat) (addr : Word) : (s.logPcie root addr).store = s.store := by
  simp [State.logPcie]
@[simp] theorem State.refuseDevice_store (c : Nat) (a : Access) (addr : Word) :
    (s.refuseDevice c a addr).store = s.store := by
  simp [State.refuseDevice]
@[simp] theorem State.cannotGo_store (c : Nat) (e : PathEntry) (t : Trap) (status : Nat) :
    (s.cannotGo c e t status).store = s.store := by
  unfold State.cannotGo; split <;> simp
@[simp] theorem State.deepEntry_store (e : Nat × PathEntry) :
    (s.deepEntry e).store = s.store := by simp [State.deepEntry]
@[simp] theorem State.forwardTile_store (b : Barchan) : (s.forwardTile b).store = s.store :=
  foldl_keeps State.store (fun _ _ => by simp) _ _
@[simp] theorem State.takeOut_store (c : Nat) (e : PathEntry) : (s.takeOut c e).store = s.store := (rfl)
@[simp] theorem State.beginWait_store (h kind : Nat) (badva : Word) : (s.beginWait h kind badva).store = s.store := by
  unfold State.beginWait; dsimp only; repeat' split
  all_goals rfl
@[simp] theorem State.startWait_store (a : Access) (kind : Option Nat) : (s.startWait a kind).store = s.store := by
  unfold State.startWait; repeat' split
  all_goals simp
@[simp] theorem State.goOn_store (c : Nat) (e : PathEntry) (hop : Hop) (va : Word) (l : Loc) :
    (s.goOn c e hop va l).store = s.store := by
  unfold State.goOn; split <;> simp
@[simp] theorem State.modBarrier_store (k b : Nat) (f : Barrier → Barrier) :
    (s.modBarrier k b f).store = s.store := (rfl)
@[simp] theorem State.modChan_store (c q : Nat) (f : ChanQueue → ChanQueue) :
    (s.modChan c q f).store = s.store := (rfl)
@[simp] theorem State.contribute_store (c g port : Nat) (x : Contribution) :
    (s.contribute c g port x).store = s.store := (rfl)
@[simp] theorem State.sendDown_store (g : Nat) (cs : List Nat) (lanes : List Word) (flags : FlagSet) :
    (s.sendDown g cs lanes flags).store = s.store :=
  foldl_keeps State.store (fun _ _ => by simp) _ _
@[simp] theorem State.deliverResult_store (core g : Nat) (words : List Word) (flags : FlagSet) :
    (s.deliverResult core g words flags).store = s.store :=
  foldl_keeps State.store (fun _ _ => by simp) _ _
@[simp] theorem State.reloadCsr_store (n : Nat) (v : Word) : (s.reloadCsr n v).store = s.store := by
  unfold State.reloadCsr; split <;> simp
@[simp] theorem State.recordAcc_store (c k : Nat) : (s.recordAcc c k).store = s.store := by
  unfold State.recordAcc; dsimp only; repeat' split
  all_goals rfl
@[simp] theorem State.modAcc_store (c k : Nat) (f : Accumulator → Accumulator) :
    (s.modAcc c k f).store = s.store := by
  simp [State.modAcc]
@[simp] theorem State.writeAcc_store (c k : Nat) (wide clear : Bool) (es : List Word) :
    (s.writeAcc c k wide clear es).store = s.store := by
  unfold State.writeAcc; split <;> simp
@[simp] theorem State.markAcc_store (c k : Nat) (wide : Bool) : (s.markAcc c k wide).store = s.store := by
  unfold State.markAcc; split <;> simp
@[simp] theorem State.publish_store (c : Nat) (k : MatrixCmd) (data : List Byte) (poison : List Nat) :
    (s.publish c k data poison).store = s.store := (rfl)
@[simp] theorem State.useSlot_store (n j : Nat) : (s.useSlot n j).store = s.store := (rfl)
@[simp] theorem State.planCmd_store (c : Nat) (k : MatrixCmd) (as : List Access) :
    (s.planCmd c k as).store = s.store := (rfl)
@[simp] theorem State.endTurn_store (n : Nat) :
    (s.endTurn n).store = s.store := by unfold State.endTurn; split <;> rfl
@[simp] theorem State.setIcmd_store (k n : Nat) : (s.setIcmd k n).store = s.store := (rfl)
@[simp] theorem State.setPre_store (h : Nat) (b : Bool) : (s.setPre h b).store = s.store := by simp [State.setPre]
@[simp] theorem State.stopForSave_store (h : Nat) : (s.stopForSave h).store = s.store := by
  unfold State.stopForSave; dsimp only; repeat' split
  all_goals simp
@[simp] theorem State.leaveForSave_store (h : Nat) :
    (s.leaveForSave h).store = s.store := by simp [State.leaveForSave]
@[simp] theorem State.clearPending_store (c : Nat) : (s.clearPending c).store = s.store :=
  foldl_keeps State.store (fun _ _ => by simp) _ _
@[simp] theorem State.endRestore_store (c : Nat) :
    (s.endRestore c).store = s.store := by unfold State.endRestore; split <;> rfl
@[simp] theorem State.modPort_store (p : Nat) (f : Port → Port) : (s.modPort p f).store = s.store := (rfl)
@[simp] theorem State.modRoot_store (r : Nat) (f : RootPort → RootPort) : (s.modRoot r f).store = s.store := (rfl)
@[simp] theorem State.hubWrite_store (o : Nat) (v : Word) : (s.hubWrite o v).store = s.store := by
  unfold State.hubWrite; repeat' split
  all_goals rfl
@[simp] theorem State.endPending_store (root k : Nat) (q : PcieReq) (a : Ans) :
    (s.endPending root k q a).store = s.store := (rfl)
@[simp] theorem State.failPending_store (root k : Nat) (q : PcieReq) : (s.failPending root k q).store = s.store := by
  simp [State.failPending]
@[simp] theorem State.logLink_store (p event : Nat) : (s.logLink p event).store = s.store := by simp [State.logLink]
@[simp] theorem State.failAttempt_store (p : Nat) : (s.failAttempt p).store = s.store := by
  unfold State.failAttempt; dsimp only; repeat' split
  all_goals simp
@[simp] theorem State.goodAttempt_store (p : Nat) : (s.goodAttempt p).store = s.store := (rfl)
@[simp] theorem State.startImage_store (image : List Byte) : (s.startImage image).store = s.store := (rfl)
@[simp] theorem State.passBy_store (k : Nat) (e : PathEntry) : (s.passBy k e).store = s.store := (rfl)
@[simp] theorem State.endStrand_store (h : Nat) : (s.endStrand h).store = s.store := by
  unfold State.endStrand; repeat' split
  all_goals simp
@[simp] theorem State.nextTurn_store (c : Nat) :
    (s.nextTurn c).store = s.store := by unfold State.nextTurn; split <;> simp
@[simp] theorem State.disable_store (cs : List Nat) : (s.disable cs).store = s.store := (rfl)
@[simp] theorem State.externalContribution_store (c g : Nat) (x : Contribution) :
    (s.externalContribution c g x).store = s.store := (rfl)
@[simp] theorem State.externalResult_store (c g : Nat) (lanes : List Word) (flags : BitVec 5) :
    (s.externalResult c g lanes flags).store = s.store := (rfl)

end

end Sys2Proof.Machine

/-! SUPPORT. Every operation on the state keeps the store canonical. -/

namespace Sys2Proof.Machine

/-! The store is left as it is, in a result that is not a state alone. -/

theorem State.pushFault_store {s t : State} {d : Nat} {recs : List (List Word)} (h : s.pushFault d recs = some t) :
    t.store = s.store := by
  unfold State.pushFault at h; dsimp only at h; split at h
  · cases h
  · cases h; simp

theorem State.engineFault_store {s t : State} {h id : Nat} {tr : Trap} (e : s.engineFault h id tr = some t) :
    t.store = s.store := State.pushFault_store (s := { s with free := s.free + 1 }) e

theorem State.putOp_store {s t : State} {c id : Nat} (h : s.putOp c id = some t) : t.store = s.store := by
  unfold State.putOp at h
  split at h
  · cases h
  · split at h
    · cases h
    · cases h; rfl

theorem State.stepOp_store {s t : State} {c id : Nat} (h : s.stepOp c id = some t) : t.store = s.store := by
  obtain ⟨_, _, _, _, _, _, hm, ht, _⟩ := State.stepOp_spec s c id h
  rw [State.store, hm, ht, State.store]

theorem State.stepCmd_store {s t : State} {c : Nat} {k : MatrixCmd} (h : s.stepCmd c k = some t) :
    t.store = s.store := by
  unfold State.stepCmd at h
  split at h <;> cases h
  rfl

theorem State.peerRefusal_store {s t : State} {q : Sender} {a code : Nat} (h : s.peerRefusal q a code = some t) :
    t.store = s.store := by
  unfold State.peerRefusal at h
  split at h
  · dsimp only at h
    repeat' split at h
    all_goals cases h
    all_goals simp
  · cases h

section
variable (s : State)

@[simp] theorem State.flushOps_store (c : Nat) : (s.flushOps c).store = s.store :=
  foldl_keeps State.store (fun _ o => foldl_keeps State.store (fun t _ => by
    cases h : t.putOp c o.id with
    | none => rfl
    | some u => exact State.putOp_store h) _ _) _ _

@[simp] theorem State.parkOp_store (o : EngineOp) (c : Nat) (t : Trap) : (s.parkOp o c t).store = s.store := by
  unfold State.parkOp
  split
  · rename_i e
    rw [State.modOp_store, State.engineFault_store e]
  · rfl

@[simp] theorem State.holdWrite_store (c : Nat) (a : Access) (t : Trap) : (s.holdWrite c a t).store = s.store := by
  unfold State.holdWrite
  repeat' split
  all_goals simp

@[simp] theorem State.logReplay_store (c event : Nat) : (s.logReplay c event).store = s.store :=
  State.logError_store _ _ _ _ _ _

@[simp] theorem State.stopModule_store : s.stopModule.store = s.store := State.logError_store _ _ _ _ _ _

@[simp] theorem State.slotFreed_store (c slot : Nat) : (s.slotFreed c slot).store = s.store :=
  s.slotFreed_keeps State.store (fun _ _ _ => rfl) c slot

@[simp] theorem State.wakeCollective_store (c g : Nat) : (s.wakeCollective c g).store = s.store :=
  s.wakeCollective_keeps State.store (fun _ _ _ => rfl) c g

@[simp] theorem State.releaseSlots_store (h : Nat) : (s.releaseSlots h).store = s.store :=
  foldl_keeps State.store (fun _ _ => by dsimp only; split <;> simp) _ _

@[simp] theorem State.message_store (root : Nat) (addr : Word) (data : BitVec 32) :
    (s.message root addr data).store = s.store := by
  unfold State.message; dsimp only; split
  · simp
  · exact State.raiseExt_store _ _

end

/-! The canonical form of a store. -/

/-- Keys rise strictly in memory and in the tags, and neither lists what an unlisted key reads as. -/
def Store.Canonical (m : Store) : Prop := Memory.wf m.1 = true ∧ tableCanon WordTag.blank m.2 = true

theorem canonical_iff (s : State) : Claims.Canonical s ↔ s.store.Canonical := Iff.rfl

/-- A state that is the second part of a pair. -/
theorem canonical_of_eq {α : Type} {p : α × State} {a : α} {t : State} (e : p = (a, t)) (h : p.2.store.Canonical) :
    t.store.Canonical := by rw [e] at h; exact h

theorem foldl_canonical {β : Type} {step : State → β → State}
    (hs : ∀ s b, s.store.Canonical → (step s b).store.Canonical) (bs : List β) {s : State} (h : s.store.Canonical) :
    (bs.foldl step s).store.Canonical := by
  induction bs generalizing s with
  | nil => exact h
  | cons b bs ih => exact ih (hs s b h)

section
variable {s : State} (h : s.store.Canonical)
include h

@[simp] theorem State.putRaw_canonical (l : Loc) (bs : List Byte) : (s.putRaw l bs).store.Canonical :=
  ⟨putBytes_wf h.1, h.2⟩

@[simp] theorem State.setTag_canonical (l : Loc) (t : WordTag) : (s.setTag l t).store.Canonical :=
  ⟨h.1, State.setTag_canon h.2⟩

/-! Translation. -/

@[simp] theorem State.touchLeaf_canonical (l : Loc) (e : Word) (write : Bool) :
    (s.touchLeaf l e write).store.Canonical := by
  simp [State.touchLeaf, h]

theorem State.walkNow_canonical (k asid : Nat) (root : Word) (mode : Mode) (va : Word) (need : Need) (setsA : Bool) :
    (s.walkNow k asid root mode va need setsA).2.store.Canonical := by
  unfold State.walkNow
  split
  · exact h
  · dsimp only
    repeat' split
    all_goals simp [h]

theorem State.translate_canonical (c : Nat) (mode : Mode) (va : Word) (need : Need) :
    (s.translate c mode va need).2.store.Canonical := by
  unfold State.translate
  split
  · exact State.walkNow_canonical h _ _ _ _ _ _ _
  · exact h
  · exact h

/-- A translation that has given `x` and left `t`. -/
theorem State.translate_eq_canonical {t : State} {x : Translation} {c : Nat} {mode : Mode} {va : Word} {need : Need}
    (e : s.translate c mode va need = (x, t)) : t.store.Canonical := canonical_of_eq e (State.translate_canonical h _ _ _ _)

/-! Writes. -/

@[simp] theorem State.writeWord_canonical (w l : Loc) (bs : List Byte) (fe : Option Bool) :
    (s.writeWord w l bs fe).store.Canonical := by
  unfold State.writeWord; dsimp only
  repeat' split
  all_goals simp [h]

@[simp] theorem State.write_canonical (c : Nat) (l : Loc) (bs : List Byte) (fe : Option Bool) :
    (s.write c l bs fe).store.Canonical := by
  unfold State.write
  rw [State.fireWatches_store]
  refine foldl_canonical (fun s w h => State.writeWord_canonical h w l bs fe) _ ?_
  rw [foldl_keeps State.store fun s w => s.recordLine_store c w]
  exact h

@[simp] theorem State.poisonLines_canonical (l : Loc) (n : Nat) : (s.poisonLines l n).store.Canonical := by
  unfold State.poisonLines
  split
  · exact h
  · exact foldl_canonical (fun s w h => State.setTag_canonical h w _) _ h

theorem State.perform_canonical {t : State} {c : Nat} {a : Access} {v : Vec} (e : s.perform c a = .done t v) :
    t.store.Canonical := by
  unfold State.perform at e
  dsimp only at e
  repeat' split at e
  all_goals cases e
  case h_7 => exact h
  all_goals simp [h]

/-! Mailbox messages (R283, R337). -/

@[simp] theorem State.spillEntry_canonical (c : Nat) (e : Spill) : (s.spillEntry c e).store.Canonical := by
  refine foldl_canonical (fun s p h => ?_) _ (s := s.modCore c _) h
  split
  · exact State.write_canonical (State.translate_eq_canonical h ‹_›) _ _ _ _
  · exact State.translate_eq_canonical h ‹_›

@[simp] theorem State.divert_canonical (m : Held) : (s.divert m).store.Canonical := by
  simp [State.divert, h]

@[simp] theorem State.post_canonical (m : Held) : (s.post m).store.Canonical := by
  unfold State.post; dsimp only
  repeat' split
  all_goals simp [h]

/-! Units and launches. -/

@[simp] theorem State.completeLaunch_canonical (j : Nat) (l : Launch) : (s.completeLaunch j l).store.Canonical := by
  unfold State.completeLaunch
  split
  · rw [State.recheck_store]
    exact State.post_canonical (s := s.modJob j _) h _
  · exact h

@[simp] theorem State.completeLaunches_canonical (j : Nat) : (s.completeLaunches j).store.Canonical := by
  unfold State.completeLaunches
  split
  · exact foldl_canonical (fun s l h => State.completeLaunch_canonical h j l) _ h
  · exact h

@[simp] theorem State.endUnit_canonical (k : Nat) (how : UnitEnd) : (s.endUnit k how).store.Canonical := by
  unfold State.endUnit; dsimp only
  repeat' split
  all_goals simp [h]

end

end Sys2Proof.Machine

/-! SUPPORT. Units, jobs, engines and pre-emption keep the store canonical. -/

namespace Sys2Proof.Machine

/-- A result that may fail holds a canonical store where it does not. -/
theorem foldl_bind_canonical {β : Type} {step : β → State → Option State}
    (hs : ∀ b s t, s.store.Canonical → step b s = some t → t.store.Canonical) (bs : List β) {r : Option State}
    (hr : ∀ s, r = some s → s.store.Canonical) {t : State} (e : bs.foldl (fun r b => r.bind (step b)) r = some t) :
    t.store.Canonical := by
  induction bs generalizing r with
  | nil => exact hr t e
  | cons b bs ih =>
    refine ih (fun u hu => ?_) e
    obtain ⟨s, hs', hu⟩ := Option.bind_eq_some_iff.1 hu
    exact hs b s u (hr s hs') hu

/-- What a row comes to holds a canonical store. -/
def RowResult.Canonical : RowResult → Prop
  | .reads s => s.store.Canonical
  | .moved s _ _ _ _ => s.store.Canonical
  | .status _ s => s.store.Canonical
  | .fault _ s => s.store.Canonical

/-- What a home gives for an access holds a canonical store. -/
def Served.Canonical : Served → Prop
  | .done s _ => s.store.Canonical
  | .fails s _ _ => s.store.Canonical
  | .leaves s => s.store.Canonical
  | _ => True

section
variable {s : State} (h : s.store.Canonical)
include h

/-! Errors that strike, and replay (R361 to R365). -/

@[simp] theorem State.strike_canonical (x : Struck) : (s.strike x).store.Canonical := by
  cases x with
  | word l => exact foldl_canonical (fun s w h => State.setTag_canonical h w _) _ h
  | acc k n => exact h
  | reg k file n => exact h

@[simp] theorem State.reportStruck_canonical (x : Struck) : (s.reportStruck x).store.Canonical := by
  unfold State.reportStruck
  split <;> simp [h]

@[simp] theorem State.refuseReplay_canonical (c : Nat) : (s.refuseReplay c).store.Canonical := by
  unfold State.refuseReplay; dsimp only
  split <;> simp [h]

@[simp] theorem State.clearReplayArea_canonical (c : Nat) : (s.clearReplayArea c).store.Canonical := by
  refine ⟨h.1, ?_⟩
  have hc := (tableCanon_iff WordTag.blank s.tags).1 h.2
  exact (tableCanon_iff _ _).2 ⟨hc.1.filter _, fun e he => hc.2 e (List.mem_filter.1 he).1⟩

@[simp] theorem State.restoreLine_canonical (r : LineRec) : (s.restoreLine r).store.Canonical :=
  foldl_canonical (fun _ _ h => State.setTag_canonical h _ _) _ (State.putRaw_canonical h _ _)

@[simp] theorem State.restoreLines_canonical (cs : List Nat) : (s.restoreLines cs).store.Canonical :=
  foldl_canonical (fun _ r h => State.restoreLine_canonical h r) _ h

@[simp] theorem State.replay_canonical (jn : Nat) (why : Option Struck) : (s.replay jn why).store.Canonical := by
  unfold State.replay
  repeat' split
  · exact h
  · rw [State.logReplay_store, State.modJob_store, foldl_keeps State.store fun s c => s.replayCore_store c,
      State.restoreAccs_store]
    exact State.restoreLines_canonical h _
  · simp [h]

@[simp] theorem State.strikeJob_canonical (jn : Option Nat) (x : Struck) : (s.strikeJob jn x).store.Canonical := by
  unfold State.strikeJob
  repeat' split
  all_goals simp [h]

@[simp] theorem State.poison_canonical (l : Loc) : (s.poison l).store.Canonical := by simp [State.poison, h]

@[simp] theorem State.poisonAcc_canonical (k n : Nat) :
    (s.poisonAcc k n).store.Canonical := by simp [State.poisonAcc, h]

@[simp] theorem State.takeBadRegister_canonical (r : Nat × Nat) : (s.takeBadRegister r).store.Canonical := by
  unfold State.takeBadRegister
  repeat' split
  all_goals simp [h]

/-! Units, and the matrix commands that a CANCEL ends. -/

theorem State.loadImage_canonical {t : State} {c : Nat} {a : Word} (e : s.loadImage c a = some t) :
    t.store.Canonical := by
  unfold State.loadImage at e; dsimp only at e
  repeat' split at e
  · cases e
    exact State.write_canonical (State.write_canonical (s := { s with free := s.free + 32 + 0x28000 }) h _ _ _ _) _ _ _ _
  all_goals cases e

@[simp] theorem State.dispatch_canonical (jn : Nat) : (s.dispatch jn).store.Canonical := by
  unfold State.dispatch
  split
  · exact h
  · split
    · exact h
    · split
      · split
        · simp [h]
        · split
          · simpa using State.loadImage_canonical h ‹_›
          · exact h
      · simp [h]

@[simp] theorem State.finishCmd_canonical (c : Nat) (k : MatrixCmd) (status elem rtpc : Nat) (flags : FlagSet) :
    (s.finishCmd c k status elem rtpc flags).store.Canonical := by
  unfold State.finishCmd; dsimp only
  repeat' split
  all_goals simp [h]

@[simp] theorem State.stopStrand_canonical (k : Nat) : (s.stopStrand k).store.Canonical := by
  unfold State.stopStrand
  split <;> simp [h]

@[simp] theorem State.cancelCmds_canonical (c : Nat) (ts : List Nat) : (s.cancelCmds c ts).store.Canonical :=
  foldl_canonical (fun _ _ h => State.finishCmd_canonical h _ _ _ _ _ _) _ h

theorem State.cancelLaunches_canonical (jn : Nat) (j : Job) (ts : List Nat) :
    (s.cancelLaunches jn j ts).2.2.store.Canonical := by
  refine State.completeLaunches_canonical (foldl_canonical (fun s k h => ?_) _ ?_) jn
  · split
    · exact h
    · exact State.stopStrand_canonical h k
  · exact foldl_canonical (fun _ _ h => State.cancelCmds_canonical h _ _) _ h

@[simp] theorem State.endAtEntry_canonical : s.endAtEntry.store.Canonical := by
  refine State.endUnit_canonical ?_ _ _
  rw [State.logError_store]
  exact h

@[simp] theorem State.fetchTrap_canonical (t : Trap) : (s.fetchTrap t).store.Canonical := by
  unfold State.fetchTrap
  split <;> simp [h]

@[simp] theorem State.answerForward_canonical (k action : Nat) : (s.answerForward k action).store.Canonical := by
  unfold State.answerForward
  repeat' split
  all_goals simp [h]

/-! The commit of a superstep (R304). -/

@[simp] theorem State.commitWords_canonical (c : Nat) (d : Staged) (l : Loc) :
    (s.commitWords c d l).store.Canonical := by
  refine foldl_canonical (fun s e h => ?_) _ (State.write_canonical h _ _ _ _)
  split
  · exact State.setTag_canonical h _ _
  · exact h

theorem State.seamPlace_canonical (c : Nat) (m : SeamMsg) : (s.seamPlace c m).2.store.Canonical := by
  unfold State.seamPlace; dsimp only
  split
  · exact h
  · split
    · split
      · exact State.translate_eq_canonical h ‹_›
      · exact State.translate_eq_canonical h ‹_›
    · split <;> exact h

@[simp] theorem State.commitSeam_canonical (c : Nat) (m : SeamMsg) : (s.commitSeam c m).store.Canonical := by
  have hp := State.seamPlace_canonical h c m
  unfold State.commitSeam; dsimp only
  split
  · rename_i e; rw [e] at hp; simpa using hp
  · rename_i e; rw [e] at hp
    repeat' split
    case h_1 e => simpa using State.perform_canonical hp e
    all_goals simpa using hp

@[simp] theorem State.commitOne_canonical (c : Nat) (d : Staged) : (s.commitOne c d).store.Canonical := by
  unfold State.commitOne
  split <;> simp [h]

@[simp] theorem State.commitAll_canonical (c : Nat) : (s.commitAll c).store.Canonical :=
  foldl_canonical (fun _ d h => State.commitOne_canonical h c d) _ h

@[simp] theorem State.openRecord_canonical (c : Nat) : (s.openRecord c).store.Canonical := by
  simp [State.openRecord, h]

/-! Engine operations. -/

@[simp] theorem State.completeOp_canonical (c id : Nat) : (s.completeOp c id).store.Canonical := by
  unfold State.completeOp
  repeat' split
  all_goals simp [h]

theorem State.piecePlace_canonical (c : Nat) (mode : Mode) (need : Need) (a n : Nat) :
    (s.piecePlace c mode need a n).2.store.Canonical := by
  unfold State.piecePlace; dsimp only
  split
  · split
    · exact State.translate_eq_canonical h ‹_›
    · exact State.translate_eq_canonical h ‹_›
    · exact State.translate_eq_canonical h ‹_›
  · split <;> exact h

end

theorem State.placePieces_canonical {s : State} (h : s.store.Canonical) (c : Nat) (mode : Mode) (need : Need)
    (ps : List (Nat × Nat)) : (s.placePieces c mode need ps).2.store.Canonical := by
  induction ps generalizing s with
  | nil => exact h
  | cons p ps ih =>
    have hp := State.piecePlace_canonical h c mode need p.1 p.2
    unfold State.placePieces
    split
    · rename_i e; rw [e] at hp; exact hp
    · rename_i t e; rw [e] at hp
      have := ih hp
      split
      · rename_i e; rw [e] at this; exact this
      · rename_i e; rw [e] at this; exact this

section
variable {s : State} (h : s.store.Canonical)
include h

theorem State.readRow_canonical (q : Sender) (o : EngineOp) (r : Row) (src dst : Nat) :
    (s.readRow q o r src dst).Canonical := by
  unfold State.readRow
  split
  · exact h
  · have h1 := State.placePieces_canonical h q.core o.mode .read (pieces r.src r.n)
    split
    · rename_i e; rw [e] at h1; exact h1
    · rename_i e; rw [e] at h1
      have h2 := State.placePieces_canonical h1 q.core o.mode .write (pieces r.dst r.nd)
      split
      · rename_i e; rw [e] at h2; exact h2
      · rename_i u e; rw [e] at h2
        split
        · rename_i v e
          have : v.store = u.store := by
            cases f : u.peerRefusal q r.src src with
            | none => rw [f] at e; exact State.peerRefusal_store e
            | some w => rw [f] at e; cases e; exact State.peerRefusal_store f
          rw [RowResult.Canonical, this]; exact h2
        · exact h2

theorem State.writeRow_canonical (q : Sender) (o : EngineOp) (r : Row) (gs : List Got) :
    (s.writeRow q o r gs).Canonical := by
  unfold State.writeRow
  split
  · split <;> exact h
  · split
    · exact canonical_of_eq ‹_› (State.placePieces_canonical h _ _ _ _)
    · exact canonical_of_eq ‹_› (State.placePieces_canonical h _ _ _ _)

theorem State.stepRow_canonical {x : RowResult} {q : Sender} {o : EngineOp} {r : Row} {src dst : Nat}
    (e : s.stepRow q o r src dst = some x) : x.Canonical := by
  unfold State.stepRow at e
  split at e
  · cases e; exact State.readRow_canonical h q o r src dst
  · obtain ⟨gs, _, rfl⟩ := Option.map_eq_some_iff.1 e
    exact State.writeRow_canonical h q o r gs

@[simp] theorem State.copyRow_canonical (c : Nat) (o : EngineOp) (g : Vector Word 13) (rm : BitVec 3)
    (row pos src dst : Nat) :
    (s.copyRow c o g rm row pos src dst).store.Canonical := by
  unfold State.copyRow; dsimp only
  split
  · simp [h]
  · split
    · exact h
    all_goals
      rename_i e
      have hx : Store.Canonical _ := State.stepRow_canonical h e
      repeat' split
      all_goals simpa using hx

theorem State.readIndex_canonical {t : State} {c row : Nat} {o : EngineOp} {g : GatherRec}
    (e : s.readIndex c o g row = .ok t) : t.store.Canonical := by
  unfold State.readIndex at e; dsimp only at e
  repeat' split at e
  all_goals cases e
  simp [h]

@[simp] theorem State.gatherRow_canonical (c : Nat) (o : EngineOp) (g : GatherRec) (row : Nat) (index : Option Int)
    (first : Option Word) (from_ into : Nat) : (s.gatherRow c o g row index first from_ into).store.Canonical := by
  unfold State.gatherRow; dsimp only
  cases index with
  | none =>
    dsimp only
    repeat' split
    case h_1 e => exact State.readIndex_canonical h e
    all_goals simp [h]
  | some j =>
    dsimp only
    split
    · simp [h]
    · split
      · exact h
      all_goals
        rename_i e
        have hx : Store.Canonical _ := State.stepRow_canonical h e
        repeat' split
        all_goals simpa using hx

@[simp] theorem State.markTile_canonical (l : Loc) (size : Nat) (delta : Word) :
    (s.markTile l size delta).store.Canonical :=
  foldl_canonical (fun _ _ h => State.setTag_canonical h _ _) _ h

@[simp] theorem State.clearMarkWord_canonical (w : Loc) : (s.clearMarkWord w).store.Canonical := by
  unfold State.clearMarkWord
  split <;> simp [h]

/-! Homes. -/

theorem State.settle_canonical (c : Nat) (e : PathEntry) {r : Served} (hr : r.Canonical) :
    (s.settle c e r).store.Canonical := by
  unfold State.settle
  split
  case h_4 =>
    rw [State.startWait_store]
    split <;> exact h
  case h_5 => exact h
  case h_7 => exact h
  all_goals simpa using show Store.Canonical _ from hr

theorem State.outsideWalk_canonical (root va : Word) (need : Need) (fab setsA : Bool) :
    (s.outsideWalk root va need fab setsA).2.store.Canonical := by
  unfold State.outsideWalk; dsimp only
  repeat' split
  all_goals simp [h]

@[simp] theorem State.deviceHop_canonical (c : Nat) (e : PathEntry) (hop : Hop) (root : Word) :
    (s.deviceHop c e hop root).store.Canonical := by
  unfold State.deviceHop; dsimp only
  split
  · simp [h]
  · split
    · simp [h]
    · have hw := State.outsideWalk_canonical h root (e.acc.va + hop.delta) e.acc.kind.need false true
      split
      all_goals
        rename_i e
        rw [e] at hw
        simpa using hw

@[simp] theorem State.flip_canonical (k b : Nat) : (s.flip k b).store.Canonical := by
  have children (s : State) (cs : List (Nat × Nat)) (f : Barrier → Barrier) :
      (cs.foldl (fun s c => s.modBarrier c.1 c.2 f) s).store = s.store :=
    foldl_keeps State.store (fun s c => s.modBarrier_store c.1 c.2 f) cs s
  have phases (s : State) (js : List Nat) : (js.foldl State.closePhase s).store = s.store :=
    foldl_keeps State.store (fun s j => s.closePhase_store j) js s
  have ready {s : State} (es : List (Nat × PathEntry)) (x : Ans) (h : s.store.Canonical) :
      (es.foldl (fun s e => s.settle e.1 e.2 (.done s x)) s).store.Canonical :=
    foldl_canonical (fun s e h => State.settle_canonical h e.1 e.2 (r := .done s x) h) es h
  unfold State.flip; dsimp only
  split
  · exact ready _ _ (by rw [children]; exact h)
  · rw [phases]
    exact ready _ _ (by rw [children]; exact h)

@[simp] theorem State.arriveAt_canonical (k b : Nat) (child : Option (Nat × Nat)) :
    (s.arriveAt k b child).store.Canonical := by
  unfold State.arriveAt; dsimp only
  repeat' split
  all_goals simp [h]

@[simp] theorem State.notifyEntry_canonical (c q : Nat) : (s.notifyEntry c q).store.Canonical := by
  unfold State.notifyEntry; dsimp only
  split <;> simp [h]

@[simp] theorem State.appendEntry_canonical (c q strand : Nat) (bs : List Byte) :
    (s.appendEntry c q strand bs).store.Canonical := by
  simp [State.appendEntry, h]

/-! The save area (R336). -/

theorem State.saveWrite_canonical {t : State} {c off : Nat} {bs : List Byte} (e : s.saveWrite c off bs = some t) :
    t.store.Canonical := by
  refine foldl_bind_canonical (fun p s u h e => ?_) _ (r := some s) (fun _ e => by cases e; exact h) e
  split at e
  · cases e; exact State.write_canonical (State.translate_eq_canonical h ‹_›) _ _ _ _
  · cases e

@[simp] theorem State.savePoison_canonical (c off : Nat) (l : Loc) (n : Nat) :
    (s.savePoison c off l n).store.Canonical := by
  refine foldl_canonical (fun s w h => ?_) _ h
  split
  · exact State.setTag_canonical (State.translate_eq_canonical h ‹_›) _ _
  · exact State.translate_eq_canonical h ‹_›

end

theorem State.saveRegions_canonical {s t : State} (h : s.store.Canonical) {c base : Nat} {rs : List (Nat × List Byte)}
    (e : s.saveRegions c base rs = some t) : t.store.Canonical := by
  induction rs generalizing s with
  | nil => cases e; exact h
  | cons r rs ih =>
    obtain ⟨u, hu, e⟩ := Option.bind_eq_some_iff.1 e
    exact ih (State.saveWrite_canonical h hu) e

section
variable {s : State} (h : s.store.Canonical)
include h

theorem State.saveContext_canonical {t : State} {c : Nat} (e : s.saveContext c = some t) : t.store.Canonical := by
  unfold State.saveContext at e
  obtain ⟨u, hu, e⟩ := Option.bind_eq_some_iff.1 e
  obtain ⟨v, hv, e⟩ := Option.bind_eq_some_iff.1 e
  obtain ⟨w, hw, e⟩ := Option.bind_eq_some_iff.1 e
  have hu := State.savePoison_canonical (State.saveWrite_canonical h hu) c 0 { home := .unit c, off := 0 } 0x28000
  have hv := foldl_bind_canonical (fun _ _ _ h e => State.saveRegions_canonical h e) _
    (fun _ e => by cases e; exact hu) hv
  exact State.saveWrite_canonical (State.saveWrite_canonical hv hw) e

@[simp] theorem State.reloadStrand_canonical (k : Nat) (bs : List Byte) : (s.reloadStrand k bs).store.Canonical := by
  have csrs (s : State) (vs : List (Nat × Word)) : (vs.foldl (fun s e => s.reloadCsr e.1 e.2) s).store = s.store :=
    foldl_keeps State.store (fun s e => s.reloadCsr_store e.1 e.2) vs s
  unfold State.reloadStrand
  extract_lets t cur vals
  have ht : t.store.Canonical := h
  clear_value vals t
  show Store.Canonical (State.store (vals.foldl _ { t with cur := k }))
  rw [csrs]
  exact ht

@[simp] theorem State.reloadFull_canonical (c : Nat) (bs : List Byte) : (s.reloadFull c bs).store.Canonical :=
  foldl_canonical (fun _ _ h => State.setTag_canonical h _ _) _ h

@[simp] theorem State.reloadScratch_canonical (c : Nat) (bs : List Byte) (bad : List Bool) :
    (s.reloadScratch c bs bad).store.Canonical := by
  refine foldl_canonical (fun s e h => ?_) _ (State.putRaw_canonical h _ _)
  dsimp only
  split
  · exact h
  · exact State.setTag_canonical h _ _

@[simp] theorem State.reloadCore_canonical (c : Nat) (bs : List Byte) : (s.reloadCore c bs).store.Canonical := by
  have csrs (s : State) (vs : List (Nat × Word)) : (vs.foldl (fun s e => s.csrWrite e.1 e.2) s).store = s.store :=
    foldl_keeps State.store (fun s e => s.csrWrite_store e.1 e.2) vs s
  unfold State.reloadCore
  extract_lets _ _ _ _ _ t u cur vals
  have hu : u.store.Canonical := State.reloadFull_canonical (s := t) h c _
  clear_value vals u
  show Store.Canonical (State.store (vals.foldl _ { u with cur := 8 * c }))
  rw [csrs]
  exact hu

theorem State.loadContext_canonical {t : State} {c : Nat} (e : s.loadContext c = some t) : t.store.Canonical := by
  unfold State.loadContext at e
  obtain ⟨u, _, e⟩ := Option.bind_eq_some_iff.1 e
  obtain ⟨v, hv, e⟩ := Option.bind_eq_some_iff.1 e
  obtain ⟨w, _, rfl⟩ := Option.map_eq_some_iff.1 e
  have hv := foldl_bind_canonical (fun _ _ _ h e => by
    obtain ⟨_, _, rfl⟩ := Option.map_eq_some_iff.1 e
    exact State.reloadStrand_canonical h _ _) _
    (fun _ e => by cases e; exact State.reloadScratch_canonical h _ _ _) hv
  exact State.reloadCore_canonical hv _ _

theorem State.spillFits_canonical {t : State} {c : Nat} {e : Spill} (he : s.spillFits c e = some t) :
    t.store.Canonical := by
  unfold State.spillFits at he; dsimp only at he
  repeat' split at he
  all_goals cases he
  all_goals simp [h]

@[simp] theorem State.storeAnswer_canonical (k : Nat) : (s.storeAnswer k).store.Canonical := by
  unfold State.storeAnswer; dsimp only
  split
  · cases e : s.saveWrite (coreOf k) (answerOffset (k % 8)) (wordsBytes [(s.strand k).ansv, (s.strand k).ansa]) with
    | none => exact h
    | some t => exact State.saveWrite_canonical h e
  · exact h

@[simp] theorem State.storeAnsa_canonical (k action : Nat) : (s.storeAnsa k action).store.Canonical := by
  unfold State.storeAnsa
  repeat' split
  all_goals simp [h]

@[simp] theorem State.applyAnswers_canonical (c : Nat) : (s.applyAnswers c).store.Canonical := by
  refine foldl_canonical (fun s k h => ?_) _ h
  dsimp only
  split
  · exact State.answerForward_canonical h _ _
  · exact h

@[simp] theorem State.privWrite_canonical (b o : Nat) (v : Word) : (s.privWrite b o v).store.Canonical := by
  unfold State.privWrite
  repeat' split
  all_goals simp [h]

@[simp] theorem State.serveRegister_canonical (a : Access) (v : Word) : (s.serveRegister a v).store.Canonical := by
  unfold State.serveRegister; dsimp only
  split <;> simp [h]

theorem State.endWalk_canonical (k : Nat) (w : Walk) (n : Nat) (need : Need) :
    (s.endWalk k w n need).store.Canonical := by
  have hw := State.walkNow_canonical h k w.asid w.root (s.strand n).mode (s.strand n).walkAddress need true
  unfold State.endWalk; dsimp only
  split
  all_goals
    rename_i e
    rw [e] at hw
    exact hw

end

end Sys2Proof.Machine

/-! SUPPORT. Matrix commands, higher-order operations, requests from outside and time keep the store canonical. -/

namespace Sys2Proof.Machine

section
variable (s : State)

@[simp] theorem State.enterPieces_store (q asid : Nat) (root : Option Word) (op : Option Nat) (k : AccKind)
    (ps : List (Loc × Nat)) (va : Nat) : (s.enterPieces q asid root op k ps va).store = s.store := by
  induction ps generalizing s k va with
  | nil => rfl
  | cons p ps ih => exact ih _ _ _

@[simp] theorem State.endCore_store (c : Nat) : (s.endCore c).store = s.store := by
  have strands : ((List.range 6).foldl (fun s k => s.endStrand (8 * c + k)) s).store = s.store :=
    foldl_keeps State.store (fun s k => s.endStrand_store (8 * c + k)) _ s
  unfold State.endCore; dsimp only
  split
  · exact strands
  · rw [State.choose_store]; exact strands

@[simp] theorem State.pass_store (cycles ns : Nat) : (s.pass cycles ns).store = s.store := by
  have cores (cs : List Nat) : (cs.foldl State.endCore s).store = s.store :=
    foldl_keeps State.store (fun s c => s.endCore_store c) cs s
  unfold State.pass
  split
  · rfl
  · exact cores _

@[simp] theorem State.startOp_store (kind : OpKind) : (s.startOp kind).1.store = s.store := (rfl)

@[simp] theorem State.placeMark_store (c : Nat) (a b : Path) : (s.placeMark c a b).1.store = s.store := by
  unfold State.placeMark; dsimp only
  split <;> simp

@[simp] theorem State.startJob_store (bs : List Byte) (es : List CoreEntry) (guards : List Word) :
    (s.startJob bs es guards).2.store = s.store := by
  unfold State.startJob
  split
  · rfl
  · exact foldl_keeps State.store (fun _ _ => by simp) _ s

@[simp] theorem State.ctuDrop_store (k : BitVec 2) (va : Word) (asid : Nat) (r : BitVec 3) :
    (s.ctuDrop k va asid r).1.store = s.store := by
  have entries (s : State) (ns : List Nat) : (ns.foldl (fun s n => s.modCluster n fun q =>
      { q with ctu := q.ctu.filter fun e => !ctuDrops k va asid e }) s).store = s.store :=
    foldl_keeps State.store (fun _ _ => by simp) ns s
  have paths (s : State) (cs : List Nat) :
      (cs.foldl (fun s c => (s.movePosted c fun _ => true).flushOps c) s).store = s.store :=
    foldl_keeps State.store (fun _ _ => by simp) cs s
  exact (paths _ _).trans (entries _ _)

end

section
variable {s : State} (h : s.store.Canonical)
include h

/-! Matrix commands. -/

@[simp] theorem State.poisonCmd_canonical (c : Nat) (k : MatrixCmd) (wide : Bool) (elem : Nat) :
    (s.poisonCmd c k wide elem).store.Canonical := by
  simp [State.poisonCmd, h]

@[simp] theorem State.beginStep_canonical (c : Nat) (k : MatrixCmd) (b : Nat) :
    (s.beginStep c k b).store.Canonical := by
  unfold State.beginStep
  extract_lets k t
  have ht : t.store.Canonical := h
  clear_value k t
  repeat' split
  all_goals simp [ht]

@[simp] theorem State.endMma_canonical (c : Nat) (k : MatrixCmd) (t src : BitVec 3) (y : Word) (b : Nat) (data : List Byte)
    (bad : List Bool) : (s.endMma c k t src y b data bad).store.Canonical := by
  unfold State.endMma
  dsimp only
  split
  repeat' split
  all_goals simp [h]

@[simp] theorem State.endConst_canonical (c : Nat) (k : MatrixCmd) (t : BitVec 3) (cc : BitVec 2) (side : Bool)
    (data : List Byte) (bad : List Bool) : (s.endConst c k t cc side data bad).store.Canonical := by
  unfold State.endConst; dsimp only
  split
  · exact State.poisonCmd_canonical h c k _ 0
  · refine State.finishCmd_canonical ?_ c k _ 0 0 _
    rw [State.writeAcc_store]
    exact h

@[simp] theorem State.endLoad_canonical (c : Nat) (k : MatrixCmd) (f : BitVec 3) (data : List Byte) (bad : List Bool) :
    (s.endLoad c k f data bad).store.Canonical := by
  unfold State.endLoad; dsimp only
  split
  · exact State.poisonCmd_canonical h c k _ 0
  · refine State.finishCmd_canonical ?_ c k _ 0 0 _
    rw [State.writeAcc_store]
    exact h

@[simp] theorem State.endStore_canonical (c : Nat) (k : MatrixCmd) (f : BitVec 3) :
    (s.endStore c k f).store.Canonical := by
  unfold State.endStore
  split <;> simp [h]

@[simp] theorem State.endAdd_canonical (c : Nat) (k : MatrixCmd) (f : BitVec 3) (j : Nat) :
    (s.endAdd c k f j).store.Canonical := by
  refine State.finishCmd_canonical ?_ c k _ 0 0 _
  rw [State.writeAcc_store]
  exact h

@[simp] theorem State.endStep_canonical (c : Nat) (k : MatrixCmd) (b : Nat) (gs : List Got) :
    (s.endStep c k b gs).store.Canonical := by
  unfold State.endStep
  split
  · exact State.endMma_canonical h _ _ _ _ _ _ _ _
  · exact State.endConst_canonical h _ _ _ _ _ _ _
  · refine State.finishCmd_canonical ?_ c k _ 0 0 _
    rw [State.writeAcc_store]
    exact h
  · exact State.endLoad_canonical h _ _ _ _ _
  · exact State.endStore_canonical h _ _ _
  · exact State.endAdd_canonical h _ _ _ _
  · exact h

/-! Higher-order operations. -/

theorem State.hotPlace_canonical (c : Nat) (mode : Mode) (mat : Bool) (need : Need) (a n : Nat) :
    (s.hotPlace c mode mat need a n).2.store.Canonical := by
  unfold State.hotPlace
  split
  · exact h
  · split
    · exact h
    · split
      · exact h
      · split
        · exact canonical_of_eq ‹_› (State.piecePlace_canonical h _ _ _ _ _)
        · exact canonical_of_eq ‹_› (State.piecePlace_canonical h _ _ _ _ _)

end

theorem State.hotIns_canonical {s : State} (h : s.store.Canonical) (q : Sender) (mode : Mode) (mat : Bool) (w : Nat)
    (rs : List HotRead) : (s.hotIns q mode mat w rs).2.store.Canonical := by
  induction rs generalizing s with
  | nil => exact h
  | cons r rs ih =>
    have hp := State.hotPlace_canonical h q.core mode mat .read r.addr w
    unfold State.hotIns
    split
    · rename_i e; rw [e] at hp; exact hp
    · rename_i e; rw [e] at hp; exact ih hp

theorem State.hotOuts_one_canonical {s : State} (h : s.store.Canonical) (q : Sender) (mode : Mode) (mat : Bool)
    (w elem code : Nat) (bad : List (Nat × HotEnd)) (e : Nat) (sts : List Stream) :
    (State.hotOuts.one q mode mat w elem code bad e s sts).2.store.Canonical := by
  induction sts generalizing s with
  | nil => exact h
  | cons st sts ih =>
    have hp := State.hotPlace_canonical h q.core mode mat .write (st.base + w * e) w
    unfold State.hotOuts.one
    split
    · rename_i e; rw [e] at hp; exact hp
    · rename_i e; rw [e] at hp
      split
      · rename_i e; exact (State.peerRefusal_store e).symm ▸ hp
      · exact hp
      · have := ih hp
        split
        · rename_i e; rw [e] at this; exact this
        · rename_i e; rw [e] at this; exact this

theorem State.hotOuts_canonical {s : State} (h : s.store.Canonical) (q : Sender) (mode : Mode) (mat : Bool)
    (w elem code : Nat) (bad : List (Nat × HotEnd)) (outs : List Stream) (n e : Nat) :
    (s.hotOuts q mode mat w elem code bad outs n e).2.store.Canonical := by
  induction n generalizing s e with
  | zero => exact h
  | succ n ih =>
    have ho := State.hotOuts_one_canonical h q mode mat w elem code bad e outs
    unfold State.hotOuts
    split
    · rename_i e; rw [e] at ho; exact ho
    · rename_i e; rw [e] at ho; exact ih ho _

section
variable {s : State} (h : s.store.Canonical)
include h

theorem State.hotResult_canonical (q : Sender) (mode : Mode) (mat : Bool) (cap : Captured) (op : Nat) (rt : Routine)
    (r : HotRec) (checked : List Nat) (short : Option (Nat × HotEnd)) (gs : List Got) (elem code : Nat) :
    (s.hotResult q mode mat cap op rt r checked short gs elem code).2.store.Canonical :=
  State.hotOuts_canonical h _ _ _ _ _ _ _ _ _ _

@[simp] theorem State.endHotCopy_canonical (c : Nat) (o : EngineOp) (w : Nat) (res : HotResult) (places : List (List Place))
    (ends : List Outcome) (onFault : Option Nat) :
    (s.endHotCopy c o w res places ends onFault).store.Canonical := by
  unfold State.endHotCopy; dsimp only
  split <;> simp [h]

@[simp] theorem State.hotNext_canonical (c : Nat) (o : EngineOp) (op k : Nat) (rt : Routine) (r : HotRec) (checked : List Nat)
    (short : Option (Nat × HotEnd)) (gs : List Got) (elem code : Nat) :
    (s.hotNext c o op k rt r checked short gs elem code).store.Canonical := by
  have hr := State.hotResult_canonical h (hotSender c o) o.mode false o.captured op rt r checked short gs elem code
  unfold State.hotNext; dsimp only
  split
  all_goals
    split
    · exact State.endHotCopy_canonical hr _ _ _ _ _ _ _
    · exact hr

@[simp] theorem State.hotCopy_canonical (c : Nat) (o : EngineOp) (elem code : Nat) :
    (s.hotCopy c o elem code).store.Canonical := by
  unfold State.hotCopy
  split
  · simp [h]
  · exact State.hotIns_canonical h _ _ _ _ _
  · split <;> simp [h]
  · exact h

@[simp] theorem State.hotMatrix_canonical (c : Nat) (k : MatrixCmd) : (s.hotMatrix c k).store.Canonical := by
  unfold State.hotMatrix
  split
  · dsimp only
    split
    · split
      · exact State.hotIns_canonical h _ _ _ _ _
      · exact h
    · split
      · exact h
      · exact State.hotResult_canonical h _ _ _ _ _ _ _ _ _ _ _ _
    · simp [h]
  · exact h

@[simp] theorem State.endParked_canonical (c : Nat) (o : EngineOp) : (s.endParked c o).store.Canonical := by
  unfold State.endParked
  split
  · simp [h]
  · dsimp only
    split
    case h_4 =>
      exact State.endHotCopy_canonical
        (State.hotResult_canonical (s := s.modOp c o.id _) h _ _ _ _ _ _ _ _ _ _ _ _) _ _ _ _ _ _ _
    all_goals simp [h]

/-! Requests from outside. -/

end

theorem State.outsidePlaces_canonical {s : State} (h : s.store.Canonical) (root : Word) (need : Need) (fab setsA : Bool)
    (ps : List (Nat × Nat)) : (s.outsidePlaces root need fab setsA ps).2.store.Canonical := by
  induction ps generalizing s with
  | nil => exact h
  | cons p ps ih =>
    have hw := State.outsideWalk_canonical h root (BitVec.ofNat 64 p.1) need fab setsA
    unfold State.outsidePlaces
    split
    · rename_i e; rw [e] at hw; exact hw
    · rename_i e; rw [e] at hw
      have := ih hw
      split
      · rename_i e; rw [e] at this; exact this
      · exact this

end Sys2Proof.Machine

/-! SUPPORT. What a home serves, and what an instruction's shared parts leave, holds a canonical store. -/

namespace Sys2Proof.Machine

/-- A next state has a canonical store. -/
def NextCanonical : Result → Prop
  | .next t => t.store.Canonical
  | _ => True

@[simp] theorem nextCanonical_next (t : State) : NextCanonical (.next t) ↔ t.store.Canonical := Iff.rfl

@[simp] theorem Served.canonical_done (t : State) (a : Ans) :
    (Served.done t a).Canonical ↔ t.store.Canonical := Iff.rfl
@[simp] theorem Served.canonical_fails (t : State) (tr : Trap) (n : Nat) :
    (Served.fails t tr n).Canonical ↔ t.store.Canonical :=
  Iff.rfl
@[simp] theorem Served.canonical_leaves (t : State) : (Served.leaves t).Canonical ↔ t.store.Canonical := Iff.rfl
@[simp] theorem Served.canonical_waits (k : Option Nat) : (Served.waits k).Canonical := trivial
@[simp] theorem Served.canonical_slips (d : Word) (n : Nat) : (Served.slips d n).Canonical := trivial
@[simp] theorem Served.canonical_notNow : Served.notNow.Canonical := trivial

section
variable {s : State} (h : s.store.Canonical)
include h

/-! Homes. -/

theorem State.serveMemory_canonical (c : Nat) (a : Access) : (s.serveMemory c a).Canonical := by
  unfold State.serveMemory
  split
  · exact State.perform_canonical h ‹_›
  all_goals simp [h]

theorem State.servePeer_canonical (c : Nat) (path : Path) (a : Access) (peer : List Byte) (code : Nat) :
    (s.servePeer c path a peer code).Canonical := by
  unfold State.servePeer; dsimp only
  repeat' split
  all_goals simp [h]

theorem State.serveArrive_canonical (k b : Nat) : (s.serveArrive k b).Canonical := by
  unfold State.serveArrive; dsimp only
  split <;> simp [h]

theorem State.servePhase_canonical (k : Nat) (a : Access) : (s.servePhase k a).Canonical := by
  unfold State.servePhase; dsimp only
  split <;> simp [h]

theorem State.serveMutex_canonical (k : Nat) (a : Access) : (s.serveMutex k a).Canonical := by
  unfold State.serveMutex; dsimp only
  split <;> simp [h]

theorem State.serveLine_canonical (k : Nat) (a : Access) : (s.serveLine k a).Canonical := by
  unfold State.serveLine; dsimp only
  split <;> simp [h]

theorem State.serveEvent_canonical (k : Nat) (a : Access) : (s.serveEvent k a).Canonical := by
  unfold State.serveEvent
  split
  · exact State.servePhase_canonical h _ _
  · exact State.serveMutex_canonical h _ _
  · exact State.serveLine_canonical h _ _
  · split
    · exact State.serveArrive_canonical h k _
    · exact h

theorem State.serveSend_canonical (c : Nat) (a : Access) (bs : List Byte) (vec : Bool) :
    (s.serveSend c a bs vec).Canonical := by
  unfold State.serveSend; dsimp only
  repeat' split
  all_goals simp [h]

theorem State.serveRecv_canonical (a : Access) : (s.serveRecv a).Canonical := by
  unfold State.serveRecv; dsimp only
  split <;> simp [h]

theorem State.storeControl_canonical (a : Access) (ok : ChanQueue → Word → Bool) {after : Nat → State → State}
    (ha : ∀ n t, t.store.Canonical → (after n t).store.Canonical) : (s.storeControl a ok after).Canonical := by
  unfold State.storeControl; dsimp only
  split
  · exact h
  · exact ha _ _ h

theorem State.serveChan_canonical (a : Access) : (s.serveChan a).Canonical := by
  unfold State.serveChan; dsimp only
  split <;> simp [h]

theorem State.mstore_canonical (c k b : Nat) : (s.mstore c k b).Canonical := by
  unfold State.mstore; dsimp only
  split
  · simp [h]
  · split
    · simp [h]
    · split
      · simp [h]
      · split
        · simpa using State.perform_canonical h ‹_›
        · trivial

theorem State.servePcie_canonical (a : Access) (r : Nat) (aperture : Bool) (o : Nat) :
    (s.servePcie a r aperture o).Canonical := by
  unfold State.servePcie; dsimp only
  repeat' split
  all_goals simp [h]

theorem State.serveHome_canonical (c : Nat) (e : PathEntry) (peer : List Byte) (code : Nat) :
    (s.serveHome c e peer code).Canonical := by
  unfold State.serveHome; dsimp only
  split
  · exact State.servePeer_canonical h _ _ _ _ _
  · exact State.serveEvent_canonical h _ _
  · exact State.serveChan_canonical h _
  · repeat' split
    · exact State.servePcie_canonical h _ _ _ _
    all_goals exact h
  · repeat' split
    · trivial
    · trivial
    · exact State.serveMemory_canonical h _ _

theorem State.serveRetry_canonical (c : Nat) (e : PathEntry) : (s.serveRetry c e).Canonical := by
  unfold State.serveRetry
  split
  · exact State.serveEvent_canonical h _ _
  · split
    · exact State.serveRecv_canonical h _
    · trivial
  · trivial
  · trivial
  · split
    · exact State.serveMemory_canonical h _ _
    · trivial

theorem serveRow_canonical (row : DevRow) (core seq : Nat) {f : State → Access → Served}
    (hf : ∀ a, (f s a).Canonical) : NextCanonical (serveRow row core seq f s) := by
  unfold serveRow
  repeat' split
  · exact State.settle_canonical h _ _ (hf _)
  · exact h
  · exact h

theorem serveStore_canonical (row : DevRow) (core seq : Nat) {f : State → Access → Word → State}
    (hf : ∀ a w, (f s a w).store.Canonical) : NextCanonical (serveStore row core seq f s) :=
  serveRow_canonical h row core seq fun a => hf a _

/-! An instruction's shared parts. -/

theorem issue_canonical (i : Instr) {body : State → Result} (hb : NextCanonical (body s)) :
    NextCanonical (issue i body s) := by
  unfold issue
  split
  · exact h
  · exact hb

theorem complete_canonical (f : Strand → Strand) : NextCanonical (complete f s) := h

theorem deliverFlags_canonical (fl : FlagSet) (lane : Nat) (put : Strand → Strand) :
    NextCanonical (deliverFlags fl lane put s) := by
  unfold deliverFlags; dsimp only
  split <;> exact h

theorem stepOr_canonical (c id : Nat) {next : State → Result} (hn : NextCanonical (next s)) :
    NextCanonical (stepOr c id next s) := by
  unfold stepOr
  split
  · rw [nextCanonical_next, State.stepOp_store ‹_›]; exact h
  · exact hn

end

end Sys2Proof.Machine

/-! SUPPORT. What each instruction and each device row leaves holds a canonical store. -/

namespace Sys2Proof.Machine

section
variable {s : State} (h : s.store.Canonical)
include h

@[simp] theorem State.nextFree_canonical : s.nextFree.2.store.Canonical := h

@[simp] theorem State.startImage_canonical (image : List Byte) : (s.startImage image).store.Canonical := by
  simp only [State.startImage, State.wake_store, State.modStrand_store]
  exact h

theorem execMailboxPlace_canonical (core : Nat) : NextCanonical (execMailboxPlace core s) := by
  unfold execMailboxPlace; dsimp only; repeat' split
  all_goals simp [h]

theorem execMcfg_canonical (d a : BitVec 5) (c : BitVec 3) : NextCanonical (execMcfg d a c s) := by
  refine issue_canonical h _ ?_
  dsimp only; repeat' split
  all_goals exact h

theorem execUnitDispatch_canonical (job : Nat) : NextCanonical (execUnitDispatch job s) := by
  unfold execUnitDispatch
  simp [h]

theorem execJobEnd_canonical (job : Nat) : NextCanonical (execJobEnd job s) := by
  unfold execJobEnd; repeat' split
  all_goals simp [h]

theorem execCancelReturn_canonical : NextCanonical (execCancelReturn s) := by
  unfold execCancelReturn; repeat' split
  all_goals simp [h]

theorem execPourEntrySend_canonical (job k : Nat) : NextCanonical (execPourEntrySend job k s) := by
  unfold execPourEntrySend; repeat' split
  all_goals simp [h]

theorem execPourDeliveryStage_canonical (job k : Nat) : NextCanonical (execPourDeliveryStage job k s) := by
  unfold execPourDeliveryStage; repeat' split
  all_goals simp [h]

theorem execSuperstepReplay_canonical (job : Nat) : NextCanonical (execSuperstepReplay job s) := by
  unfold execSuperstepReplay
  simp [h]

theorem execCpgo_canonical (d : BitVec 5) : NextCanonical (execCpgo d s) := by
  refine issue_canonical h _ ?_
  dsimp only; repeat' split
  all_goals exact h

theorem execRelocBegin_canonical (core id : Nat) : NextCanonical (execRelocBegin core id s) := by
  unfold execRelocBegin; repeat' split
  all_goals simp [h]

theorem execRelocInstall_canonical (core id : Nat) : NextCanonical (execRelocInstall core id s) := by
  unfold execRelocInstall; repeat' split
  all_goals simp [h]

theorem execRelocCompletion_canonical (core id : Nat) : NextCanonical (execRelocCompletion core id s) := by
  unfold execRelocCompletion; repeat' split
  all_goals simp [h]

theorem execPostedStoreMove_canonical (core k : Nat) : NextCanonical (execPostedStoreMove core k s) := by
  unfold execPostedStoreMove; repeat' split
  all_goals simp [h]

theorem execAccessResponse_canonical : NextCanonical (execAccessResponse s) := by
  unfold execAccessResponse; repeat' split
  all_goals simp [h]

theorem execDrainComplete_canonical : NextCanonical (execDrainComplete s) := by
  unfold execDrainComplete; repeat' split
  all_goals simp [h]

theorem execBarrierChildArrival_canonical (cluster obj : Nat) :
    NextCanonical (execBarrierChildArrival cluster obj s) := by
  unfold execBarrierChildArrival; dsimp only; repeat' split
  all_goals simp [h]

theorem execBarrierParentFlip_canonical (cluster obj : Nat) :
    NextCanonical (execBarrierParentFlip cluster obj s) := by
  unfold execBarrierParentFlip; repeat' split
  all_goals simp [h]

theorem execCollectiveResultArrival_canonical (core group : Nat) :
    NextCanonical (execCollectiveResultArrival core group s) := by
  unfold execCollectiveResultArrival; repeat' split
  all_goals simp [h]

theorem execMatrixWaitExpiry_canonical (core : Nat) : NextCanonical (execMatrixWaitExpiry core s) := by
  unfold execMatrixWaitExpiry; repeat' split
  all_goals simp [h]

theorem execSprueHop_canonical (cluster k : Nat) : NextCanonical (execSprueHop cluster k s) := by
  unfold execSprueHop; dsimp only; repeat' split
  all_goals simp [h]

theorem execMsiMessage_canonical (root rid : Nat) (addr : Word) (data : BitVec 32) :
    NextCanonical (execMsiMessage root rid addr data s) := by
  unfold execMsiMessage; repeat' split
  all_goals simp [h]

theorem execPcieCompletion_canonical (root k : Nat) (ok poisoned : Bool) (data : List Byte) :
    NextCanonical (execPcieCompletion root k ok poisoned data s) := by
  unfold execPcieCompletion; repeat' split
  all_goals simp [h]

theorem execPcieCompletionTimeout_canonical (root k : Nat) : NextCanonical (execPcieCompletionTimeout root k s) := by
  unfold execPcieCompletionTimeout; repeat' split
  all_goals simp [h]

theorem execLinkFrameSend_canonical (port kind : Nat) (tc : Traffic) (peer : Nat) (data : List Byte) :
    NextCanonical (execLinkFrameSend port kind tc peer data s) := by
  unfold execLinkFrameSend; repeat' split
  all_goals simp [h]

theorem execLinkFrameReceive_canonical (port : Nat) (good : Bool) (bytes : List Byte) :
    NextCanonical (execLinkFrameReceive port good bytes s) := by
  unfold execLinkFrameReceive; dsimp only; repeat' split
  all_goals simp [h]

theorem execLinkReplayLimit_canonical (port : Nat) : NextCanonical (execLinkReplayLimit port s) := by
  unfold execLinkReplayLimit; dsimp only; repeat' split
  all_goals simp [h]

theorem execPhyLockLoss_canonical (port : Nat) : NextCanonical (execPhyLockLoss port s) := by
  unfold execPhyLockLoss; repeat' split
  all_goals simp [h]

theorem execHelloSend_canonical (port : Nat) : NextCanonical (execHelloSend port s) := by
  unfold execHelloSend; dsimp only; repeat' split
  all_goals simp [h]

theorem execHelloReceive_canonical (port : Nat) (lid : BitVec 32) : NextCanonical (execHelloReceive port lid s) := by
  unfold execHelloReceive; dsimp only; repeat' split
  all_goals simp [h]

theorem execOfferReceive_canonical (port : Nat) (bytes : List Byte) :
    NextCanonical (execOfferReceive port bytes s) := by
  unfold execOfferReceive; dsimp only; repeat' split
  all_goals simp [h]

theorem execAnswerReceive_canonical (port : Nat) (bytes : List Byte) :
    NextCanonical (execAnswerReceive port bytes s) := by
  unfold execAnswerReceive; dsimp only; repeat' split
  all_goals simp [h]

theorem execConfirmReceive_canonical (port : Nat) (bytes : List Byte) :
    NextCanonical (execConfirmReceive port bytes s) := by
  unfold execConfirmReceive; dsimp only; repeat' split
  all_goals simp [h]

theorem execTrainingTimeout_canonical (port : Nat) : NextCanonical (execTrainingTimeout port s) := by
  unfold execTrainingTimeout; dsimp only; repeat' split
  all_goals simp [h]

theorem execRecoveryImageReceive_canonical (image : List Byte) :
    NextCanonical (execRecoveryImageReceive image s) := by
  unfold execRecoveryImageReceive; repeat' split
  all_goals simp [h]

theorem execJunctionTrip_canonical (die : Nat) : NextCanonical (execJunctionTrip die s) := by
  unfold execJunctionTrip; repeat' split
  all_goals simp [h]

theorem execCoolantLimitStop_canonical : NextCanonical (execCoolantLimitStop s) := by
  unfold execCoolantLimitStop
  simp [h]

theorem execBranch_canonical (i : Instr) (a b : BitVec 5) (o : BitVec 14) (c : Word → Word → Bool) :
    NextCanonical (execBranch i a b o c s) := by
  refine issue_canonical h _ ?_
  dsimp only; repeat' split
  all_goals simp [h]

theorem execJalr_canonical (d a : BitVec 5) (i : BitVec 14) : NextCanonical (execJalr d a i s) := by
  refine issue_canonical h _ ?_
  dsimp only; repeat' split
  all_goals simp [h]

theorem execLoop_canonical (a : BitVec 5) (n : BitVec 14) : NextCanonical (execLoop a n s) := by
  refine issue_canonical h _ ?_
  dsimp only; repeat' split
  all_goals simp [h]

theorem execWaitLimitExpiry_canonical : NextCanonical (execWaitLimitExpiry s) := by
  unfold execWaitLimitExpiry; repeat' split
  all_goals simp [h]

theorem execTimedWaitExpiry_canonical : NextCanonical (execTimedWaitExpiry s) := by
  unfold execTimedWaitExpiry; repeat' split
  all_goals simp [h]

theorem execQuantumEnd_canonical : NextCanonical (execQuantumEnd s) := by
  unfold execQuantumEnd; dsimp only; repeat' split
  all_goals simp [h]

theorem execTimecmpMatch_canonical : NextCanonical (execTimecmpMatch s) := by
  unfold execTimecmpMatch
  simp [h]

theorem execInterruptTake_canonical : NextCanonical (execInterruptTake s) := by
  unfold execInterruptTake; repeat' split
  all_goals simp [h]

theorem execScrubLine_canonical (slice off : Nat) : NextCanonical (execScrubLine slice off s) := by
  unfold execScrubLine
  simp [h]


theorem deliverLanes_canonical (fls : List FlagSet) (put : Strand → Strand) :
    NextCanonical (deliverLanes fls put s) :=
  deliverFlags_canonical h _ _ _

theorem execYieldEnd_canonical : NextCanonical (execYieldEnd s) := by
  refine issue_canonical h _ ?_
  split <;> simp [h]

theorem execEcall_canonical : NextCanonical (execEcall s) := by
  refine issue_canonical h _ ?_
  split
  · simp [h]
  · simp [h]
  · split
    · simp [h]
    · dsimp only
      split
      · simp [h, State.pushFault_store ‹_›]
      · simp [h]

theorem csrAccess_canonical (i : Instr) (d : BitVec 5) (n : BitVec 14) (new : Strand → Word → Option Word) :
    NextCanonical (csrAccess i d n new s) := by
  refine issue_canonical h _ ?_
  dsimp only
  split
  · simp [h]
  · split
    · simp [h]
    · repeat' split
      all_goals simp [complete, h]

theorem execScheduleChoice_canonical (job : Nat) : NextCanonical (execScheduleChoice job s) := by
  unfold execScheduleChoice
  split
  · exact h
  · split
    · exact h
    · split
      · exact h
      · exact h

theorem execPourBegin_canonical (job : Nat) : NextCanonical (execPourBegin job s) := by
  unfold execPourBegin
  split
  · exact h
  · split
    · split
      · exact h
      · rw [nextCanonical_next, State.modJob_store]; refine foldl_canonical (fun _ _ ht => ?_) _ h; exact ht
    · exact h

theorem execSsyncCommit_canonical (job : Nat) : NextCanonical (execSsyncCommit job s) := by
  unfold execSsyncCommit
  split
  · exact h
  · split
    · exact h
    · split
      · exact h
      · refine foldl_canonical (fun t g ht => by simpa using ht) _ ?_
        rw [State.modJob_store, State.closePhase_store]
        refine foldl_canonical (fun _ c ht => State.openRecord_canonical ht c) _ ?_
        refine foldl_canonical (fun t g ht => by simpa using ht) _ ?_
        exact foldl_canonical (fun _ c ht => State.commitAll_canonical ht c) _ h

theorem execCopyRow_canonical (core id src dst : Nat) : NextCanonical (execCopyRow core id src dst s) := by
  refine stepOr_canonical h _ _ ?_
  repeat' split
  · exact State.copyRow_canonical h _ _ _ _ _ _ _ _
  all_goals exact h

theorem execCopyCompletion_canonical (core id : Nat) : NextCanonical (execCopyCompletion core id s) := by
  refine stepOr_canonical h _ _ ?_
  split
  · exact State.completeOp_canonical h _ _
  · exact h

theorem execGatherRow_canonical (core id src dst : Nat) : NextCanonical (execGatherRow core id src dst s) := by
  refine stepOr_canonical h _ _ ?_
  split
  · split
    · split
      · exact h
      · exact State.gatherRow_canonical h _ _ _ _ _ _ _ _
    · exact h
  · exact h

theorem execGatherMark_canonical (core id : Nat) : NextCanonical (execGatherMark core id s) := by
  refine stepOr_canonical h _ _ ?_
  split
  · split
    · dsimp only
      split <;> simp [h]
    · exact h
  · exact h

theorem execGatherCompletion_canonical (core id : Nat) : NextCanonical (execGatherCompletion core id s) := by
  refine stepOr_canonical h _ _ ?_
  extract_lets event
  have he : NextCanonical event := by
    unfold event
    split <;> simp [h]
  clear_value event
  split
  · split
    · split
      · simp [h]
      · exact he
    · split
      · exact he
      · exact State.completeOp_canonical h _ _
    · exact he
  · exact he

theorem execRelocCopy_canonical (core id : Nat) : NextCanonical (execRelocCopy core id s) := by
  refine stepOr_canonical h _ _ ?_
  split
  · split
    · exact h
    · split
      · simp [h]
      · split <;> simp [h]
  · exact h

theorem execRelocRetirementStep_canonical (core id : Nat) : NextCanonical (execRelocRetirementStep core id s) := by
  unfold execRelocRetirementStep
  split
  · split
    · exact h
    · split
      · simp [h]
      · simpa using foldl_canonical (fun _ _ ht => State.clearMarkWord_canonical ht _) _ h
  · exact h

theorem execMutexAcquire_canonical (core seq : Nat) : NextCanonical (execMutexAcquire core seq s) := by
  refine serveRow_canonical h _ _ _ fun a => ?_
  split
  · trivial
  · exact State.serveMutex_canonical h _ _

theorem execEventLineWait_canonical (core seq : Nat) : NextCanonical (execEventLineWait core seq s) := by
  refine serveRow_canonical h _ _ _ fun a => ?_
  split
  · trivial
  · exact State.serveLine_canonical h _ _

theorem execChanSend_canonical (core seq : Nat) : NextCanonical (execChanSend core seq s) := by
  refine serveRow_canonical h _ _ _ fun a => ?_
  split
  · split
    · trivial
    · exact State.serveSend_canonical h _ _ _ _
  · trivial

theorem execChanEntryWrite_canonical (core seq : Nat) : NextCanonical (execChanEntryWrite core seq s) := by
  unfold execChanEntryWrite
  split
  · split
    · split
      · exact State.settle_canonical h _ _ (State.serveSend_canonical h _ _ _ _)
      · exact h
    · exact h
  · exact h

theorem execSeamQueueTake_canonical (core queue : Nat) : NextCanonical (execSeamQueueTake core queue s) := by
  unfold execSeamQueueTake
  dsimp only
  split
  · exact h
  · split
    · exact h
    · have hp := State.seamPlace_canonical h core
        (seamOfBytes ((s.chanQueue core queue).sender (s.chanQueue core queue).head)
          (s.bytesAt ((s.chanQueue core queue).place core (s.chanQueue core queue).head) 16))
      split
      · rename_i e; rw [e] at hp; simpa using hp
      · rename_i e; rw [e] at hp; simpa using hp

theorem execCollectiveCombine_canonical (core group : Nat) : NextCanonical (execCollectiveCombine core group s) := by
  unfold execCollectiveCombine; dsimp only
  split
  · exact h
  · split
    · exact h
    · split
      · exact h
      · split
        · split
          · rw [nextCanonical_next, State.sendDown_store, State.logViolation_store]; exact h
          · rw [nextCanonical_next, State.sendDown_store]; exact h
        · split <;> simp [h]

theorem execCollectiveQueueRecord_canonical (core group : Nat) :
    NextCanonical (execCollectiveQueueRecord core group s) := by
  unfold execCollectiveQueueRecord
  split
  · exact h
  · split
    · exact h
    · simp [State.pushFault_store ‹_›, h]

theorem execMatrixTileStep_canonical (cluster : Nat) : NextCanonical (execMatrixTileStep cluster s) := by
  unfold execMatrixTileStep
  split
  · split
    · simpa [State.stepCmd_store ‹_›] using h
    · split
      · simpa using State.endStep_canonical h _ _ _ _
      · exact h
  · split
    · exact h
    · split
      · simp [h]
      · dsimp only
        split
        · exact State.beginStep_canonical (s := s.modCluster _ _) h _ _ _
        · exact h

theorem execHotOperationCompletion_canonical (core : Nat) (engine : Bool) (id elem code : Nat) :
    NextCanonical (execHotOperationCompletion core engine id elem code s) := by
  unfold execHotOperationCompletion
  split
  · split
    · split
      · exact h
      · exact stepOr_canonical h _ _ (State.hotCopy_canonical h _ _ _ _)
    · exact h
  · split
    · split
      · rename_i k _ _
        cases e : s.stepCmd core k with
        | none => exact State.hotMatrix_canonical h _ _
        | some t => simpa [e, State.stepCmd_store e] using h
      · exact h
    · exact h

theorem execGroupTableWrite_canonical (core seq : Nat) : NextCanonical (execGroupTableWrite core seq s) := by
  refine serveStore_canonical h _ _ _ fun a v => ?_
  dsimp only
  split <;> simp [h]

theorem execCollectiveGo_canonical (core seq : Nat) : NextCanonical (execCollectiveGo core seq s) := by
  refine serveStore_canonical h _ _ _ fun a v => ?_
  dsimp only
  repeat' split
  all_goals simp [h]

theorem execExtintWrite_canonical (core seq : Nat) : NextCanonical (execExtintWrite core seq s) := by
  refine serveStore_canonical h _ _ _ fun a v => foldl_canonical (fun t k ht => ?_) _ h
  split <;> simp [ht]

theorem execEngactRetry_canonical (core seq : Nat) : NextCanonical (execEngactRetry core seq s) := by
  refine serveStore_canonical h _ _ _ fun a v => ?_
  dsimp only
  repeat' split
  all_goals simp [h]

theorem execEngactEnd_canonical (core seq : Nat) : NextCanonical (execEngactEnd core seq s) := by
  refine serveStore_canonical h _ _ _ fun a v => ?_
  dsimp only
  repeat' split
  · exact State.endParked_canonical h _ _
  all_goals exact h

theorem execFaultQueueEntry_canonical : NextCanonical (execFaultQueueEntry s) := by
  unfold execFaultQueueEntry
  split
  · split
    · simp [State.pushFault_store ‹_›, h]
    · exact h
  · exact h

theorem execIcmdInsert_canonical (core seq : Nat) : NextCanonical (execIcmdInsert core seq s) := by
  refine serveStore_canonical h _ _ _ fun a v => ?_
  dsimp only
  split <;> simp [h]

theorem execIcmdMstore_canonical (core seq : Nat) : NextCanonical (execIcmdMstore core seq s) := by
  have go (e : PathEntry) : NextCanonical (if rowOf e.acc == .icmdMstore then
      .next (s.settle core e (s.mstore core (insertCluster (blockOfAccess e.acc) e.acc.loc.off) (blockOfAccess e.acc)))
      else .next s) := by
    split
    · exact State.settle_canonical h _ _ (State.mstore_canonical h _ _ _)
    · exact h
  unfold execIcmdMstore
  split
  · split
    · exact go _
    · exact h
  · exact go _
  · exact h

theorem setPre_all_canonical (c : Nat) (b : Bool) :
    ((List.range 6).foldl (fun s k => s.setPre (8 * c + k) b) s).store.Canonical :=
  foldl_canonical (fun t k ht => by simp [ht]) _ h

theorem execPctlNotice_canonical (core seq : Nat) : NextCanonical (execPctlNotice core seq s) := by
  refine serveStore_canonical h _ _ _ fun a v => ?_
  dsimp only
  split
  · exact setPre_all_canonical h _ _
  · exact h

theorem execPctlWithdraw_canonical (core seq : Nat) : NextCanonical (execPctlWithdraw core seq s) := by
  refine serveStore_canonical h _ _ _ fun a v => ?_
  dsimp only
  split
  · exact setPre_all_canonical h _ _
  · exact h

theorem execPctlPreempt_canonical (core seq : Nat) : NextCanonical (execPctlPreempt core seq s) := by
  refine serveStore_canonical h _ _ _ fun a v => ?_
  dsimp only
  split
  · exact foldl_canonical (s := s.modCore _ _) (fun t k ht => by simp [ht]) _ h
  · exact h

theorem execCoreSaveComplete_canonical (core : Nat) : NextCanonical (execCoreSaveComplete core s) := by
  unfold execCoreSaveComplete
  split
  · exact h
  · split
    · exact h
    · split
      · exact State.saveContext_canonical h ‹_›
      · have hs := State.saveContext_canonical h ‹_›
        rw [← State.pushFault_store ‹_›] at hs
        rw [nextCanonical_next, State.modCore_store, State.clearPending_store]
        exact hs

theorem execPctlResume_canonical (core seq : Nat) : NextCanonical (execPctlResume core seq s) := by
  refine serveStore_canonical h _ _ _ fun a v => ?_
  dsimp only
  split
  · have hl : ((s.loadContext (controlCore (blockOfAccess a) a.loc.off)).getD s).store.Canonical := by
      cases e : s.loadContext (controlCore (blockOfAccess a) a.loc.off) with
      | none => exact h
      | some t => exact State.loadContext_canonical h e
    simpa using State.applyAnswers_canonical (s := State.modCore _ _ _) hl _
  · exact h

theorem execSpillDrain_canonical (core : Nat) : NextCanonical (execSpillDrain core s) := by
  unfold execSpillDrain
  split
  · exact h
  · split
    · simp [h]
    · split
      · simpa using State.spillFits_canonical (s := s.modCore _ _) h ‹_›
      · exact h

theorem execPcieInboundMemoryRequest_canonical (root rid : Nat) (addr : Word) (write poisoned : Bool) (len : Nat)
    (data : List Byte) : NextCanonical (execPcieInboundMemoryRequest root rid addr write poisoned len data s) := by
  unfold execPcieInboundMemoryRequest; dsimp only
  generalize (if write then 512 else 4096) = most
  split
  · exact h
  · split
    · split <;> simp [h]
    · split
      · simp [h]
      · split
        · simp [h]
        · split
          · rename_i e
            have place := canonical_of_eq e (State.outsidePlaces_canonical h _ _ _ _ _)
            simpa using place
          · rename_i e
            have place := canonical_of_eq e (State.outsidePlaces_canonical h _ _ _ _ _)
            split <;> simpa using place

theorem execGatewayRequest_canonical (die src : Nat) (hub : Bool) (strand path : Nat) (key : BitVec 24) (va : Word)
    (len op : Nat) (data : List Byte) :
    NextCanonical (execGatewayRequest die src hub strand path key va len op data s) := by
  unfold execGatewayRequest; dsimp only
  split
  · exact h
  · split
    · simp [h]
    · split
      · simpa using canonical_of_eq ‹_› (State.outsidePlaces_canonical h _ _ _ _ _)
      · simpa using canonical_of_eq ‹_› (State.outsidePlaces_canonical h _ _ _ _ _)

theorem execPhyTrainComplete_canonical (port : Nat) : NextCanonical (execPhyTrainComplete port s) := by
  unfold execPhyTrainComplete
  split
  · simpa using State.nextFree_canonical h
  · exact h

theorem execBoot_canonical (image : List Byte) (number : BitVec 10) : NextCanonical (execBoot image number s) := by
  have good (k : Hub) : NextCanonical (.next (({ s with hub := k } : State).startImage image)) :=
    State.startImage_canonical (s := { s with hub := k }) h image
  have bad (k : Hub) : NextCanonical (.next (({ s with hub := k } : State).logError 8 0 0 7 0x0A)) := by
    rw [nextCanonical_next, State.logError_store]
    exact h
  unfold execBoot; dsimp only
  split
  · exact h
  · split
    · exact good _
    · exact bad _

theorem execAttestationRequest_canonical (nonce : List Byte) : NextCanonical (execAttestationRequest nonce s) := by
  unfold execAttestationRequest
  split <;> exact h

theorem execFp_canonical (i : Instr) (d : BitVec 5) (f : Strand → Word × FlagSet) : NextCanonical (execFp i d f s) :=
  issue_canonical h _ (deliverFlags_canonical h _ _ _)

theorem execFpX_canonical (i : Instr) (d : BitVec 5) (f : Strand → Word × FlagSet) :
    NextCanonical (execFpX i d f s) :=
  issue_canonical h _ (deliverFlags_canonical h _ _ _)

theorem execLanes_canonical (i : Instr) (w : Nat) (d : BitVec 5) (p : BitVec 3) (f : Strand → Nat → LaneResult) :
    NextCanonical (execLanes i w d p f s) :=
  issue_canonical h _ (deliverLanes_canonical h _ _)

theorem execHomePerform_canonical (core seq : Nat) (peer : List Byte) (code : Nat) :
    NextCanonical (execHomePerform core seq peer code s) := by
  unfold execHomePerform
  split
  · split
    · dsimp only
      split
      · simpa using State.settle_canonical h _ _ (State.serveHome_canonical h _ _ _ _)
      · exact State.settle_canonical h _ _ (State.serveHome_canonical h _ _ _ _)
    · exact h
  · split
    · exact State.settle_canonical h _ _ (State.serveHome_canonical h _ _ _ _)
    · exact h
  · exact h

theorem execRetryListRetry_canonical (k : Nat) : NextCanonical (execRetryListRetry k s) := by
  unfold execRetryListRetry
  split
  · exact h
  · split
    · exact h
    · split
      · simp [h]
      · exact h
      · exact State.settle_canonical (s := s.passBy _ _) h _ _ (State.serveRetry_canonical (s := s.passBy _ _) h _ _)

theorem execCtuWalkComplete_canonical (cluster k : Nat) : NextCanonical (execCtuWalkComplete cluster k s) := by
  unfold execCtuWalkComplete
  split
  · exact h
  · split
    · exact h
    · exact foldl_canonical (fun _ _ ht => State.endWalk_canonical ht _ _ _ _) _ (State.walkNow_canonical h _ _ _ _ _ _ _)

theorem execSlipMarkHop_canonical (core seq : Nat) : NextCanonical (execSlipMarkHop core seq s) := by
  unfold execSlipMarkHop
  split
  · exact h
  · dsimp only
    split
    · exact State.deviceHop_canonical (s := s.modCore _ _) h _ _ _ _
    · split
      · exact h
      · split
        · simp [h]
        · split
          · simp [h]
          · repeat' split
            all_goals simp [State.translate_eq_canonical h ‹_›]

end

end Sys2Proof.Machine

/-! SUPPORT. Runs of an instruction that keep a canonical store: the steps that a meaning is built of. -/

namespace Sys2Proof.Machine

/-- However it ends, the run keeps a canonical store. -/
abbrev KeepsStore {α : Type} (m : M α) : Prop := Keeps (fun s => s.store.Canonical) m

/-- The state in which a run has ended has the property. -/
def EndsWith (P : State → Prop) {α : Type} (x : EStateM.Result Stop Run α) : Prop :=
  match x with
  | .ok _ r => P r.s
  | .error _ r => P r.s

theorem Keeps.intro {P : State → Prop} {α : Type} {m : M α} (h : ∀ r : Run, P r.s → EndsWith P (m r)) : Keeps P m := h

theorem Keeps.ite {P : State → Prop} {α : Type} {c : Prop} [Decidable c] {a b : M α} (ha : Keeps P a) (hb : Keeps P b) :
    Keeps P (if c then a else b) := by
  split
  · exact ha
  · exact hb

/-- A state that has been read has the property too. -/
theorem Keeps.bind_getS {P : State → Prop} {α : Type} {k : State → M α} (hk : ∀ s, P s → Keeps P (k s)) :
    Keeps P (Machine.getS >>= k) := fun r h => hk r.s h r h

theorem Keeps.map {P : State → Prop} {α β : Type} {m : M α} {f : α → β} (hm : Keeps P m) : Keeps P (f <$> m) :=
  hm.bind fun a => .pure (f a)

theorem Keeps.throw {P : State → Prop} {α : Type} (e : Stop) : Keeps P (throw e : M α) := fun _ h => h

theorem Keeps.leaveOnce {P : State → Prop} : Keeps P leaveOnce := .bind .getMe fun _ => .ite .leaveCore (.pure _)

theorem Keeps.forM {P : State → Prop} {α : Type} {f : α → M Unit} (hf : ∀ a, Keeps P (f a)) (as : List α) :
    Keeps P (as.forM f) := by
  induction as with
  | nil => exact .pure _
  | cons a as ih => exact .bind (hf a) fun _ => ih

/-- What an action leaves has a canonical store. -/
def ActCanonical (a : Act) : Prop := a.state.store.Canonical

@[simp] theorem actCanonical_ok (a : Ans) (s : State) : ActCanonical (.ok a s) ↔ s.store.Canonical := Iff.rfl
@[simp] theorem actCanonical_trap (t : Trap) (s : State) : ActCanonical (.trap t s) ↔ s.store.Canonical := Iff.rfl
@[simp] theorem actCanonical_park (p : Park) (s : State) : ActCanonical (.park p s) ↔ s.store.Canonical := Iff.rfl

theorem actCanonical_ite {c : Prop} [Decidable c] {a b : Act} (ha : ActCanonical a) (hb : ActCanonical b) :
    ActCanonical (if c then a else b) := by
  split
  · exact ha
  · exact hb

theorem Keeps.actStore {f : State → Act} (hf : ∀ s, s.store.Canonical → ActCanonical (f s)) :
    KeepsStore (Machine.act f) :=
  .act hf

/-! Parts that look at the run itself. -/

theorem tagLane_keeps {P : State → Prop} {α : Type} (i : Nat) {m : M α} (hm : Keeps P m) : Keeps P (tagLane i m) := by
  intro r h
  have hr := hm r h
  unfold tagLane
  cases e : m r with
  | ok a r' => rw [e] at hr; exact hr
  | error x r' => rw [e] at hr; cases x <;> exact hr

theorem orTrap_keeps {P : State → Prop} {α : Type} {m : M α} (hm : Keeps P m) : Keeps P (orTrap m) := by
  intro r h
  have hr := hm r h
  unfold orTrap
  cases e : m r with
  | ok a r' => rw [e] at hr; exact hr
  | error x r' =>
    rw [e] at hr
    cases x with
    | trap t => dsimp only; split <;> exact hr
    | _ => exact hr

theorem progress_keeps (op : Nat) (first : Word) : KeepsStore (progress op first) := by
  refine .intro fun r h => ?_
  unfold progress; dsimp only
  split
  · split <;> exact h
  · split
    · exact h
    · split <;> exact h

theorem Run.modProg_store (r : Run) (f : Prog → Prog) : (r.modProg f).s.store = r.s.store := by
  unfold Run.modProg
  split <;> rfl

theorem mark_keeps (w : Word) : KeepsStore (mark w) := fun r h => by
  simpa [mark, modify, modifyGet, MonadStateOf.modifyGet, EStateM.modifyGet, Run.modProg_store] using h

theorem begun_keeps : KeepsStore begun := fun r h => by
  simpa [begun, modify, modifyGet, MonadStateOf.modifyGet, EStateM.modifyGet, Run.modProg_store] using h

theorem raised_keeps : KeepsStore raised := fun _ h => h

theorem checkpoint_keeps (w : Word) (fl : FlagSet) : KeepsStore (checkpoint w fl) :=
  .bind raised_keeps fun _ _ h => h

theorem gate_keeps : KeepsStore gate := by
  refine .intro fun r h => ?_
  unfold gate
  split
  · exact h
  · split
    · exact h
    · split <;> exact h

theorem withProgress_keeps {m : M Unit} (hm : KeepsStore m) : KeepsStore (withProgress m) := by
  intro r h
  have hr := hm r h
  unfold withProgress
  cases e : m r with
  | ok a r' => rw [e] at hr; exact hr
  | error x r' =>
    rw [e] at hr
    cases x with
    | pause =>
      dsimp only
      split
      · split <;> exact hr
      · exact hr
    | _ => exact hr

theorem busyWait_keeps (n : Nat) : KeepsStore (busyWait n) := by
  refine .intro fun r h => ?_
  unfold busyWait
  split
  · dsimp only
    split <;> exact h
  · exact h

/-! Actions. -/

section
variable {s : State} (h : s.store.Canonical)
include h

theorem State.performNow_canonical (c : Nat) (a : Access) : ActCanonical (s.performNow c a) := by
  unfold State.performNow
  split
  · exact State.perform_canonical h ‹_›
  all_goals exact h

theorem resolveAct_canonical (f : Form) (a : Word) (len : Nat) (anyAlign : Bool) :
    ActCanonical (resolveAct f a len anyAlign s) := by
  unfold resolveAct; dsimp only
  split <;> simp [h]

theorem sendAct_canonical (a : Access) (sc : Bool) : ActCanonical (sendAct a sc s) := by
  simp [sendAct, h]

theorem waitAct_canonical (kind : Nat) (badva : Word) (timed : Option Nat) {test : State → Option (Vec × State)}
    (ht : ∀ v t, test s = some (v, t) → t.store.Canonical) : ActCanonical (waitAct kind badva timed test s) := by
  unfold waitAct
  split
  · exact ht _ _ ‹_›
  · dsimp only
    split <;> exact h

theorem barrierPlace_canonical (va : Word) : ActCanonical (barrierPlace va s) := by
  unfold barrierPlace; dsimp only
  repeat' split
  all_goals exact h

theorem tilePlace_canonical (va : Word) (size : Nat) (need : Need) : ActCanonical (tilePlace va size need s) := by
  unfold tilePlace
  split <;> simp [h]

theorem retirePlace_canonical (va : Word) (size : Nat) : ActCanonical (retirePlace va size s) := by
  unfold retirePlace
  split
  · rename_i t e
    have ht : t.store.Canonical := by simpa [e] using tilePlace_canonical h va size .read
    dsimp only
    split
    · exact ht
    · split
      · exact ht
      · split
        · split <;> simp [ht]
        · exact ht
  · exact tilePlace_canonical h va size .read

end

set_option linter.auxLemma false in
/-- The match of `actOnce` on a 512-bit literal is unfolded by hand: Lean's splitter would evaluate the literal. -/
theorem actOnce_keeps (full : State → Bool) (p : Park) {f : State → Act}
    (hf : ∀ s, s.store.Canonical → ActCanonical (f s)) : KeepsStore (actOnce full p f) := by
  have last : KeepsStore (do let _ ← act fun s => if full s then .park p s else f s) := by
    exact .bind (.actStore fun s h => actCanonical_ite h (hf s h)) fun _ => .pure _
  refine .bind (.actStore fun _ h => h) fun first => ?_
  delta actOnce.match_1
  cases first with
  | val v hops =>
    change KeepsStore (dite _ _ _)
    split
    · rename_i e
      subst e
      exact last
    · exact .bind .leaveCore fun _ => last
  | _ => exact .bind .leaveCore fun _ => last

end Sys2Proof.Machine

/-! SUPPORT. The meanings' shared steps keep a canonical store. -/

namespace Sys2Proof.Machine

theorem resolve_keeps (f : Form) (a : Word) (len : Nat) (anyAlign : Bool) :
    KeepsStore (resolve f a len anyAlign) := by
  unfold resolve
  refine .bind (.actStore fun _ h => resolveAct_canonical h _ _ _ _) fun _ => ?_
  split
  · exact .pure _
  · exact .pure _

theorem drain_keeps : KeepsStore drain :=
  .bind (.actStore fun _ h => actCanonical_ite h h) fun _ => .pure _

theorem access_keeps (va : Word) (l : Loc) (len : Nat) (k : AccKind) (sc sure : Bool) :
    KeepsStore (access va l len k sc sure) := by
  refine .bind .getS fun s => ?_
  refine .bind (.actStore fun t h => ?_) fun _ => ?_
  · exact actCanonical_ite (State.performNow_canonical h _ _) (sendAct_canonical h _ _)
  · split
    · exact .pure _
    · exact .pure _

theorem storeTo_keeps (va : Word) (l : Loc) (movable : Bool) (k : AccKind) (len : Nat) (sure : Bool) :
    KeepsStore (storeTo va l movable k len sure) := by
  unfold storeTo
  refine .bind .getS fun _ => ?_
  split
  · exact .bind (access_keeps _ _ _ _ _ _) fun _ => .pure _
  · split
    · refine .bind ?_ fun _ => ?_
      · refine actOnce_keeps _ _ fun _ h => ?_
        split
        · exact h
        · exact h
      · exact .pure _
    · exact .bind (access_keeps _ _ _ _ _ _) fun _ => .pure _

theorem recorded_keeps (opc : Nat) {m : M (List Word)} (hm : KeepsStore m) : KeepsStore (recorded opc m) := by
  unfold recorded
  refine .bind .getS fun _ => ?_
  split
  · exact .ite (.bind (.modS fun _ h => h) fun _ => .pure _) (.bind (.modS fun _ h => by simp [h]) fun _ => hm)
  · exact .bind hm fun _ => .bind (.modS fun _ h => by split <;> simp [h]) fun _ => .pure _

theorem rebase_keeps (a : BitVec 5) (hops : List Hop) : KeepsStore (rebase a hops) :=
  .modT fun _ h => h

theorem loadFrom_keeps (f : Form) (a : BitVec 5) (va : Word) (n : Nat) (sc : Bool) :
    KeepsStore (loadFrom f a va n sc) :=
  .bind (resolve_keeps _ _ _ _) fun _ => .bind (access_keeps _ _ _ _ _ _) fun _ => .bind (rebase_keeps _ _) fun _ =>
  .pure _

theorem storeBytes_keeps (f : Form) (a : BitVec 5) (va : Word) (bs : List Byte) : KeepsStore (storeBytes f a va bs) :=
  .bind (resolve_keeps _ _ _ _) fun _ => .bind (storeTo_keeps _ _ _ _ _ _) fun _ => rebase_keeps _ _

theorem resolveLanes_keeps (f : Form) (n : Nat) (addr : Nat → Word) (is : List Nat) :
    KeepsStore (resolveLanes f n addr is) := by
  induction is with
  | nil => exact .pure _
  | cons i is ih => exact .bind (tagLane_keeps _ (resolve_keeps _ _ _ _)) fun _ => .bind ih fun _ => .pure _

theorem readLanes_keeps (n : Nat) (addr : Nat → Word) (rs : List (Nat × Loc × View × Bool)) :
    KeepsStore (readLanes n addr rs) := by
  induction rs with
  | nil => exact .pure _
  | cons r rs ih =>
    exact .bind (orTrap_keeps (tagLane_keeps _ (access_keeps _ _ _ _ _ _))) fun _ => .bind ih fun _ => .pure _

theorem loadLanes_keeps (n : Nat) (addr : Nat → Word) (ls : List (Nat × Loc × View × Bool)) :
    KeepsStore (loadLanes n addr ls) := by
  unfold loadLanes
  refine .bind (readLanes_keeps _ _ _) fun _ => ?_
  split
  · exact .trap _
  · exact .pure _

theorem checkLanes_keeps (n : Nat) (addr : Nat → Word) (rs : List (Nat × Loc × View × Bool)) :
    KeepsStore (checkLanes n addr rs) := by
  induction rs with
  | nil => exact .pure _
  | cons r rs ih => exact .ite (.bind (tagLane_keeps _ (access_keeps _ _ _ _ _ _)) fun _ => ih) ih

theorem storeLanes_keeps (n : Nat) (addr data : Nat → Word) (rs : List (Nat × Loc × View × Bool)) :
    KeepsStore (storeLanes n addr data rs) := by
  induction rs with
  | nil => exact .pure _
  | cons r rs ih => exact .bind (storeTo_keeps _ _ _ _ _ _) fun _ => .bind ih fun _ => .pure _

theorem resolveDrained_keeps (f : Form) (va : Word) (n : Nat) (drains : Bool) :
    KeepsStore (resolveDrained f va n drains) :=
  .bind (resolve_keeps _ _ _ _) fun _ => .ite (.bind drain_keeps fun _ => resolve_keeps _ _ _ _) (.pure _)

theorem atomicAt_keeps (a : BitVec 5) (k : AccKind) (scope : Nat) (o : BitVec 2) :
    KeepsStore (atomicAt a k scope o) :=
  .bind .getMe fun _ => .bind (resolveDrained_keeps _ _ _ _) fun _ => .bind (access_keeps _ _ _ _ _ _) fun _ =>
  .bind (rebase_keeps _ _) fun _ => .pure _

theorem unitRead_keeps (va : Word) (n : Nat) : KeepsStore (unitRead va n) := by
  unfold unitRead
  refine .bind .getS fun _ => ?_
  dsimp only
  refine .bind (.require _ _) fun _ => .bind (.require _ _) fun _ => ?_
  split
  · exact .trap _
  · exact .pure _

theorem recordRead_keeps (va : Word) (n : Nat) : KeepsStore (recordRead va n) :=
  .bind (.require _ _) fun _ => unitRead_keeps _ _

theorem peekPieces_keeps (ps : List (Nat × Nat)) : KeepsStore (peekPieces ps) := by
  induction ps with
  | nil => exact .pure _
  | cons p ps ih =>
    exact .bind (resolve_keeps _ _ _ _) fun _ => .bind (access_keeps _ _ _ _ _ _) fun _ => .bind ih fun _ => .pure _

theorem peek_keeps (va n : Nat) : KeepsStore (peek va n) :=
  .bind (.require _ _) fun _ => peekPieces_keeps _

theorem cochainStore_keeps (va : Word) (l : Loc) (k : AccKind) (len : Nat) : KeepsStore (cochainStore va l k len) :=
  .bind (access_keeps _ _ _ _ _ _) fun _ => .pure _

theorem pokePieces_keeps (bs : List Byte) (start : Nat) (ps : List (Nat × Nat)) :
    KeepsStore (pokePieces bs start ps) := by
  induction ps with
  | nil => exact .pure _
  | cons p ps ih => exact .bind (resolve_keeps _ _ _ _) fun _ => .bind (cochainStore_keeps _ _ _ _) fun _ => ih

theorem poke_keeps (va : Nat) (bs : List Byte) : KeepsStore (poke va bs) :=
  .bind (.require _ _) fun _ => pokePieces_keeps _ _ _

theorem peekNat_keeps (va n : Nat) : KeepsStore (peekNat va n) :=
  .bind (peek_keeps _ _) fun _ => .pure _

theorem genCheck_keeps (resumed : Bool) (rs : List (BitVec 4)) : KeepsStore (genCheck resumed rs) := by
  induction rs with
  | nil => exact .pure _
  | cons r rs ih =>
    exact .bind .getMe fun _ => .bind (busyWait_keeps _) fun _ => .bind .getS fun _ => .bind (.require _ _) fun _ => ih

theorem generations_keeps (resumed : Bool) (rs : List (BitVec 4)) :
    KeepsStore (generations resumed rs) :=
  .bind .getMe fun _ => .bind (.forM (fun _ => busyWait_keeps _) _) fun _ => .bind (genCheck_keeps _ _) fun _ =>
  begun_keeps

theorem inRange_keeps (g : Prog) (b : Begin) (n : Nat) : KeepsStore (inRange g b n) :=
  .require _ _

/-! Complexes. -/

theorem peekWords_keeps (va n : Nat) : KeepsStore (peekWords va n) := by
  induction n generalizing va with
  | zero => exact .pure _
  | succ n ih => exact .bind (peekNat_keeps _ _) fun _ => .bind (ih _) fun _ => .pure _

/-- The reads of a complex's words keep a canonical store. -/
structure CellWords.KeepStore (t : CellWords) : Prop where
  bnd : ∀ k j, KeepsStore (t.bnd k j)
  gvn : ∀ i, KeepsStore (t.gvn i)
  metric : ∀ k j, KeepsStore (t.metric k j)
  owner : ∀ k j, KeepsStore (t.owner k j)

theorem tableWords_keeps (d : List Byte) : (tableWords d).KeepStore :=
  { bnd := fun _ _ => peekWords_keeps _ _, gvn := fun _ => peekNat_keeps _ _
    metric := fun _ _ => peekNat_keeps _ _, owner := fun _ _ => peekNat_keeps _ _ }

theorem editWords_keeps (d : List Byte) (es : List EditEntry) : (editWords d es).KeepStore := by
  constructor
  all_goals
    intros
    unfold editWords
    dsimp only
    split
    · exact .pure _
  · exact (tableWords_keeps d).bnd _ _
  · exact (tableWords_keeps d).gvn _
  · exact (tableWords_keeps d).metric _ _
  · exact (tableWords_keeps d).owner _ _

theorem eachM_keeps {α β : Type} {f : α → M β} (hf : ∀ a, KeepsStore (f a)) (xs : List α) :
    KeepsStore (eachM f xs) := by
  induction xs with
  | nil => exact .pure _
  | cons x xs ih => exact .bind (hf _) fun _ => .bind ih fun _ => .pure _

section
variable {t : CellWords} (ht : t.KeepStore)
include ht

theorem verts_keeps (d : List Byte) (k j : Nat) : KeepsStore (verts d t k j) := by
  have bnd := ht.bnd
  induction k generalizing j with
  | zero => exact .pure _
  | succ k ih =>
    unfold verts
    split
    · exact .pure _
    · refine .bind (bnd _ _) fun _ => ?_
      dsimp only
      split
      · exact .pure _
      · split
        · exact .pure _
        · refine .bind (ih _) fun _ => .bind (ih _) fun _ => ?_
          split
          · exact .pure _
          · exact .pure _

theorem incidenceCode_keeps (d : List Byte) (k j : Nat) : KeepsStore (incidenceCode d t k j) := by
  have bnd := ht.bnd
  have gvn := ht.gvn
  unfold incidenceCode
  refine .bind (bnd _ _) fun _ => ?_
  split
  · exact .pure _
  · split
    · exact .pure _
    · refine .bind (verts_keeps ht _ _ _) fun _ => ?_
      split
      · exact .pure _
      · exact .bind (eachM_keeps (fun _ => gvn _) _) fun _ =>
          .ite (.pure _) (.bind (eachM_keeps (fun _ => verts_keeps ht _ _ _) _) fun _ => .ite (.pure _) (.pure _))

theorem cellCode_keeps (d : List Byte) (k j : Nat) : KeepsStore (cellCode d t k j) := by
  have metric := ht.metric
  have owner := ht.owner
  exact .ite (.bind (.pure _) fun _ => .ite (.pure _) (.bind (metric _ _) fun _ =>
    .ite (.pure _) (.bind (owner _ _) fun _ =>
    .ite (.pure _) (.pure _)))) (.bind (incidenceCode_keeps ht _ _ _) fun _ =>
    .ite (.pure _) (.bind (metric _ _) fun _ => .ite (.pure _) (.bind (owner _ _) fun _ => .ite (.pure _) (.pure _))))

end

theorem seamBad_keeps (d : List Byte) (k e : Nat) : KeepsStore (seamBad d k e) :=
  .bind (peekNat_keeps _ _) fun _ => .pure _

theorem checkCells_keeps (d : List Byte) (op k n j : Nat) : KeepsStore (checkCells d op k n j) := by
  induction n generalizing j with
  | zero => exact .pure _
  | succ n ih =>
    unfold checkCells
    refine .bind gate_keeps fun _ => .bind (cellCode_keeps (tableWords_keeps _) _ _ _) fun _ => ?_
    split
    · exact .bind (checkpoint_keeps _ _) fun _ => ih _
    · exact .pure _

theorem checkSeams_keeps (d : List Byte) (op k n e : Nat) : KeepsStore (checkSeams d op k n e) := by
  induction n generalizing e with
  | zero => exact .pure _
  | succ n ih =>
    exact .bind gate_keeps fun _ => .bind (seamBad_keeps _ _ _) fun _ =>
      .ite (.pure _) (.bind (checkpoint_keeps _ _) fun _ => ih _)

theorem checkDegrees_keeps {f : Nat → Nat → M (Option Word)} {start : Nat → M Unit} (hf : ∀ k e, KeepsStore (f k e))
    (hs : ∀ k, KeepsStore (start k)) (n k e : Nat) : KeepsStore (checkDegrees f start n k e) := by
  induction n generalizing k e with
  | zero => exact .pure _
  | succ n ih =>
    unfold checkDegrees
    refine .bind (hf _ _) fun _ => ?_
    split
    · exact .pure _
    · exact .bind (hs _) fun _ => ih _ _

theorem settleSlot_keeps (n : Nat) (st : SlotState) : KeepsStore (settleSlot n st) :=
  .modS fun _ h => by simp [h]

theorem holderCheck_keeps (n : Nat) (w : Word) : KeepsStore (holderCheck n w) :=
  .bind .getS fun _ => .bind .getS fun _ => .require _ _

theorem holdSlot_keeps (n : Nat) (w : Word) : KeepsStore (holdSlot n w) :=
  .bind (.modS fun _ h => h) fun _ => checkpoint_keeps _ _

theorem slotFree_keeps (n : Nat) : KeepsStore (slotFree n) :=
  .bind (busyWait_keeps _) fun _ => .bind .getS fun _ => .pure _

theorem notExhausted_keeps (n : Nat) (x : ComplexSlot) : KeepsStore (notExhausted n x) :=
  .require _ _

theorem cxloadBegin_keeps (n : Nat) (va : Word) : KeepsStore (cxloadBegin n va) :=
  .bind (slotFree_keeps _) fun _ => .bind (notExhausted_keeps _ _) fun _ => .bind (.require _ _) fun _ =>
  holdSlot_keeps _ _

theorem copyDescriptor_keeps (n : Nat) (va : Word) : KeepsStore (copyDescriptor n va) :=
  .bind (peek_keeps _ _) fun _ => .modS fun _ h => h

theorem cxloadChecks_keeps (d : List Byte) (w : Word) : KeepsStore (cxloadChecks d w) := by
  unfold cxloadChecks
  dsimp only
  split
  · exact .pure _
  · refine .bind (.ite (checkDegrees_keeps (fun _ _ => checkCells_keeps _ _ _ _ _)
      (fun _ => checkpoint_keeps _ _) _ _ _) (.pure _)) fun _ => ?_
    split
    · exact .pure _
    · refine .bind (checkDegrees_keeps (fun _ _ => checkSeams_keeps _ _ _ _ _)
        (fun _ => checkpoint_keeps _ _) _ _ _) fun _ => ?_
      split
      · exact .pure _
      · exact .pure _

theorem readEntries_keeps (va pass e n : Nat) : KeepsStore (readEntries va pass e n) := by
  induction n generalizing e with
  | zero => exact .pure _
  | succ n ih => exact .bind (mark_keeps _) fun _ => .bind (peek_keeps _ _) fun _ => .bind (ih _) fun _ => .pure _

theorem checkEntries_keeps (d : List Byte) (all : List EditEntry) (next : Nat) (xs : List EditEntry) (e : Nat) :
    KeepsStore (checkEntries d all next xs e) := by
  induction xs generalizing e with
  | nil => exact .bind (mark_keeps _) fun _ => .pure _
  | cons x xs ih =>
    unfold checkEntries
    refine .bind (mark_keeps _) fun _ => ?_
    dsimp only
    split
    · refine .bind gate_keeps fun _ => ?_
      split
      · refine .bind (cellCode_keeps (editWords_keeps _ _) _ _ _) fun _ => ?_
        split
        · exact ih _
        · exact .pure _
      · exact .pure _
    · split
      · refine .bind (cellCode_keeps (editWords_keeps _ _) _ _ _) fun _ => ?_
        split
        · exact ih _
        · exact .pure _
      · exact .pure _

theorem seamStatus_keeps (d : List Byte) (es : List (Nat × Nat)) : KeepsStore (seamStatus d es) := by
  induction es with
  | nil => exact .pure _
  | cons x es ih => exact .bind (seamBad_keeps _ _ _) fun _ => .ite (.pure _) ih

theorem writeEntry_keeps (d : List Byte) (e : EditEntry) : KeepsStore (writeEntry d e) :=
  .ite (.bind (poke_keeps _ _) fun _ => .bind (poke_keeps _ _) fun _ => .bind (poke_keeps _ _) fun _ =>
  .ite (.bind (poke_keeps _ _) fun _ => poke_keeps _ _) (.pure _)) (.bind (poke_keeps _ _) fun _ =>
  .bind (poke_keeps _ _) fun _ => .ite (.bind (poke_keeps _ _) fun _ => poke_keeps _ _) (.pure _))

theorem writeEntries_keeps (d : List Byte) (xs : List EditEntry) (e : Nat) : KeepsStore (writeEntries d xs e) := by
  induction xs generalizing e with
  | nil => exact .pure _
  | cons x xs ih =>
    exact .bind gate_keeps fun _ => .bind (writeEntry_keeps _ _) fun _ => .bind (mark_keeps _) fun _ => ih _

theorem cxeditChecks_keeps (old new h : List Byte) (es : List EditEntry) (next : Nat) :
    KeepsStore (cxeditChecks old new h es next) := by
  unfold cxeditChecks
  split
  · exact .pure _
  · split
    · exact .pure _
    · split
      · exact .pure _
      · refine .bind (checkEntries_keeps _ _ _ _ _) fun _ => ?_
        split
        · exact .pure _
        · split
          · exact .pure _
          · dsimp only
            refine .bind (seamStatus_keeps _ _) fun _ => ?_
            split
            · exact .pure _
            · exact .pure _

theorem cxeditRun_keeps (old : List Byte) (va w : Word) : KeepsStore (cxeditRun old va w) :=
  .bind (peek_keeps _ _) fun _ => .ite (.pure _) (.bind (.require _ _) fun _ =>
  .bind (readEntries_keeps _ _ _ _) fun _ => .ite (.bind (cxeditChecks_keeps _ _ _ _ _) fun _ =>
  .ite (.pure _) (.bind (mark_keeps _) fun _ => .bind (writeEntries_keeps _ _ _) fun _ =>
  .pure _)) (.bind (.pure _) fun _ => .ite (.pure _) (.bind (mark_keeps _) fun _ =>
  .bind (writeEntries_keeps _ _ _) fun _ => .pure _)))

/-! Cochains. -/

theorem bound_keeps (r : BitVec 4) : KeepsStore (bound r) :=
  .bind .getMe fun _ => .require _ _

theorem single_keeps (op : Nat) : KeepsStore (single op) :=
  .bind (progress_keeps _ _) fun _ => .bind (inRange_keeps _ _ _) fun _ => .pure _

theorem baseAlign_keeps (v : Word) : KeepsStore (baseAlign v) :=
  .require _ _

theorem baseWindow_keeps (v : Word) : KeepsStore (baseWindow v) :=
  .require _ _

theorem elementBits_keeps (c : CochainReg) (i cell : Nat) : KeepsStore (elementBits c i cell) :=
  .ite (.bind (resolve_keeps _ _ _ _) fun _ => .bind (access_keeps _ _ _ _ _ _) fun _ =>
  .pure _) (.ite (.bind (resolve_keeps _ _ _ _) fun _ => .bind (access_keeps _ _ _ _ _ _) fun _ => .pure _) (.trap _))

theorem val_keeps (c : CochainReg) (i cell : Nat) : KeepsStore (val c i cell) :=
  .bind (elementBits_keeps _ _ _) fun _ => .pure _

theorem valUnits_keeps (c : CochainReg) (i cell : Nat) : KeepsStore (valUnits c i cell) :=
  .bind (elementBits_keeps _ _ _) fun _ => .pure _

theorem writeElem_keeps (c : CochainReg) (i : Nat) (w : Word) : KeepsStore (writeElem c i w) :=
  .bind (resolve_keeps _ _ _ _) fun _ => cochainStore_keeps _ _ _ _

theorem pass2Word_keeps (r : Elem) : KeepsStore (pass2Word r) := by
  unfold pass2Word
  split
  · exact .pure _
  · exact .bind .getS fun _ => .bind (.modS fun _ h => h) fun _ => .pure _

section
variable {elem : Nat → M Elem} (he : ∀ i, KeepsStore (elem i))
include he

theorem pass1_keeps (op n i : Nat) : KeepsStore (pass1 op elem n i) := by
  induction n generalizing i with
  | zero => exact .pure _
  | succ n ih =>
    unfold pass1
    refine .bind gate_keeps fun _ => .bind (he _) fun _ => ?_
    split
    · exact .trap _
    · exact .bind (.modT fun _ h => h) fun _ => .bind (checkpoint_keeps _ _) fun _ => ih _

theorem pass2_keeps (op : Nat) (c : CochainReg) (n i : Nat) : KeepsStore (pass2 op c elem n i) := by
  induction n generalizing i with
  | zero => exact .pure _
  | succ n ih =>
    exact .bind gate_keeps fun _ => .bind (he _) fun _ => .bind (pass2Word_keeps _) fun _ =>
      .bind (writeElem_keeps _ _ _) fun _ => .bind (checkpoint_keeps _ _) fun _ => ih _

theorem passes_keeps (op : Nat) (w : Word) (c : CochainReg) : KeepsStore (passes op w c elem) :=
  .ite (.bind (pass1_keeps (fun _ => he _) _ _ _) fun _ => .bind raised_keeps fun _ => .bind .getMe fun _ =>
  .bind (.require _ _) fun _ => .bind (checkpoint_keeps _ _) fun _ =>
  pass2_keeps (fun _ => he _) _ _ _ _) (pass2_keeps (fun _ => he _) _ _ _ _)

end

theorem descOf_keeps (c : CochainReg) : KeepsStore (descOf c) :=
  .bind .getS fun _ => .pure _

theorem rmOf_keeps (r : BitVec 3) : KeepsStore (rmOf r) :=
  .bind .getMe fun _ => .pure _

theorem reg_keeps (r : BitVec 4) : KeepsStore (reg r) :=
  .bind .getMe fun _ => .pure _

theorem weight_keeps (d : List Byte) (k i : Nat) : KeepsStore (weight d k i) :=
  .bind (peekNat_keeps _ _) fun _ => .pure _

theorem bndEntries_keeps (d : List Byte) (m j : Nat) : KeepsStore (bndEntries d m j) :=
  .bind (peekWords_keeps _ _) fun _ => .bind (.require _ _) fun _ => .pure _

theorem cofaces_keeps (d : List Byte) (m i n j : Nat) : KeepsStore (cofaces d m i n j) := by
  induction n generalizing j with
  | zero => exact .pure _
  | succ n ih => exact .bind (bndEntries_keeps _ _ _) fun _ => .bind (ih _) fun _ => .pure _

theorem signedVals_keeps (c : CochainReg) (cell : Nat) (sigma : Bool) (es : List (Bool × Nat)) :
    KeepsStore (signedVals c cell sigma es) := by
  induction es with
  | nil => exact .pure _
  | cons e es ih => exact .bind (valUnits_keeps _ _ _) fun _ => .bind ih fun _ => .pure _

theorem walkDown_keeps (d : List Byte) (front : Bool) (n k j : Nat) : KeepsStore (walkDown d front n k j) := by
  induction n generalizing k j with
  | zero => exact .pure _
  | succ n ih => exact .bind (bndEntries_keeps _ _ _) fun _ => ih _ _

theorem releaseGhosts_keeps (c : CochainReg) (n i : Nat) : KeepsStore (releaseGhosts c n i) := by
  induction n generalizing i with
  | zero => exact .pure _
  | succ n ih =>
    exact .bind gate_keeps fun _ => .bind (resolve_keeps _ _ _ _) fun _ => .bind (access_keeps _ _ _ _ _ _) fun _ =>
      .bind (checkpoint_keeps _ _) fun _ => ih _

theorem sendSeam_keeps (part : Nat) (m : SeamMsg) : KeepsStore (sendSeam part m) := by
  unfold sendSeam
  refine .bind .getS fun _ => ?_
  split
  · exact .trap _
  · split
    · exact .trap _
    · exact .ite (.modS fun _ h => h) (.bind (resolve_keeps _ _ _ _) fun _ => .bind (access_keeps _ _ _ _ _ _) fun _ =>
        .pure _)

theorem sendSeams_keeps (c : CochainReg) (land base n e : Nat) : KeepsStore (sendSeams c land base n e) := by
  induction n generalizing e with
  | zero => exact .pure _
  | succ n ih =>
    exact .bind gate_keeps fun _ => .bind (peekNat_keeps _ _) fun _ => .bind (elementBits_keeps _ _ _) fun _ =>
      .bind .getS fun _ => .bind (sendSeam_keeps _ _) fun _ => .bind (checkpoint_keeps _ _) fun _ => ih _

theorem weighted_keeps (c : CochainReg) (base : Option Word) (n i : Nat) : KeepsStore (weighted c base n i) := by
  induction n generalizing i with
  | zero => exact .pure _
  | succ n ih =>
    unfold weighted
    refine .bind gate_keeps fun _ => .bind (mark_keeps _) fun _ => ?_
    dsimp only
    split
    · exact .bind (.pure _) fun _ => .bind (valUnits_keeps _ _ _) fun _ => .bind (ih _) fun _ => .pure _
    · exact .bind (resolve_keeps _ _ _ _) fun _ => .bind (access_keeps _ _ _ _ _ _) fun _ => .bind (.pure _) fun _ =>
        .bind (valUnits_keeps _ _ _) fun _ => .bind (ih _) fun _ => .pure _

theorem cellVerts_keeps (d : List Byte) (k j : Nat) : KeepsStore (cellVerts d k j) := by
  induction k generalizing j with
  | zero => exact .pure _
  | succ k ih =>
    exact .bind (bndEntries_keeps _ _ _) fun _ => .ite (.pure _) (.bind (ih _) fun _ => .bind (ih _) fun _ => .pure _)

theorem facesOf_keeps (d : List Byte) (m : Nat) (fs : List (Nat × List Nat)) : KeepsStore (facesOf d m fs) := by
  induction fs with
  | nil => exact .pure _
  | cons f fs ih => exact .bind (bndEntries_keeps _ _ _) fun _ => .bind ih fun _ => .pure _

theorem facesDown_keeps (d : List Byte) (k m : Nat) (fs : List (Nat × List Nat)) :
    KeepsStore (facesDown d k m fs) := by
  induction k generalizing m fs with
  | zero => exact .pure _
  | succ k ih => exact .bind (facesOf_keeps _ _ _) fun _ => ih _ _

theorem coordOf_keeps (d : List Byte) (v c : Nat) : KeepsStore (coordOf d v c) :=
  .bind (peekNat_keeps _ _) fun _ => .pure _

theorem positions_keeps (d : List Byte) (vs : List Nat) : KeepsStore (positions d vs) := by
  induction vs with
  | nil => exact .pure _
  | cons v vs ih =>
    exact .bind (coordOf_keeps _ _ _) fun _ => .bind (coordOf_keeps _ _ _) fun _ => .bind (coordOf_keeps _ _ _) fun _ =>
      .bind ih fun _ => .ite (.pure _) (.pure _)

theorem whitneyValue_keeps (c : CochainReg) (d : List Byte) (k f cell : Nat) :
    KeepsStore (whitneyValue c d k f cell) := by
  unfold whitneyValue
  refine .bind (val_keeps _ _ _) fun _ => ?_
  split
  · exact .bind (weight_keeps _ _ _) fun _ => .pure _
  · split
    · exact .pure _
    · exact .pure _

theorem interpCell_keeps (c x : CochainReg) (rm : Rm) (d : List Byte) (k comp cell : Nat) :
    KeepsStore (interpCell c x rm d k comp cell) := by
  unfold interpCell
  dsimp only
  refine .bind (cellVerts_keeps _ _ _) fun _ => .bind (facesDown_keeps _ _ _ _) fun _ =>
    .bind (eachM_keeps (fun _ => whitneyValue_keeps _ _ _ _ _) _) fun _ => .bind (positions_keeps _ _) fun _ => ?_
  split
  · exact .bind (pass2Word_keeps _) fun _ => .pure _
  · exact .ite (.pure _) (.ite (.pure _) (.ite (.pure _) (.pure _)))

/-! Launches, supersteps, moves and sweeps. -/

theorem succTickets_keeps (bs : List Byte) : KeepsStore (succTickets bs) :=
  .ite (.pure _) (.bind (.require _ _) fun _ => .bind (unitRead_keeps _ _) fun _ => .pure _)

theorem startLaunch_keeps (va : Word) : KeepsStore (startLaunch va) := by
  unfold startLaunch
  refine .bind (recordRead_keeps _ _) fun _ => .bind .getS fun _ => ?_
  dsimp only
  split
  · exact .trap _
  · exact .bind (succTickets_keeps _) fun _ => .bind (.require _ _) fun _ => .ite (.pure _) (.bind (.modS fun _ h => by
      split <;> exact h) fun _ => .pure _)

theorem loadWord_keeps (va : Word) : KeepsStore (loadWord va) :=
  .bind (resolve_keeps _ _ _ _) fun _ => .bind (access_keeps _ _ _ _ _ _) fun _ => .pure _

theorem loadWords_keeps (n : Nat) (va : Word) : KeepsStore (loadWords n va) := by
  induction n generalizing va with
  | zero => exact .pure _
  | succ n ih => exact .bind (loadWord_keeps _) fun _ => .bind (ih _) fun _ => .pure _

theorem readPlan_keeps (va : Word) : KeepsStore (readPlan va) :=
  .bind (.require _ _) fun _ => .bind (unitRead_keeps _ _) fun _ => .ite (.pure _) (unitRead_keeps _ _)

theorem readPlans_keeps (bs : List Byte) (n k : Nat) : KeepsStore (readPlans bs n k) := by
  induction n generalizing k with
  | zero => exact .pure _
  | succ n ih => exact .bind (readPlan_keeps _) fun _ => .bind (ih _) fun _ => .pure _

theorem checkPlans_keeps (n : Nat) (plans : List (List Byte)) : KeepsStore (checkPlans n plans) := by
  unfold checkPlans
  split
  · exact .trap _
  · exact .pure _

theorem drainPaths_keeps : KeepsStore drainPaths :=
  .bind (.actStore fun _ h => by dsimp only; split <;> simp [h]) fun _ => .pure _

theorem resolvePieces_keeps (f : Form) (ps : List (Nat × Nat)) : KeepsStore (resolvePieces f ps) := by
  induction ps with
  | nil => exact .pure _
  | cons p ps ih => exact .bind (resolve_keeps _ _ _ _) fun _ => .bind ih fun _ => .pure _

theorem readMove_keeps (ps : List (Nat × Nat × Loc × View × Bool)) : KeepsStore (readMove ps) := by
  induction ps with
  | nil => exact .pure _
  | cons p ps ih => exact .bind (access_keeps _ _ _ _ _ _) fun _ => .bind ih fun _ => .pure _

theorem writePiece_keeps (a : Word) (l : Loc) (m : Bool) (bs : List Byte) : KeepsStore (writePiece a l m bs) :=
  .bind .getS fun _ => .ite (.bind (access_keeps _ _ _ _ _ _) fun _ => .pure _) (.bind (.actStore fun _ h =>
  by simp [h]) fun _ => .pure _)

theorem checkMove_keeps (ps : List (Nat × Nat × Loc × View × Bool)) : KeepsStore (checkMove ps) := by
  induction ps with
  | nil => exact .pure _
  | cons p ps ih => exact .ite (.bind (access_keeps _ _ _ _ _ _) fun _ => ih) ih

theorem writeMove_keeps (ps : List (Nat × Nat × Loc × View × Bool)) (bs : List Byte) :
    KeepsStore (writeMove ps bs) := by
  induction ps generalizing bs with
  | nil => exact .pure _
  | cons p ps ih => exact .bind (writePiece_keeps _ _ _ _) fun _ => .bind (ih _) fun _ => .pure _

theorem tileChecks_keeps (va : Word) (size : Nat) : KeepsStore (tileChecks va size) :=
  .require _ _

theorem movableTile_keeps {place : State → Act} (hp : ∀ s, s.store.Canonical → ActCanonical (place s)) :
    KeepsStore (movableTile place) := by
  unfold movableTile
  refine .bind (.actStore hp) fun _ => ?_
  split
  · exact .pure _
  · exact .pure _

theorem startBarchan_keeps (d : BitVec 5) (old new : Loc) (oldVa newVa : Word) (size : Nat) (retire : Bool) :
    KeepsStore (startBarchan d old new oldVa newVa size retire) := by
  refine .bind (recorded_keeps _ (.bind_getS fun s h => ?_)) fun _ => .modT fun _ h => h
  refine .ite (.pure _) (.bind (.modS fun _ _ => ?_) fun _ => .pure _)
  simpa using h

theorem sweepResolve_keeps (a : Nat) (is : List Nat) : KeepsStore (sweepResolve a is) := by
  induction is with
  | nil => exact .pure _
  | cons i is ih => exact .bind (resolve_keeps _ _ _ _) fun _ => ih

theorem sweepChase_keeps (n : Nat) (w : Word) (hops : Nat) : KeepsStore (sweepChase n w hops) := by
  induction n generalizing w hops with
  | zero => exact .pure _
  | succ n ih =>
    unfold sweepChase
    refine .bind (.actStore fun _ h => by split <;> simp [h]) fun _ => ?_
    split
    · exact .bind (access_keeps _ _ _ _ _ _) fun _ => .ite (.pure _) (.ite (ih _ _) (.pure _))
    · exact .pure _

theorem sweepWord_keeps (va : Word) (n : Nat) : KeepsStore (sweepWord va n) := by
  induction n with
  | zero => exact .pure _
  | succ n ih =>
    exact .bind (resolve_keeps _ _ _ _) fun _ => .bind (access_keeps _ _ _ _ _ _) fun _ =>
      .bind (sweepChase_keeps _ _ _) fun _ => .ite (.pure _) (.ite (.pure _) (.bind (access_keeps _ _ _ _ _ _) fun _ =>
      .ite (.pure _) (.bind ih fun _ => .pure _)))

theorem sweepWords_keeps (a : Word) (is : List Nat) : KeepsStore (sweepWords a is) := by
  induction is with
  | nil => exact .pure _
  | cons i is ih => exact .bind (sweepWord_keeps _ _) fun _ => .bind ih fun _ => .pure _

end Sys2Proof.Machine

/-! SUPPORT. The instructions whose meaning is a run keep a canonical store. -/

namespace Sys2Proof.Machine

theorem runInstr_canonical {s : State} (h : s.store.Canonical) (i : Instr) {m : M Unit} (hm : KeepsStore m) :
    NextCanonical (runInstr i m s) := by
  have hr := hm { s := s, past := s.me.log, new := [], leaves := false } h
  unfold runInstr
  cases e : m { s := s, past := s.me.log, new := [], leaves := false } with
  | ok a r =>
    rw [e] at hr
    dsimp only
    split <;> simpa using hr
  | error x r =>
    rw [e] at hr
    cases x <;> simpa using hr

theorem issueRun_canonical {s : State} (h : s.store.Canonical) (i : Instr) {m : M Unit} (hm : KeepsStore m) :
    NextCanonical (issueRun i m s) :=
  issue_canonical h i (runInstr_canonical h i hm)

theorem waitAct_keeps (kind : Nat) (badva : Word) (timed : Option Nat) {test : State → Option (Vec × State)}
    (ht : ∀ s v t, s.store.Canonical → test s = some (v, t) → t.store.Canonical) :
    KeepsStore (act (waitAct kind badva timed test)) :=
  .actStore fun s h => waitAct_canonical h _ _ _ fun v t => ht s v t h

theorem cochain_canonical {s : State} (h : s.store.Canonical) (i : Instr) (op : Nat) (rs : List (BitVec 4))
    (types : List Byte → Bool) (range : List Byte → Nat) {body : Word → List Byte → M Unit}
    (hb : ∀ w ds, KeepsStore (body w ds)) : NextCanonical (cochain i op rs types range body s) :=
  issueRun_canonical h _ <| withProgress_keeps <| .bind (progress_keeps _ _) fun _ => .bind .getMe fun _ =>
    .ite (.bind (.require _ _) fun _ =>
    .bind (descOf_keeps _) fun _ => .bind (.require _ _) fun _ => .bind (inRange_keeps _ _ _) fun _ =>
    .bind (generations_keeps _ _) fun _ => .bind (descOf_keeps _) fun _ =>
    hb _ _) (.bind (generations_keeps _ _) fun _ => .bind (descOf_keeps _) fun _ => hb _ _)

theorem execMatrix_canonical {s : State} (h : s.store.Canonical) (i : Instr) (check : State → Option Trap)
    (kind : State → MatrixKind) (k : BitVec 4) (n : BitVec 1) (r : BitVec 3) :
    NextCanonical (execMatrix i check kind k n r s) := by
  refine issueRun_canonical h _ ?_
  refine .bind .getS fun _ => ?_
  split
  · exact .trap _
  · exact .bind .leaveOnce fun _ => .bind (.actStore fun _ h => by split <;> simp [h]) fun _ => .modS fun _ h =>
      by simp [h]

theorem higherOrder_canonical {s : State} (h : s.store.Canonical) (i : Instr) (op : Nat) (d a : BitVec 5) (g : BitVec 4)
    (mat : Bool) : NextCanonical (higherOrder i op d a g mat s) := by
  refine issueRun_canonical h _ ?_
  refine .bind .getMe fun _ => ?_
  dsimp only
  split
  · refine .bind (.trap _) fun _ => .bind (.require _ _) fun _ => .bind (recordRead_keeps _ _) fun _ => ?_
    split
    · exact .trap _
    · refine .bind_getS fun _ hs => ?_
      split
      · exact .trap _
      · exact .ite (.ite (.modT fun _ h => h) (.bind .leaveCore fun _ => .bind (.modS fun _ h => by simp [h]) fun _ =>
          .modT fun _ h => h)) (.ite (.modT fun _ h => h) (.bind (.modS fun _ _ => by simp [hs]) fun _ =>
          .modT fun _ h =>
          h))
  · refine .bind (.pure _) fun _ => .bind (.require _ _) fun _ => .bind (recordRead_keeps _ _) fun _ => ?_
    split
    · exact .trap _
    · refine .bind_getS fun _ hs => ?_
      split
      · exact .trap _
      · exact .ite (.ite (.modT fun _ h => h) (.bind .leaveCore fun _ => .bind (.modS fun _ h => by simp [h]) fun _ =>
          .modT fun _ h => h)) (.ite (.modT fun _ h => h) (.bind (.modS fun _ _ => by simp [hs]) fun _ =>
          .modT fun _ h =>
          h))

section
variable {s : State} (h : s.store.Canonical)
include h

theorem execLd_canonical (d a : BitVec 5) (w : BitVec 3) (i : BitVec 11) : NextCanonical (execLd d a w i s) :=
  issueRun_canonical h _ <| .bind .getMe fun _ => .bind (loadFrom_keeps _ _ _ _ _) fun _ => .modT fun _ h => h

theorem execSt_canonical (b a : BitVec 5) (w : BitVec 3) (i : BitVec 11) : NextCanonical (execSt b a w i s) :=
  issueRun_canonical h _ <| .bind .getMe fun _ => storeBytes_keeps _ _ _ _

theorem execFld_canonical (d a : BitVec 5) (w : BitVec 3) (i : BitVec 11) : NextCanonical (execFld d a w i s) :=
  issueRun_canonical h _ <| .bind .getMe fun _ => .bind (loadFrom_keeps _ _ _ _ _) fun _ => .modT fun _ h => h

theorem execFst_canonical (b a : BitVec 5) (w : BitVec 3) (i : BitVec 11) : NextCanonical (execFst b a w i s) :=
  issueRun_canonical h _ <| .bind .getMe fun _ => storeBytes_keeps _ _ _ _

theorem execVld_canonical (d a : BitVec 5) (i : BitVec 11) : NextCanonical (execVld d a i s) :=
  issueRun_canonical h _ <| .bind .getMe fun _ => .bind (loadFrom_keeps _ _ _ _ _) fun _ => .modT fun _ h => h

theorem execVst_canonical (b a : BitVec 5) (i : BitVec 11) : NextCanonical (execVst b a i s) :=
  issueRun_canonical h _ <| .bind .getMe fun _ => storeBytes_keeps _ _ _ _

theorem execVldx_canonical (d a b : BitVec 5) (p t g : BitVec 3) : NextCanonical (execVldx d a b p t g s) :=
  issueRun_canonical h _ <| .bind .getMe fun _ => .bind (resolveLanes_keeps _ _ _ _) fun _ =>
    .bind (loadLanes_keeps _ _ _) fun _ =>
    .bind (rebase_keeps _ _) fun _ => .modT fun _ h => h

theorem execVstx_canonical (d a b : BitVec 5) (p t g : BitVec 3) : NextCanonical (execVstx d a b p t g s) :=
  issueRun_canonical h _ <| .bind .getMe fun _ => .bind (resolveLanes_keeps _ _ _ _) fun _ =>
    .bind (checkLanes_keeps _ _ _) fun _ =>
    .bind (storeLanes_keeps _ _ _ _) fun _ => rebase_keeps _ _

theorem execLdo_canonical (d a : BitVec 5) (w : BitVec 3) (o : BitVec 2) (sc : BitVec 3) :
    NextCanonical (execLdo d a w o sc s) :=
  issueRun_canonical h _ <| .bind .getMe fun _ => .bind (resolveDrained_keeps _ _ _ _) fun _ =>
    .bind (access_keeps _ _ _ _ _ _) fun _ =>
    .bind (rebase_keeps _ _) fun _ => .modT fun _ h => h

theorem execSto_canonical (b a : BitVec 5) (w : BitVec 3) (o : BitVec 2) (sc : BitVec 3) :
    NextCanonical (execSto b a w o sc s) :=
  issueRun_canonical h _ <| .bind .getMe fun _ => .bind (resolveDrained_keeps _ _ _ _) fun _ =>
    .ite (.bind (.map (access_keeps _ _ _ _ _ _)) fun _ =>
    rebase_keeps _ _) (.bind (storeTo_keeps _ _ _ _ _ _) fun _ =>
    rebase_keeps _ _)

theorem execLds_canonical (d a : BitVec 5) (m : BitVec 2) (sc : BitVec 3) : NextCanonical (execLds d a m sc s) :=
  issueRun_canonical h _ <| .bind .getMe fun _ => .bind (resolve_keeps _ _ _ _) fun _ =>
    .bind (access_keeps _ _ _ _ _ _) fun _ =>
    .bind (rebase_keeps _ _) fun _ => .modT fun _ h => h

theorem execSts_canonical (b a : BitVec 5) (m : BitVec 2) (sc : BitVec 3) : NextCanonical (execSts b a m sc s) :=
  issueRun_canonical h _ <| .bind .getMe fun _ => .bind (resolveDrained_keeps _ _ _ _) fun _ =>
    .bind (access_keeps _ _ _ _ _ _) fun _ =>
    rebase_keeps _ _

theorem execTpf_canonical (a : BitVec 5) (i : BitVec 11) : NextCanonical (execTpf a i s) :=
  issueRun_canonical h _ <| .bind .getMe fun _ => .modS fun s h => by
    split
    · exact h
    · split <;> simp [h]

theorem execAmo_canonical (d a b : BitVec 5) (sc : BitVec 3) (o : BitVec 2) (f : BitVec 4) :
    NextCanonical (execAmo d a b sc o f s) :=
  issueRun_canonical h _ <| .bind .getMe fun _ => .bind (atomicAt_keeps _ _ _ _) fun _ => .modT fun _ h => h

theorem execCas_canonical (d a b e : BitVec 5) (sc o : BitVec 2) : NextCanonical (execCas d a b e sc o s) :=
  issueRun_canonical h _ <| .bind .getMe fun _ => .bind (atomicAt_keeps _ _ _ _) fun _ => .modT fun _ h => h

theorem execFence_canonical (sc : BitVec 3) : NextCanonical (execFence sc s) :=
  issueRun_canonical h _ <| .ite (.bind drain_keeps fun _ => .modT fun _ h => h) (.modT fun _ h => h)

theorem execXfence_canonical (a b : BitVec 3) : NextCanonical (execXfence a b s) :=
  issueRun_canonical h _ <| .bind (.actStore fun _ h => by simp [h]) fun _ =>
    .ite (.bind (.actStore fun _ h => actCanonical_ite h h) fun _ => .pure _) (.pure _)

theorem execMwatch_canonical (d a : BitVec 5) : NextCanonical (execMwatch d a s) :=
  issueRun_canonical h _ <| .bind .getMe fun _ => .bind (resolve_keeps _ _ _ _) fun _ =>
    .bind (access_keeps _ _ _ _ _ _) fun _ =>
    .modT fun _ h => h

theorem execMwait_canonical (d x : BitVec 5) : NextCanonical (execMwait d x s) := by
  refine issueRun_canonical h _ (.bind .getMe fun _ => .bind (waitAct_keeps _ _ _ fun s v t h e => ?_) fun _ =>
    .modT fun _ h => h)
  split at e
  · obtain ⟨-, rfl⟩ := Prod.mk.inj (Option.some.inj e); exact h
  · split at e
    · obtain ⟨-, rfl⟩ := Prod.mk.inj (Option.some.inj e); exact h
    · cases e
  · cases e

theorem execMbxwait_canonical (d x : BitVec 5) : NextCanonical (execMbxwait d x s) := by
  refine issueRun_canonical h _ (.bind .getMe fun _ => .bind (waitAct_keeps _ _ _ fun s v t h e => ?_) fun _ =>
    .modT fun _ h => h)
  dsimp only at e
  split at e
  · obtain ⟨-, rfl⟩ := Prod.mk.inj (Option.some.inj e); exact h
  · cases e

theorem execMbxpop_canonical (d e : BitVec 5) : NextCanonical (execMbxpop d e s) := by
  refine issueRun_canonical h _ ?_
  refine .bind ?_ fun _ => ?_
  · refine recorded_keeps _ ?_
    refine .bind .getS fun _ => ?_
    split
    · exact .pure _
    · exact .bind (.modS fun _ h => h) fun _ => .pure _
  · exact .modT fun _ h => h

theorem execBarrive_canonical (d a : BitVec 5) (c : BitVec 3) : NextCanonical (execBarrive d a c s) := by
  refine issueRun_canonical h _ ?_
  refine .bind .getMe fun _ => ?_
  dsimp only
  refine .bind (.actStore fun _ h => barrierPlace_canonical h _) fun _ => ?_
  split
  · refine .bind drain_keeps fun _ => ?_
    split
    · exact .bind (access_keeps _ _ _ _ _ _) fun _ => .modT fun _ h => h
    · exact .pure _
  · split
    · exact .bind (access_keeps _ _ _ _ _ _) fun _ => .modT fun _ h => h
    · exact .pure _

theorem execCxload_canonical (n : BitVec 2) (x d : BitVec 5) : NextCanonical (execCxload n x d s) :=
  issueRun_canonical h _ <| withProgress_keeps <| .bind .getMe fun _ => .bind (progress_keeps _ _) fun _ =>
    .ite (.bind (holderCheck_keeps _ _) fun _ =>
    .ite (.bind (copyDescriptor_keeps _ _) fun _ => .bind .getS fun _ => .bind (.require _ _) fun _ =>
    .bind (inRange_keeps _ _ _) fun _ => .bind (cxloadChecks_keeps _ _) fun _ => .bind (settleSlot_keeps _ _) fun _ =>
    .modT fun _ h => h) (.bind .getS fun _ => .bind (.require _ _) fun _ => .bind (inRange_keeps _ _ _) fun _ =>
    .bind (cxloadChecks_keeps _ _) fun _ => .bind (settleSlot_keeps _ _) fun _ => .modT fun _ h =>
    h)) (.ite (.bind (cxloadBegin_keeps _ _) fun _ => .ite (.bind (copyDescriptor_keeps _ _) fun _ =>
      .bind .getS fun _ => .bind (.require _ _) fun _ => .bind (inRange_keeps _ _ _) fun _ =>
      .bind (cxloadChecks_keeps _ _) fun _ => .bind (settleSlot_keeps _ _) fun _ => .modT fun _ h =>
      h) (.bind .getS fun _ => .bind (.require _ _) fun _ => .bind (inRange_keeps _ _ _) fun _ =>
        .bind (cxloadChecks_keeps _ _) fun _ => .bind (settleSlot_keeps _ _) fun _ => .modT fun _ h =>
        h)) (.ite (.bind (copyDescriptor_keeps _ _) fun _ => .bind .getS fun _ => .bind (.require _ _) fun _ =>
          .bind (inRange_keeps _ _ _) fun _ => .bind (cxloadChecks_keeps _ _) fun _ =>
          .bind (settleSlot_keeps _ _) fun _ => .modT fun _ h => h) (.bind .getS fun _ =>
          .bind (.require _ _) fun _ =>
          .bind (inRange_keeps _ _ _) fun _ => .bind (cxloadChecks_keeps _ _) fun _ =>
          .bind (settleSlot_keeps _ _) fun _ => .modT fun _ h => h)))

theorem execCxedit_canonical (n : BitVec 2) (x d : BitVec 5) : NextCanonical (execCxedit n x d s) :=
  issueRun_canonical h _ <| withProgress_keeps <| .bind .getMe fun _ => .bind (progress_keeps _ _) fun _ =>
    .ite (.bind (holderCheck_keeps _ _) fun _ =>
    .bind .getS fun _ => .bind (cxeditRun_keeps _ _ _) fun _ => .ite (.bind (poke_keeps _ _) fun _ =>
    .bind (poke_keeps _ _) fun _ => .bind (poke_keeps _ _) fun _ => .bind (poke_keeps _ _) fun _ =>
    .bind (.modS fun _ h => h) fun _ => .bind (settleSlot_keeps _ _) fun _ => .modT fun _ h =>
    h) (.bind (poke_keeps _ _) fun _ => .bind (.modS fun _ h => h) fun _ => .bind (settleSlot_keeps _ _) fun _ =>
      .modT fun _ h => h)) (.ite (.bind (slotFree_keeps _) fun _ => .bind (.require _ _) fun _ =>
      .bind (notExhausted_keeps _ _) fun _ => .bind (.require _ _) fun _ => .bind (holdSlot_keeps _ _) fun _ =>
      .bind .getS fun _ => .bind (cxeditRun_keeps _ _ _) fun _ => .ite (.bind (poke_keeps _ _) fun _ =>
      .bind (poke_keeps _ _) fun _ => .bind (poke_keeps _ _) fun _ => .bind (poke_keeps _ _) fun _ =>
      .bind (.modS fun _ h => h) fun _ => .bind (settleSlot_keeps _ _) fun _ => .modT fun _ h =>
      h) (.bind (poke_keeps _ _) fun _ => .bind (.modS fun _ h => h) fun _ => .bind (settleSlot_keeps _ _) fun _ =>
        .modT fun _ h => h)) (.bind .getS fun _ => .bind (cxeditRun_keeps _ _ _) fun _ =>
        .ite (.bind (poke_keeps _ _) fun _ => .bind (poke_keeps _ _) fun _ => .bind (poke_keeps _ _) fun _ =>
        .bind (poke_keeps _ _) fun _ => .bind (.modS fun _ h => h) fun _ => .bind (settleSlot_keeps _ _) fun _ =>
        .modT fun _ h => h) (.bind (poke_keeps _ _) fun _ => .bind (.modS fun _ h => h) fun _ =>
        .bind (settleSlot_keeps _ _) fun _ => .modT fun _ h => h)))

theorem execCxinfo_canonical (c : BitVec 4) (x d sel : BitVec 5) (g : BitVec 4) :
    NextCanonical (execCxinfo c x d sel g s) :=
  issueRun_canonical h _ <| withProgress_keeps <| .bind (single_keeps _) fun _ =>
    .ite (.bind (busyWait_keeps _) fun _ => .bind .getS fun _ => .modT fun _ h =>
    h) (.ite (.bind .getS fun _ => .modT fun _ h => h) (.bind (bound_keeps _) fun _ =>
      .bind (generations_keeps _ _) fun _ => .modT fun _ h => h))

theorem execCxinfoSetexp_canonical (c : BitVec 4) (x : BitVec 5) : NextCanonical (execCxinfoSetexp c x s) :=
  issueRun_canonical h _ <| withProgress_keeps <| .bind (single_keeps _) fun _ => .bind (bound_keeps _) fun _ =>
    .bind .getMe fun _ =>
    .bind (.require _ _) fun _ => .bind (generations_keeps _ _) fun _ => .modT fun _ h => h

theorem execCbind_canonical (c : BitVec 4) (x g : BitVec 5) (f : BitVec 2) (u : BitVec 1) (e n : BitVec 2) :
    NextCanonical (execCbind c x g f u e n s) :=
  issueRun_canonical h _ <| withProgress_keeps <| .bind (single_keeps _) fun _ => .bind (busyWait_keeps _) fun _ =>
    .bind .getS fun _ =>
    .bind (.require _ _) fun _ => .bind (baseAlign_keeps _) fun _ => .bind (baseAlign_keeps _) fun _ =>
    .bind (baseWindow_keeps _) fun _ => .bind (baseWindow_keeps _) fun _ => .modT fun _ h => h

theorem execRtdef_canonical (g : BitVec 4) (a : BitVec 5) : NextCanonical (execRtdef g a s) := by
  refine issueRun_canonical h _ ?_
  refine .bind .getMe fun _ => ?_
  dsimp only
  refine .bind (.require _ _) fun _ => .bind (unitRead_keeps _ _) fun _ => ?_
  split
  · exact .trap _
  · refine .bind (unitRead_keeps _ _) fun _ => ?_
    split
    · exact .trap _
    · exact .modT fun _ h => h

theorem execWfi_canonical : NextCanonical (execWfi s) :=
  issueRun_canonical h _ <| .bind (.actStore fun _ h => by split <;> simp [h]) fun _ => .pure _

theorem execCtuinv_canonical (a b : BitVec 5) (r : BitVec 3) (k : BitVec 2) :
    NextCanonical (execCtuinv a b r k s) :=
  issueRun_canonical h _ <| .bind drain_keeps fun _ => .bind (.modT fun _ h => h) fun _ => .bind .getMe fun _ =>
    .bind (.actStore fun _ h => by
    dsimp only; split <;> simp [h]) fun _ => .pure _

theorem execLaunch_canonical (d a : BitVec 5) : NextCanonical (execLaunch d a s) :=
  issueRun_canonical h _ <| .bind .getMe fun _ => .bind (recorded_keeps _ (startLaunch_keeps _)) fun _ =>
    .bind .leaveCore fun _ =>
    .modT fun _ h => h

theorem execLaunchQuery_canonical (d a : BitVec 5) (l : BitVec 2) : NextCanonical (execLaunchQuery d a l s) :=
  issueRun_canonical h _ <| .bind .getMe fun _ => .bind (recorded_keeps _ (.bind .getS fun _ => .pure _)) fun _ =>
    .bind .leaveCore fun _ =>
    .modT fun _ h => h

theorem execLaunchJob_canonical (d a : BitVec 5) : NextCanonical (execLaunchJob d a s) := by
  refine issueRun_canonical h _ ?_
  refine .bind .getMe fun _ => .bind ?_ fun _ => ?_
  · refine recorded_keeps _ ?_
    refine .bind (recordRead_keeps _ _) fun _ => ?_
    split
    · exact .trap _
    · refine .bind (.require _ _) fun _ => .bind .getS fun _ => .bind (loadWords_keeps _ _) fun _ =>
        .bind (.require _ _) fun _ => .bind (loadWords_keeps _ _) fun _ => .bind_getS fun _ hs => ?_
      split
      exact .bind (.modS fun _ _ => canonical_of_eq ‹_› (by simp [hs])) fun _ => .pure _
  · exact .bind .leaveCore fun _ => .modT fun _ h => h

theorem execCancel_canonical (d a : BitVec 5) (l : BitVec 2) : NextCanonical (execCancel d a l s) := by
  refine issueRun_canonical h _ (.bind .getMe fun _ =>
    .bind (recorded_keeps _ (.bind (.actStore fun s h => ?_) fun _ =>
    .pure _)) fun _ => .bind .getS fun _ => .ite (.bind (.modS fun _ h => by simp [h]) fun _ =>
    .bind (.throw _) fun _ =>
    .bind .leaveOnce fun _ => .modT fun _ h => h) (.bind .leaveOnce fun _ => .modT fun _ h => h))
  split
  · dsimp only
    exact actCanonical_ite (State.cancelLaunches_canonical h _ _ _) (State.cancelLaunches_canonical h _ _ _)
  · exact h

theorem execSsync_canonical (d a : BitVec 5) : NextCanonical (execSsync d a s) := by
  have noWait : KeepsStore (act (waitAct 6 0 none fun _ => none)) := waitAct_keeps _ _ _ fun _ _ _ _ e => by cases e
  refine issueRun_canonical h _ ?_
  refine .bind .getMe fun _ => ?_
  split
  · exact .modT fun _ h => h
  · dsimp only
    split
    · refine .bind (recordRead_keeps _ _) fun _ => ?_
      split
      · exact .bind (.trap _) fun _ => .bind noWait fun _ => .pure _
      · exact .bind drainPaths_keeps fun _ => .bind (readPlans_keeps _ _ _) fun _ => .bind .getS fun _ =>
          .bind (checkPlans_keeps _ _) fun _ => .bind (.modS fun _ h => by simp [h]) fun _ =>
          .bind noWait fun _ => .pure _
    · exact .bind drainPaths_keeps fun _ => .bind noWait fun _ => .pure _

theorem execGxpost_canonical (d a : BitVec 5) : NextCanonical (execGxpost d a s) := by
  refine issueRun_canonical h _ ?_
  refine .bind .getMe fun _ => .bind (recordRead_keeps _ _) fun _ => .bind_getS fun _ hs => ?_
  dsimp only
  split
  · exact .modT fun _ h => h
  · exact .bind (.modS fun _ _ => by simp [hs]) fun _ => .modT fun _ h => h

theorem execTmov_canonical (d a b : BitVec 5) : NextCanonical (execTmov d a b s) :=
  issueRun_canonical h _ <| .bind .getMe fun _ => .bind (.actStore fun _ h => by split <;> simp [h]) fun _ =>
    .bind (resolvePieces_keeps _ _) fun _ => .bind (resolvePieces_keeps _ _) fun _ =>
    .bind (readMove_keeps _) fun _ =>
    .bind (checkMove_keeps _) fun _ => .bind (.actStore fun _ h => h) fun _ => .bind (writeMove_keeps _ _) fun _ =>
    .bind (.actStore fun _ h => by split <;> simp [h]) fun _ => .bind (rebase_keeps _ _) fun _ => rebase_keeps _ _

theorem execReloc_canonical (d a b : BitVec 5) (t : BitVec 3) : NextCanonical (execReloc d a b t s) := by
  refine issueRun_canonical h _ ?_
  refine .bind .getMe fun _ => ?_
  dsimp only
  refine .bind (tileChecks_keeps _ _) fun _ => .bind (tileChecks_keeps _ _) fun _ => .bind (.require _ _) fun _ =>
    .bind (.require _ _) fun _ => .bind ?_ fun _ => ?_
  · exact movableTile_keeps fun _ h => tilePlace_canonical h _ _ _
  · refine .bind ?_ fun _ => ?_
    · exact movableTile_keeps fun _ h => tilePlace_canonical h _ _ _
    · exact .bind (.require _ _) fun _ => .bind (.require _ _) fun _ => startBarchan_keeps _ _ _ _ _ _ _

theorem execRelocRet_canonical (d a : BitVec 5) (t : BitVec 3) : NextCanonical (execRelocRet d a t s) := by
  refine issueRun_canonical h _ ?_
  refine .bind .getMe fun _ => ?_
  dsimp only
  refine .bind (tileChecks_keeps _ _) fun _ => .bind (.require _ _) fun _ => .bind ?_ fun _ => ?_
  · exact movableTile_keeps fun _ h => retirePlace_canonical h _ _
  · exact .bind (.require _ _) fun _ => startBarchan_keeps _ _ _ _ _ _ _

theorem execMsweep_canonical (d a b : BitVec 5) : NextCanonical (execMsweep d a b s) :=
  issueRun_canonical h _ <| .bind .getMe fun _ => .bind (.actStore fun _ h => by split <;> simp [h]) fun _ =>
    .bind (sweepResolve_keeps _ _) fun _ => .bind (sweepWords_keeps _ _) fun _ => .bind (rebase_keeps _ _) fun _ =>
    .modT fun _ h => h

theorem execColput_canonical (d v : BitVec 5) (g : BitVec 6) : NextCanonical (execColput d v g s) :=
  issueRun_canonical h _ <| .bind .getS fun _ => .bind (.require _ _) fun _ =>
    .bind (recorded_keeps _ (.bind .getS fun _ =>
    .ite (.pure _) (.bind (.require _ _) fun _ => .bind (.modS fun _ h => h) fun _ => .ite (.bind (.modS fun _ h =>
    h) fun _ => .pure _) (.bind (.modS fun _ h => h) fun _ => .pure _)))) fun _ => .bind .leaveCore fun _ =>
      .modT fun _ h => h

theorem execColget_canonical (d : BitVec 5) (g : BitVec 6) : NextCanonical (execColget d g s) := by
  refine issueRun_canonical h _ (.bind (recorded_keeps _ (.bind (waitAct_keeps _ _ _ fun s v t h e => ?_) fun _ =>
    .bind .getS fun _ => .bind (.modS fun _ h => by simp [h]) fun _ => .pure _)) fun _ => .modT fun _ h => h)
  split at e
  · cases e; exact h
  · cases e

theorem execCq_canonical (c a : BitVec 4) (r : BitVec 3) : NextCanonical (execCq c a r s) := by
  unfold execCq
  exact cochain_canonical h _ _ _ _ _ fun _ _ => .bind (rmOf_keeps _) fun _ =>
    passes_keeps (fun _ => .bind (val_keeps _ _ _) fun _ => .pure _) _ _ _

theorem execCdq_canonical (c a : BitVec 4) (r : BitVec 3) : NextCanonical (execCdq c a r s) := by
  unfold execCdq
  exact cochain_canonical h _ _ _ _ _ fun _ _ => .bind (rmOf_keeps _) fun _ =>
    passes_keeps (fun _ => .bind (val_keeps _ _ _) fun _ => .pure _) _ _ _

theorem execHstar_canonical (c a : BitVec 4) (r : BitVec 3) : NextCanonical (execHstar c a r s) := by
  unfold execHstar
  exact cochain_canonical h _ _ _ _ _ fun _ _ => .bind (rmOf_keeps _) fun _ =>
    passes_keeps (fun _ => .bind (val_keeps _ _ _) fun _ =>
    .bind (weight_keeps _ _ _) fun _ => .ite (.pure _) (.pure _)) _ _ _

theorem execClin_canonical (c a b : BitVec 4) (r : BitVec 3) (p q : BitVec 4) :
    NextCanonical (execClin c a b r p q s) := by
  unfold execClin
  exact cochain_canonical h _ _ _ _ _ fun _ _ => .bind (rmOf_keeps _) fun _ =>
    passes_keeps (fun _ => .bind (val_keeps _ _ _) fun _ =>
    .bind (val_keeps _ _ _) fun _ => .pure _) _ _ _

theorem derivative_canonical (i : Instr) (op : Nat) (up : Bool) (c a : BitVec 4) (r : BitVec 3) :
    NextCanonical (derivative i op up c a r s) := by
  unfold derivative
  exact cochain_canonical h _ _ _ _ _ fun _ _ => .bind (rmOf_keeps _) fun _ =>
    .bind (passes_keeps (fun _ => .ite (.bind (bndEntries_keeps _ _ _) fun _ =>
    .bind (signedVals_keeps _ _ _ _) fun _ => .pure _) (.bind (cofaces_keeps _ _ _ _ _) fun _ =>
    .bind (signedVals_keeps _ _ _ _) fun _ => .pure _)) _ _ _) fun _ => .ite (.modT fun _ h => h) (.pure _)

theorem execWedge_canonical (c a b : BitVec 4) (r : BitVec 3) (sh : BitVec 7) :
    NextCanonical (execWedge c a b r sh s) := by
  unfold execWedge
  exact cochain_canonical h _ _ _ _ _ fun _ _ => .bind (rmOf_keeps _) fun _ => .bind (.require _ _) fun _ =>
    .bind (passes_keeps (fun _ => .bind (walkDown_keeps _ _ _ _ _) fun _ => .bind (walkDown_keeps _ _ _ _ _) fun _ =>
    .bind (valUnits_keeps _ _ _) fun _ => .bind (valUnits_keeps _ _ _) fun _ => .pure _) _ _ _) fun _ =>
    .ite (.modT fun _ h => h) (.pure _)

theorem execCseamRelease_canonical (c : BitVec 4) : NextCanonical (execCseamRelease c s) := by
  unfold execCseamRelease
  exact cochain_canonical h _ _ _ _ _ fun _ _ => releaseGhosts_keeps _ _ _

theorem execCseamLand_canonical (c l : BitVec 4) : NextCanonical (execCseamLand c l s) := by
  unfold execCseamLand
  exact cochain_canonical h _ _ _ _ _ fun _ _ => .modS fun _ h => by simp [h]

theorem execCseamSend_canonical (c l : BitVec 4) : NextCanonical (execCseamSend c l s) := by
  unfold execCseamSend
  exact cochain_canonical h _ _ _ _ _ fun _ _ => sendSeams_keeps _ _ _ _ _

theorem execCred_canonical (c : BitVec 4) (x d : BitVec 5) (r : BitVec 3) (w : BitVec 1) :
    NextCanonical (execCred c x d r w s) := by
  unfold execCred
  exact cochain_canonical h _ _ _ _ _ fun _ _ => .bind (rmOf_keeps _) fun _ => .bind .getMe fun _ =>
    .bind (weighted_keeps _ _ _ _) fun _ =>
    .ite (.bind (.require _ _) fun _ => .modT fun _ h => h) (.bind (.modT fun _ h => h) fun _ =>
    .bind (.require _ _) fun _ => .modT fun _ h => h)

theorem execInterp_canonical (c a : BitVec 4) (r : BitVec 3) (comp : BitVec 2) :
    NextCanonical (execInterp c a r comp s) := by
  unfold execInterp
  exact cochain_canonical h _ _ _ _ _ fun _ _ => .bind (rmOf_keeps _) fun _ =>
    passes_keeps (fun _ => interpCell_keeps _ _ _ _ _ _ _) _ _ _

end

end Sys2Proof.Machine

/-! SUPPORT. A step keeps a canonical store. -/

namespace Sys2Proof.Machine

section
variable {s : State} (h : s.store.Canonical)
include h

theorem issueComplete_canonical (i : Instr) (f : Strand → Strand) : NextCanonical (issue i (complete f) s) :=
  issue_canonical h i (complete_canonical h f)

theorem execInt_canonical (i : Instr) (d a b : BitVec 5) (w : BitVec 1) (f : (n : Nat) → BitVec n → BitVec n → BitVec n) :
    NextCanonical (execInt i d a b w f s) :=
  issueComplete_canonical h ..

theorem execImm_canonical (i : Instr) (d a : BitVec 5) (f : Word → Word → Word) (k : Word) :
    NextCanonical (execImm i d a f k s) :=
  issueComplete_canonical h ..

theorem execLanes2_canonical (i : Instr) (d a b : BitVec 5) (p t : BitVec 3) (f : Strand → Word → Word → LaneResult) :
    NextCanonical (execLanes2 i d a b p t f s) :=
  execLanes_canonical h ..

theorem exec_canonical (i : Instr) : NextCanonical (exec i s) := by
  cases i with
  | add | sub | and | or | xor | sll | srl | sra | slt | min | max | mul | mulh | div | rem | clz | ctz | popc =>
    simp only [exec, execAdd, execSub, execAnd, execOr, execXor, execSll, execSrl, execSra, execSlt, execMin,
      execMax, execMul, execMulh, execDiv, execRem, execClz, execCtz, execPopc]
    exact execInt_canonical h ..
  | fadd | fsub | fmul | fdiv | fsqrt | fma | fnma | fmin | fmax | fcvt | fcvtf | fexp | flog | ferf =>
    simp only [exec, execFadd, execFsub, execFmul, execFdiv, execFsqrt, execFma, execFnma, execFmin, execFmax,
      execFcvt, execFcvtf, execFexp, execFlog, execFerf]
    exact execFp_canonical h ..
  | barrierCfgWrite | mutexRelease | eventLineSignal | eventPeekSet | ansaResume | ansaEnd | registerWrite
  | lcmdStep | lcmdRetrain | lcmdDown | rpcmdRetrain | rpcmdHotReset | rpcmdDisable | rpcmdEnable =>
    simp only [exec, execBarrierCfgWrite, execMutexRelease, execEventLineSignal, execEventPeekSet,
      execAnsaResume, execAnsaEnd, execRegisterWrite, execLcmdStep, execLcmdRetrain, execLcmdDown,
      execRpcmdRetrain, execRpcmdHotReset, execRpcmdDisable, execRpcmdEnable]
    exact serveStore_canonical h _ _ _ fun _ _ => by simp [h]
  | slli | srli | srai | jal | cpset | fmv | fsgnj | vextr | eret =>
    simp only [exec, execSlli, execSrli, execSrai, execJal, execCpset, execFmv, execFsgnj, execVextr, execEret]
    exact issue_canonical h _ h
  | vfma | vsel | vfun | vsplat | vperm | vhash | vpfx | visect =>
    simp only [exec, execVfma, execVsel, execVfun, execVsplat, execVperm, execVhash, execVpfx, execVisect]
    exact execLanes_canonical h ..
  | vadd | vsub | vmul | vmin | vmax | vbit | vsh =>
    simp only [exec, execVadd, execVsub, execVmul, execVmin, execVmax, execVbit, execVsh]
    exact execLanes2_canonical h ..
  | beq | bne | blt | bge | bltu | bgeu =>
    simp only [exec, execBeq, execBne, execBlt, execBge, execBltu, execBgeu]
    exact execBranch_canonical h ..
  | mma | mconst | maccZero | maccLoad | maccStore | maccAdd =>
    simp only [exec, execMma, execMconst, execMaccZero, execMaccLoad, execMaccStore, execMaccAdd]
    exact execMatrix_canonical h ..
  | tc1Announce | tc1Grant | rootPortLinkUp | rootPortLinkLoss | moduleReset | powerThrottle =>
    simp only [exec, execTc1Announce, execTc1Grant, execRootPortLinkUp, execRootPortLinkLoss, execModuleReset,
      execPowerThrottle]
    exact h
  | bfx | lui | auipc | fclass | vbmand =>
    simp only [exec, execBfx, execLui, execAuipc, execFclass, execVbmand]
    exact issueComplete_canonical h ..
  | addi | andi | ori | xori | slti =>
    simp only [exec, execAddi, execAndi, execOri, execXori, execSlti]
    exact execImm_canonical h ..
  | fapx | vcmp | vcvt | vred | vdot =>
    simp only [exec, execFapx, execVcmp, execVcvt, execVred, execVdot]
    exact issue_canonical h _ (deliverFlags_canonical h _ _ _)
  | hfold | hscan | hzip | houter =>
    simp only [exec, execHfold, execHscan, execHzip, execHouter]
    exact higherOrder_canonical h ..
  | csrrw | csrrs | csrrc =>
    simp only [exec, execCsrrw, execCsrrs, execCsrrc]
    exact csrAccess_canonical h ..
  | fcmp | fcvti =>
    simp only [exec, execFcmp, execFcvti]
    exact execFpX_canonical h ..
  | dext | dcob =>
    simp only [exec, execDext, execDcob]
    exact derivative_canonical h ..
  | yield | ebreak =>
    simp only [exec, execYield, execEbreak]
    exact issue_canonical h _ (by simp [h])
  | jalr => exact execJalr_canonical h ..
  | loop => exact execLoop_canonical h ..
  | ld => exact execLd_canonical h ..
  | st => exact execSt_canonical h ..
  | fld => exact execFld_canonical h ..
  | fst => exact execFst_canonical h ..
  | vld => exact execVld_canonical h ..
  | vst => exact execVst_canonical h ..
  | vldx => exact execVldx_canonical h ..
  | vstx => exact execVstx_canonical h ..
  | ldo => exact execLdo_canonical h ..
  | sto => exact execSto_canonical h ..
  | lds => exact execLds_canonical h ..
  | sts => exact execSts_canonical h ..
  | tpf => exact execTpf_canonical h ..
  | amo => exact execAmo_canonical h ..
  | cas => exact execCas_canonical h ..
  | fence => exact execFence_canonical h ..
  | xfence => exact execXfence_canonical h ..
  | mwatch => exact execMwatch_canonical h ..
  | mwait => exact execMwait_canonical h ..
  | mbxwait => exact execMbxwait_canonical h ..
  | mbxpop => exact execMbxpop_canonical h ..
  | barrive => exact execBarrive_canonical h ..
  | cpgo => exact execCpgo_canonical h ..
  | gxpost => exact execGxpost_canonical h ..
  | tmov => exact execTmov_canonical h ..
  | reloc => exact execReloc_canonical h ..
  | relocRet => exact execRelocRet_canonical h ..
  | msweep => exact execMsweep_canonical h ..
  | cxload => exact execCxload_canonical h ..
  | cxedit => exact execCxedit_canonical h ..
  | cxinfo => exact execCxinfo_canonical h ..
  | cxinfoSetexp => exact execCxinfoSetexp_canonical h ..
  | cbind => exact execCbind_canonical h ..
  | cq => exact execCq_canonical h ..
  | cdq => exact execCdq_canonical h ..
  | hstar => exact execHstar_canonical h ..
  | wedge => exact execWedge_canonical h ..
  | interp => exact execInterp_canonical h ..
  | clin => exact execClin_canonical h ..
  | cseamSend => exact execCseamSend_canonical h ..
  | cseamRelease => exact execCseamRelease_canonical h ..
  | cseamLand => exact execCseamLand_canonical h ..
  | cred => exact execCred_canonical h ..
  | mcfg => exact execMcfg_canonical h ..
  | rtdef => exact execRtdef_canonical h ..
  | colput => exact execColput_canonical h ..
  | colget => exact execColget_canonical h ..
  | ssync => exact execSsync_canonical h ..
  | launch => exact execLaunch_canonical h ..
  | launchQuery => exact execLaunchQuery_canonical h ..
  | launchJob => exact execLaunchJob_canonical h ..
  | cancel => exact execCancel_canonical h ..
  | ctuinv => exact execCtuinv_canonical h ..
  | boot => exact execBoot_canonical h ..
  | recoveryImageReceive => exact execRecoveryImageReceive_canonical h ..
  | attestationRequest => exact execAttestationRequest_canonical h ..
  | junctionTrip => exact execJunctionTrip_canonical h ..
  | unitDispatch => exact execUnitDispatch_canonical h ..
  | matrixWaitExpiry => exact execMatrixWaitExpiry_canonical h ..
  | postedStoreMove => exact execPostedStoreMove_canonical h ..
  | homePerform => exact execHomePerform_canonical h ..
  | retryListRetry => exact execRetryListRetry_canonical h ..
  | slipMarkHop => exact execSlipMarkHop_canonical h ..
  | ctuWalkComplete => exact execCtuWalkComplete_canonical h ..
  | relocBegin => exact execRelocBegin_canonical h ..
  | relocCopy => exact execRelocCopy_canonical h ..
  | relocInstall => exact execRelocInstall_canonical h ..
  | relocCompletion => exact execRelocCompletion_canonical h ..
  | relocRetirementStep => exact execRelocRetirementStep_canonical h ..
  | copyRow => exact execCopyRow_canonical h ..
  | copyCompletion => exact execCopyCompletion_canonical h ..
  | gatherRow => exact execGatherRow_canonical h ..
  | gatherMark => exact execGatherMark_canonical h ..
  | gatherCompletion => exact execGatherCompletion_canonical h ..
  | mailboxPlace => exact execMailboxPlace_canonical h ..
  | matrixTileStep => exact execMatrixTileStep_canonical h ..
  | sprueHop => exact execSprueHop_canonical h ..
  | hotOperationCompletion => exact execHotOperationCompletion_canonical h ..
  | collectiveCombine => exact execCollectiveCombine_canonical h ..
  | collectiveResultArrival => exact execCollectiveResultArrival_canonical h ..
  | collectiveQueueRecord => exact execCollectiveQueueRecord_canonical h ..
  | collectiveGo => exact execCollectiveGo_canonical h ..
  | groupTableWrite => exact execGroupTableWrite_canonical h ..
  | chanSend => exact execChanSend_canonical h ..
  | chanEntryWrite => exact execChanEntryWrite_canonical h ..
  | chanRecv =>
    simp only [exec, execChanRecv]
    exact serveRow_canonical h _ _ _ fun _ => State.serveRecv_canonical h _
  | chanHeadWrite =>
    simp only [exec, execChanHeadWrite]
    exact serveRow_canonical h _ _ _ fun _ => State.storeControl_canonical h _ _ fun _ _ h => h
  | chanCfgWrite =>
    simp only [exec, execChanCfgWrite]
    exact serveRow_canonical h _ _ _ fun _ => State.storeControl_canonical h _ _ fun _ _ h => by simp [h]
  | seamQueueTake => exact execSeamQueueTake_canonical h ..
  | barrierChildArrival => exact execBarrierChildArrival_canonical h ..
  | barrierParentFlip => exact execBarrierParentFlip_canonical h ..
  | phaseWait =>
    simp only [exec, execPhaseWait]
    exact serveRow_canonical h _ _ _ fun _ => State.servePhase_canonical h _ _
  | mutexAcquire => exact execMutexAcquire_canonical h ..
  | eventLineWait => exact execEventLineWait_canonical h ..
  | scheduleChoice => exact execScheduleChoice_canonical h ..
  | pourBegin => exact execPourBegin_canonical h ..
  | pourEntrySend => exact execPourEntrySend_canonical h ..
  | pourDeliveryStage => exact execPourDeliveryStage_canonical h ..
  | ssyncCommit => exact execSsyncCommit_canonical h ..
  | jobEnd => exact execJobEnd_canonical h ..
  | engactRetry => exact execEngactRetry_canonical h ..
  | engactEnd => exact execEngactEnd_canonical h ..
  | pctlNotice => exact execPctlNotice_canonical h ..
  | pctlPreempt => exact execPctlPreempt_canonical h ..
  | coreSaveComplete => exact execCoreSaveComplete_canonical h ..
  | pctlResume => exact execPctlResume_canonical h ..
  | pctlWithdraw => exact execPctlWithdraw_canonical h ..
  | spillDrain => exact execSpillDrain_canonical h ..
  | extintWrite => exact execExtintWrite_canonical h ..
  | icmdInsert => exact execIcmdInsert_canonical h ..
  | icmdMstore => exact execIcmdMstore_canonical h ..
  | gatewayRequest => exact execGatewayRequest_canonical h ..
  | linkFrameSend => exact execLinkFrameSend_canonical h ..
  | linkFrameReceive => exact execLinkFrameReceive_canonical h ..
  | linkReplayLimit => exact execLinkReplayLimit_canonical h ..
  | phyLockLoss => exact execPhyLockLoss_canonical h ..
  | phyTrainComplete => exact execPhyTrainComplete_canonical h ..
  | helloSend => exact execHelloSend_canonical h ..
  | helloReceive => exact execHelloReceive_canonical h ..
  | offerReceive => exact execOfferReceive_canonical h ..
  | answerReceive => exact execAnswerReceive_canonical h ..
  | confirmReceive => exact execConfirmReceive_canonical h ..
  | trainingTimeout => exact execTrainingTimeout_canonical h ..
  | pcieInboundMemoryRequest => exact execPcieInboundMemoryRequest_canonical h ..
  | msiMessage root rid addr data => exact execMsiMessage_canonical h root rid addr data
  | vstatClear =>
    simp only [exec, execVstatClear]
    exact serveStore_canonical h _ _ _ fun _ _ => h
  | pcieCompletion => exact execPcieCompletion_canonical h ..
  | pcieCompletionTimeout => exact execPcieCompletionTimeout_canonical h ..
  | scrubLine => exact execScrubLine_canonical h ..
  | superstepReplay => exact execSuperstepReplay_canonical h ..
  | reservedOpcode =>
    simp only [exec, execReservedOpcode]
    simp [h]
  | yieldEnd => exact execYieldEnd_canonical h ..
  | ecall => exact execEcall_canonical h ..
  | wfi => exact execWfi_canonical h ..
  | quantumEnd => exact execQuantumEnd_canonical h ..
  | timecmpMatch => exact execTimecmpMatch_canonical h ..
  | interruptTake => exact execInterruptTake_canonical h ..
  | waitLimitExpiry => exact execWaitLimitExpiry_canonical h ..
  | timedWaitExpiry => exact execTimedWaitExpiry_canonical h ..
  | drainComplete => exact execDrainComplete_canonical h ..
  | accessResponse => exact execAccessResponse_canonical h ..
  | cancelReturn => exact execCancelReturn_canonical h ..
  | faultQueueEntry => exact execFaultQueueEntry_canonical h ..
  | coolantLimitStop => exact execCoolantLimitStop_canonical h ..

theorem issueInstr_canonical (i : Instr) : NextCanonical (issueInstr exec i s) := by
  have he := exec_canonical h i
  unfold issueInstr
  split
  · split
    · exact he
    · split
      · rename_i t e
        rw [e] at he
        split
        · exact he
        · simp [h]
      · exact he
  · exact he

theorem issueWord_canonical (w : Word32) : NextCanonical (issueWord exec w s) := by
  unfold issueWord
  split
  · simp [h]
  · exact issueInstr_canonical h _

/-- What a fetch leaves has a canonical store. -/
def Fetched.Canonical : Fetched → Prop
  | .word _ _ t => t.store.Canonical
  | .trap _ t => t.store.Canonical
  | .parks t => t.store.Canonical

theorem State.refill_canonical (pc : Word) (l : Loc) : (s.refill pc l).Canonical := by
  unfold State.refill; dsimp only
  split <;> simp [Fetched.Canonical, h]

theorem State.fetchMiss_canonical : s.fetchMiss.Canonical := by
  unfold State.fetchMiss; dsimp only
  split
  · split
    · exact h
    · split
      · exact State.refill_canonical h _ _
      · exact h
      · simp [Fetched.Canonical, h]
  · split
    · exact h
    · split
      · exact h
      · split
        · exact State.refill_canonical h _ _
        · exact h

theorem State.fetchStream_canonical (t : Strand) : (s.fetchStream t).Canonical := by
  unfold State.fetchStream
  split
  · split
    · exact h
    · exact State.fetchMiss_canonical h
  · exact State.fetchMiss_canonical h

theorem State.fetch_canonical : s.fetch.Canonical := by
  unfold State.fetch; dsimp only
  split
  · split
    · split
      · exact h
      · split <;> exact h
    · exact State.fetchStream_canonical h _
  · exact State.fetchStream_canonical h _

theorem boundary_canonical : NextCanonical (boundary exec s) := by
  have hf := State.fetch_canonical (s := s.modMe Strand.takeBlock) h
  unfold boundary; dsimp only
  split
  · simp [h]
  · split
    · exact exec_canonical h _
    · split
      · simp [h]
      · split
        · simp [h]
        · split
          all_goals
            rename_i e
            rw [e] at hf
          · exact State.fetchTrap_canonical hf _
          · exact hf
          · split
            · exact State.fetchTrap_canonical hf _
            · exact issueWord_canonical (s := State.modMe _ _) hf _

theorem strandTurn_canonical : NextCanonical (strandTurn exec s) := by
  unfold strandTurn
  split
  · split
    · exact issueInstr_canonical h _
    · simp [h]
  · exact boundary_canonical h

theorem issueCore_canonical (c : Nat) : NextCanonical (issueCore exec c s) := by
  have idle : NextCanonical (.next (s.pass 1 0)) := by simp [h]
  have hn : (s.nextTurn c).store.Canonical := by simp [h]
  unfold issueCore; dsimp only
  split
  · exact idle
  · split
    · split
      · exact strandTurn_canonical (s := { s with cur := _ }) h
      · exact idle
    · split
      · exact strandTurn_canonical (s := { s.nextTurn c with cur := _ }) hn
      · exact idle

theorem State.move_canonical (m : Move) : NextCanonical (State.move exec s m) := by
  cases m with
  | event k i =>
    have hi : NextCanonical (exec i { s with cur := k }) := exec_canonical (s := { s with cur := k }) h i
    rw [State.move]
    split
    · exact h
    · exact hi
  | issue c n => exact issueCore_canonical (s := { s with slice := n }) h c
  | badRegister k file n => exact State.strike_canonical h _
  | poisonWord l => exact State.poison_canonical h l
  | peerSlice b n => exact h
  | badAccumulator k n => exact State.poisonAcc_canonical h k n
  | _ => simp [State.move, h]

theorem State.takeMove_canonical : NextCanonical (s.takeMove exec) := by
  unfold State.takeMove
  split
  · exact issueCore_canonical (s := { s with slice := none }) h _
  · rename_i ms _
    exact State.move_canonical (s := { s with agenda := ms }) h _

theorem step_canonical : NextCanonical (step s) := by
  unfold step
  split
  · trivial
  · exact State.takeMove_canonical h

end

end Sys2Proof.Machine

namespace Sys2Proof.Proofs
open Machine Claims

/-- Settles O55: memory and word tags together are the store, and each instruction, device row and move leaves it
canonical, whatever the rest of the state. -/
theorem stepKeepsMemoryCanonical : Obligations.StepKeepsMemoryCanonical := by
  intro s t hs e
  have h := step_canonical ((canonical_iff s).1 hs)
  rw [e] at h
  exact (canonical_iff t).2 h

end Sys2Proof.Proofs

/-! SUPPORT. The words of memory that an access touches, and what it leaves there (R218, R242). -/

namespace Sys2Proof.Machine

/-- Bytes of one word of memory share their tag. -/
theorem State.tagAt_congr (s : State) {a b : Loc} (h : a.key / 8 = b.key / 8) : s.tagAt a = s.tagAt b := by
  rw [State.tagAt, State.tagAt, h]

/-- The word that holds byte `off` of a home has the tag of that byte. -/
theorem State.tagAt_word (s : State) (l : Loc) {q k : Nat} (h : (l.off + k) / 8 = q) :
    s.tagAt { l with off := 8 * q } = s.tagAt (l.plus k) := by
  refine s.tagAt_congr ?_
  simp only [Loc.plus, Loc.key]
  omega

/-- Bytes none of which is poisoned have no poisoned word (R242). -/
theorem State.firstPoison_eq_none {s : State} {l : Loc} {n : Nat} (h : ∀ k < n, (s.tagAt (l.plus k)).poison = false) :
    s.firstPoison l n = none := by
  rw [State.firstPoison, Option.map_eq_none_iff, List.find?_eq_none]
  intro w hw
  obtain ⟨hn, q, first, last, rfl⟩ := mem_wordsOf.1 hw
  rw [s.tagAt_word l (k := 8 * q - l.off) (by omega), h _ (by omega)]
  exact Bool.false_ne_true

/-- The lowest poisoned byte is what the poison of its word tells (R242). -/
theorem State.firstPoison_eq_some {s : State} {l : Loc} {n k : Nat} (hk : k < n) (hp : (s.tagAt (l.plus k)).poison = true)
    (below : ∀ j < k, (s.tagAt (l.plus j)).poison = false) : s.firstPoison l n = some k := by
  have clean (j : Nat) (hj : j ≤ k) (same : (l.off + j) / 8 = (l.off + k) / 8) : j = k := by
    by_contra ne
    have h := below j (by omega)
    rw [← s.tagAt_word l same, s.tagAt_word l rfl, hp] at h
    exact Bool.noConfusion h
  have found : (List.range ((l.off + n - 1) / 8 - l.off / 8 + 1)).find?
      (fun i => (s.tagAt { l with off := 8 * (l.off / 8 + i) }).poison) = some ((l.off + k) / 8 - l.off / 8) := by
    refine List.find?_range_eq_some.2 ⟨?_, List.mem_range.2 (by omega), fun j hj => ?_⟩
    · rw [s.tagAt_word l (k := k) (by omega), hp]
    · rw [s.tagAt_word l (k := 8 * (l.off / 8 + j) - l.off) (by omega), below _ (by omega)]
      rfl
  have at_ : 8 * (l.off / 8 + ((l.off + k) / 8 - l.off / 8)) - l.off = k := clean _ (by omega) (by omega)
  rw [State.firstPoison, wordsOf, if_neg (by omega)]
  dsimp only
  rw [List.find?_map, Function.comp_def, found]
  exact congrArg some at_

/-- An access within one word touches that word only. -/
theorem wordsOf_within {l : Loc} {n : Nat} (hn : n ≠ 0) (h : l.off % 8 + n ≤ 8) :
    wordsOf l n = [{ l with off := 8 * (l.off / 8) }] := by
  have one : (l.off + n - 1) / 8 - l.off / 8 + 1 = 1 := by omega
  rw [wordsOf, if_neg hn]
  dsimp only
  rw [one]
  rfl

/-! A write within one word. -/

theorem State.tagAt_of_store {s t : State} (h : t.store = s.store) (l : Loc) : t.tagAt l = s.tagAt l := by
  rw [State.tagAt, State.tagAt, State.tags_of_store h]

theorem State.byteAt_of_store {s t : State} (h : t.store = s.store) (l : Loc) : t.byteAt l = s.byteAt l := by
  rw [State.byteAt, State.byteAt, State.mem_of_store h]

theorem State.bytesAt_of_store {s t : State} (h : t.store = s.store) (l : Loc) (n : Nat) : t.bytesAt l n = s.bytesAt l n := by
  rw [State.bytesAt, State.bytesAt, State.mem_of_store h]

/-- What a word is left as depends on the store alone. -/
theorem State.writeWord_store_congr {s t : State} (h : t.store = s.store) (w l : Loc) (bs : List Byte) (fe : Option Bool) :
    (t.writeWord w l bs fe).store = (s.writeWord w l bs fe).store := by
  have hput (l : Loc) (bs : List Byte) : (t.putRaw l bs).store = (s.putRaw l bs).store := by
    simp only [State.putRaw, State.store, State.mem_of_store h, State.tags_of_store h]
  have htag {u v : State} (e : u.store = v.store) (l : Loc) (x : WordTag) : (u.setTag l x).store = (v.setTag l x).store := by
    simp only [State.setTag, State.store, State.mem_of_store e, State.tags_of_store e]
  unfold State.writeWord
  rw [State.tagAt_of_store h]
  dsimp only
  split
  · exact htag (hput _ _) _ _
  · split
    · rw [State.logAt, State.logError_store, State.logAt, State.logError_store, h]
    · split
      · exact htag (hput _ _) _ _
      · exact hput _ _

section
variable (s : State) (c : Nat) {l : Loc} {bs : List Byte} (fe : Option Bool)

/-- A write within one word leaves the store as that word's write does. -/
theorem State.write_store_within (hn : bs.length ≠ 0) (h : l.off % 8 + bs.length ≤ 8) :
    (s.write c l bs fe).store = (s.writeWord { l with off := 8 * (l.off / 8) } l bs fe).store := by
  rw [State.write, wordsOf_within hn h]
  rw [State.fireWatches_store]
  exact State.writeWord_store_congr (foldl_keeps State.store (fun _ _ => State.recordLine_store ..) _ _) _ _ _ _

variable (h : l.off % 8 + bs.length ≤ 8) (clean : (s.tagAt l).poison = false)
include h clean

/-- Bytes written within a word that is not poisoned stand there. -/
theorem State.bytesAt_write_within : (s.write c l bs fe).bytesAt l bs.length = bs := by
  by_cases hn : bs.length = 0
  · rw [List.length_eq_zero_iff.1 hn]
    rfl
  · have word : s.tagAt { l with off := 8 * (l.off / 8) } = s.tagAt l := s.tagAt_word l (k := 0) rfl
    have lo : max (8 * (l.off / 8)) l.off = l.off := by omega
    have hi : min (8 * (l.off / 8) + 8) (l.off + bs.length) = l.off + bs.length := by omega
    rw [State.bytesAt_of_store (s.write_store_within c fe hn h), State.writeWord]
    dsimp only
    rw [word, clean, lo, hi, Nat.sub_self, List.drop_zero, Nat.add_sub_cancel_left, List.take_length, if_neg Bool.false_ne_true]
    split
    · exact s.bytesAt_putRaw l bs
    · split
      · exact s.bytesAt_putRaw l bs
      · exact s.bytesAt_putRaw l bs

end

/-- A whole word written: its bytes and its tag (R218, R229, R357). -/
theorem State.write_word (s : State) (c : Nat) {l : Loc} (x : Word) (fe : Option Bool) (h : l.off % 8 = 0) :
    let t := s.write c l (bytesOfNat 8 x.toNat) fe
    t.wordAt l = x ∧ t.tagAt l = { s.tagAt l with poison := false, released := false, full := fe.getD (s.tagAt l).full } := by
  have len : (bytesOfNat 8 x.toNat).length = 8 := rfl
  have word : ({ l with off := 8 * (l.off / 8) } : Loc) = l := by
    obtain ⟨home, off⟩ := l
    simp only [Loc.mk.injEq, true_and]
    dsimp only at h
    omega
  have hi : min (l.off + 8) (l.off + 8) - l.off = 8 := by omega
  have eq : (s.write c l (bytesOfNat 8 x.toNat) fe).store = ((s.putRaw l (bytesOfNat 8 x.toNat)).setTag l
      { s.tagAt l with poison := false, released := false, full := fe.getD (s.tagAt l).full }).store := by
    rw [s.write_store_within c fe (by rw [len]; decide) (by rw [len]; omega), word, State.writeWord]
    dsimp only
    rw [max_self, len, hi, Nat.sub_self, if_pos rfl, List.drop_zero]
    rfl
  refine ⟨?_, ?_⟩
  · have read := (State.bytesAt_of_store eq l 8).trans (s.bytesAt_putRaw l (bytesOfNat 8 x.toNat))
    rw [State.wordAt, State.natAt, read, natOfBytes_bytesOfNat]
    exact BitVec.eq_of_toNat_eq (by rw [BitVec.toNat_ofNat]; have := x.isLt; omega)
  · rw [State.tagAt_of_store eq, State.tagAt_setTag, if_pos rfl]

end Sys2Proof.Machine

namespace Sys2Proof.Proofs

open Sys2Proof.Machine Sys2Proof.Claims

/-- Settles O26: the tags of the words touched tell which byte is poisoned, and one word's write puts its bytes. -/
theorem memoryReadsWhatWasWritten : Obligations.MemoryReadsWhatWasWritten := by
  intro s c a bs moving slip
  refine ⟨fun hk clean => ?_, fun k hlt hk hp below => ?_, fun hk hlen within clean => ⟨s.write c a.loc bs, ?_, ?_, fun q hq => ?_⟩⟩
  · simp only [State.perform, hk, moving, slip, State.viewPoison, State.firstPoison_eq_none clean]
    rfl
  · simp only [State.perform, hk, moving, slip, State.viewPoison, State.firstPoison_eq_some hlt hp below]
    rfl
  · simp only [State.perform, hk, moving, slip]
    rfl
  · rw [hlen]
    exact s.bytesAt_write_within c none within clean
  · rw [hlen] at hq
    exact (State.WritesWithin.write a.loc bs c none).bytes q hq

end Sys2Proof.Proofs

/-! SUPPORT. Atomics and synchronising accesses at their word (R229, R251, R252). -/

namespace Sys2Proof.Machine

/-- A word that is not poisoned counts as full where its bit is set (R357). -/
theorem WordTag.countsFull_of_clean {t : WordTag} (h : t.poison = false) : t.countsFull = t.full := by
  rw [WordTag.countsFull, h, if_neg Bool.false_ne_true]

/-! The operations that compare (R251). -/

theorem amoValue_min (old x : Word) : amoValue 5#4 old x = if x.toInt < old.toInt then x else old := by
  simp [amoValue, BitVec.slt]

theorem amoValue_max (old x : Word) : amoValue 6#4 old x = if old.toInt < x.toInt then x else old := by
  simp [amoValue, BitVec.slt]

theorem amoValue_minu (old x : Word) : amoValue 7#4 old x = if x.toNat < old.toNat then x else old := by
  simp [amoValue, BitVec.ult]

theorem amoValue_maxu (old x : Word) : amoValue 8#4 old x = if old.toNat < x.toNat then x else old := by
  simp [amoValue, BitVec.ult]

/-- An access that leaves the word `w` at its place, unpoisoned, with the full/empty bit `b`, and has the value `v`. -/
def State.LeavesWord (s : State) (c : Nat) (a : Access) (v : Vec) (w : Word) (b : Bool) : Prop :=
  ∃ t, s.perform c a = .done t v ∧ t.wordAt a.loc = w ∧ (t.tagAt a.loc).full = b ∧ (t.tagAt a.loc).poison = false

section
variable {s : State} {c : Nat} {a : Access} (moving : s.movingAt a.loc = none) (slip : (s.tagAt a.loc).slip = none)
  (clean : (s.tagAt a.loc).poison = false) (aligned : a.loc.off % 8 = 0)

include aligned in
/-- An access that writes its word. -/
theorem State.LeavesWord.of_write {v : Vec} {w : Word} {fe : Option Bool}
    (h : s.perform c a = .done (s.write c a.loc (bytesOfNat 8 w.toNat) fe) v) :
    s.LeavesWord c a v w (fe.getD (s.tagAt a.loc).full) := by
  obtain ⟨word, tag⟩ := s.write_word c w fe aligned
  exact ⟨_, h, word, by rw [tag], by rw [tag]⟩

include clean in
/-- An access that changes nothing. -/
theorem State.LeavesWord.of_read {v : Vec} (h : s.perform c a = .done s v) :
    s.LeavesWord c a v (s.wordAt a.loc) (s.tagAt a.loc).full :=
  ⟨s, h, rfl, rfl, clean⟩

section
include moving slip

include clean aligned in
theorem State.leavesWord_amo {op : BitVec 4} {x : Word} (hk : a.kind = .amo op x) :
    s.LeavesWord c a ((s.wordAt a.loc).setWidth 512) (amoValue op (s.wordAt a.loc) x) (s.tagAt a.loc).full := by
  refine State.LeavesWord.of_write (fe := none) aligned ?_
  simp only [State.perform, hk, moving, slip, clean]
  rfl

include clean aligned in
theorem State.leavesWord_cas {e n : Word} (hk : a.kind = .cas e n) :
    s.LeavesWord c a ((s.wordAt a.loc).setWidth 512) (if s.wordAt a.loc = e then n else s.wordAt a.loc)
      (s.tagAt a.loc).full := by
  have done : s.perform c a = .done (if s.wordAt a.loc = e then s.write c a.loc (bytesOfNat 8 n.toNat) else s)
      ((s.wordAt a.loc).setWidth 512) := by
    simp only [State.perform, hk, moving, slip, clean]
    rfl
  by_cases h : s.wordAt a.loc = e
  · rw [if_pos h] at done ⊢
    exact State.LeavesWord.of_write (fe := none) aligned done
  · rw [if_neg h] at done ⊢
    exact State.LeavesWord.of_read clean done

variable {k : SyncKind} {x : Word} (hk : a.kind = .sync k x)
include hk

include clean in
theorem State.leavesWord_readLeave (e : k = .readLeave) (full : (s.tagAt a.loc).full = true) :
    s.LeavesWord c a ((s.wordAt a.loc).setWidth 512) (s.wordAt a.loc) true := by
  rw [← full]
  refine State.LeavesWord.of_read clean ?_
  simp only [State.perform, hk, e, moving, slip, SyncKind.holds, WordTag.countsFull_of_clean clean, full, clean]
  rfl

include clean in
theorem State.leavesWord_readTake (e : k = .readTake) (full : (s.tagAt a.loc).full = true) :
    s.LeavesWord c a ((s.wordAt a.loc).setWidth 512) (s.wordAt a.loc) false := by
  have store : ((((s.recordLine c a.loc).setTag a.loc { s.tagAt a.loc with full := false }).fireWatches [a.loc])).store =
      (s.setTag a.loc { s.tagAt a.loc with full := false }).store := by
    rw [State.fireWatches_store]
    have h := s.recordLine_store c a.loc
    simp only [State.setTag, State.store, State.mem_of_store h, State.tags_of_store h]
  have tag := State.tagAt_of_store store a.loc
  rw [State.tagAt_setTag, if_pos rfl] at tag
  refine ⟨_, ?_, ?_, congrArg WordTag.full tag, (congrArg WordTag.poison tag).trans clean⟩
  · simp only [State.perform, hk, e, moving, slip, SyncKind.holds, WordTag.countsFull_of_clean clean, full, clean]
    rfl
  · rw [State.wordAt, State.natAt, State.bytesAt_of_store store]
    rfl

include aligned in
/-- A synchronising store whose test holds (R229). -/
theorem State.leavesWord_syncStore {b : Bool} (hholds : k.holds (s.tagAt a.loc) = true)
    (e : (k = .writeFill ∧ b = true) ∨ (k = .setFull ∧ b = true) ∨ (k = .setEmpty ∧ b = false)) :
    s.LeavesWord c a 0 x b := by
  refine State.LeavesWord.of_write (fe := some b) aligned ?_
  simp only [State.perform, hk, moving, slip, hholds]
  obtain ⟨rfl, rfl⟩ | ⟨rfl, rfl⟩ | ⟨rfl, rfl⟩ := e
  · rfl
  · rfl
  · rfl

/-- A synchronising access whose test fails waits (R229). -/
theorem State.perform_sync_waits (hholds : k.holds (s.tagAt a.loc) = false) : s.perform c a = .waits := by
  simp only [State.perform, hk, moving, slip, hholds]
  rfl

end

end

end Sys2Proof.Machine

namespace Sys2Proof.Proofs

open Sys2Proof.Machine Sys2Proof.Claims

/-- Settles O27: an atomic writes its operation's result as a whole word, and the test of a synchronising access reads the
full/empty bit. -/
theorem atomicsAndSyncAtHome : Obligations.AtomicsAndSyncAtHome := by
  intro s c a moving slip clean aligned old full leaves
  have amo {op : BitVec 4} {x : Word} (hk : a.kind = .amo op x) : leaves (old.setWidth 512) (amoValue op old x) full :=
    State.leavesWord_amo moving slip clean aligned hk
  have counts : (s.tagAt a.loc).countsFull = full := WordTag.countsFull_of_clean clean
  refine ⟨fun x hk => amo hk, fun x hk => amo hk, fun x hk => amo hk, fun x hk => amo hk, fun x hk => amo hk,
    fun x hk => ?_, fun x hk => ?_, fun x hk => ?_, fun x hk => ?_,
    fun e n hk => State.leavesWord_cas moving slip clean aligned hk,
    fun x hk hf => State.leavesWord_readLeave moving slip clean hk rfl hf,
    fun x hk hf => State.leavesWord_readTake moving slip clean hk rfl hf,
    fun x hk hf => State.leavesWord_syncStore moving slip aligned hk (by rw [SyncKind.holds, counts, hf]; rfl) (.inl ⟨rfl, rfl⟩),
    fun x hk => State.leavesWord_syncStore moving slip aligned hk rfl (.inr (.inl ⟨rfl, rfl⟩)),
    fun x hk => State.leavesWord_syncStore moving slip aligned hk rfl (.inr (.inr ⟨rfl, rfl⟩)), fun x hk hf => ?_, fun x hk hf => ?_⟩
  · exact amoValue_min old x ▸ amo hk
  · exact amoValue_max old x ▸ amo hk
  · exact amoValue_minu old x ▸ amo hk
  · exact amoValue_maxu old x ▸ amo hk
  · rcases hk with hk | hk
    · exact State.perform_sync_waits moving slip hk (by rw [SyncKind.holds, counts, hf])
    · exact State.perform_sync_waits moving slip hk (by rw [SyncKind.holds, counts, hf])
  · exact State.perform_sync_waits moving slip hk (by rw [SyncKind.holds, counts, hf]; rfl)

end Sys2Proof.Proofs

/-! SUPPORT. A core whose next serial number does not fit the answer that carries it to an XFENCE (R254): one access is
pending on the copy path, and the mark comes behind it. -/

namespace Sys2Proof.Machine

/-- A plain load of strand 0 of core 0, pending on the copy path with serial number 0. -/
def pendingCopy : PathEntry :=
  { path := .copy, seq := 0
    acc := { strand := 0, answers := true, op := none, va := 0, loc := { home := .unit 0, off := 0 }, len := 8
             kind := .load .plain false, sc := none, hops := [] } }

/-- The first number beyond the 512 bits of an answer. -/
def beyondAnswer : Nat := 2 ^ 512

/-- At reset but for core 0: it runs strand 0, the load is in its path queue, and its next serial number is beyond an answer. -/
def serialBeyondAnswer : State :=
  (State.reset.modCore 0 fun q => { q with active := true, seq := beyondAnswer, path := [pendingCopy] }).modStrand 0 fun t =>
    { t with status := .ready, log := [] }

/-- The mark that an XFENCE from copy to CORE places. -/
def State.copyMark (s : State) : FenceMark :=
  { num := (s.core s.here).seq, a := .copy, b := .core, seq := (s.core s.here).seq }

/-- The status of the current strand after a result. -/
def statusAfter : Result → Option Status
  | .next t => some t.me.status
  | _ => none

/-- The load is before the mark. -/
theorem fencePending_serialBeyondAnswer :
    serialBeyondAnswer.fencePending serialBeyondAnswer.here serialBeyondAnswer.copyMark = true := by decide +kernel

/-- The number comes to the XFENCE as 0, before which nothing is pending: it completes. -/
theorem statusAfter_exec_serialBeyondAnswer :
    statusAfter (exec (.xfence 1#3 0#3) serialBeyondAnswer) = some .ready := by decide +kernel

end Sys2Proof.Machine

namespace Sys2Proof.Proofs

open Sys2Proof.Machine Sys2Proof.Claims

/-- What the statement says of an XFENCE from copy to CORE with an access pending before its mark. -/
theorem FenceResults.parks (h : Obligations.FenceResults) {s : State} (log : s.me.log = [])
    (pending : s.fencePending s.here s.copyMark = true) :
    ∃ t, exec (.xfence 1#3 0#3) s = .next t ∧ t.me.status = .parked (.fence (s.core s.here).seq) := by
  obtain ⟨-, -, -, toCore, -⟩ := h s 0 1#3 0#3 0 log
  obtain ⟨t, ran, -, -, ends⟩ := toCore (by decide)
  exact ⟨t, ran, ((if_pos pending).mp ends).1⟩

/-- Refutes O30: its clause for an XFENCE to CORE takes the mark's number as it is, while the instruction gets it as a value
of 512 bits; where the core's next serial number is 2^512, the instruction looks for accesses before number 0, finds none
and completes, and the load that is pending before its mark does not park it. -/
theorem not_fenceResults : ¬ Obligations.FenceResults := by
  intro h
  obtain ⟨t, ran, parked⟩ := FenceResults.parks h (s := serialBeyondAnswer) rfl fencePending_serialBeyondAnswer
  have completed : some t.me.status = some .ready := by
    rw [← statusAfter_exec_serialBeyondAnswer, ran, statusAfter]
  rw [parked] at completed
  cases completed

end Sys2Proof.Proofs

/-! SUPPORT. A plain load and a plain store of a strand: where they are issued and where their answers are had (R219, R245). -/

namespace Sys2Proof.Machine

/-! The steps of an instruction that is issued: no answer is had. -/

section
variable {s t : State} {f : Form} {va : Word} {n : Nat} {l : Loc} {view : View} {m : Bool} {new : List Ans} {leaves : Bool}

theorem resolve_found (h : Claims.place s f va n = .ok l view m) :
    resolve f va n false ⟨s, [], new, leaves⟩ = .ok (l, view, m) ⟨s, [], new ++ [.place va l view m], leaves⟩ := by
  have found : resolveAct f va n false s = .ok (.place va l view m) s := by
    rw [resolveAct, show s.resolve s.here s.me.mode f va n false = .ok l view m from h]
  rw [resolve, run_bind, act_now _ rfl, found]
  rfl

theorem resolve_trapped {tr : Trap} (h : Claims.place s f va n = .trap tr) :
    resolve f va n false ⟨s, [], new, leaves⟩ = .error (.trap tr) ⟨s, [], new, leaves⟩ := by
  have stops : resolveAct f va n false s = .trap tr s := by
    rw [resolveAct, show s.resolve s.here s.me.mode f va n false = .trap tr from h]
  rw [resolve, run_bind, act_now _ rfl, stops]

/-- A load of the own unit scratch is performed at once. -/
theorem access_load_own (hl : l.home = .unit s.here) :
    access va l n (.load view false) false false ⟨s, [], new, leaves⟩ =
      match s.perform s.here (Claims.accessOf s true va l n (.load view false)) with
      | .done t v => .ok (v, []) ⟨t, [], new ++ [.val v []], leaves⟩
      | .poisoned k => .error (.trap (trapPOISON (va + BitVec.ofNat 64 k))) ⟨s, [], new, leaves⟩
      | .waits => .error (.park .answer) ⟨{ s with retry := s.retry ++ [(s.here,
          { path := .core, seq := 0, acc := Claims.accessOf s true va l n (.load view false) })] }, [], new, leaves⟩
      | .slip _ _ => .ok (0, []) ⟨s, [], new ++ [Ans.unit], leaves⟩ := by
  have own : (l.home == .unit s.here) = true := by simpa using hl
  have now : s.performNow s.here { s.accessOf true va l n (.load view false) with sure := false } =
      s.performNow s.here (Claims.accessOf s true va l n (.load view false)) := rfl
  dsimp only at now
  rw [access, run_bind, run_getS]
  dsimp only
  rw [own, run_bind, act_now _ rfl, Bool.not_false, Bool.and_true, Bool.and_true, if_pos rfl, now, State.performNow]
  cases s.perform s.here (Claims.accessOf s true va l n (.load view false)) <;> rfl

/-- A load of any other place is sent. -/
theorem access_load_sent (hl : l.home ≠ .unit s.here) :
    access va l n (.load view false) false false ⟨s, [], new, leaves⟩ = .error (.park .answer)
      ⟨(s.movePosted s.here (· == l.home)).enterPath s.here .core (Claims.accessOf s true va l n (.load view false)),
        [], new, leaves⟩ := by
  have own : (l.home == .unit s.here) = false := by simpa using hl
  have sent : sendAct { s.accessOf true va l n (.load view false) with sure := false } false s = _ :=
    sendAct_accessOf s true va l n (.load view false)
  dsimp only at sent
  rw [access, run_bind, run_getS]
  dsimp only
  rw [own, run_bind, act_now _ rfl, Bool.false_and, Bool.false_and, if_neg Bool.false_ne_true, sent]

set_option exponentiation.threshold 512 in
/-- An action that finds room is done, and its strand gives up the core at its end (R274). The option lets Lean
evaluate the 512-bit literal that `actOnce` matches on. -/
theorem actOnce_now {full : State → Bool} {p : Park} {a : State → Act} (room : full s = false) :
    actOnce full p a ⟨s, [], new, leaves⟩ =
      match a s with
      | .ok x t => .ok () ⟨t, [], new ++ [.val 0 []] ++ [x], true⟩
      | .trap tr t => .error (.trap tr) ⟨t, [], new ++ [.val 0 []], true⟩
      | .park p t => .error (.park p) ⟨t, [], new ++ [.val 0 []], true⟩ := by
  rw [actOnce, run_bind, act_now _ rfl]
  dsimp only
  rw [room, if_neg Bool.false_ne_true]
  show (leaveCore >>= fun _ => act (fun s => if full s then .park p s else a s) >>= fun _ => pure ()) _ = _
  rw [run_bind, run_leaveCore]
  dsimp only
  rw [run_bind, act_now _ rfl]
  dsimp only
  rw [room, if_neg Bool.false_ne_true]
  cases a s <;> rfl

end

/-! A load (R219, R245). -/

/-- LD's extension of what it reads, by its width alone. -/
theorem extendLoad_eq (w : BitVec 3) (v : Vec) : extendLoad w v = if w.toNat < 3 then
    (v.setWidth (8 * 2 ^ (w.toNat % 4))).signExtend 64 else (v.setWidth (8 * 2 ^ (w.toNat % 4))).setWidth 64 := by
  have widths : ∀ w : BitVec 3, w ∈ [0#3, 1#3, 2#3, 3#3, 4#3, 5#3, 6#3, 7#3] := by decide
  have narrow (k : Nat) (h : k ≤ 64) : (v.setWidth 64).setWidth k = v.setWidth k := BitVec.setWidth_setWidth_of_le _ h
  have w8 := narrow 8 (by decide)
  have w16 := narrow 16 (by decide)
  have w32 := narrow 32 (by decide)
  have cases := widths w
  simp only [List.mem_cons, List.not_mem_nil, or_false] at cases
  rcases cases with rfl | rfl | rfl | rfl | rfl | rfl | rfl | rfl <;> simp [extendLoad, w8, w16, w32]

section
variable {i : Instr} {f : Form} {a : BitVec 5} {va : Word} {n : Nat} {put : Vec → Strand → Strand} {s : State}

/-- VLD's and VST's offset counts lines of 64 bytes. -/
theorem addrV_eq (t : Strand) (a : BitVec 5) (i : BitVec 11) : addrV t a i = t.getX a + 64#64 * i.signExtend 64 := by
  rw [addrV, immWord, BitVec.shiftLeft_eq_mul_twoPow, BitVec.mul_comm]
  rfl

/-- The base register rewritten by an access's hops (R238). -/
theorem rebase_takes (s : State) (a : BitVec 5) (hops : List Hop) : Takes s [] (rebase a hops) () (Claims.rebased s a hops) false :=
  Takes.modT _

theorem loadFrom_takes (s : State) (f : Form) (a : BitVec 5) (va : Word) (n : Nat) (p : Word) (l : Loc) (view : View) (m : Bool)
    (v : Vec) (hops : List Hop) :
    Takes s [.place p l view m, .val v hops] (loadFrom f a va n false) v (Claims.rebased s a hops) false :=
  (Takes.resolve f va n p l view m).seq ((Takes.access va l n (.load view false) false false v hops).seq
    ((rebase_takes s a hops).seq (Takes.pure v)))

/-- An instruction that is a load of n bytes and puts what it has read ends as a load does. -/
theorem loads_of_loadFrom
    (hx : refusal i s = none → exec i s = runInstr i (loadFrom f a va n false >>= fun v => modT (put v)) s) :
    Claims.loads s i f a va n put := by
  intro pass
  have runs := hx pass
  rw [runInstr] at runs
  refine ⟨fun l view m t v hl hp own done => ?own, fun l view m k hl hp own bad => ?poisoned, fun l view m hl hp away => ?sent,
    fun l view m v hops hl => ?answered, fun tr hl hp => ?trapped⟩
  case own =>
    rw [hl, loadFrom, run_bind, run_bind, resolve_found hp] at runs
    dsimp only at runs
    rw [run_bind, access_load_own own, done] at runs
    exact runs.trans (congrArg Host.Outcome.next (congrArg State.retire (t.modMe_modMe id (put v))))
  case poisoned =>
    rw [hl, loadFrom, run_bind, run_bind, resolve_found hp] at runs
    dsimp only at runs
    rw [run_bind, access_load_own own, bad] at runs
    exact runs
  case sent =>
    rw [hl, loadFrom, run_bind, run_bind, resolve_found hp] at runs
    dsimp only at runs
    rw [run_bind, access_load_sent away] at runs
    obtain ⟨status, pc, -, path⟩ := sent_spec s (Claims.accessOf s true va l n (.load view false))
      fun t => { t with inst := some (wordOf i), log := t.log ++ ([] ++ [.place va l view m]) }
    exact ⟨_, runs, status, pc, path⟩
  case answered =>
    have takes := (loadFrom_takes s f a va n va l view m v hops).seq (k := fun v => modT (put v)) (Takes.modT (put v))
    rw [List.append_nil, ← hl] at takes
    exact (hx pass).trans (Takes.runInstr i takes)
  case trapped =>
    rw [hl, loadFrom, run_bind, run_bind, resolve_trapped hp] at runs
    exact runs

end

end Sys2Proof.Machine

namespace Sys2Proof.Proofs

open Sys2Proof.Machine Sys2Proof.Claims

/-- Settles O23: each of the three loads is a load of its bytes. -/
theorem loadResults : Obligations.LoadResults := by
  intro s d a w i
  refine ⟨loads_of_loadFrom fun pass => ?ld, loads_of_loadFrom fun pass => ?fld, loads_of_loadFrom fun pass => ?vld⟩
  case ld =>
    simp only [← extendLoad_eq]
    show execLd d a w i s = _
    rw [execLd, issueRun, issue_pass _ pass]
    exact runInstr_congr rfl
  case fld =>
    show execFld d a w i s = _
    rw [execFld, issueRun, issue_pass _ pass]
    exact runInstr_congr rfl
  case vld =>
    rw [← addrV_eq]
    show execVld d a i s = _
    rw [execVld, issueRun, issue_pass _ pass]
    exact runInstr_congr rfl

end Sys2Proof.Proofs

/-! SUPPORT. How a store ends (R219, R245, R355). -/

namespace Sys2Proof.Machine

section
variable {s t : State} {va : Word} {n : Nat} {l : Loc} {m : Bool} {new : List Ans} {leaves sure : Bool} {k : AccKind}

/-- A store of the own unit scratch is an access that is answered. -/
theorem storeTo_own (hl : l.home = .unit s.here) :
    storeTo va l m k n sure ⟨s, [], new, leaves⟩ = (access va l n k false >>= fun r => pure r.2) ⟨s, [], new, leaves⟩ := by
  rw [storeTo, run_bind, run_getS]
  dsimp only
  rw [if_pos (by simpa using hl)]

/-- A store that finds room among the posted ones is posted, but for a value that a control word refuses (R355). -/
theorem storeTo_posted (hl : l.home ≠ .unit s.here) (posts : storePosts l m = true)
    (room : (s.core s.here).posted.length < 16) :
    storeTo va l m k n sure ⟨s, [], new, leaves⟩ =
      match s.chanTrap va l k with
      | some tr => .error (.trap tr) ⟨s, [], new ++ [.val 0 []], true⟩
      | none => .ok [] ⟨s.modCore s.here fun t => { t with posted := t.posted ++ [Claims.accessOf s false va l n k] }, [],
          new ++ [.val 0 []] ++ [Ans.unit], true⟩ := by
  rw [storeTo, run_bind, run_getS]
  dsimp only
  rw [if_neg (by simpa using hl), if_pos posts, run_bind, actOnce_now (by simpa using room)]
  cases s.chanTrap va l k <;> rfl

/-- A store that is answered has its answer. -/
theorem storeTo_answered_takes (hl : l.home ≠ .unit s.here) (answers : storePosts l m = false) (v : Vec) (hops : List Hop) :
    Takes s [.val v hops] (storeTo va l m k n sure) hops s false := by
  refine Takes.getS.seq (bs := [.val v hops]) ?_
  rw [if_neg (by simpa using hl), if_neg (by simp [answers])]
  exact (Takes.access va l n k false sure v hops).map Prod.snd

end

theorem storeKind_unit {l : Loc} {c : Nat} (hl : l.home = .unit c) (bs : List Byte) : storeKind l bs = .store bs none false := by
  rw [storeKind, hl]

theorem chanTrap_unit {l : Loc} {c : Nat} (s : State) (hl : l.home = .unit c) (va : Word) (k : AccKind) :
    s.chanTrap va l k = none := by
  unfold State.chanTrap
  rw [hl]

/-- What a strand leaves whose store is posted. -/
theorem posted_completed (s : State) (x : Access) :
    let t := ((s.modCore s.here fun t => { t with posted := t.posted ++ [x] }).modMe id).completed s.here true
    t.me = s.retire.me ∧ t.mem = s.mem ∧ t.tags = s.tags ∧ (t.core s.here).posted = (s.core s.here).posted ++ [x] := by
  intro t
  refine ⟨?_, State.completed_mem _ _ _, State.completed_tags _ _ _, ?_⟩
  · rw [State.completed_me, State.me_modMe, State.me_retire]
    rfl
  · refine (State.giveUp_core_keeps Core.posted (fun _ _ _ _ => rfl) _ _ _).trans ?_
    show ((s.modCore s.here fun t => { t with posted := t.posted ++ [x] }).core s.here).posted = _
    rw [State.core_modCore_same]

section
variable {i : Instr} {f : Form} {a : BitVec 5} {va : Word} {bs : List Byte} {s : State}

theorem storeBytes_takes (a : BitVec 5) (p : Word) {l : Loc} (view : View) {m : Bool} (hl : l.home ≠ .unit s.here)
    (answers : storePosts l m = false) (v : Vec) (hops : List Hop) :
    Takes s [.place p l view m, .val v hops] (storeBytes f a va bs) () (Claims.rebased s a hops) false :=
  (Takes.resolve f va bs.length p l view m).seq ((storeTo_answered_takes hl answers v hops).seq (rebase_takes s a hops))

/-- An instruction that is a store of these bytes ends as a store does. -/
theorem stores_of_storeBytes (hx : refusal i s = none → exec i s = runInstr i (storeBytes f a va bs) s) :
    Claims.stores s i f a va bs := by
  intro pass
  have runs := hx pass
  refine ⟨fun l view m t v hl hp own done => ?own, fun l view m hl hp away posts room legal => ?posted,
    fun l view m tr hl hp posts room refuses => ?refused, fun l view m v hops hl away answers => ?answered,
    fun tr hl hp => ?trapped⟩
  case own =>
    rw [runInstr, hl, storeBytes, run_bind, resolve_found hp] at runs
    dsimp only at runs
    rw [storeKind_unit own, run_bind, storeTo_own own, run_bind, access_performed own done] at runs
    exact runs.trans (congrArg Host.Outcome.next (t.modMe_modMe id Strand.advance))
  case posted =>
    rw [runInstr, hl, storeBytes, run_bind, resolve_found hp] at runs
    dsimp only at runs
    rw [run_bind, storeTo_posted away posts room, legal] at runs
    exact ⟨_, runs, posted_completed s _⟩
  case refused =>
    have away : l.home ≠ .unit s.here := fun own => by
      rw [chanTrap_unit s own] at refuses
      cases refuses
    rw [runInstr, hl, storeBytes, run_bind, resolve_found hp] at runs
    dsimp only at runs
    rw [run_bind, storeTo_posted away posts room, refuses] at runs
    exact runs
  case answered =>
    exact ⟨_, runs.trans (Takes.runInstr i (hl ▸ storeBytes_takes a va view away answers v hops)), rfl, rfl, rfl⟩
  case trapped =>
    rw [runInstr, hl, storeBytes, run_bind, resolve_trapped hp] at runs
    exact runs

end

end Sys2Proof.Machine

namespace Sys2Proof.Proofs

open Sys2Proof.Machine Sys2Proof.Claims

/-- Settles O24: each of the three stores is a store of its bytes. -/
theorem storeResults : Obligations.StoreResults := by
  intro s b a w i
  refine ⟨stores_of_storeBytes fun pass => ?st, stores_of_storeBytes fun pass => ?fst, stores_of_storeBytes fun pass => ?vst⟩
  case st =>
    show execSt b a w i s = _
    rw [execSt, issueRun, issue_pass _ pass]
    exact runInstr_congr rfl
  case fst =>
    show execFst b a w i s = _
    rw [execFst, issueRun, issue_pass _ pass]
    exact runInstr_congr rfl
  case vst =>
    rw [← addrV_eq]
    show execVst b a i s = _
    rw [execVst, issueRun, issue_pass _ pass]
    exact runInstr_congr rfl

end Sys2Proof.Proofs

/-! SUPPORT. Ordered and synchronising accesses with their answers had (R224, R229, R232, R248 to R253). -/

namespace Sys2Proof.Machine

/-- The answers to the drain of the earlier stores, with the place that was found before it. -/
def drainAnswers (va : Word) (l : Loc) (m : Bool) (u : Vec) (drains : Bool) : List Ans :=
  if drains then [.place va l .plain m, .val u []] else []

section
variable {s : State} {va : Word} {l l' : Loc} {m m' : Bool} {u v : Vec} {hops : List Hop} {k : AccKind} {n : Nat}

theorem drain_takes (s : State) (u : Vec) : Takes s [.val u []] drain () s false := (Takes.act_val _ u []).map fun _ => ()

/-- An address resolved, and once more behind the drain where one is asked for. -/
theorem resolveDrained_takes (f : Form) (a : Word) (n : Nat) (drains : Bool) (va : Word) (l' : Loc) (m' : Bool) (u : Vec) (l : Loc)
    (view : View) (m : Bool) :
    Takes s (drainAnswers va l' m' u drains ++ [.place va l view m]) (resolveDrained f a n drains) (l, view, m) s false := by
  cases drains with
  | false => exact (Takes.resolve f a n va l view m).seq (Takes.pure _)
  | true => exact (Takes.resolve f a n va l' .plain m').seq ((drain_takes s u).seq (Takes.resolve f a n va l view m))

/-- A store that is performed in the own unit scratch, or answered elsewhere. -/
theorem storeTo_takes_answer (h : l.home = .unit s.here ∨ storePosts l m = false) :
    Takes s [.val v hops] (storeTo va l m k n) hops s false := by
  by_cases own : l.home = .unit s.here
  · refine Takes.getS.seq (bs := [.val v hops]) ?_
    rw [if_pos (by simpa using own)]
    exact (Takes.access va l n k false false v hops).map Prod.snd
  · exact storeTo_answered_takes own (h.resolve_left own) v hops

end

theorem Takes.cast {s t : State} {as bs : List Ans} {α : Type} {x : M α} {a : α} {gone : Bool} (h : Takes s as x a t gone)
    (e : as = bs) : Takes s bs x a t gone := e ▸ h

/-- An instruction that takes all its answers is complete. -/
theorem runInstr_of_takes {i : Instr} {x : M Unit} {s t : State} {as : List Ans} (h : Takes s as x () t false)
    (hl : s.me.log = as) : runInstr i x s = .next t.retire := by
  subst hl
  exact Takes.runInstr i h

/-- Nothing put is nothing done. -/
theorem done_id (s : State) : Claims.done s id = .next s.retire := congrArg Host.Outcome.next (s.modMe_modMe id Strand.advance)

section
variable {s : State} {d a b e : BitVec 5} {w c : BitVec 3} {o k : BitVec 2} {f : BitVec 4} {va : Word} {l l' : Loc} {m m' : Bool}
  {u v : Vec} {hops : List Hop}

/-- LDO with its answers had (R248). -/
theorem execLdo_had (hr : refusal (.ldo d a w o c) s = none)
    (hl : s.me.log = drainAnswers va l' m' u (o == 3#2) ++ [.place va l .plain m, .val v hops]) :
    execLdo d a w o c s = Claims.done (Claims.rebased s a hops) fun t => t.setX d (extendLoad w v) := by
  rw [execLdo, issueRun, issue_pass _ hr]
  exact runInstr_of_takes (Takes.getMe.seq ((resolveDrained_takes _ _ _ (o == 3#2) va l' m' u l .plain m).seq
    ((Takes.access _ l _ _ _ _ v hops).seq ((rebase_takes s a hops).seq (Takes.modT _))))) (by simpa using hl)

/-- STO.sc with its answers had (R248). -/
theorem execSto_sc_had (hr : refusal (.sto b a w 3#2 c) s = none)
    (hl : s.me.log = drainAnswers va l' m' u true ++ [.place va l .plain m, .val v hops]) :
    execSto b a w 3#2 c s = Claims.done (Claims.rebased s a hops) id := by
  rw [done_id, execSto, issueRun, issue_pass _ hr]
  exact runInstr_of_takes (Takes.getMe.seq ((resolveDrained_takes _ _ _ true va l' m' u l .plain m).seq
    (((Takes.access _ l _ _ _ _ v hops).map Prod.snd).seq (rebase_takes s a hops)))) (by simpa using hl)

/-- LDS with its answers had (R249). -/
theorem execLds_had (hr : refusal (.lds d a k c) s = none) (hl : s.me.log = [.place va l .plain m, .val v hops]) :
    execLds d a k c s = Claims.done (Claims.rebased s a hops) fun t => t.setX d (v.setWidth 64) := by
  rw [execLds, issueRun, issue_pass _ hr]
  exact runInstr_of_takes (Takes.getMe.seq ((Takes.resolve _ _ _ va l .plain m).seq
    ((Takes.access _ l _ _ _ _ v hops).seq ((rebase_takes s a hops).seq (Takes.modT _))))) (by simpa using hl)

/-- STS with its answers had (R249). -/
theorem execSts_had (hr : refusal (.sts b a k c) s = none)
    (hl : s.me.log = drainAnswers va l' m' u true ++ [.place va l .plain m, .val v hops]) :
    execSts b a k c s = Claims.done (Claims.rebased s a hops) id := by
  rw [done_id, execSts, issueRun, issue_pass _ hr]
  exact runInstr_of_takes (Takes.getMe.seq ((resolveDrained_takes _ _ _ true va l' m' u l .plain m).seq
    ((Takes.access _ l _ _ _ _ v hops).seq (rebase_takes s a hops)))) (by simpa using hl)

/-- Does an atomic drain the earlier stores first (R224, R233)? -/
def atomicDrains (s : State) (a : BitVec 5) (scope : Nat) (o : BitVec 2) : Bool :=
  o == 3#2 || (o == 2#2 && (scope != 0 || decide (2 ^ 55 ≤ (s.me.getX a).toNat ∧ (s.me.getX a).toNat < 2 ^ 56)))

theorem atomicDrains_scope {n : Nat} (s : State) (a : BitVec 5) (c : BitVec n) (o : BitVec 2) : atomicDrains s a c.toNat o =
    (o == 3#2 || (o == 2#2 && (decide (2 ^ 55 ≤ (s.me.getX a).toNat ∧ (s.me.getX a).toNat < 2 ^ 56) || c != 0#n))) := by
  have wide : (c.toNat != 0) = (c != 0#n) := by
    rw [Bool.eq_iff_iff, bne_iff_ne, bne_iff_ne, ne_eq, ne_eq, ← BitVec.toNat_inj, BitVec.toNat_ofNat, Nat.zero_mod]
  rw [atomicDrains, wide, Bool.or_comm (c != 0#n)]

theorem atomicAt_takes (s : State) (a : BitVec 5) (x : AccKind) (scope : Nat) (o : BitVec 2) :
    Takes s (drainAnswers va l' m' u (atomicDrains s a scope o) ++ [.place va l .plain m] ++ [.val v hops])
      (atomicAt a x scope o) (v.setWidth 64) (Claims.rebased s a hops) false := by
  unfold atomicAt
  exact (Takes.getMe.seq ((resolveDrained_takes _ _ _ (atomicDrains s a scope o) va l' m' u l .plain m).seq
    ((Takes.access _ l _ _ _ _ v hops).seq ((rebase_takes s a hops).map fun _ => v.setWidth 64)))).cast (by simp)

/-- AMO with its answers had (R251). -/
theorem execAmo_had (hr : refusal (.amo d a b c o f) s = none)
    (hl : s.me.log = drainAnswers va l' m' u (atomicDrains s a c.toNat o) ++ [.place va l .plain m, .val v hops]) :
    execAmo d a b c o f s = Claims.done (Claims.rebased s a hops) fun t => t.setX d (v.setWidth 64) := by
  rw [execAmo, issueRun, issue_pass _ hr]
  exact runInstr_of_takes (Takes.getMe.seq ((atomicAt_takes s a _ _ o).seq (Takes.modT _))) (by simpa using hl)

/-- CAS with its answers had (R252). -/
theorem execCas_had (hr : refusal (.cas d a b e k o) s = none)
    (hl : s.me.log = drainAnswers va l' m' u (atomicDrains s a k.toNat o) ++ [.place va l .plain m, .val v hops]) :
    execCas d a b e k o s = Claims.done (Claims.rebased s a hops) fun t => t.setX d (v.setWidth 64) := by
  rw [execCas, issueRun, issue_pass _ hr]
  exact runInstr_of_takes (Takes.getMe.seq ((atomicAt_takes s a _ _ o).seq (Takes.modT _))) (by simpa using hl)

/-- Does STO drain the earlier stores first (R224)? -/
def stoDrains (o : BitVec 2) (c : BitVec 3) : Bool := o == 3#2 || (o == 1#2 && c != 0#3)

/-- STO, not SC, with its answers had (R248). -/
theorem execSto_had (hr : refusal (.sto b a w o c) s = none) (ho : o ≠ 3#2)
    (answered : l.home = .unit s.here ∨ storePosts l m = false)
    (hl : s.me.log = drainAnswers va l' m' u (stoDrains o c) ++ [.place va l .plain m, .val v hops]) :
    execSto b a w o c s = Claims.done (Claims.rebased s a hops) id := by
  have plain : (o == 3#2) = false := by simpa using ho
  rw [done_id, execSto, issueRun, issue_pass _ hr]
  refine runInstr_of_takes (Takes.getMe.seq ((resolveDrained_takes _ _ _ (stoDrains o c) va l' m' u l .plain m).seq
    (bs := [.val v hops]) ?_)) (by simpa using hl)
  dsimp only
  rw [plain, if_neg Bool.false_ne_true]
  exact (storeTo_takes_answer answered).seq (rebase_takes s a hops)

/-- STO with the place had that takes posted stores (R248, R355). -/
theorem execSto_posted (hr : refusal (.sto b a w o c) s = none) (ho : o ≠ 3#2)
    (hl : s.me.log = drainAnswers va l' m' u (stoDrains o c) ++ [.place va l .plain m])
    (away : l.home ≠ .unit s.here) (posts : storePosts l m = true) (room : (s.core s.here).posted.length < 16)
    (legal : s.chanTrap (s.me.getX a) l (storeKind l (bytesOfNat (widthBytes w) (s.me.getX b).toNat)) = none) :
    execSto b a w o c s = .next (((s.modCore s.here fun t => { t with posted := t.posted ++
      [Claims.accessOf s false (s.me.getX a) l (widthBytes w) (storeKind l (bytesOfNat (widthBytes w) (s.me.getX b).toNat))]
      }).modMe id).completed s.here true) := by
  have plain : (o == 3#2) = false := by simpa using ho
  have placed := resolveDrained_takes (s := s) (.ordStore (widthBytes w) (o == 3#2)) (s.me.getX a) (widthBytes w) (stoDrains o c)
    va l' m' u l .plain m [] [] false
  rw [List.append_nil, ← hl, stoDrains] at placed
  rw [execSto, issueRun, issue_pass _ hr, runInstr, run_bind, run_getMe]
  dsimp only
  rw [run_bind, placed]
  dsimp only
  rw [plain, if_neg Bool.false_ne_true, run_bind, storeTo_posted away posts room, legal]
  rfl

end

end Sys2Proof.Machine

namespace Sys2Proof.Proofs

open Sys2Proof.Machine Sys2Proof.Claims

/-- Settles O28: each instruction takes the answers that it had, those of the drain first where it drains; a posted STO needs its
place only. -/
theorem orderedAndSyncResults : Obligations.OrderedAndSyncResults := by
  intro s d a b e w c o k f l l' v hops u scope moves moved va n direct drained drains drainsCas
    result value word kind release answered posts
  have narrow : ¬ release → o ≠ 3#2 → stoDrains o c = false := by
    intro hr ho
    simpa [stoDrains, release, ho] using hr
  have wide : release → stoDrains o c = true := fun h => by simp [stoDrains, h.1, h.2]
  have atOnce {x : Bool} (ho : o ≠ 3#2) (h : o ≠ 2#2 ∨ x = false) : (o == 3#2 || (o == 2#2 && x)) = false := by
    rcases h with h | h <;> simp [ho, h]
  have behind {x : Bool} (h : o = 3#2 ∨ (o = 2#2 ∧ x = true)) : (o == 3#2 || (o == 2#2 && x)) = true := by
    rcases h with rfl | ⟨rfl, rfl⟩ <;> rfl
  have notSc : release → o ≠ 3#2 := fun h => by simp [h.1]
  refine ⟨fun ho hr hl => ?ldo, fun hr hl => ?ldoSc, fun ho plain ends hr hl => ?sto, fun rel ends hr hl => ?stoRel,
    fun ho plain hr hl away takes room legal => ?posts, fun rel hr hl away takes room legal => ?postsRel, fun hr hl => ?stoSc,
    fun hr hl => ?lds, fun hr hl => ?sts, fun ho plain hr hl => ?amo, fun ho hr hl => ?amoDrains, fun ho plain hr hl => ?cas,
    fun ho hr hl => ?casDrains⟩
  case ldo =>
    refine (execLdo_had (va := va) (l := l) (l' := l') (m := false) (m' := false) (v := v) (hops := hops)
      (u := u) hr (hl.trans ?_)).trans ?_
    · rw [show (o == 3#2) = false by simpa using ho]
      rfl
    · simp only [extendLoad_eq]
      rfl
  case ldoSc =>
    refine (execLdo_had (va := va) (l := l) (l' := l') (m := false) (m' := false) (v := v) (hops := hops)
      (u := u) hr hl).trans ?_
    simp only [extendLoad_eq]
    rfl
  case sto =>
    refine execSto_had (va := va) (l := l) (l' := l') (m := false) (m' := false) (v := v) (hops := hops)
      (u := u) hr ho ends (hl.trans ?_)
    rw [narrow plain ho]
    rfl
  case stoRel =>
    refine execSto_had (va := va) (l := l) (l' := l') (m := false) (m' := false) (v := v) (hops := hops)
      (u := u) hr (notSc rel) ends (hl.trans ?_)
    rw [wide rel]
    rfl
  case posts =>
    refine ⟨_, execSto_posted (va := va) (l := l) (l' := l') (m := moves) (m' := false)
      (u := u) hr ho (hl.trans ?_) away takes room legal,
      posted_completed s _⟩
    rw [narrow plain ho]
    rfl
  case postsRel =>
    refine ⟨_, execSto_posted (va := va) (l := l) (l' := l') (m := moves) (m' := moved)
      (u := u) hr (notSc rel) (hl.trans ?_) away takes room legal,
      posted_completed s _⟩
    rw [wide rel]
    rfl
  case stoSc => exact execSto_sc_had hr hl
  case lds => exact execLds_had hr hl
  case sts => exact execSts_had hr hl
  case amo =>
    refine execAmo_had (va := va) (l := l) (l' := l') (m := false) (m' := false) (v := v) (hops := hops)
      (u := u) hr (hl.trans ?_)
    rw [atomicDrains_scope, atOnce ho plain]
    rfl
  case amoDrains =>
    refine execAmo_had (va := va) (l := l) (l' := l') (m := false) (m' := false) (v := v) (hops := hops)
      (u := u) hr (hl.trans ?_)
    rw [atomicDrains_scope, behind ho]
    rfl
  case cas =>
    refine execCas_had (va := va) (l := l) (l' := l') (m := false) (m' := false) (v := v) (hops := hops)
      (u := u) hr (hl.trans ?_)
    rw [atomicDrains_scope, atOnce ho plain]
    rfl
  case casDrains =>
    refine execCas_had (va := va) (l := l) (l' := l') (m := false) (m' := false) (v := v) (hops := hops)
      (u := u) hr (hl.trans ?_)
    rw [atomicDrains_scope, behind ho]
    rfl

end Sys2Proof.Proofs

/-! SUPPORT. TMOV and MSWEEP with their answers had; a move entered in the engine of its die (R238, R268, R270 to R272). -/

namespace Sys2Proof.Machine

section
variable {s t : State} {ans : Ans} {past new : List Ans} {leaves gone : Bool} {α β : Type} {x : M α} {a : α} (k : α → M β)

/-- Where a step takes the answer that comes first, the next one goes on behind it. -/
theorem Takes.next (h : Takes s [ans] x a t gone) :
    (x >>= k) ⟨s, ans :: past, new, leaves⟩ = k a ⟨t, past, new, leaves || gone⟩ := by
  rw [run_bind, show x ⟨s, ans :: past, new, leaves⟩ = _ from h past new leaves]

/-- A step that takes all. -/
theorem Takes.last {as : List Ans} (h : Takes s as x a t gone) :
    (x >>= k) ⟨s, as, new, leaves⟩ = k a ⟨t, [], new, leaves || gone⟩ := by
  have all := h [] new leaves
  rw [List.append_nil] at all
  rw [run_bind, all]

/-- A step that takes none. -/
theorem Takes.skip (h : Takes s [] x a t gone) : (x >>= k) ⟨s, past, new, leaves⟩ = k a ⟨t, past, new, leaves || gone⟩ := by
  rw [run_bind, show x ⟨s, past, new, leaves⟩ = _ from h past new leaves]

end

/-! TMOV of one piece (R268). -/

section
variable {s : State} {a n : Nat} {l : Loc} {view : View} {m : Bool} {x y : Vec} {hops : List Hop}

theorem resolve_takes (f : Form) (va : Word) (k : Nat) (anyAlign : Bool) (p : Word) :
    Takes s [.place p l view m] (resolve f va k anyAlign) (l, view, m) s false :=
  (Takes.act_place _ p l view m).seq (Takes.pure _)

theorem resolvePieces_one (f : Form) (va : Word) :
    Takes s [.place va l view m] (resolvePieces f [(a, n)]) [(a, n, l, view, m)] s false := by
  unfold resolvePieces
  exact (resolve_takes f _ n true va).seq (Takes.map _ (Takes.pure []))

theorem readMove_one : Takes s [.val x hops] (readMove [(a, n, l, view, m)]) (bytesOfNat n x.toNat, hops) s false := by
  have read : Takes s [.val x hops] (readMove [(a, n, l, view, m)]) (bytesOfNat n x.toNat ++ [], hops ++ []) s false := by
    unfold readMove
    exact (Takes.access _ l n _ false false x hops).seq (Takes.map _ (Takes.pure ([], [])))
  rwa [List.append_nil, List.append_nil] at read

theorem resolvePieces_none (s : State) (f : Form) : Takes s [] (resolvePieces f []) [] s false := Takes.pure _
theorem readMove_none (s : State) : Takes s [] (readMove []) ([], []) s false := Takes.pure _
theorem checkMove_none (s : State) : Takes s [] (checkMove []) () s false := Takes.pure _
theorem writeMove_none (s : State) (bs : List Byte) : Takes s [] (writeMove [] bs) [] s false := Takes.pure _

/-- No check goes to a place of this module that is not movable (log 7). -/
theorem checkMove_one (far : ∀ p i, l.home ≠ .peer p i) : Takes s [] (checkMove [(a, n, l, view, false)]) () s false := by
  unfold checkMove
  dsimp only
  rw [if_neg]
  · exact Takes.pure _
  · rw [Bool.false_or]
    split
    · exact absurd ‹_› (far _ _)
    · exact Bool.false_ne_true

/-- The write of a piece elsewhere in this module, at a place that is not movable: it is put on the CORE path. -/
theorem writePiece_path (far : ∀ p i, l.home ≠ .peer p i) (away : l.home ≠ .unit s.here) (va : Word) (bs : List Byte)
    (past new : List Ans) (leaves : Bool) :
    writePiece va l false bs ⟨s, past, new, leaves⟩ =
      (act (fun t => .ok Ans.unit ((t.movePosted t.here (· == l.home)).enterPath t.here .core
        (s.accessOf false va l bs.length (.store bs none false)))) >>= fun _ => pure []) ⟨s, past, new, leaves⟩ := by
  rw [writePiece, run_bind, run_getS]
  dsimp only
  rw [if_neg]
  · rw [Bool.or_false, show (l.home == Home.unit s.here) = false by simpa using away, Bool.false_or]
    split
    · exact absurd ‹_› (far _ _)
    · exact Bool.false_ne_true

theorem writeMove_one (far : ∀ p i, l.home ≠ .peer p i) (away : l.home ≠ .unit s.here) (bs : List Byte) :
    Takes s [.val y hops] (writeMove [(a, n, l, view, false)] bs) [] s false := by
  have piece : Takes s [.val y hops] (writePiece (BitVec.ofNat 64 a) l false (bs.take n)) [] s false := fun past new leaves =>
    (writePiece_path far away _ _ _ _ _).trans ((Takes.act_val _ y hops).map (fun _ => []) past new leaves)
  unfold writeMove
  exact piece.seq (Takes.map _ (Takes.pure []))

/-- The same at issue: the write stands last on the path. -/
theorem writeMove_now (far : ∀ p i, l.home ≠ .peer p i) (away : l.home ≠ .unit s.here) {bs : List Byte} (hn : bs.length = n)
    (new : List Ans) (leaves : Bool) : writeMove [(a, n, l, view, false)] bs ⟨s, [], new, leaves⟩ =
      .ok [] ⟨(s.movePosted s.here (· == l.home)).enterPath s.here .core
        (Claims.accessOf s false (BitVec.ofNat 64 a) l n (.store bs none false)), [], new ++ [Ans.unit], leaves⟩ := by
  have whole : bs.take n = bs := List.take_of_length_le hn.le
  rw [writeMove, run_bind, writePiece_path far away, whole, hn, run_bind, act_now _ rfl]
  rfl

end

/-! TMOV itself. -/

/-- An access sent behind posted stores changes no memory, and stands last in the path queue of its core. -/
theorem sent_leaves (s : State) (h : Home → Bool) (x : Access) :
    ((s.movePosted s.here h).enterPath s.here .core x).mem = s.mem ∧
    ((((s.movePosted s.here h).enterPath s.here .core x).core s.here).path.getLast?).map PathEntry.acc = some x := by
  refine ⟨s.movePosted_mem _ _, ?_⟩
  rw [State.enterPath, State.core_modCore_same]
  simp

section
variable {s : State} {d a b : BitVec 5} {lo l2 : Loc} {view v2 : View} {m : Bool} {x y u w q : Vec} {h1 h2 : List Hop} {va vb : Word}

/-- Without hops a base register stays as it is (R238), and so does what comes of the instruction's end. -/
theorem retire_rebased_nil (s : State) (d : BitVec 5) : (Claims.rebased s d []).retire = s.retire :=
  s.modMe_modMe id Strand.advance

theorem rebase_run (a : BitVec 5) (hops : List Hop) (r : Run) :
    rebase a hops r = .ok () { r with s := Claims.rebased r.s a hops } := rfl

/-- TMOV of no byte. -/
theorem execTmov_empty (hn : s.me.getX b = 0#64) (hl : s.me.log = [.val u [], .val w [], .val q []]) :
    execTmov d a b s = Claims.done s id := by
  have nothing (v : Word) : pieces v.toNat (s.me.getX b).toNat = [] := by rw [hn]; rfl
  rw [execTmov, issueRun, issue_pass _ (refusal_none s rfl rfl rfl rfl), done_id, runInstr, hl, run_bind, run_getMe]
  dsimp only
  rw [nothing, nothing, (Takes.act_val _ u []).next]
  rw [(resolvePieces_none s _).skip, (resolvePieces_none s _).skip, (readMove_none s).skip, (checkMove_none s).skip,
    (Takes.act_val _ w []).next, (writeMove_none s _).skip, (Takes.act_val _ q []).next, (rebase_takes s a []).skip]
  exact congrArg Host.Outcome.next ((retire_rebased_nil _ d).trans (retire_rebased_nil s a))

section
variable (src : pieces (s.me.getX a).toNat (s.me.getX b).toNat = [((s.me.getX a).toNat, (s.me.getX b).toNat)])
  (dst : pieces (s.me.getX d).toNat (s.me.getX b).toNat = [((s.me.getX d).toNat, (s.me.getX b).toNat)])
  (far : ∀ p i, l2.home ≠ .peer p i) (away : l2.home ≠ .unit s.here)
include src dst far away

/-- TMOV of one piece, its write performed. -/
theorem execTmov_written
    (hl : s.me.log = [.val u [], .place va lo view m, .place vb l2 v2 false, .val x h1, .val w [], .val y h2, .val q []]) :
    execTmov d a b s = Claims.done (Claims.rebased s a h1) id := by
  rw [execTmov, issueRun, issue_pass _ (refusal_none s rfl rfl rfl rfl), done_id, runInstr, hl, run_bind, run_getMe]
  dsimp only
  rw [src, dst, (Takes.act_val _ u []).next, (resolvePieces_one _ va).next, (resolvePieces_one _ vb).next, readMove_one.next,
    (checkMove_one far).skip, (Takes.act_val _ w []).next, (writeMove_one far away _).next, (Takes.act_val _ q []).next,
    (rebase_takes s a h1).skip]
  exact congrArg Host.Outcome.next (retire_rebased_nil _ d)

/-- TMOV of one piece that has been read: its write is put on the path. -/
theorem execTmov_writes (hl : s.me.log = [.val u [], .place va lo view m, .place vb l2 v2 false, .val x h1, .val w []]) :
    ∃ t, execTmov d a b s = .next t ∧ t.mem = s.mem ∧ ((t.core s.here).path.getLast?).map PathEntry.acc =
      some (Claims.accessOf s false (s.me.getX d) l2 (s.me.getX b).toNat
        (.store (bytesOfNat (s.me.getX b).toNat x.toNat) none false)) := by
  rw [execTmov, issueRun, issue_pass _ (refusal_none s rfl rfl rfl rfl), runInstr, hl, run_bind, run_getMe]
  dsimp only
  rw [src, dst, (Takes.act_val _ u []).next, (resolvePieces_one _ va).next, (resolvePieces_one _ vb).next, readMove_one.next,
    (checkMove_one far).skip, (Takes.act_val _ w []).next, run_bind, writeMove_now far away (length_bytesOfNat _ _)]
  dsimp only
  obtain ⟨mem, path⟩ := sent_leaves s (· == l2.home) (Claims.accessOf s false (s.me.getX d) l2 (s.me.getX b).toNat
    (.store (bytesOfNat (s.me.getX b).toNat x.toNat) none false))
  rw [BitVec.ofNat_toNat, BitVec.setWidth_eq]
  generalize State.enterPath _ _ _ _ = sent at mem path ⊢
  rw [run_bind, act_now _ rfl]
  dsimp only
  generalize sent.sincePending _ _ = waits
  cases waits with
  | true =>
    refine ⟨_, rfl, (State.giveUp_mem _ _).trans mem, ?_⟩
    rw [State.park, State.giveUp_path]
    exact path
  | false => exact ⟨_, rfl, mem, path⟩

end

end

/-! A move or retirement entered (R270, R271). -/

/-- The state with it: its ID taken, its operation in flight, and it last in the engine of the die. -/
def State.withMove (s : State) (kind : OpKind) (old new : Loc) (oldVa newVa : Word) (size : Nat) (retire : Bool) : State :=
  (s.startOp kind).1.enterBarchan old.home.dieOf (s.core s.here).newId old new oldVa newVa size retire

section
variable {s : State} {d a b : BitVec 5} {k : BitVec 3} {old new : Loc} {oldVa newVa va vb : Word} {size : Nat} {retire : Bool}
  {view v2 : View} {as : List Ans} {leaves : Bool}

/-- An operation started changes no more of a core than its IDs and operations. -/
theorem State.startOp_core_keeps {α : Type} (f : Core → α) (hf : ∀ q id ops, f { q with idCounter := id, ops := ops } = f q)
    (s : State) (kind : OpKind) (c : Nat) : f ((s.startOp kind).1.core c) = f (s.core c) := by
  rw [State.startOp]
  by_cases e : s.here = c
  · rw [e, State.core_modCore_same, hf]
  · rw [State.core_modCore_ne _ _ e]

theorem State.withMove_barchan (s : State) (kind : OpKind) (old new : Loc) (oldVa newVa : Word) (size : Nat) (retire : Bool) :
    ((s.withMove kind old new oldVa newVa size retire).die old.home.dieOf).barchan = (s.die old.home.dieOf).barchan ++
      [{ core := s.here, id := (s.core s.here).newId, old := old, new := new, oldVa := oldVa, newVa := newVa, size := size
         phase := none, retire := retire, asid := (s.core s.here).asid.toNat % 65536 }] := by
  rw [State.withMove, State.enterBarchan, State.die_modDie_same, State.startOp_core_keeps Core.asid (fun _ _ _ => rfl)]
  rfl

/-- A core is in a superstep's compute phase by its job alone. -/
theorem State.inCompute_congr {s t : State} {c : Nat} (job : (t.core c).job = (s.core c).job) (jobs : t.jobs = s.jobs) :
    t.inCompute c = s.inCompute c := by
  have table : t.job? = s.job? := funext fun j => by rw [State.job?, State.job?, jobs]
  rw [State.inCompute, State.jobOf, job, table, State.inCompute, State.jobOf]

theorem State.withMove_inCompute (s : State) (kind : OpKind) (old new : Loc) (oldVa newVa : Word) (size : Nat) (retire : Bool)
    (c : Nat) : (s.withMove kind old new oldVa newVa size retire).inCompute c = s.inCompute c :=
  State.inCompute_congr (State.startOp_core_keeps Core.job (fun _ _ _ => rfl) s kind c) rfl

/-- Outside a replay and outside a recorded phase nothing is recorded (R364). -/
theorem recorded_plain {opc : Nat} {m : M (List Word)} {ws : List Word} {t : State} {as new : List Ans}
    (plain : (s.core s.here).toReturn = []) (hm : m ⟨s, as, [], leaves⟩ = .ok ws ⟨t, as, new, leaves⟩)
    (still : t.inCompute t.here = false) : recorded opc m ⟨s, as, [], leaves⟩ = .ok ws ⟨t, as, new, leaves⟩ := by
  rw [recorded, run_bind, run_getS]
  dsimp only
  rw [plain, takeRecorded]
  dsimp only
  rw [run_bind, hm]
  dsimp only
  rw [run_bind, run_modS, still]
  rfl

theorem startBarchan_room (plain : (s.core s.here).toReturn = []) (still : s.inCompute s.here = false)
    (ops : (s.core s.here).ops.length < 256) (engine : (s.die old.home.dieOf).barchan.length < 16) :
    startBarchan d old new oldVa newVa size retire ⟨s, as, [], leaves⟩ =
      .ok () ⟨(s.withMove (if retire then .retire oldVa size else .reloc oldVa newVa size) old new oldVa newVa size retire).modMe
        fun t => (t.setX d (BitVec.ofNat 64 (s.core s.here).newId)).putCpstat 0#64, as, [], leaves⟩ := by
  rw [startBarchan, run_bind, recorded_plain plain (ws := [BitVec.ofNat 64 (s.core s.here).newId, 0]) ?_
    ((s.withMove_inCompute _ old new oldVa newVa size retire s.here).trans still)]
  · rfl
  · rw [run_bind, run_getS]
    dsimp only
    rw [Core.opsFull, decide_eq_false (Nat.not_le.2 ops), decide_eq_false (Nat.not_le.2 engine), Bool.or_false,
      if_neg Bool.false_ne_true]
    rfl

theorem startBarchan_full (plain : (s.core s.here).toReturn = []) (still : s.inCompute s.here = false)
    (full : ¬ ((s.core s.here).ops.length < 256 ∧ (s.die old.home.dieOf).barchan.length < 16)) :
    startBarchan d old new oldVa newVa size retire ⟨s, as, [], leaves⟩ =
      .ok () ⟨s.modMe fun t => (t.setX d 0#64).putCpstat 1#64, as, [], leaves⟩ := by
  have rejects : ((s.core s.here).opsFull || decide (16 ≤ (s.die old.home.dieOf).barchan.length)) = true := by
    rw [Core.opsFull, Bool.or_eq_true, decide_eq_true_eq, decide_eq_true_eq]
    omega
  rw [startBarchan, run_bind, recorded_plain plain (ws := [0, 1]) ?_ still]
  · rfl
  · rw [run_bind, run_getS]
    dsimp only
    rw [rejects, if_pos rfl]
    rfl

/-- An instruction that comes to the start of a move enters it where there is room, and else is rejected. -/
theorem runInstr_startBarchan {i : Instr} {x : M Unit} (plain : (s.core s.here).toReturn = []) (still : s.inCompute s.here = false)
    (hx : x ⟨s, s.me.log, [], false⟩ = startBarchan d old new oldVa newVa size retire ⟨s, [], [], false⟩) :
    ((s.core s.here).ops.length < 256 ∧ (s.die old.home.dieOf).barchan.length < 16 → ∃ t, runInstr i x s = .next t ∧
      t.me.cpstat = 0#64 ∧ (d ≠ 0#5 → t.me.getX d = BitVec.ofNat 64 (s.core s.here).newId) ∧ t.mem = s.mem ∧ t.tags = s.tags ∧
      (t.die old.home.dieOf).barchan = (s.die old.home.dieOf).barchan ++
        [{ core := s.here, id := (s.core s.here).newId, old := old, new := new, oldVa := oldVa, newVa := newVa, size := size
           phase := none, retire := retire, asid := (s.core s.here).asid.toNat % 65536 }]) ∧
    (¬ ((s.core s.here).ops.length < 256 ∧ (s.die old.home.dieOf).barchan.length < 16) →
      runInstr i x s = Claims.done s fun t => (t.setX d 0#64).putCpstat 1#64) := by
  refine ⟨fun ⟨ops, engine⟩ => ?room, fun full => ?full⟩
  case room =>
    rw [startBarchan_room plain still ops engine] at hx
    rw [runInstr, hx]
    refine ⟨_, rfl, ?_, fun hd => ?_, rfl, rfl, ?_⟩
    · rw [if_neg Bool.false_ne_true, State.me_retire, State.me_modMe, Strand.advance_cpstat, Strand.putCpstat]
    · rw [if_neg Bool.false_ne_true, State.me_retire, State.me_modMe, Strand.getX_advance]
      exact Strand.getX_setX_same _ _ hd
    · exact s.withMove_barchan _ _ _ _ _ _ _
  case full =>
    rw [startBarchan_full plain still full] at hx
    rw [runInstr, hx]
    rfl

end

theorem require_takes (s : State) {c : Bool} (h : c = true) (tr : Trap) : Takes s [] (require c tr) () s false := fun past new leaves => by
  rw [run_require, if_pos h, Bool.or_false]
  rfl

theorem movableTile_takes (s : State) (f : State → Act) (va : Word) (l : Loc) (view : View) (m : Bool) :
    Takes s [.place va l view m] (movableTile f) (l, m) s false :=
  (Takes.act_place f va l view m).seq (Takes.pure _)

section
variable {s : State} {d a b : BitVec 5} {k : BitVec 3} {lo ln : Loc} {va vb : Word} {view v2 : View}
  (old : (s.me.getX a).toNat % tileSize k = 0 ∧ (s.me.getX a).toNat < 2 ^ 55)
include old

/-- RELOC with the places of both tiles had, which pass the checks (R270). -/
theorem execReloc_had (hr : refusal (.reloc d a b k) s = none)
    (aim : (s.me.getX b).toNat % tileSize k = 0 ∧ (s.me.getX b).toNat < 2 ^ 55)
    (hl : s.me.log = [.place va lo view true, .place vb ln v2 true])
    (apart : ¬ (lo.home = ln.home ∧ lo.off < ln.off + tileSize k ∧ ln.off < lo.off + tileSize k)) :
    ∃ x, execReloc d a b k s = runInstr (.reloc d a b k) x s ∧ x ⟨s, s.me.log, [], false⟩ =
      startBarchan d lo ln (s.me.getX a) (s.me.getX b) (tileSize k) false ⟨s, [], [], false⟩ := by
  have aligned {v : Word} (h : v.toNat % tileSize k = 0) : Takes s [] (tileChecks v (tileSize k)) () s false :=
    require_takes s (beq_iff_eq.2 h) _
  have distinct : (true && !(lo.home == ln.home && decide (lo.off < ln.off + tileSize k ∧ ln.off < lo.off + tileSize k))) = true := by
    rw [Bool.true_and, Bool.not_eq_true', Bool.eq_false_iff, ne_eq, Bool.and_eq_true, beq_iff_eq, decide_eq_true_eq]
    exact apart
  rw [execReloc, issueRun, issue_pass _ hr, hl]
  refine ⟨_, rfl, ?_⟩
  rw [Takes.getMe.skip]
  dsimp only
  rw [(aligned old.1).skip, (aligned aim.1).skip, (require_takes s (decide_eq_true old.2) _).skip,
    (require_takes s (decide_eq_true aim.2) _).skip, (movableTile_takes s _ va lo view true).next,
    (movableTile_takes s _ vb ln v2 true).next, (require_takes s rfl _).skip, (require_takes s distinct _).skip]
  rfl

/-- RELOC_RET with the place of its tile had, which passes the checks (R271). -/
theorem execRelocRet_had (hr : refusal (.relocRet d a k) s = none) (hl : s.me.log = [.place va lo view true]) :
    ∃ x, execRelocRet d a k s = runInstr (.relocRet d a k) x s ∧ x ⟨s, s.me.log, [], false⟩ =
      startBarchan d lo lo (s.me.getX a) (s.me.getX a) (tileSize k) true ⟨s, [], [], false⟩ := by
  rw [execRelocRet, issueRun, issue_pass _ hr, hl]
  refine ⟨_, rfl, ?_⟩
  rw [Takes.getMe.skip]
  dsimp only
  rw [show tileChecks (s.me.getX a) (tileSize k) = require _ _ from rfl, (require_takes s (beq_iff_eq.2 old.1) _).skip,
    (require_takes s (decide_eq_true old.2) _).skip, (movableTile_takes s _ va lo view true).next, (require_takes s rfl _).skip]
  rfl

end

/-! MSWEEP (R235, R272). -/

section
variable {s : State} {d a b : BitVec 5} {lo ln l2 : Loc} {va vb p : Word} {view v2 : View} {m m2 : Bool} {u x y q : Vec}
  {h1 h2 : List Hop}

/-- The chase ends where the value is no address of a place. -/
theorem sweepChase_ends (fuel n : Nat) (w : Word) : Takes s [.val q []] (sweepChase (fuel + 1) w n) (w, n) s false := by
  unfold sweepChase
  exact (Takes.act_val _ q []).seq (Takes.pure _)

/-- A slip mark that it meets leads it on. -/
theorem sweepChase_hop (fuel n : Nat) {w z : Word} {as : List Ans} {r : Word × Nat} (marked : y.getLsbD 64 = true) (hn : n < 5)
    (rest : Takes s as (sweepChase fuel (w + y.setWidth 64) (n + 1)) r s false) :
    Takes s ([.place z ln .plain true, .val y []] ++ as) (sweepChase (fuel + 1) w n) r s false := by
  unfold sweepChase
  refine (Takes.act_place _ z ln .plain true).seq (bs := .val y [] :: as)
    ((Takes.access w ln 8 .probe false false y []).seq (bs := as) ?_)
  dsimp only [List.foldl, List.length]
  rw [if_neg (show ¬ 5 ≤ n + 0 from Nat.not_le.2 hn), if_pos marked]
  exact rest

/-- A word whose value leads nowhere stays. -/
theorem sweepWord_still (n : Nat) : Takes s [.place vb l2 v2 m2, .val x h1, .val q []] (sweepWord va (n + 1)) (0, h1) s false := by
  unfold sweepWord
  refine (Takes.resolve .sweep va 8 vb l2 v2 m2).seq (bs := [.val x h1, .val q []])
    ((Takes.access va l2 8 (.load .plain false) false false x h1).seq (bs := [.val q []])
      ((sweepChase_ends 4 0 _).seq (bs := []) ?_))
  dsimp only
  rw [if_neg (by decide), if_pos rfl]
  exact Takes.pure _

/-- A word whose value leads to one slip mark is changed, where it still has that value. -/
theorem sweepWord_changed (n : Nat) {z : Word} (marked : y.getLsbD 64 = true) (moves : y.setWidth 64 ≠ 0#64) :
    Takes s [.place vb l2 v2 m2, .val x h1, .place z ln .plain true, .val y [], .val q [], .val x h2] (sweepWord va (n + 1))
      (1, h1 ++ h2) s false := by
  have elsewhere : x.setWidth 64 + y.setWidth 64 ≠ x.setWidth 64 := fun e => moves (by simpa using e)
  unfold sweepWord
  refine (Takes.resolve .sweep va 8 vb l2 v2 m2).seq (bs := [.val x h1, .place z ln .plain true, .val y [], .val q [], .val x h2])
    ((Takes.access va l2 8 (.load .plain false) false false x h1).seq
      (bs := [.place z ln .plain true, .val y [], .val q [], .val x h2])
      ((sweepChase_hop 4 0 marked (by decide) (sweepChase_ends 3 1 _)).seq (bs := [.val x h2]) ?_))
  dsimp only
  rw [if_neg (by decide), if_neg elsewhere]
  refine (Takes.access va l2 8 _ false false x h2).seq (bs := []) ?_
  dsimp only
  rw [if_pos rfl]
  exact Takes.pure _

theorem sweepResolve_none (s : State) (n : Nat) : Takes s [] (sweepResolve n []) () s false := Takes.pure _
theorem sweepWords_none (s : State) (v : Word) : Takes s [] (sweepWords v []) (0, []) s false := Takes.pure _

/-- MSWEEP of no word. -/
theorem execMsweep_empty (hn : s.me.getX b = 0#64) (hl : s.me.log = [.val u []]) :
    execMsweep d a b s = Claims.done s fun t => t.setX d 0#64 := by
  rw [execMsweep, issueRun, issue_pass _ (refusal_none s rfl rfl rfl rfl), runInstr, hl, Takes.getMe.skip]
  dsimp only
  rw [hn, (Takes.act_val _ u []).next, show List.range (0#64).toNat = [] from rfl, (sweepResolve_none s _).skip,
    (sweepWords_none s _).skip]
  show Host.Outcome.next ((s.modMe id).modMe fun t => t.setX d 0#64).retire = _
  rw [State.modMe_modMe]
  rfl

/-- MSWEEP of one word, of which `as` are the answers. -/
theorem execMsweep_one {as : List Ans} {r : Nat} {hops : List Hop} (hn : s.me.getX b = 1#64)
    (word : Takes s as (sweepWord (s.me.getX a) 4) (r, hops) s false) (hl : s.me.log = .val u [] :: .place va lo view m :: as) :
    execMsweep d a b s = Claims.done (Claims.rebased s a hops) fun t =>
      t.setX d (BitVec.ofNat 64 (if r = 1 then 1 else if r = 2 then 2 ^ 32 else if r = 3 then 2 ^ 48 else 0)) := by
  have resolved : Takes s [.place va lo view m] (sweepResolve (s.me.getX a).toNat [0]) () s false := by
    unfold sweepResolve
    exact (Takes.resolve _ _ _ va lo view m).seq (sweepResolve_none s _)
  have swept : Takes s as (sweepWords (s.me.getX a) [0])
      (0 + (if r = 1 then 1 else if r = 2 then 2 ^ 32 else if r = 3 then 2 ^ 48 else 0), hops ++ []) s false := by
    unfold sweepWords
    rw [show BitVec.ofNat 64 (8 * 0) = 0#64 from rfl, BitVec.add_zero]
    refine (word.seq (bs := []) ?_).cast (List.append_nil _)
    exact Takes.map _ (sweepWords_none s _)
  rw [Nat.zero_add, List.append_nil] at swept
  rw [execMsweep, issueRun, issue_pass _ (refusal_none s rfl rfl rfl rfl), runInstr, hl, Takes.getMe.skip]
  dsimp only
  rw [hn, (Takes.act_val _ u []).next, show List.range (1#64).toNat = [0] from rfl, resolved.next, swept.last]
  rfl

end

end Sys2Proof.Machine

namespace Sys2Proof.Proofs

open Sys2Proof.Machine Sys2Proof.Claims

/-- Settles O35: each instruction takes the answers that it had, and does or enters what is left. -/
theorem moveStarts : Obligations.MoveStarts := by
  intro s d a b k lo ln l2 view v2 m m2 x y u w q h1 h2 va vb src dst n far size number die aligned
    plain room enters
  refine ⟨fun hl hn => execTmov_empty hn hl, fun _ hsrc hdst here fixed away _ hl => ?writes,
    fun _ hsrc hdst here fixed away hl => ?written, fun ⟨back, still⟩ hr old aim hl apart => ?reloc,
    fun ⟨back, still⟩ hr old hl => ?retires, fun hn hl => execMsweep_empty hn hl, fun hn hl => ?still,
    fun hn marked moves hl => ?changed⟩
  case writes =>
    subst fixed
    exact execTmov_writes hsrc hdst here away hl
  case written =>
    subst fixed
    exact execTmov_written hsrc hdst here away hl
  case reloc =>
    obtain ⟨run, runs, starts⟩ := execReloc_had old hr aim hl apart
    obtain ⟨entered, full⟩ := runInstr_startBarchan (i := .reloc d a b k) back still starts
    rw [← runs] at entered full
    exact ⟨entered, full⟩
  case retires =>
    obtain ⟨run, runs, starts⟩ := execRelocRet_had old hr hl
    obtain ⟨entered, full⟩ := runInstr_startBarchan (i := .relocRet d a k) back still starts
    rw [← runs] at entered full
    exact ⟨entered, full⟩
  case still => exact execMsweep_one (r := 0) (hops := h1) hn (sweepWord_still 3) hl
  case changed => exact execMsweep_one (r := 1) (hops := h1 ++ h2) hn (sweepWord_changed 3 marked moves) hl

end Sys2Proof.Proofs

/-! SUPPORT. What an instruction of one access leaves unchanged, however it ends (R217, R242, R245, R287, R352, R354). -/

namespace Sys2Proof.Machine

/-! The end of an instruction. -/

/-- The strand with index h as a trap leaves it (R352, R354). -/
def Strand.trapped (h : Nat) (t : Strand) (tr : Trap) : Strand :=
  if goesToM h t false tr.code then enterM t false tr t.pc else enterS t false tr t.pc

theorem State.takeTrap_me (s : State) (tr : Trap) : (s.takeTrap s.cur tr).me = s.me.trapped s.cur tr :=
  State.me_modMe { s with free := s.free + 1 } _

theorem State.takeTrap_strand_ne (s : State) (tr : Trap) {h : Nat} (n : h ≠ s.cur) : (s.takeTrap s.cur tr).strand h = s.strand h :=
  State.strand_modStrand_ne { s with free := s.free + 1 } _ n.symm

/-- How an instruction leaves its strand: trapped; kept with its instruction, parked, at rest or to begin anew; or changed, by one of
the changes `g`, and past the instruction. -/
inductive Strand.Ends (h : Nat) (b : Strand) (g : (Strand → Strand) → Prop) : Strand → Prop
  | traps (tr : Trap) : Ends h b g (b.trapped h tr)
  | keeps (st : Status) (inst : Option Word32) (log : List Ans) : Ends h b g { b with status := st, inst := inst, log := log }
  | completes (f : Strand → Strand) : g f → Ends h b g (f b).advance

/-- From u to t no more changed than the current strand, and which strand its core runs. -/
structure State.OwnOnly (u t : State) : Prop where
  strand : ∀ h, h ≠ u.cur → t.strand h = u.strand h
  mem : t.mem = u.mem
  tags : t.tags = u.tags
  hub : t.hub = u.hub
  jobs : t.jobs = u.jobs
  dies : t.dies = u.dies

theorem State.OwnOnly.modMe (s : State) (f : Strand → Strand) : s.OwnOnly (s.modMe f) :=
  ⟨fun _ n => s.strand_modMe_ne f n.symm, rfl, rfl, rfl, rfl, rfl⟩

theorem State.OwnOnly.giveUp {s t : State} (c : Nat) (h : s.OwnOnly t) : s.OwnOnly (t.giveUp c) := by
  unfold State.giveUp State.choose
  split <;> exact ⟨h.strand, h.mem, h.tags, h.hub, h.jobs, h.dies⟩

theorem State.OwnOnly.completed (u : State) (f : Strand → Strand) (c : Nat) (gone : Bool) :
    u.OwnOnly ((u.modMe f).completed c gone) := by
  have past : u.OwnOnly (u.modMe f).retire := by
    rw [State.retire, State.modMe_modMe]
    exact .modMe u _
  cases gone
  · exact past
  · exact past.giveUp c

theorem State.park_modMe (s : State) (f : Strand → Strand) (p : Park) :
    (s.modMe f).park s.cur p = (s.modMe fun t => { f t with status := .parked p }).giveUp s.here :=
  congrArg (State.giveUp · s.here) (s.modMe_modMe f fun t => { t with status := .parked p })

/-- What a strand that stops leaves: trapped, parked, or for a later turn. -/
theorem stopped_ends {i : Instr} {x : M Unit} {s t : State} {e : Stop} {r : Run} {g : (Strand → Strand) → Prop}
    (hx : x { s := s, past := s.me.log, new := [], leaves := false } = .error e r) (here : r.s.cur = s.cur)
    (h : runInstr i x s = .next t) : r.s.OwnOnly t ∧ Strand.Ends s.cur r.s.me g t.me := by
  rw [runInstr, hx, ← here] at h
  rw [← here]
  cases e with
  | trap tr =>
    obtain rfl := Host.Outcome.next.inj h
    refine ⟨⟨fun _ n => State.takeTrap_strand_ne _ _ n, rfl, rfl, rfl, rfl, rfl⟩, ?_⟩
    rw [State.takeTrap_me]
    exact .traps tr
  | park p =>
    obtain rfl := Host.Outcome.next.inj h
    rw [State.park_modMe]
    refine ⟨(State.OwnOnly.modMe _ _).giveUp _, ?_⟩
    rw [State.giveUp_me, State.me_modMe]
    exact .keeps _ _ _
  | pause =>
    obtain rfl := Host.Outcome.next.inj h
    refine ⟨.modMe _ _, ?_⟩
    rw [State.me_modMe]
    exact .keeps _ _ _
  | rest =>
    obtain rfl := Host.Outcome.next.inj h
    refine ⟨.modMe _ _, ?_⟩
    rw [State.me_modMe]
    exact .keeps _ _ _
  | gone =>
    obtain rfl := Host.Outcome.next.inj h
    exact ⟨⟨fun _ _ => rfl, rfl, rfl, rfl, rfl, rfl⟩, .keeps _ _ _⟩

/-- A run that leaves a state with P, whatever its end. -/
def LeavesState {α : Type} (P : State → Prop) : EStateM.Result Stop Run α → Prop
  | .ok _ r => P r.s
  | .error _ r => P r.s

theorem Keeps.leavesState {α : Type} {P : State → Prop} {x : M α} (h : Keeps P x) {r : Run} (hr : P r.s) : LeavesState P (x r) := by
  have kept := h r hr
  cases e : x r <;> rwa [e] at kept

/-- A step followed by a change of the strand, as the body of an instruction: the state that the step leaves, and what comes of it. -/
theorem runInstr_ends {i : Instr} {α : Type} {x : M α} {change : α → Strand → Strand} {s t : State} {P : State → Prop}
    (keeps : LeavesState P (x { s := s, past := s.me.log, new := [], leaves := false })) (cur : ∀ u, P u → u.cur = s.cur)
    (h : runInstr i (x >>= fun a => modT (change a)) s = .next t) :
    ∃ u, P u ∧ u.OwnOnly t ∧ Strand.Ends s.cur u.me
      (fun f => ∃ a r, x { s := s, past := s.me.log, new := [], leaves := false } = .ok a r ∧ f = change a) t.me := by
  cases e : x { s := s, past := s.me.log, new := [], leaves := false } with
  | ok a r =>
    rw [runInstr, run_bind, e] at h
    rw [e] at keeps
    dsimp only at h keeps
    rw [run_modT] at h
    obtain rfl := Host.Outcome.next.inj h
    refine ⟨r.s, keeps, .completed r.s (change a) s.here r.leaves, ?_⟩
    show Strand.Ends _ _ _ ((r.s.modMe (change a)).completed s.here r.leaves).me
    rw [State.completed_me, State.me_modMe]
    exact .completes _ ⟨a, r, rfl, rfl⟩
  | error p r =>
    rw [e] at keeps
    exact ⟨r.s, keeps, stopped_ends (by rw [run_bind, e]) (cur _ keeps) h⟩


/-! What a strand that ends so keeps (R217, R352, R354). -/

/-- A strand whose watch may have fired, and which may have been woken. -/
def Strand.stirred (t : Strand) (w : Watch) (st : Status) : Strand := { t with watch := w, status := st }

/-- The CSRs of a strand, with its other state, that neither a load nor a store nor a trap writes. -/
def Strand.quiet (t : Strand) :=
  (t.fflags, t.frm, t.fte, t.fnver, t.wlim, t.ciprog, t.cpstat, t.stvec, t.sscratch, t.ien, t.ipend, t.timecmp, t.ibp, t.shadow,
    t.mcfg, t.pendFlags, t.coHeld, t.handles, t.unit)

theorem Strand.trapped_keeps {α : Type} (p : Strand → α) (m : ∀ t tr epc, p (enterM t false tr epc) = p t)
    (s : ∀ t tr epc, p (enterS t false tr epc) = p t) (h : Nat) (t : Strand) (tr : Trap) : p (t.trapped h tr) = p t := by
  rw [Strand.trapped]
  split
  · exact m t tr t.pc
  · exact s t tr t.pc

theorem Strand.loopBody_congr {t u : Strand} (lcnt : u.lcnt = t.lcnt) (lbody : u.lbody = t.lbody) : u.loopBody = t.loopBody := by
  rw [Strand.loopBody, lcnt, lbody, Strand.loopBody]

section
variable {h : Nat} {b u : Strand} {g : (Strand → Strand) → Prop} (hu : Strand.Ends h b g u)
include hu

namespace Strand.Ends

/-- What neither a trap, nor a park, nor the end of an instruction changes. -/
theorem keeps_of {α : Type} (p : Strand → α) (traps : ∀ t tr, p (t.trapped h tr) = p t)
    (parks : ∀ t st inst log, p { t with status := st, inst := inst, log := log } = p t) (ends : ∀ t, p t.advance = p t)
    (hg : ∀ f, g f → p (f b) = p b) : p u = p b := by
  cases hu with
  | traps tr => exact traps b tr
  | keeps st inst log => exact parks b st inst log
  | completes f hf => exact (ends _).trans (hg f hf)

theorem x (hg : ∀ f, g f → (f b).x = b.x) : u.x = b.x :=
  hu.keeps_of Strand.x (trapped_keeps _ (fun _ _ _ => rfl) (fun _ _ _ => rfl) h) (fun _ _ _ _ => rfl) Strand.advance_x hg

theorem getX (r : BitVec 5) (hg : ∀ f, g f → (f b).getX r = b.getX r) : u.getX r = b.getX r :=
  hu.keeps_of (fun t => t.getX r) (trapped_keeps (fun t => t.getX r) (fun _ _ _ => rfl) (fun _ _ _ => rfl) h) (fun _ _ _ _ => rfl)
    (fun t => t.getX_advance r) hg

theorem getF (r : BitVec 5) (hg : ∀ f, g f → (f b).getF r = b.getF r) : u.getF r = b.getF r :=
  hu.keeps_of (fun t => t.getF r) (trapped_keeps (fun t => t.getF r) (fun _ _ _ => rfl) (fun _ _ _ => rfl) h) (fun _ _ _ _ => rfl)
    (fun t => by rw [Strand.getF, Strand.advance_f, Strand.getF]) hg

theorem getV (r : BitVec 5) (hg : ∀ f, g f → (f b).getV r = b.getV r) : u.getV r = b.getV r :=
  hu.keeps_of (fun t => t.getV r) (trapped_keeps (fun t => t.getV r) (fun _ _ _ => rfl) (fun _ _ _ => rfl) h) (fun _ _ _ _ => rfl)
    (fun t => by rw [Strand.getV, Strand.advance_v, Strand.getV]) hg

theorem f (hg : ∀ f, g f → (f b).f = b.f) : u.f = b.f :=
  hu.keeps_of Strand.f (trapped_keeps _ (fun _ _ _ => rfl) (fun _ _ _ => rfl) h) (fun _ _ _ _ => rfl) Strand.advance_f hg

theorem v (hg : ∀ f, g f → (f b).v = b.v) : u.v = b.v :=
  hu.keeps_of Strand.v (trapped_keeps _ (fun _ _ _ => rfl) (fun _ _ _ => rfl) h) (fun _ _ _ _ => rfl) Strand.advance_v hg

theorem p (hg : ∀ f, g f → (f b).p = b.p) : u.p = b.p :=
  hu.keeps_of Strand.p (trapped_keeps _ (fun _ _ _ => rfl) (fun _ _ _ => rfl) h) (fun _ _ _ _ => rfl) Strand.advance_p hg

theorem c (hg : ∀ f, g f → (f b).c = b.c) : u.c = b.c :=
  hu.keeps_of Strand.c (trapped_keeps _ (fun _ _ _ => rfl) (fun _ _ _ => rfl) h) (fun _ _ _ _ => rfl) Strand.advance_c hg

theorem watch (hg : ∀ f, g f → (f b).watch = b.watch) : u.watch = b.watch :=
  hu.keeps_of Strand.watch (trapped_keeps _ (fun _ _ _ => rfl) (fun _ _ _ => rfl) h) (fun _ _ _ _ => rfl) Strand.advance_watch hg

theorem quiet (hg : ∀ f, g f → (f b).quiet = b.quiet) : u.quiet = b.quiet :=
  hu.keeps_of Strand.quiet (trapped_keeps _ (fun _ _ _ => rfl) (fun _ _ _ => rfl) h) (fun _ _ _ _ => rfl)
    (fun t => by simp [Strand.quiet]) hg

/-- The loop state stays where no loop is active (R107). -/
theorem loop (hg : ∀ f, g f → (f b).lcnt = b.lcnt ∧ (f b).lbody = b.lbody) (none_ : b.loopBody = none) :
    u.lcnt = b.lcnt ∧ u.lbody = b.lbody := by
  cases hu with
  | traps tr =>
    exact ⟨trapped_keeps Strand.lcnt (fun _ _ _ => rfl) (fun _ _ _ => rfl) h b tr,
      trapped_keeps Strand.lbody (fun _ _ _ => rfl) (fun _ _ _ => rfl) h b tr⟩
  | keeps st inst log => exact ⟨rfl, rfl⟩
  | completes f hf =>
    obtain ⟨lcnt, lbody⟩ := hg f hf
    rw [Strand.advance, Strand.loopBody_congr lcnt lbody, none_]
    exact ⟨lcnt, lbody⟩

end Strand.Ends

end

/-- Mode, status and trap registers of a strand. -/
def Strand.trapState (t : Strand) := (t.mode, t.sstatus, t.cause, t.epc, t.badva, t.tval2, t.m)

/-- They are as before, or as a trap leaves them, whose entry does not look at a watch. -/
theorem Strand.Ends.trapState {h : Nat} {t u : Strand} {w : Watch} {st : Status} {g : (Strand → Strand) → Prop}
    (hu : Strand.Ends h (t.stirred w st) g u) (hg : ∀ f, g f → (f (t.stirred w st)).trapState = t.trapState) :
    u.trapState = t.trapState ∨ ∃ tr, u.trapState = (t.trapped h tr).trapState := by
  cases hu with
  | traps tr =>
    refine .inr ⟨tr, ?_⟩
    unfold Strand.trapped
    by_cases m : goesToM h t false tr.code
    · rw [if_pos m, if_pos (show goesToM h (t.stirred w st) false tr.code = true from m)]
      rfl
    · rw [if_neg m, if_neg (show ¬ goesToM h (t.stirred w st) false tr.code = true from m)]
      rfl
  | keeps st inst log => exact .inl rfl
  | completes f hf => exact .inl (Eq.trans (by simp [Strand.trapState]) (hg f hf))

/-! In the words of the statements. -/

section
variable {s t : State} {w : Watch} {st : Status} {g : (Strand → Strand) → Prop}
  (ends : Strand.Ends s.cur (s.me.stirred w st) g t.me)
include ends

theorem quietCsrs_of_ends (quiet : ∀ f, g f → (f (s.me.stirred w st)).quiet = s.me.quiet)
    (loop : ∀ f, g f → (f (s.me.stirred w st)).lcnt = s.me.lcnt ∧ (f (s.me.stirred w st)).lbody = s.me.lbody) :
    Claims.quietCsrs s t := by
  have same : t.me.quiet = s.me.quiet := ends.quiet quiet
  simp only [Strand.quiet, Prod.mk.injEq] at same
  obtain ⟨fflags, frm, fte, fnver, wlim, ciprog, cpstat, stvec, sscratch, ien, ipend, timecmp, ibp, shadow, mcfg, pendFlags, coHeld,
    handles, unit⟩ := same
  have body : s.me.loopBody = none → t.me.lcnt = s.me.lcnt ∧ t.me.lbody = s.me.lbody := fun n => ends.loop loop n
  exact ⟨fflags, frm, fte, fnver, wlim, ciprog, cpstat, stvec, sscratch, ien, ipend, timecmp, ibp, shadow, mcfg, pendFlags, coHeld,
    handles, unit, body⟩

theorem trapsOrKeeps_of_ends (hg : ∀ f, g f → (f (s.me.stirred w st)).trapState = s.me.trapState) : Claims.trapsOrKeeps s t := by
  have same := ends.trapState hg
  simp only [← State.takeTrap_me, Strand.trapState, Prod.mk.injEq] at same
  exact same

end

end Sys2Proof.Machine

/-! SUPPORT. The frame of a plain load (R217, R238, R242, R245). -/

namespace Sys2Proof.Machine

/-- From s to t no strand, no memory and no table of the module has changed. -/
structure State.Still (s t : State) : Prop where
  cur : t.cur = s.cur
  strand : ∀ h, t.strand h = s.strand h
  mem : t.mem = s.mem
  tags : t.tags = s.tags
  hub : t.hub = s.hub
  jobs : t.jobs = s.jobs
  dies : t.dies = s.dies

namespace State.Still

variable {s t : State}

theorem refl (s : State) : s.Still s := ⟨rfl, fun _ => rfl, rfl, rfl, rfl, rfl, rfl⟩

theorem modCluster (h : s.Still t) (k : Nat) (f : Cluster → Cluster) : s.Still (t.modCluster k f) :=
  ⟨h.cur, h.strand, h.mem, h.tags, h.hub, h.jobs, h.dies⟩

theorem modCore (h : s.Still t) (c : Nat) (f : Core → Core) : s.Still (t.modCore c f) :=
  ⟨h.cur, h.strand, h.mem, h.tags, h.hub, h.jobs, h.dies⟩

theorem withRetry (h : s.Still t) (r : List (Nat × PathEntry)) : s.Still { t with retry := r } :=
  ⟨h.cur, h.strand, h.mem, h.tags, h.hub, h.jobs, h.dies⟩

theorem movePosted (h : s.Still t) (c : Nat) (f : Home → Bool) : s.Still (t.movePosted c f) := by
  unfold State.movePosted
  have sent (u : State) (as : List Access) (hu : s.Still u) : s.Still (as.foldl (fun s a => s.enterPath c .core a) u) := by
    induction as generalizing u with
    | nil => exact hu
    | cons a as ih => exact ih _ (hu.modCore c _)
  exact sent _ _ (h.modCore c _)

theorem startWalk (h : s.Still t) (c : Nat) (mode : Mode) (va : Word) (write setsA : Bool) :
    s.Still (t.startWalk c mode va write setsA) := by
  unfold State.startWalk
  exact h.modCluster _ _

theorem enterPath (h : s.Still t) (c : Nat) (p : Path) (a : Access) : s.Still (t.enterPath c p a) := h.modCore c _

theorem me (h : s.Still t) : t.me = s.me := by rw [State.me, h.cur, h.strand, State.me]

end State.Still

/-! The steps of an access. -/

section
variable {s : State}

theorem resolve_still (f : Form) (va : Word) (n : Nat) : Keeps s.Still (resolve f va n) := by
  refine .bind (.act fun u hu => ?_) fun _ => ?_
  · unfold resolveAct
    dsimp only
    split
    · exact hu
    · exact hu
    · exact hu.startWalk _ _ _ _ _
  · split <;> exact .pure _

theorem sendAct_still {u : State} (hu : s.Still u) (a : Access) (sc : Bool) : s.Still (sendAct a sc u).state :=
  (hu.movePosted _ _).enterPath _ _ _

theorem State.perform_load_state {u t : State} {c : Nat} {a : Access} {view : View} {v : Vec} (hk : a.kind = .load view false)
    (h : u.perform c a = .done t v) : t = u := by
  unfold State.perform at h
  rw [hk] at h
  dsimp only at h
  split at h
  · cases h
  · cases h
  · rw [if_neg Bool.false_ne_true] at h
    split at h
    · cases h
    · exact (PerfResult.done.inj h).1.symm

/-- A load leaves its home as it was. -/
theorem performNow_load_still {u : State} (hu : s.Still u) (c : Nat) {a : Access} {view : View} (hk : a.kind = .load view false) :
    s.Still (u.performNow c a).state := by
  unfold State.performNow
  cases e : u.perform c a with
  | done t v =>
    rw [State.perform_load_state hk e]
    exact hu
  | poisoned k => exact hu
  | waits => exact hu.withRetry _
  | slip d k => exact hu

theorem access_load_still (va : Word) (l : Loc) (n : Nat) (view : View) : Keeps s.Still (access va l n (.load view false) false) := by
  unfold access
  refine .bind .getS fun now => .bind (.act fun u hu => ?_) fun _ => ?_
  · cases l.home == Home.unit now.here with
    | true => exact performNow_load_still hu u.here (a := { now.accessOf true va l n (.load view false) with sure := false }) rfl
    | false => exact sendAct_still hu { now.accessOf true va l n (.load view false) with sure := false } false
  · split <;> exact .pure _

end

/-! The answers that it takes. -/

/-- The hops that an answer carries. -/
def Ans.hops : Ans → List Hop
  | .val _ h => h
  | _ => []

/-- An action that goes on takes an answer that was had, or gives one now. -/
theorem act_answer {f : State → Act} {r r' : Run} {a : Ans} (h : act f r = .ok a r') :
    (∀ x ∈ r'.past, x ∈ r.past) ∧ (a ∈ r.past ∨ ∃ u, f r.s = .ok a u) := by
  cases e : r.past with
  | nil =>
    rw [act_now f e] at h
    cases ef : f r.s with
    | ok x u =>
      rw [ef] at h
      obtain ⟨rfl, rfl⟩ := EStateM.Result.ok.inj h
      exact ⟨fun _ hx => e ▸ hx, .inr ⟨u, rfl⟩⟩
    | trap tr u => rw [ef] at h; cases h
    | park p u => rw [ef] at h; cases h
  | cons x past =>
    by_cases trap : ∃ t, x = .trap t
    · obtain ⟨t, rfl⟩ := trap
      rw [act, e] at h
      cases h
    · rw [act_had f e fun t ht => trap ⟨t, ht⟩] at h
      obtain ⟨rfl, rfl⟩ := EStateM.Result.ok.inj h
      exact ⟨fun _ hx => List.mem_cons_of_mem _ hx, .inl (List.mem_cons_self ..)⟩

/-- What a step that goes on has taken or done. -/
theorem run_bind_ok {α β : Type} {m : M α} {k : α → M β} {r r' : Run} {b : β} (h : (m >>= k) r = .ok b r') :
    ∃ a q, m r = .ok a q ∧ k a q = .ok b r' := by
  rw [run_bind] at h
  cases e : m r with
  | ok a q => rw [e] at h; exact ⟨a, q, rfl, h⟩
  | error x q => rw [e] at h; cases h

theorem resolve_past {f : Form} {va : Word} {n : Nat} {r r' : Run} {p : Loc × View × Bool} (h : resolve f va n false r = .ok p r') :
    ∀ x ∈ r'.past, x ∈ r.past := by
  obtain ⟨a, q, ha, hk⟩ := run_bind_ok h
  have same : q = r' := by
    split at hk <;> exact (EStateM.Result.ok.inj hk).2
  exact same ▸ (act_answer ha).1

/-- An access that is performed at once takes no hop. -/
theorem performNow_hops {s t : State} {c : Nat} {a : Access} {v : Vec} {hops : List Hop}
    (h : s.performNow c a = .ok (.val v hops) t) : hops = [] := by
  unfold State.performNow at h
  cases e : s.perform c a with
  | done u w => rw [e] at h; exact (Ans.val.inj (Act.ok.inj h).1).2.symm
  | slip d k => rw [e] at h; exact (Ans.val.inj (Act.ok.inj h).1).2.symm
  | poisoned k => rw [e] at h; cases h
  | waits => rw [e] at h; cases h

theorem sendAct_ne_ok (a : Access) (sc : Bool) (s : State) (x : Ans) (t : State) : sendAct a sc s ≠ .ok x t := by
  intro h
  cases h

/-- The hops that a load takes are those of an answer had: a load that is performed at once takes none. -/
theorem access_load_hops {va : Word} {l : Loc} {n : Nat} {view : View} {r r' : Run} {v : Vec} {hops : List Hop}
    (h : access va l n (.load view false) false false r = .ok (v, hops) r') :
    hops = [] ∨ ∃ w, Ans.val w hops ∈ r.past := by
  obtain ⟨s, q, hs, h⟩ := run_bind_ok h
  rw [run_getS] at hs
  obtain ⟨rfl, rfl⟩ := EStateM.Result.ok.inj hs
  obtain ⟨a, q, ha, hk⟩ := run_bind_ok h
  cases a with
  | val w gone =>
    obtain ⟨-, rfl⟩ := Prod.mk.inj (EStateM.Result.ok.inj hk).1
    refine (act_answer ha).2.symm.imp (fun ⟨u, hu⟩ => ?_) fun had => ⟨w, had⟩
    revert hu
    cases l.home == Home.unit r.s.here with
    | true => exact performNow_hops
    | false => exact fun hu => absurd hu (sendAct_ne_ok _ _ _ _ _)
  | _ => exact .inl (Prod.mk.inj (EStateM.Result.ok.inj hk).1).2.symm

/-! The load as one step and one change of its strand. -/

/-- The base register rewritten by an access's hops (R238). -/
def Strand.rebased (t : Strand) (a : BitVec 5) (hops : List Hop) : Strand :=
  if hops.isEmpty then t else t.setX a (rewriteBase (t.getX a) hops)

/-- The access of a load. -/
def loadStep (f : Form) (va : Word) (n : Nat) : M (Vec × List Hop) := do
  let (l, view, _) ← resolve f va n
  access va l n (.load view false) false

theorem loadFrom_eq (f : Form) (a : BitVec 5) (va : Word) (n : Nat) (put : Vec → Strand → Strand) (r : Run) :
    (loadFrom f a va n false >>= fun v => modT (put v)) r =
      (loadStep f va n >>= fun q => modT fun t => put q.1 (t.rebased a q.2)) r := by
  rw [loadFrom, loadStep, run_bind, run_bind, run_bind, run_bind]
  cases resolve f va n false r with
  | error e q => rfl
  | ok p q =>
    obtain ⟨l, view, m⟩ := p
    dsimp only
    rw [run_bind]
    cases access va l n (.load view false) false false q with
    | error e q => rfl
    | ok x q =>
      have one := q.s.modMe_modMe (fun t => t.rebased a x.2) (put x.1)
      show EStateM.Result.ok () { q with s := (q.s.modMe fun t => t.rebased a x.2).modMe (put x.1) } = _
      rw [one]
      rfl

theorem loadStep_still (s : State) (f : Form) (va : Word) (n : Nat) : Keeps s.Still (loadStep f va n) :=
  .bind (resolve_still f va n) fun _ => access_load_still va _ n _

theorem loadStep_hops {f : Form} {va : Word} {n : Nat} {r r' : Run} {x : Vec × List Hop} (h : loadStep f va n r = .ok x r') :
    x.2 = [] ∨ ∃ w, Ans.val w x.2 ∈ r.past := by
  obtain ⟨p, q, hp, hx⟩ := run_bind_ok h
  exact (access_load_hops hx).imp id fun ⟨w, hw⟩ => ⟨w, resolve_past hp _ hw⟩

/-- The changes of its strand that a load with these answers had may end in. -/
def loadChange (as : List Ans) (a : BitVec 5) (put : Vec → Strand → Strand) (f : Strand → Strand) : Prop :=
  ∃ v hops, (hops = [] ∨ ∃ w, Ans.val w hops ∈ as) ∧ f = fun t => put v (t.rebased a hops)

theorem Strand.Ends.imp {h : Nat} {b u : Strand} {g g' : (Strand → Strand) → Prop} (hu : Strand.Ends h b g u)
    (hg : ∀ f, g f → g' f) : Strand.Ends h b g' u := by
  cases hu with
  | traps tr => exact .traps tr
  | keeps st inst log => exact .keeps st inst log
  | completes f hf => exact .completes f (hg f hf)

/-- However a load ends, it leaves memory and the module as they were, and its strand trapped, waiting, or with what it read. -/
theorem load_ends {i : Instr} {f : Form} {a : BitVec 5} {va : Word} {n : Nat} {put : Vec → Strand → Strand} {s t : State}
    (hx : exec i s = issue i (runInstr i (loadFrom f a va n false >>= fun v => modT (put v))) s) (h : exec i s = .next t) :
    ∃ u, s.Still u ∧ u.OwnOnly t ∧ Strand.Ends s.cur s.me (loadChange s.me.log a put) t.me := by
  have run := hx.symm.trans h
  cases refused : refusal i s with
  | some tr =>
    rw [issue_stop _ refused] at run
    obtain rfl := Host.Outcome.next.inj run
    refine ⟨s, .refl s, ⟨fun _ n => State.takeTrap_strand_ne s tr n, rfl, rfl, rfl, rfl, rfl⟩, ?_⟩
    rw [State.takeTrap_me]
    exact .traps tr
  | none =>
    rw [issue_pass _ refused, runInstr_congr (loadFrom_eq ..)] at run
    obtain ⟨u, still, own, ends⟩ := runInstr_ends ((loadStep_still s f va n).leavesState (.refl s)) (fun _ hu => hu.cur) run
    refine ⟨u, still, own, (still.me ▸ ends).imp ?_⟩
    rintro f ⟨x, r, hx, rfl⟩
    exact ⟨x.1, x.2, loadStep_hops hx, rfl⟩

/-! A change of registers alone. -/

/-- `f` changes no more of a strand than its x, f and v registers. -/
structure Strand.RegsOnly (f : Strand → Strand) : Prop where
  p : ∀ t, (f t).p = t.p
  c : ∀ t, (f t).c = t.c
  watch : ∀ t, (f t).watch = t.watch
  quiet : ∀ t, (f t).quiet = t.quiet
  loop : ∀ t, (f t).lcnt = t.lcnt ∧ (f t).lbody = t.lbody
  trapState : ∀ t, (f t).trapState = t.trapState

namespace Strand.RegsOnly

theorem setX (r : BitVec 5) (v : Strand → Word) : RegsOnly fun t => t.setX r (v t) :=
  ⟨fun t => by simp, fun t => by simp, fun t => by simp, fun t => by simp [Strand.quiet], fun t => by simp,
    fun t => by simp [Strand.trapState]⟩

theorem setF (r : BitVec 5) (v : Word) : RegsOnly fun t => t.setF r v :=
  ⟨fun _ => rfl, fun _ => rfl, fun _ => rfl, fun _ => rfl, fun _ => ⟨rfl, rfl⟩, fun _ => rfl⟩

theorem setV (r : BitVec 5) (v : Vec) : RegsOnly fun t => t.setV r v :=
  ⟨fun _ => rfl, fun _ => rfl, fun _ => rfl, fun _ => rfl, fun _ => ⟨rfl, rfl⟩, fun _ => rfl⟩

theorem id : RegsOnly id := ⟨fun _ => rfl, fun _ => rfl, fun _ => rfl, fun _ => rfl, fun _ => ⟨rfl, rfl⟩, fun _ => rfl⟩

theorem comp {f g : Strand → Strand} (hf : RegsOnly f) (hg : RegsOnly g) : RegsOnly fun t => f (g t) :=
  ⟨fun t => (hf.p _).trans (hg.p t), fun t => (hf.c _).trans (hg.c t), fun t => (hf.watch _).trans (hg.watch t),
    fun t => (hf.quiet _).trans (hg.quiet t),
    fun t => ⟨(hf.loop _).1.trans (hg.loop t).1, (hf.loop _).2.trans (hg.loop t).2⟩,
    fun t => (hf.trapState _).trans (hg.trapState t)⟩

theorem rebased (a : BitVec 5) (hops : List Hop) : RegsOnly fun t => t.rebased a hops := by
  unfold Strand.rebased
  cases hops with
  | nil => exact id
  | cons h hs => exact setX a fun t => rewriteBase (t.getX a) (h :: hs)

end Strand.RegsOnly

end Sys2Proof.Machine

/-! SUPPORT. The frame of LD, FLD and VLD, in the words of the statement. -/

namespace Sys2Proof.Machine

theorem Strand.getF_rebased (t : Strand) (a : BitVec 5) (hops : List Hop) (r : BitVec 5) : (t.rebased a hops).getF r = t.getF r := by
  cases hops with
  | nil => rfl
  | cons x xs => simp [Strand.rebased, Strand.getF]

theorem Strand.getV_rebased (t : Strand) (a : BitVec 5) (hops : List Hop) (r : BitVec 5) : (t.rebased a hops).getV r = t.getV r := by
  cases hops with
  | nil => rfl
  | cons x xs => simp [Strand.rebased, Strand.getV]

section
variable {i : Instr} {f : Form} {a : BitVec 5} {va : Word} {n : Nat} {put : Vec → Strand → Strand} {s t : State}
  (hx : exec i s = issue i (runInstr i (loadFrom f a va n false >>= fun v => modT (put v))) s) (h : exec i s = .next t)
include hx h

/-- What a load leaves in the module. -/
theorem load_module : (∀ l, t.byteAt l = s.byteAt l) ∧ t.tags = s.tags ∧ t.hub = s.hub ∧ t.jobs = s.jobs ∧ t.dies = s.dies ∧
    ∀ h, h ≠ s.cur → t.strand h = s.strand h := by
  obtain ⟨u, still, own, -⟩ := load_ends hx h
  refine ⟨fun l => ?_, own.tags.trans still.tags, own.hub.trans still.hub, own.jobs.trans still.jobs, own.dies.trans still.dies,
    fun h n => (own.strand h (still.cur ▸ n)).trans (still.strand h)⟩
  rw [State.byteAt, own.mem, still.mem, State.byteAt]

/-- What a load leaves in its strand beside its registers. -/
theorem load_strand (regs : ∀ v, Strand.RegsOnly (put v)) : t.me.p = s.me.p ∧ t.me.c = s.me.c ∧ Claims.quietCsrs s t ∧
    t.me.watch = s.me.watch ∧ Claims.trapsOrKeeps s t := by
  obtain ⟨u, -, -, ends⟩ := load_ends hx h
  have only (f : Strand → Strand) (hf : loadChange s.me.log a put f) : Strand.RegsOnly f := by
    obtain ⟨v, hops, -, rfl⟩ := hf
    exact (regs v).comp (.rebased a hops)
  exact ⟨ends.p fun f hf => (only f hf).p _, ends.c fun f hf => (only f hf).c _,
    quietCsrs_of_ends (w := s.me.watch) (st := s.me.status) ends (fun f hf => (only f hf).quiet _) fun f hf => (only f hf).loop _,
    ends.watch fun f hf => (only f hf).watch _,
    trapsOrKeeps_of_ends (w := s.me.watch) (st := s.me.status) ends fun f hf => (only f hf).trapState _⟩

/-- The x registers that it does not name. -/
theorem load_getX {r : BitVec 5} (kept : ∀ v q, (put v q).getX r = q.getX r)
    (hr : r ≠ a ∨ ∀ (v : Vec) (hops : List Hop), Ans.val v hops ∈ s.me.log → hops = []) : t.me.getX r = s.me.getX r := by
  obtain ⟨u, -, -, ends⟩ := load_ends hx h
  refine ends.getX r fun f hf => ?_
  obtain ⟨v, hops, had, rfl⟩ := hf
  have base : (s.me.rebased a hops).getX r = s.me.getX r := by
    cases hops with
    | nil => rfl
    | cons x xs =>
      refine Strand.getX_setX_ne _ _ (hr.resolve_right fun hopless => ?_)
      obtain ⟨w, hw⟩ := had.resolve_left (List.cons_ne_nil x xs)
      exact absurd (hopless w _ hw) (List.cons_ne_nil x xs)
  exact (kept v _).trans base

theorem load_getF {r : BitVec 5} (kept : ∀ v q, (put v q).getF r = q.getF r) : t.me.getF r = s.me.getF r := by
  obtain ⟨u, -, -, ends⟩ := load_ends hx h
  refine ends.getF r fun f hf => ?_
  obtain ⟨v, hops, -, rfl⟩ := hf
  exact (kept v _).trans (s.me.getF_rebased a hops r)

theorem load_getV {r : BitVec 5} (kept : ∀ v q, (put v q).getV r = q.getV r) : t.me.getV r = s.me.getV r := by
  obtain ⟨u, -, -, ends⟩ := load_ends hx h
  refine ends.getV r fun f hf => ?_
  obtain ⟨v, hops, -, rfl⟩ := hf
  exact (kept v _).trans (s.me.getV_rebased a hops r)

end

/-! The three loads. -/

/-- An instruction's body may be written in another way that runs alike. -/
theorem issueRun_congr {i : Instr} {x y : M Unit} {s : State} (e : x ⟨s, s.me.log, [], false⟩ = y ⟨s, s.me.log, [], false⟩) :
    issueRun i x s = issue i (runInstr i y) s := by
  rw [issueRun, issue, issue, runInstr_congr e]

section
variable (d a : BitVec 5) (w : BitVec 3) (o : BitVec 11) (s : State)

theorem exec_ld : exec (.ld d a w o) s = issue (.ld d a w o) (runInstr (.ld d a w o)
    (loadFrom (.load w) a (s.me.getX a + o.signExtend 64) (widthBytes w) false >>= fun v =>
      modT fun t => t.setX d (extendLoad w v))) s := by
  show execLd d a w o s = _
  rw [execLd]
  exact issueRun_congr rfl

theorem exec_fld : exec (.fld d a w o) s = issue (.fld d a w o) (runInstr (.fld d a w o)
    (loadFrom (.fload (widthBytes w)) a (s.me.getX a + o.signExtend 64) (widthBytes w) false >>= fun v =>
      modT fun t => t.setF d (v.setWidth 64))) s := by
  show execFld d a w o s = _
  rw [execFld]
  exact issueRun_congr rfl

theorem exec_vld : exec (.vld d a o) s = issue (.vld d a o) (runInstr (.vld d a o)
    (loadFrom .vload a (addrV s.me a o) 64 false >>= fun v => modT fun t => t.setV d v)) s := by
  show execVld d a o s = _
  rw [execVld]
  exact issueRun_congr rfl

end

end Sys2Proof.Machine

namespace Sys2Proof.Proofs

open Sys2Proof.Machine Sys2Proof.Claims

/-- The frame of LD, FLD and VLD: the first half of O25. -/
theorem loadFrame (i : Instr) (d a : BitVec 5) (w : BitVec 3) (o : BitVec 11) (s t : State)
    (hi : i ∈ [Instr.ld d a w o, .fld d a w o, .vld d a o]) (h : exec i s = .next t) :
    let hopless := ∀ (v : Vec) (hops : List Hop), Ans.val v hops ∈ s.me.log → hops = []
    (∀ l, t.byteAt l = s.byteAt l) ∧ t.tags = s.tags ∧ t.hub = s.hub ∧ t.jobs = s.jobs ∧ t.dies = s.dies ∧
    (∀ r, (r ≠ d ∨ i ≠ .ld d a w o) → (r ≠ a ∨ hopless) → t.me.getX r = s.me.getX r) ∧
    (∀ r, (r ≠ d ∨ i ≠ .fld d a w o) → t.me.getF r = s.me.getF r) ∧
    (∀ r, (r ≠ d ∨ i ≠ .vld d a o) → t.me.getV r = s.me.getV r) ∧ t.me.p = s.me.p ∧ t.me.c = s.me.c ∧
    quietCsrs s t ∧ t.me.watch = s.me.watch ∧ trapsOrKeeps s t ∧ ∀ h, h ≠ s.cur → t.strand h = s.strand h := by
  intro hopless
  simp only [List.mem_cons, List.not_mem_nil, or_false] at hi
  rcases hi with rfl | rfl | rfl
  · obtain ⟨bytes, tags, hub, jobs, dies, others⟩ := load_module (exec_ld d a w o s) h
    obtain ⟨p, c, quiet, watch, traps⟩ := load_strand (exec_ld d a w o s) h fun v => .setX d fun _ => extendLoad w v
    refine ⟨bytes, tags, hub, jobs, dies, fun r hd ha => ?_, fun r _ => ?_, fun r _ => ?_, p, c, quiet, watch, traps, others⟩
    · exact load_getX (exec_ld d a w o s) h (fun v q => q.getX_setX_ne _ (hd.resolve_right fun ne => ne rfl)) ha
    · exact load_getF (exec_ld d a w o s) h fun v q => by simp [Strand.getF]
    · exact load_getV (exec_ld d a w o s) h fun v q => by simp [Strand.getV]
  · obtain ⟨bytes, tags, hub, jobs, dies, others⟩ := load_module (exec_fld d a w o s) h
    obtain ⟨p, c, quiet, watch, traps⟩ := load_strand (exec_fld d a w o s) h fun v => .setF d (v.setWidth 64)
    refine ⟨bytes, tags, hub, jobs, dies, fun r _ ha => ?_, fun r hd => ?_, fun r _ => ?_, p, c, quiet, watch, traps, others⟩
    · exact load_getX (exec_fld d a w o s) h (fun _ _ => rfl) ha
    · exact load_getF (exec_fld d a w o s) h fun v q =>
        (q.getF_setF d r _).trans (if_neg (hd.resolve_right fun ne => ne rfl))
    · exact load_getV (exec_fld d a w o s) h fun _ _ => rfl
  · obtain ⟨bytes, tags, hub, jobs, dies, others⟩ := load_module (exec_vld d a o s) h
    obtain ⟨p, c, quiet, watch, traps⟩ := load_strand (exec_vld d a o s) h fun v => .setV d v
    refine ⟨bytes, tags, hub, jobs, dies, fun r _ ha => ?_, fun r _ => ?_, fun r hd => ?_, p, c, quiet, watch, traps, others⟩
    · exact load_getX (exec_vld d a o s) h (fun _ _ => rfl) ha
    · exact load_getF (exec_vld d a o s) h fun _ _ => rfl
    · exact load_getV (exec_vld d a o s) h fun v q =>
        (q.getV_setV d r _).trans (if_neg (hd.resolve_right fun ne => ne rfl))

end Sys2Proof.Proofs

/-! SUPPORT. The frame of a plain store at its issue (R245, R287, R317, R321). -/

namespace Sys2Proof.Machine

/-! What a write does to strands: it may fire watches, and tell a manager of an event (R287, R361). -/

/-- The registers, pc and mode of a strand. -/
def Strand.regs (t : Strand) := (t.x, t.f, t.v, t.p, t.c, t.pc, t.mode)

/-- From s to t no strand has changed more than its watch, its waiting and its interrupts; of those of compute cores no interrupts. -/
structure State.Stirs (s t : State) : Prop where
  cur : t.cur = s.cur
  hub : t.hub = s.hub
  jobs : t.jobs = s.jobs
  regs : ∀ h, (t.strand h).regs = (s.strand h).regs
  compute : ∀ h, h < 8 * 4096 →
    ∃ w st, (w = (s.strand h).watch ∨ ∃ q, w = .fired q) ∧ t.strand h = (s.strand h).stirred w st

namespace State.Stirs

variable {s t u : State}

theorem of_strands (cur : t.cur = s.cur) (hub : t.hub = s.hub) (jobs : t.jobs = s.jobs) (strand : ∀ h, t.strand h = s.strand h) :
    s.Stirs t where
  cur := cur
  hub := hub
  jobs := jobs
  regs h := by rw [strand]
  compute h _ := ⟨(s.strand h).watch, (s.strand h).status, .inl rfl, strand h⟩

theorem refl (s : State) : s.Stirs s := .of_strands rfl rfl rfl fun _ => rfl

theorem trans (h : s.Stirs t) (k : t.Stirs u) : s.Stirs u where
  cur := k.cur.trans h.cur
  hub := k.hub.trans h.hub
  jobs := k.jobs.trans h.jobs
  regs n := (k.regs n).trans (h.regs n)
  compute n hn := by
    obtain ⟨w, st, hw, e⟩ := h.compute n hn
    obtain ⟨w', st', hw', e'⟩ := k.compute n hn
    rw [e] at hw' e'
    refine ⟨w', st', ?_, e'⟩
    rcases hw' with rfl | hq
    · exact hw
    · exact .inr hq

theorem foldl {β : Type} {step : State → β → State} (h : ∀ (s : State) b, s.Stirs (step s b)) (bs : List β) (s : State) :
    s.Stirs (bs.foldl step s) := by
  induction bs generalizing s with
  | nil => exact refl s
  | cons b bs ih => exact (h s b).trans (ih _)

theorem modCore (s : State) (c : Nat) (f : Core → Core) : s.Stirs (s.modCore c f) := .of_strands rfl rfl rfl fun _ => rfl
theorem modDie (s : State) (d : Nat) (f : Die → Die) : s.Stirs (s.modDie d f) := .of_strands rfl rfl rfl fun _ => rfl
theorem putRaw (s : State) (l : Loc) (bs : List Byte) : s.Stirs (s.putRaw l bs) := .of_strands rfl rfl rfl fun _ => rfl
theorem setTag (s : State) (l : Loc) (x : WordTag) : s.Stirs (s.setTag l x) := .of_strands rfl rfl rfl fun _ => rfl

/-- A strand whose watch fires, or that is woken. -/
theorem modStrand (s : State) (h : Nat) {f : Strand → Strand} (regs : ∀ t, (f t).regs = t.regs)
    (stirs : h < 8 * 4096 → ∀ t, ∃ w st, (w = t.watch ∨ ∃ q, w = .fired q) ∧ f t = t.stirred w st) : s.Stirs (s.modStrand h f) where
  cur := rfl
  hub := rfl
  jobs := rfl
  regs n := by
    by_cases e : h = n
    · rw [e, State.strand_modStrand_same, regs]
    · rw [State.strand_modStrand_ne s f e]
  compute n hn := by
    by_cases e : h = n
    · subst e
      obtain ⟨w, st, hw, same⟩ := stirs hn (s.strand h)
      exact ⟨w, st, hw, by rw [State.strand_modStrand_same, same]⟩
    · exact ⟨(s.strand n).watch, (s.strand n).status, .inl rfl, State.strand_modStrand_ne s f e⟩

theorem wake (s : State) (h : Nat) : s.Stirs (s.wake h) :=
  modStrand s h (fun _ => rfl) fun _ t => ⟨t.watch, .ready, .inl rfl, rfl⟩

theorem wakeWfi (s : State) (h : Nat) : s.Stirs (s.wakeWfi h) := by
  unfold State.wakeWfi
  split
  · exact wake s h
  · exact refl s

/-- A die's manager is a strand of a control core (R361). -/
theorem signalManager (s : State) (d : Nat) : s.Stirs (s.signalManager d) := by
  unfold State.signalManager
  split
  · rename_i h hm
    have control : ¬ h < 8 * 4096 := by
      rw [State.manager] at hm
      split at hm
      · have := Option.some.inj hm
        omega
      · cases hm
    unfold State.raiseExt
    refine trans ?_ (wakeWfi _ h)
    exact modStrand s h (fun _ => rfl) fun n => absurd n control
  · exact refl s

theorem logError (s : State) (d : Nat) (addr : Word) (epid source event : Nat) : s.Stirs (s.logError d addr epid source event) := by
  unfold State.logError
  dsimp only
  split
  · split
    · exact modDie s d _
    · exact (modDie s d _).trans (signalManager _ d)
  · exact (modDie s d _).trans (signalManager _ d)

theorem dropWatch (s : State) (h : Nat) : s.Stirs (s.dropWatch h) := .of_strands rfl rfl rfl fun _ => rfl

theorem fireWatch (s : State) (h : Nat) : s.Stirs (s.fireWatch h) := by
  unfold State.fireWatch
  dsimp only
  split
  · rename_i va _ _
    have fired : s.Stirs ((s.modStrand h fun t => { t with watch := .fired va }).dropWatch h) := by
      refine trans ?_ (dropWatch _ h)
      exact modStrand s h (fun _ => rfl) fun _ t => ⟨.fired va, t.status, .inr ⟨va, rfl⟩, rfl⟩
    split
    · split
      · exact fired.trans (wake _ h)
      · exact fired
    · exact fired
  · exact refl s

theorem recordLine (s : State) (c : Nat) (w : Loc) : s.Stirs (s.recordLine c w) := by
  unfold State.recordLine
  dsimp only
  split
  · exact refl s
  · split
    · exact modCore s c _
    · split
      · exact (modCore s c _).trans (modCore _ c _)
      · exact (modCore s c _).trans (modCore _ c _)

theorem writeWord (s : State) (w l : Loc) (bs : List Byte) (fe : Option Bool) : s.Stirs (s.writeWord w l bs fe) := by
  unfold State.writeWord
  dsimp only
  split
  · exact (putRaw s _ _).trans (setTag _ _ _)
  · split
    · exact logError s _ _ _ _ _
    · split
      · exact (putRaw s _ _).trans (setTag _ _ _)
      · exact putRaw s _ _

theorem write (s : State) (c : Nat) (l : Loc) (bs : List Byte) (fe : Option Bool) : s.Stirs (s.write c l bs fe) := by
  unfold State.write
  exact ((foldl (fun s w => recordLine s c w) _ s).trans (foldl (fun s w => writeWord s w l bs fe) _ _)).trans
    (foldl (fun s (e : Nat × PathEntry) => fireWatch s e.2.acc.strand) _ _)

end State.Stirs

theorem State.Still.stirs {s t : State} (h : s.Still t) : s.Stirs t := .of_strands h.cur h.hub h.jobs h.strand

end Sys2Proof.Machine

/-! SUPPORT. A plain store at its issue: what each way leaves (R219, R245, R355). -/

namespace Sys2Proof.Machine

/-- A step at issue that leaves a state with P, and takes no hop where it goes on. -/
def Issues (P : State → Prop) : EStateM.Result Stop Run (List Hop) → Prop
  | .ok hops r => hops = [] ∧ P r.s
  | .error _ r => P r.s

section
variable {s : State} {va : Word} {n : Nat} {l : Loc} {m : Bool} {new : List Ans} {leaves sure : Bool} {k : AccKind}

set_option exponentiation.threshold 512 in
/-- An action that finds no room parks its strand. The option lets Lean evaluate the 512-bit literal that `actOnce` matches on. -/
theorem actOnce_parks {full : State → Bool} {p : Park} {a : State → Act} (none_ : full s = true) :
    actOnce full p a ⟨s, [], new, leaves⟩ = .error (.park p) ⟨s, [], new ++ [.val 1 []], leaves⟩ := by
  rw [actOnce, run_bind, act_now _ rfl]
  dsimp only
  rw [none_, if_pos rfl]
  show (act (fun s => if full s then .park p s else a s) >>= fun _ => pure ()) _ = _
  rw [run_bind, act_now _ rfl]
  dsimp only
  rw [none_, if_pos rfl]

/-- A store elsewhere is posted, parked, sent or refused: nothing is stored yet. -/
theorem storeTo_away (hl : l.home ≠ .unit s.here) : Issues s.Still (storeTo va l m k n sure ⟨s, [], new, leaves⟩) := by
  cases posts : storePosts l m with
  | true =>
    by_cases room : (s.core s.here).posted.length < 16
    · rw [storeTo_posted hl posts room]
      cases s.chanTrap va l k with
      | some tr => exact .refl s
      | none =>
        refine ⟨rfl, ?_⟩
        dsimp only
        exact (State.Still.refl s).modCore _ _
    · rw [storeTo, run_bind, run_getS]
      dsimp only
      rw [if_neg (by simpa using hl), if_pos posts, run_bind, actOnce_parks (by simpa using room)]
      exact .refl s
  | false =>
    have own : (l.home == .unit s.here) = false := by simpa using hl
    rw [storeTo, run_bind, run_getS]
    dsimp only
    rw [own, if_neg Bool.false_ne_true, posts, if_neg Bool.false_ne_true]
    unfold access
    rw [run_bind, run_bind, run_getS]
    dsimp only
    rw [own, Bool.false_and, Bool.false_and, run_bind, act_now _ rfl]
    exact sendAct_still (.refl s) { s.accessOf true va l n k with sure := sure } false

theorem State.perform_store_state {u t : State} {c : Nat} {a : Access} {bs : List Byte} {v : Vec} (hk : a.kind = .store bs none false)
    (h : u.perform c a = .done t v) : t = u.write c a.loc bs none := by
  unfold State.perform at h
  rw [hk] at h
  dsimp only at h
  split at h
  · cases h
  · cases h
  · rw [if_neg Bool.false_ne_true] at h
    exact (PerfResult.done.inj h).1.symm

/-- A store performed now writes its bytes, or does nothing. -/
theorem performNow_store {a : Access} {bs : List Byte} (hk : a.kind = .store bs none false) :
    s.Still (s.performNow s.here a).state ∨ (s.performNow s.here a).state = s.write s.here a.loc bs none := by
  unfold State.performNow
  cases e : s.perform s.here a with
  | done t v => exact .inr (State.perform_store_state hk e)
  | poisoned k => exact .inl (.refl s)
  | waits => exact .inl ((State.Still.refl s).withRetry _)
  | slip d k => exact .inl (.refl s)

/-- A store of the own unit scratch is performed, or waits for a tile that moves. -/
theorem storeTo_here (hl : l.home = .unit s.here) (bs : List Byte) :
    Issues (fun u => s.Still u ∨ u = s.write s.here l bs none) (storeTo va l m (.store bs none false) n sure ⟨s, [], new, leaves⟩) := by
  have own : (l.home == .unit s.here) = true := by simpa using hl
  have now := performNow_store (s := s) (bs := bs)
    (a := { s.accessOf true va l n (.store bs none false) with sure := false }) rfl
  rw [storeTo_own hl, access, run_bind, run_bind, run_getS]
  dsimp only
  rw [own, run_bind, act_now _ rfl, Bool.not_false, Bool.and_true, Bool.and_true, if_pos rfl]
  dsimp only at now ⊢
  cases e : s.performNow s.here _ with
  | ok x t =>
    rw [e] at now
    cases x with
    | val v hops => exact ⟨performNow_hops e, now⟩
    | _ => exact ⟨rfl, now⟩
  | trap tr t => rw [e] at now; exact now
  | park p t => rw [e] at now; exact now

end

end Sys2Proof.Machine

/-! SUPPORT. What a plain store leaves at its issue, in the words of the statement (R245, R287, R314, R317, R321). -/

namespace Sys2Proof.Machine

/-! Only a compute core's own address reaches its unit scratch (R314). -/

theorem placePhysical_home (p l a c : Nat) : (placePhysical p l a).home ≠ .unit c := by
  unfold placePhysical
  split
  · exact Home.noConfusion
  · split <;> exact Home.noConfusion

theorem lookup_home {s : State} {c d : Nat} {mode : Mode} {va : Word} {need : Need} {l : Loc} {m : Bool}
    (h : s.lookup c mode va need = .ok l m) : l.home ≠ .unit d := by
  unfold State.lookup at h
  dsimp only at h
  split at h
  · split at h
    · cases h
    · split at h
      · cases h
      · split at h
        · obtain ⟨rfl, -⟩ := Translation.ok.inj h
          exact placePhysical_home _ _ _ d
        · split at h <;> cases h
  · split at h <;> cases h

theorem ok_home {x y : Loc} {v w : View} {m k : Bool} {d : Nat} (h : Resolved.ok x v m = .ok y w k) (hl : y.home = .unit d) :
    x.home = .unit d := by
  rwa [(Resolved.ok.inj h).1]

theorem windowPlace_unit {s : State} {c d : Nat} {mode : Mode} {f : Form} {a n : Nat} {l : Loc} {v : View} {m : Bool}
    (h : s.windowPlace c mode f a n = .ok l v m) (hl : l.home = .unit d) : isControl c = false := by
  by_contra control
  rw [Bool.not_eq_false] at control
  unfold State.windowPlace at h
  dsimp only at h
  generalize windowOf a = window at h
  obtain ⟨w, o⟩ := window
  cases w <;> simp only [control, Bool.true_or, if_true, reduceCtorEq] at h
  case peer k =>
    split at h
    · cases h
    · exact Home.noConfusion (ok_home h hl)
  case die =>
    generalize (if o < 2 ^ 32 then (dieOf c, o) else (o / 2 ^ 32 - 1, o % 2 ^ 32)) = q at h
    split at h
    · cases h
    · split at h
      · cases h
      · exact Home.noConfusion (ok_home h hl)
  case priv =>
    split at h
    · cases h
    split at h
    · split at h
      · exact Home.noConfusion (ok_home h hl)
      · cases h
    split at h
    · split at h
      · split at h
        · exact Home.noConfusion (ok_home h hl)
        · exact Home.noConfusion (ok_home h hl)
        · cases h
      · split at h
        · exact Home.noConfusion (ok_home h hl)
        · cases h
    · cases h

theorem place_unit {s : State} {f : Form} {va : Word} {n d : Nat} {l : Loc} {v : View} {m : Bool}
    (h : Claims.place s f va n = .ok l v m) (hl : l.home = .unit d) : s.cur < 8 * 4096 := by
  have control : isControl s.here = false → s.cur < 8 * 4096 := by
    rw [isControl, State.here, coreOf, decide_eq_false_iff_not]
    omega
  rw [Claims.place, State.resolve] at h
  rw [Bool.not_false, Bool.true_and] at h
  split at h
  · cases h
  split at h
  · cases h
  split at h
  · cases h
  split at h
  · cases e : s.lookup s.here s.me.mode va f.need with
    | ok l' m' =>
      rw [e] at h
      obtain ⟨rfl, -⟩ := Resolved.ok.inj h
      exact absurd hl (lookup_home e)
    | fault t => rw [e] at h; cases h
    | miss => rw [e] at h; cases h
  · cases e : s.windowPlace s.here s.me.mode f va.toNat n with
    | ok l' v' m' =>
      rw [e] at h
      dsimp only at h
      split at h
      · obtain ⟨rfl, -⟩ := Resolved.ok.inj h
        exact control (windowPlace_unit e hl)
      · cases h
    | trap t => rw [e] at h; cases h
    | miss => rw [e] at h; cases h

/-! What the store leaves. -/

/-- From s to u a store whose address resolved to p has changed no more than strands stirred, and bytes at its place. -/
structure State.StoreLeaves (s : State) (p : Resolved) (n : Nat) (u : State) : Prop where
  stirs : s.Stirs u
  me : ∃ w st, (w = s.me.watch ∨ ∃ q, w = .fired q) ∧ u.me = s.me.stirred w st
  outside : ∀ l view m, p = .ok l view m → ∀ q, ¬ (l.key ≤ q.key ∧ q.key < l.key + n) → u.byteAt q = s.byteAt q
  away : ∀ l view m, p = .ok l view m → l.home ≠ .unit s.here → ∀ q, u.byteAt q = s.byteAt q
  unplaced : (∀ l view m, p ≠ .ok l view m) → ∀ q, u.byteAt q = s.byteAt q

theorem State.Still.byteAt {s u : State} (h : s.Still u) (q : Loc) : u.byteAt q = s.byteAt q := by
  rw [State.byteAt, h.mem, State.byteAt]

theorem State.Still.storeLeaves {s u : State} (h : s.Still u) (p : Resolved) (n : Nat) : s.StoreLeaves p n u where
  stirs := h.stirs
  me := ⟨s.me.watch, s.me.status, .inl rfl, h.me⟩
  outside _ _ _ _ q _ := h.byteAt q
  away _ _ _ _ _ q := h.byteAt q
  unplaced _ q := h.byteAt q

theorem State.storeLeaves_write {s : State} {l : Loc} {view : View} {m : Bool} {p : Resolved} {bs : List Byte}
    (hp : p = .ok l view m) (hl : l.home = .unit s.here) (compute : s.cur < 8 * 4096) :
    s.StoreLeaves p bs.length (s.write s.here l bs none) where
  stirs := .write s s.here l bs none
  me := by
    have stirs := State.Stirs.write s s.here l bs none
    obtain ⟨w, st, hw, same⟩ := stirs.compute s.cur compute
    refine ⟨w, st, hw, ?_⟩
    rw [State.me, stirs.cur, same, State.me]
  outside l' view' m' hp' q hq := by
    obtain ⟨rfl, -, -⟩ := Resolved.ok.inj (hp.symm.trans hp')
    exact (State.WritesWithin.write l bs s.here none).bytes q hq
  away l' view' m' hp' hl' q := by
    obtain ⟨rfl, -, -⟩ := Resolved.ok.inj (hp.symm.trans hp')
    exact absurd hl hl'
  unplaced no q := absurd hp (no l view m)

/-! The store as one step and one change of its strand. -/

/-- The access of a store. -/
def storeStep (f : Form) (va : Word) (bs : List Byte) : M (List Hop) := do
  let (l, _, m) ← resolve f va bs.length
  storeTo va l m (storeKind l bs) bs.length

theorem storeBytes_eq (f : Form) (a : BitVec 5) (va : Word) (bs : List Byte) (r : Run) :
    storeBytes f a va bs r = (storeStep f va bs >>= fun hops => modT fun t => t.rebased a hops) r := by
  rw [storeBytes, storeStep, run_bind, run_bind, run_bind]
  cases resolve f va bs.length false r with
  | error e q => rfl
  | ok p q =>
    obtain ⟨l, view, m⟩ := p
    dsimp only
    rw [run_bind]
    rfl

theorem Issues.imp {P Q : State → Prop} {x : EStateM.Result Stop Run (List Hop)} (h : Issues P x) (pq : ∀ u, P u → Q u) :
    Issues Q x := by
  cases x with
  | ok hops r => exact ⟨h.1, pq _ h.2⟩
  | error e r => exact pq _ h

theorem Issues.leaves {P : State → Prop} {x : EStateM.Result Stop Run (List Hop)} (h : Issues P x) : LeavesState P x := by
  cases x with
  | ok hops r => exact h.2
  | error e r => exact h

theorem resolve_misses {s : State} {f : Form} {va : Word} {n : Nat} {new : List Ans} {leaves : Bool}
    (h : Claims.place s f va n = .miss) : resolve f va n false ⟨s, [], new, leaves⟩ =
      .error (.park (.walk va f.need.writes false)) ⟨s.startWalk s.here s.me.mode va f.need.writes true, [], new, leaves⟩ := by
  have stops : resolveAct f va n false s =
      .park (.walk va f.need.writes false) (s.startWalk s.here s.me.mode va f.need.writes true) := by
    rw [resolveAct, show s.resolve s.here s.me.mode f va n false = .miss from h]
  rw [resolve, run_bind, act_now _ rfl, stops]

theorem storeStep_issues (s : State) (f : Form) (va : Word) (bs : List Byte) (new : List Ans) (leaves : Bool) :
    Issues (s.StoreLeaves (Claims.place s f va bs.length) bs.length) (storeStep f va bs ⟨s, [], new, leaves⟩) := by
  rw [storeStep, run_bind]
  cases e : Claims.place s f va bs.length with
  | ok l view m =>
    rw [resolve_found e]
    dsimp only
    by_cases hl : l.home = .unit s.here
    · rw [storeKind_unit hl]
      refine (storeTo_here hl bs).imp fun u hu => ?_
      rcases hu with still | rfl
      · exact still.storeLeaves _ _
      · exact State.storeLeaves_write rfl hl (place_unit e hl)
    · exact (storeTo_away hl).imp fun u still => still.storeLeaves _ _
  | trap tr =>
    rw [resolve_trapped e]
    exact (State.Still.refl s).storeLeaves _ _
  | miss =>
    rw [resolve_misses e]
    exact ((State.Still.refl s).startWalk _ _ _ _ _).storeLeaves _ _

/-- However a store ends at its issue, its strand is trapped, waits, or is past it with its registers as they were. -/
theorem store_ends {i : Instr} {f : Form} {a : BitVec 5} {va : Word} {bs : List Byte} {s t : State}
    (hx : exec i s = issue i (runInstr i (storeBytes f a va bs)) s) (hl : s.me.log = []) (h : exec i s = .next t) :
    ∃ u, s.StoreLeaves (Claims.place s f va bs.length) bs.length u ∧ u.OwnOnly t ∧
      Strand.Ends s.cur u.me (fun f => f = id) t.me := by
  have run := hx.symm.trans h
  cases refused : refusal i s with
  | some tr =>
    rw [issue_stop _ refused] at run
    obtain rfl := Host.Outcome.next.inj run
    refine ⟨s, (State.Still.refl s).storeLeaves _ _, ⟨fun _ n => State.takeTrap_strand_ne s tr n, rfl, rfl, rfl, rfl, rfl⟩, ?_⟩
    rw [State.takeTrap_me]
    exact .traps tr
  | none =>
    have issues : Issues (s.StoreLeaves (Claims.place s f va bs.length) bs.length) (storeStep f va bs ⟨s, s.me.log, [], false⟩) := by
      rw [hl]
      exact storeStep_issues s f va bs [] false
    rw [issue_pass _ refused, runInstr_congr (storeBytes_eq ..)] at run
    obtain ⟨u, leaves, own, ends⟩ := runInstr_ends issues.leaves (fun _ hu => State.Stirs.cur hu.stirs) run
    refine ⟨u, leaves, own, ends.imp ?_⟩
    rintro g ⟨hops, r, step, rfl⟩
    rw [step] at issues
    rw [issues.1]
    rfl

/-! In the words of the statement. -/

section
variable {i : Instr} {f : Form} {a : BitVec 5} {va : Word} {bs : List Byte} {s t : State}
  (hx : exec i s = issue i (runInstr i (storeBytes f a va bs)) s) (hl : s.me.log = []) (h : exec i s = .next t)
include hx hl h

theorem store_frame :
    (∀ l view m, Claims.place s f va bs.length = .ok l view m →
      ∀ q, ¬ (l.key ≤ q.key ∧ q.key < l.key + bs.length) → t.byteAt q = s.byteAt q) ∧
    (∀ l view m, Claims.place s f va bs.length = .ok l view m → l.home ≠ .unit s.here → ∀ q, t.byteAt q = s.byteAt q) ∧
    ((∀ l view m, Claims.place s f va bs.length ≠ .ok l view m) → ∀ q, t.byteAt q = s.byteAt q) ∧
    t.me.x = s.me.x ∧ t.me.f = s.me.f ∧ t.me.v = s.me.v ∧ t.me.p = s.me.p ∧ t.me.c = s.me.c ∧ Claims.quietCsrs s t ∧
    (t.me.watch = s.me.watch ∨ ∃ q, t.me.watch = .fired q) ∧ Claims.trapsOrKeeps s t ∧ t.hub = s.hub ∧ t.jobs = s.jobs ∧
    ∀ h, h ≠ s.cur → (t.strand h).x = (s.strand h).x ∧ (t.strand h).f = (s.strand h).f ∧ (t.strand h).v = (s.strand h).v ∧
      (t.strand h).p = (s.strand h).p ∧ (t.strand h).c = (s.strand h).c ∧ (t.strand h).pc = (s.strand h).pc ∧
      (t.strand h).mode = (s.strand h).mode := by
  obtain ⟨u, leaves, own, ends⟩ := store_ends hx hl h
  obtain ⟨w, st, hw, me⟩ := leaves.me
  rw [me] at ends
  have bytes (q : Loc) : t.byteAt q = u.byteAt q := by rw [State.byteAt, own.mem, State.byteAt]
  have only (f : Strand → Strand) (hf : f = id) : Strand.RegsOnly f := hf ▸ .id
  refine ⟨fun l view m hp q hq => (bytes q).trans (leaves.outside l view m hp q hq),
    fun l view m hp away q => (bytes q).trans (leaves.away l view m hp away q),
    fun no q => (bytes q).trans (leaves.unplaced no q), ends.x ?_, ends.f ?_, ends.v ?_,
    ends.p fun f hf => (only f hf).p _, ends.c fun f hf => (only f hf).c _,
    quietCsrs_of_ends ends (fun f hf => (only f hf).quiet _) fun f hf => (only f hf).loop _, ?_,
    trapsOrKeeps_of_ends ends fun f hf => (only f hf).trapState _, own.hub.trans leaves.stirs.hub, own.jobs.trans leaves.stirs.jobs,
    fun n hn => ?_⟩
  · rintro f rfl; rfl
  · rintro f rfl; rfl
  · rintro f rfl; rfl
  · rw [ends.watch fun f hf => (only f hf).watch _]
    exact hw
  · have regs := leaves.stirs.regs n
    rw [← own.strand n (leaves.stirs.cur ▸ hn)] at regs
    simpa [Strand.regs] using regs

end

section
variable (b a : BitVec 5) (w : BitVec 3) (o : BitVec 11) (s : State)

theorem exec_st : exec (.st b a w o) s = issue (.st b a w o) (runInstr (.st b a w o)
    (storeBytes (.store (widthBytes w)) a (s.me.getX a + o.signExtend 64) (bytesOfNat (widthBytes w) (s.me.getX b).toNat))) s := by
  show execSt b a w o s = _
  rw [execSt]
  exact issueRun_congr rfl

theorem exec_fst : exec (.fst b a w o) s = issue (.fst b a w o) (runInstr (.fst b a w o)
    (storeBytes .fstore a (s.me.getX a + o.signExtend 64) (bytesOfNat (widthBytes w) (s.me.getF b).toNat))) s := by
  show execFst b a w o s = _
  rw [execFst]
  exact issueRun_congr rfl

theorem exec_vst : exec (.vst b a o) s = issue (.vst b a o) (runInstr (.vst b a o)
    (storeBytes .vstore a (addrV s.me a o) (bytesOfNat 64 (s.me.getV b).toNat))) s := by
  show execVst b a o s = _
  rw [execVst]
  exact issueRun_congr rfl

end

end Sys2Proof.Machine

namespace Sys2Proof.Proofs

open Sys2Proof.Machine Sys2Proof.Claims

/-- Settles O25: what a load leaves however it ends, and what a store leaves at its issue. -/
theorem loadAndStoreFrame : Obligations.LoadAndStoreFrame := by
  refine ⟨loadFrame, ?_⟩
  intro i f va n b a w o s t hi hl h
  simp only [List.mem_cons, List.not_mem_nil, or_false, Prod.mk.injEq] at hi
  rcases hi with ⟨rfl, rfl, rfl, rfl⟩ | ⟨rfl, rfl, rfl, rfl⟩ | ⟨rfl, rfl, rfl, rfl⟩
  · have frame := store_frame (exec_st b a w o s) hl h
    rw [length_bytesOfNat] at frame
    exact frame
  · have frame := store_frame (exec_fst b a w o s) hl h
    rw [length_bytesOfNat] at frame
    exact frame
  · have frame := store_frame (exec_vst b a o s) hl h
    rw [length_bytesOfNat, addrV_eq] at frame
    exact frame

end Sys2Proof.Proofs

/-! SUPPORT. The moves that the dies' engines hold (R270), and what leaves them as they are. -/

namespace Sys2Proof.Machine

section
variable (s : State)

@[simp] theorem State.fireWatch_dies (h : Nat) : (s.fireWatch h).dies = s.dies := by
  unfold State.fireWatch; dsimp only; repeat' split
  all_goals rfl
@[simp] theorem State.fireWatches_dies (ws : List Loc) : (s.fireWatches ws).dies = s.dies :=
  foldl_keeps State.dies (fun s _ => s.fireWatch_dies _) _ _
@[simp] theorem State.fireWatch_cores (h : Nat) : (s.fireWatch h).cores = s.cores := by
  unfold State.fireWatch; dsimp only; repeat' split
  all_goals rfl
@[simp] theorem State.fireWatches_cores (ws : List Loc) : (s.fireWatches ws).cores = s.cores :=
  foldl_keeps State.cores (fun s _ => s.fireWatch_cores _) _ _
@[simp] theorem State.recordLine_dies (c : Nat) (w : Loc) : (s.recordLine c w).dies = s.dies := by
  unfold State.recordLine; dsimp only; repeat' split
  all_goals rfl
@[simp] theorem State.touchLeaf_dies (l : Loc) (e : Word) (write : Bool) : (s.touchLeaf l e write).dies = s.dies := by
  simp [State.touchLeaf]
@[simp] theorem State.wakeMatrix_dies (c : Nat) : (s.wakeMatrix c).dies = s.dies :=
  foldl_keeps State.dies (fun _ _ => by split <;> rfl) _ _
@[simp] theorem State.freeHeld_dies (m : Held) : (s.freeHeld m).dies = s.dies := by
  unfold State.freeHeld; split <;> simp
@[simp] theorem State.placeMessage_dies (m : Held) : (s.placeMessage m).dies = s.dies := by
  unfold State.placeMessage; dsimp only; repeat' split
  all_goals simp [State.wake]
@[simp] theorem State.recheck_dies (h : Nat) : (s.recheck h).dies = s.dies := by
  unfold State.recheck; repeat' split
  all_goals rfl
@[simp] theorem State.deliver_dies (m : Held) : (s.deliver m).dies = s.dies := by simp [State.deliver]

@[simp] theorem State.walkNow_dies (k asid : Nat) (root : Word) (mode : Mode) (va : Word) (need : Need) (setsA : Bool) :
    (s.walkNow k asid root mode va need setsA).2.dies = s.dies := by
  unfold State.walkNow; dsimp only; repeat' split
  all_goals simp

@[simp] theorem State.translate_dies (c : Nat) (mode : Mode) (va : Word) (need : Need) :
    (s.translate c mode va need).2.dies = s.dies := by
  unfold State.translate; split <;> simp

end

/-- No die's engine holds a move with this ID of this core. -/
def State.NoMove (s : State) (c id : Nat) : Prop := ∀ p ∈ s.dies, ∀ b ∈ p.2.barchan, ¬ (b.core = c ∧ b.id = id)

theorem State.noMove_iff {s : State} {c id : Nat} : s.NoMove c id ↔ s.barchan? c id = none := by
  rw [State.barchan?, List.find?_eq_none]
  constructor
  · intro h x hx
    obtain ⟨p, hp, hx⟩ := List.mem_flatMap.1 hx
    obtain ⟨b, hb, rfl⟩ := List.mem_map.1 hx
    simpa using h p hp b hb
  · intro h p hp b hb
    simpa using h (p.1, b) (List.mem_flatMap.2 ⟨p, hp, List.mem_map.2 ⟨b, hb, rfl⟩⟩)

namespace State.NoMove

variable {s t : State} {c id : Nat}

theorem of_dies (h : s.NoMove c id) (e : t.dies = s.dies) : t.NoMove c id := by
  intro p hp
  rw [e] at hp
  exact h p hp

/-- A die changed elsewhere than in its engine. -/
theorem modDie (h : s.NoMove c id) (d : Nat) {f : Die → Die} (keeps : ∀ q, (f q).barchan = q.barchan) :
    (s.modDie d f).NoMove c id := by
  intro p hp
  rcases mem_tableSet _ _ _ _ hp with rfl | old
  · show ∀ b ∈ (f (s.die d)).barchan, _
    rw [keeps, State.die]
    rcases tableGet_mem Die.reset s.dies d with e | e
    · rw [e]
      exact fun b hb => absurd hb List.not_mem_nil
    · exact h _ e
  · exact h p old

theorem signalManager (h : s.NoMove c id) (d : Nat) : (s.signalManager d).NoMove c id := h.of_dies (s.signalManager_dies d)

theorem logError (h : s.NoMove c id) (d : Nat) (addr : Word) (epid source event : Nat) :
    (s.logError d addr epid source event).NoMove c id := by
  unfold State.logError
  dsimp only
  split
  · split
    · exact h.modDie d fun _ => rfl
    · refine signalManager ?_ d
      exact h.modDie d fun _ => rfl
  · refine signalManager ?_ d
    exact h.modDie d fun _ => rfl

theorem foldl {β : Type} {step : State → β → State} (keeps : ∀ s b, State.NoMove s c id → (step s b).NoMove c id)
    (h : s.NoMove c id) (bs : List β) : (bs.foldl step s).NoMove c id := by
  induction bs generalizing s with
  | nil => exact h
  | cons b bs ih => exact ih (keeps s b h)

theorem writeWord (h : s.NoMove c id) (w l : Loc) (bs : List Byte) (fe : Option Bool) : (s.writeWord w l bs fe).NoMove c id := by
  unfold State.writeWord
  dsimp only
  split
  · exact h.of_dies rfl
  · split
    · exact h.logError _ _ _ _ _
    · split <;> exact h.of_dies rfl

theorem write (h : s.NoMove c id) (core : Nat) (l : Loc) (bs : List Byte) (fe : Option Bool) :
    (s.write core l bs fe).NoMove c id := by
  unfold State.write
  refine of_dies ?_ (State.fireWatches_dies _ _)
  refine foldl (fun s w h => h.writeWord w l bs fe) ?_ _
  exact h.of_dies (foldl_keeps State.dies (fun s w => s.recordLine_dies core w) _ _)

theorem translated (h : s.NoMove c id) {core : Nat} {mode : Mode} {va : Word} {need : Need} {x : Translation}
    (e : s.translate core mode va need = (x, t)) : t.NoMove c id := by
  have kept := s.translate_dies core mode va need
  rw [e] at kept
  exact h.of_dies kept

/-- A queue entry spilled to memory (R283). -/
theorem spillEntry (h : s.NoMove c id) (core : Nat) (e : Spill) : (s.spillEntry core e).NoMove c id := by
  refine foldl (fun s p h => ?_) (s := s.modCore core _) (h.of_dies rfl) _
  split
  · exact (h.translated ‹_›).write _ _ _ _
  · exact h.translated ‹_›

theorem post (h : s.NoMove c id) (m : Held) : (s.post m).NoMove c id := by
  unfold State.post
  dsimp only
  split
  · exact (h.of_dies (s.freeHeld_dies m)).spillEntry _ _
  · split
    · exact h.of_dies (s.deliver_dies m)
    · exact h.of_dies rfl

/-- The message of an operation starts no move. -/
theorem completeOp (h : s.NoMove c id) (core op : Nat) : (s.completeOp core op).NoMove c id := by
  unfold State.completeOp
  split
  · split
    · split
      · exact h
      · exact (h.post _).of_dies (State.recheck_dies _ _)
    · exact h
  · exact h

end State.NoMove

end Sys2Proof.Machine

/-! SUPPORT. A move that a die's engine holds, step by step (R235, R270, R271). -/

namespace Sys2Proof.Machine

/-- Die d is the module's one die that is not as reset, and its engine's first move is b. -/
def State.HoldsMove (s : State) (d : Nat) (b : Barchan) (bs : List Barchan) (core id : Nat) : Prop :=
  s.dies = [(d, { s.die d with barchan := b :: bs })] ∧ b.core = core ∧ b.id = id

section
variable {s t : State} {d core id : Nat} {b : Barchan} {bs : List Barchan}

theorem State.barchan?_of_dies {q : Die} (h : s.dies = [(d, q)]) (hb : ∃ bs, q.barchan = b :: bs) (hc : b.core = core)
    (hi : b.id = id) : s.barchan? core id = some (d, b) := by
  obtain ⟨bs, hb⟩ := hb
  simp [State.barchan?, h, hb, hc, hi]

namespace State.HoldsMove

theorem barchan? (h : s.HoldsMove d b bs core id) : s.barchan? core id = some (d, b) :=
  State.barchan?_of_dies h.1 ⟨bs, rfl⟩ h.2.1 h.2.2

theorem of_dies (h : s.HoldsMove d b bs core id) (e : t.dies = s.dies) : t.HoldsMove d b bs core id := by
  obtain ⟨hd, hc, hi⟩ := h
  refine ⟨?_, hc, hi⟩
  rw [State.die, e]
  exact hd

/-- The die's engine after a change of it. -/
theorem modDie (h : s.HoldsMove d b bs core id) (f : Die → Die) : (s.modDie d f).dies = [(d, f (s.die d))] := by
  show tableSet s.dies d (f (s.die d)) = _
  rw [h.1]
  simp [tableSet]

theorem die_barchan (h : s.HoldsMove d b bs core id) : (s.die d).barchan = b :: bs := by
  rw [State.die, h.1]
  simp [tableGet]

/-- The move after a change that leaves it its core and its ID. -/
theorem modBarchan (h : s.HoldsMove d b bs core id) {f : Barchan → Barchan} (hc : (f b).core = b.core) (hi : (f b).id = b.id) :
    (s.modBarchan d core id f).barchan? core id = some (d, f b) := by
  have hc' := hc.trans h.2.1
  have hi' := hi.trans h.2.2
  refine State.barchan?_of_dies (h.modDie _) ?_ hc' hi'
  dsimp only
  rw [h.die_barchan, List.map_cons, if_pos h.2]
  exact ⟨_, rfl⟩

/-- An engine that holds a move no longer. -/
theorem noMove_filter (h : s.HoldsMove d b bs core id) :
    (s.modDie d fun q => { q with barchan := q.barchan.filter fun o => !(o.core == core && o.id == id) }).NoMove core id := by
  intro p hp
  rw [h.modDie, List.mem_singleton] at hp
  subst hp
  intro x hx
  have kept := (List.mem_filter.1 hx).2
  rintro ⟨hc, hi⟩
  rw [hc, hi] at kept
  simp at kept

end State.HoldsMove

end

/-! What an operation of the engine is when it stops. -/

section
variable {s : State} {core id : Nat} {o : EngineOp}

theorem State.stopOp_done {t : State} (h : (t.core core).op? id = some o) (status : Nat) (word1 : Word) (flags : FlagSet) :
    (((t.stopOp core id status word1 flags).core core).op? id).map EngineOp.done =
      some (some { status := status, word1 := word1, flags := flags }) := by
  rw [State.stopOp, State.op?_modOp _ core id (fun o => { o with reads := [], done := some _ }) fun _ => rfl, h]
  rfl

theorem State.core_of_cores {s t : State} (h : t.cores = s.cores) (c : Nat) : t.core c = s.core c := by
  rw [State.core, State.core, h]

end

/-! The planned accesses of a move. -/

section
variable (s : State) (core id : Nat) (b : Barchan)

theorem fetchesOf_tileReads : fetchesOf (s.tileReads core id b) = List.replicate (b.size / 8) { seq := none, got := none } := by
  have all : (s.tileReads core id b).filter Access.isFetch = s.tileReads core id b := by
    refine List.filter_eq_self.2 fun a ha => ?_
    obtain ⟨i, -, rfl⟩ := List.mem_map.1 ha
    rfl
  rw [fetchesOf, all, List.map_const', State.tileReads, List.length_map, List.length_range]

theorem fetchesOf_tileWrites (gs : List Got) : fetchesOf (s.tileWrites core id b gs) = [] := by
  have none_ : (s.tileWrites core id b gs).filter Access.isFetch = [] := by
    refine List.filter_eq_nil_iff.2 fun a ha => ?_
    obtain ⟨i, -, rfl⟩ := List.mem_map.1 ha
    exact Bool.false_ne_true
  rw [fetchesOf, none_, List.map_nil]

end

/-! Slip marks set and cleared. -/

theorem State.markTile_store_keeps {α : Type} (f : State → α) (h : ∀ (s : State) w x, f (s.setTag w x) = f s)
    (s : State) (l : Loc)
    (size : Nat) (delta : Word) : f (s.markTile l size delta) = f s :=
  foldl_keeps f (fun s w => h s w _) _ s

/-- Every word of a list marked is marked, and stays so. -/
theorem tagAt_foldl_mark (v : Word × Nat) (ws : List Loc) (w : Loc) (s : State)
    (h : w ∈ ws ∨ (s.tagAt w).slip = some v) :
    ((ws.foldl (fun s w => s.setTag w { (s.tagAt w) with slip := some v }) s).tagAt w).slip = some v := by
  induction ws generalizing s with
  | nil => exact h.resolve_left List.not_mem_nil
  | cons x xs ih =>
    refine ih _ ?_
    by_cases same : x.key / 8 = w.key / 8
    · right
      rw [State.tagAt_setTag, if_pos same]
    · rw [State.tagAt_setTag, if_neg same]
      rcases h with h | h
      · rcases List.mem_cons.1 h with rfl | h
        · exact absurd rfl same
        · exact .inl h
      · exact .inr h

theorem State.markTile_slip (s : State) {l w : Loc} {size : Nat} (delta : Word) (h : w ∈ wordsOf l size) :
    ((s.markTile l size delta).tagAt w).slip = some (delta, size) := tagAt_foldl_mark _ _ w s (.inl h)

/-- With no access in a retry list, no watch is armed. -/
theorem State.fireWatches_nil {s : State} (h : s.retry = []) (ws : List Loc) : s.fireWatches ws = s := by
  rw [State.fireWatches, h]
  rfl

/-- With no access in a retry list, none is forwarded. -/
theorem State.forwardTile_nil {s : State} (h : s.retry = []) (b : Barchan) : s.forwardTile b = s := by
  rw [State.forwardTile, h]
  show ({ s with retry := [] } : State) = s
  rw [← h]

section
variable (s : State) (w : Loc)

@[simp] theorem State.clearMarkWord_cores : (s.clearMarkWord w).cores = s.cores := by
  unfold State.clearMarkWord
  split
  · exact State.fireWatches_cores _ _
  · rfl

@[simp] theorem State.clearMarkWord_dies : (s.clearMarkWord w).dies = s.dies := by
  unfold State.clearMarkWord
  split
  · exact State.fireWatches_dies _ _
  · rfl

/-- An empty 0, with neither a slip mark nor poison. -/
def State.Cleared (s : State) (w : Loc) : Prop := s.wordAt w = 0#64 ∧ s.tagAt w = WordTag.blank

/-- A slip mark is cleared. -/
theorem State.clearMarkWord_same (h : (s.tagAt w).slip.isSome = true) : (s.clearMarkWord w).Cleared w := by
  have store := State.fireWatches_store ((s.putRaw w (List.replicate 8 0#8)).setTag w WordTag.blank) [w]
  rw [State.clearMarkWord, if_pos h]
  constructor
  · show BitVec.ofNat 64 (natOfBytes (State.bytesAt _ w 8)) = _
    rw [State.bytesAt_of_store store]
    show BitVec.ofNat 64 (natOfBytes ((s.putRaw w (List.replicate 8 0#8)).bytesAt w (List.replicate 8 0#8).length)) = _
    rw [s.bytesAt_putRaw w]
    rfl
  · rw [State.tagAt_of_store store, State.tagAt_setTag, if_pos rfl]

/-- Words that another's clearing leaves as they are. -/
theorem State.clearMarkWord_other {v : Loc} (hw : w.off % 8 = 0) (hv : v.off % 8 = 0) (ne : w.key / 8 ≠ v.key / 8) :
    (s.clearMarkWord w).tagAt v = s.tagAt v ∧ (s.clearMarkWord w).wordAt v = s.wordAt v := by
  unfold State.clearMarkWord
  split
  · have store := State.fireWatches_store ((s.putRaw w (List.replicate 8 0#8)).setTag w WordTag.blank) [w]
    constructor
    · rw [State.tagAt_of_store store, State.tagAt_setTag, if_neg ne]
      rfl
    · rw [State.wordAt, State.wordAt, State.natAt, State.natAt, State.bytesAt_of_store store]
      refine congrArg (fun bs => BitVec.ofNat 64 (natOfBytes bs)) (getBytes_congr fun i hi => ?_)
      show tableGet Memory.blank (putBytes s.mem w.key (List.replicate 8 0#8)) _ = _
      simp only [Loc.key] at ne ⊢
      rw [tableGet_putBytes, List.length_replicate, if_neg (by omega)]
  · exact ⟨rfl, rfl⟩

end

/-- Words of one key are one word. -/
theorem State.cleared_congr {s : State} {v w : Loc} (h : v.key = w.key) : s.Cleared v ↔ s.Cleared w := by
  simp only [State.Cleared, State.wordAt, State.natAt, State.bytesAt, State.tagAt, h]

/-- Every slip mark of a list of words is cleared. -/
theorem State.foldl_clearMarkWord (ws : List Loc) (aligned : ∀ w ∈ ws, w.off % 8 = 0)
    {w : Loc} (hw : w.off % 8 = 0) (s : State)
    (h : (w ∈ ws ∧ (s.tagAt w).slip.isSome = true) ∨ s.Cleared w) : (ws.foldl State.clearMarkWord s).Cleared w := by
  induction ws generalizing s with
  | nil => exact h.resolve_left fun h => List.not_mem_nil h.1
  | cons x xs ih =>
    refine ih (fun v hv => aligned v (List.mem_cons_of_mem _ hv)) _ ?_
    have hx := aligned x List.mem_cons_self
    by_cases same : x.key / 8 = w.key / 8
    · right
      have key : x.key = w.key := by
        simp only [Loc.key] at same ⊢
        omega
      rcases h with ⟨-, slip⟩ | cleared
      · exact (State.cleared_congr key).1 (s.clearMarkWord_same x (by rwa [s.tagAt_congr same]))
      · rw [State.clearMarkWord, s.tagAt_congr same, cleared.2]
        exact cleared
    · obtain ⟨tag, word⟩ := s.clearMarkWord_other x hx hw same
      rw [State.Cleared, tag, word]
      refine h.imp (fun h => ⟨(List.mem_cons.1 h.1).resolve_left ?_, h.2⟩) id
      rintro rfl
      exact same rfl

theorem aligned_of_mem_wordsOf {l w : Loc} {n : Nat} (h : w ∈ wordsOf l n) : w.off % 8 = 0 := by
  obtain ⟨-, q, -, -, rfl⟩ := mem_wordsOf.1 h
  exact Nat.mul_mod_right 8 q

end Sys2Proof.Machine

/-! SUPPORT. Each step of a move and of a retirement (R235, R270, R271). -/

namespace Sys2Proof.Machine

section
variable {s : State} {d core id : Nat} {b : Barchan} {bs : List Barchan} {o : EngineOp} {w : Loc} {gs : List Got}
  (holds : s.HoldsMove d b bs core id) (known : (s.core core).op? id = some o)
include holds

theorem execRelocBegin_free (move : b.retire = false) (new : b.phase = none)
    (free : (s.tileBusy b.old b.size || s.tileBusy b.new b.size) = false) :
    execRelocBegin core id s = .next (s.modBarchan d core id fun b => { b with phase := some .moving }) := by
  rw [execRelocBegin, holds.barchan?]
  simp [move, new, free]

theorem execRelocBegin_busy (move : b.retire = false) (new : b.phase = none)
    (busy : (s.tileBusy b.old b.size || s.tileBusy b.new b.size) = true) :
    execRelocBegin core id s =
      .next ((s.modBarchan d core id fun b => { b with phase := some .refused }).stopOp core id statACCERR 0 0#5) := by
  rw [execRelocBegin, holds.barchan?]
  simp [move, new, busy]

theorem execRelocCompletion_ended (h : b.phase = some .installed ∨ b.phase = some .refused) :
    ∃ t, execRelocCompletion core id s = .next t ∧ t.barchan? core id = none := by
  rw [execRelocCompletion, holds.barchan?]
  dsimp only
  rw [if_pos h]
  exact ⟨_, rfl, State.noMove_iff.1 (holds.noMove_filter.completeOp core id)⟩

theorem execRelocRetirementStep_refused (retire : b.retire = true) (new : b.phase = none)
    (host : (s.die (dieOf core)).mgmt.getLsbD 4 = false) :
    execRelocRetirementStep core id s =
      .next ((s.modBarchan d core id fun b => { b with phase := some .refused }).stopOp core id statACCERR 0 0#5) := by
  rw [execRelocRetirementStep, holds.barchan?]
  dsimp only
  rw [host]
  simp [retire, new]

theorem execRelocRetirementStep_cleared (retire : b.retire = true) (new : b.phase = none)
    (chip : (s.die (dieOf core)).mgmt.getLsbD 4 = true) :
    execRelocRetirementStep core id s =
      .next ((((wordsOf b.old b.size).foldl State.clearMarkWord s).modBarchan d core id fun b =>
        { b with phase := some .installed }).stopOp core id statOK 0 0#5) := by
  rw [execRelocRetirementStep, holds.barchan?]
  dsimp only
  rw [chip]
  simp [retire, new]

include known

/-- An access planned is put on the RELOC path, and the move is as it was. -/
theorem execRelocCopy_planned {next : Access} {rest : List Access} (goes : o.parked = false) (planned : o.todo = next :: rest) :
    ∃ t, execRelocCopy core id s = .next t ∧ t.mem = s.mem ∧ ((t.core core).op? id).map EngineOp.todo = some rest ∧
      t.barchan? core id = some (d, b) ∧
      ((t.core core).path.getLast?).map (fun e => (e.path, e.acc)) = some (o.kind.path, next) := by
  have step := s.stepOp_cons core id known goes planned
  obtain ⟨o', a, r, known', -, planned', mem, -, todo, path⟩ := s.stepOp_spec core id step
  cases known.symm.trans known'
  cases planned.symm.trans planned'
  exact ⟨_, stepOr_some s core id _ step, mem, todo, (holds.of_dies rfl).barchan?, path⟩

variable (move : b.retire = false) (moving : b.phase = some .moving) (idle : o.todo = [])
include move moving idle

/-- A move's reads are planned first. -/
theorem execRelocCopy_reads (fresh : o.reads = []) :
    execRelocCopy core id s = .next (s.planOp core id (s.tileReads core id b)) := by
  rw [execRelocCopy, stepOr, s.stepOp_nil core id known idle]
  simp [holds.barchan?, known, move, moving, fresh]

theorem execRelocCopy_waits (reads : o.reads ≠ []) (out : readsDone o.reads = none) : execRelocCopy core id s = .next s := by
  rw [execRelocCopy, stepOr, s.stepOp_nil core id known idle]
  simp [holds.barchan?, known, move, moving, reads, out]

/-- Once they have come back, its writes are planned. -/
theorem execRelocCopy_writes (reads : o.reads ≠ []) (back : readsDone o.reads = some gs) :
    execRelocCopy core id s =
      .next ((s.planOp core id (s.tileWrites core id b gs)).modBarchan d core id fun b => { b with phase := some .copied }) := by
  rw [execRelocCopy, stepOr, s.stepOp_nil core id known idle]
  simp [holds.barchan?, known, move, moving, reads, back]

omit move moving

/-- With its writes performed and no access waiting at the old tile, a move leaves slip marks there and ends. -/
theorem execRelocInstall_performed (copied : b.phase = some .copied) (performed : s.opPending core id (s.core core).seq = false)
    (quiet : s.retry = []) :
    execRelocInstall core id s =
      .next (((s.markTile b.old b.size (b.newVa - b.oldVa)).modBarchan d core id fun b =>
        { b with phase := some .installed }).stopOp core id statOK (b.newVa - b.oldVa) 0#5) := by
  have retry : (s.markTile b.old b.size (b.newVa - b.oldVa)).retry = [] :=
    (State.markTile_store_keeps State.retry (fun _ _ _ => rfl) ..).trans quiet
  rw [execRelocInstall, holds.barchan?]
  dsimp only
  rw [known, State.fireWatches_nil retry, State.forwardTile_nil retry]
  simp [copied, idle, performed]

end

end Sys2Proof.Machine

namespace Sys2Proof.Proofs

open Sys2Proof.Machine Sys2Proof.Claims

/-- Settles O47: each event of a move and of a retirement by the equation of its phase. A move's engine is found as the first of
the one die, marks are set and cleared word by word, and the message of an ended move starts no other. -/
theorem relocationSteps : Obligations.RelocationSteps := by
  unfold Obligations.RelocationSteps
  intro s core id d b bs w o gs next rest
  dsimp only
  intro holds known
  replace holds : s.HoldsMove d b bs core id := holds
  have phase {t : State} {b' : Barchan} (h : t.barchan? core id = some (d, b')) :
      (t.barchan? core id).map (fun e => e.2.phase) = some b'.phase := by rw [h]; rfl
  have done {t : State} (h : t.cores = s.cores) (status : Nat) (word1 : Word) :
      (((t.stopOp core id status word1 0#5).core core).op? id).map EngineOp.done =
        some (some { status := status, word1 := word1, flags := 0#5 }) :=
    State.stopOp_done (by rw [State.core_of_cores h]; exact known) status word1 0#5
  have planned (as : List Access) := s.op?_planOp core id as
  rw [known] at planned
  refine ⟨fun move new free => execRelocBegin_free holds move new free, fun move new busy => ?_, fun goes h => ?_,
    fun ⟨move, moving, idle⟩ fresh => ?_,
    fun ⟨move, moving, idle⟩ reads out => execRelocCopy_waits holds known move moving idle reads out,
    fun ⟨move, moving, idle⟩ reads back => ?_, fun copied idle performed quiet => ?_,
    fun ended => execRelocCompletion_ended holds ended, fun retire new host => ?_, fun retire new chip => ?_⟩
  · exact ⟨_, execRelocBegin_busy holds move new busy, rfl, rfl, phase (holds.modBarchan rfl rfl), done rfl _ _⟩
  · obtain ⟨t, run, mem, todo, same, path⟩ := execRelocCopy_planned holds known goes h
    exact ⟨t, run, mem, todo, phase same, path⟩
  · refine ⟨_, execRelocCopy_reads holds known move moving idle fresh, rfl, ?_, ?_, ?_⟩
    · exact moving ▸ phase (holds.of_dies rfl).barchan?
    · rw [planned, ← fetchesOf_tileReads s core id b]
      rfl
    · rw [planned]
      rfl
  · have dies := holds.of_dies (t := s.planOp core id (s.tileWrites core id b gs)) rfl
    refine ⟨_, execRelocCopy_writes holds known move moving idle reads back, rfl, phase (dies.modBarchan rfl rfl), ?_, ?_⟩
    · exact (congrArg (Option.map EngineOp.reads) (planned _)).trans (congrArg some (fetchesOf_tileWrites s core id b gs))
    · exact congrArg (Option.map EngineOp.todo) (planned _)
  · have dies : State.dies (s.markTile b.old b.size (b.newVa - b.oldVa)) = s.dies :=
      State.markTile_store_keeps State.dies (fun _ _ _ => rfl) ..
    refine ⟨_, execRelocInstall_performed holds known idle copied performed quiet,
      State.markTile_store_keeps State.mem (fun _ _ _ => rfl) .., phase ((holds.of_dies dies).modBarchan rfl rfl),
      done (State.markTile_store_keeps State.cores (fun _ _ _ => rfl) ..) _ _, fun tile => s.markTile_slip _ tile⟩
  · exact ⟨_, execRelocRetirementStep_refused holds retire new host, rfl, rfl, done rfl _ _⟩
  · refine ⟨_, execRelocRetirementStep_cleared holds retire new chip,
      done (foldl_keeps State.cores State.clearMarkWord_cores _ _) _ _, fun tile aligned slip => ?_⟩
    exact State.foldl_clearMarkWord _ (fun _ => aligned_of_mem_wordsOf) aligned s (.inl ⟨tile, slip⟩)

end Sys2Proof.Proofs

/-! SUPPORT. Homes: what becomes of an access at memory, in its path queue and in a retry list (R218, R219, R230, R231). -/

namespace Sys2Proof.Machine

/-- The homes of memory. -/
theorem Home.isMemory_iff {h : Home} :
    h.isMemory = true ↔ (∃ c, h = .unit c) ∨ (∃ k, h = .cluster k) ∨ (∃ d, h = .die d) ∨ ∃ n, h = .slice n := by
  cases h <;> simp [Home.isMemory]

section
variable {s t : State} {core seq k : Nat} {e : PathEntry} {v : Vec}

/-- Memory is served by HOME_PERFORM. -/
theorem rowOf_memory {a : Access} (h : a.loc.home.isMemory = true) : rowOf a = .perform := by
  rcases Home.isMemory_iff.1 h with ⟨_, h⟩ | ⟨_, h⟩ | ⟨_, h⟩ | ⟨_, h⟩ <;> simp only [rowOf, h]

/-- What memory gives for an access that nothing holds back. -/
theorem State.serveHome_memory (h : e.acc.loc.home.isMemory = true) (first : s.forwardedFirst e.acc = false)
    (free : s.seamHeld core e.acc e.seq = false) (peer : List Byte) (code : Nat) :
    s.serveHome core e peer code = s.serveMemory core e.acc := by
  rcases Home.isMemory_iff.1 h with ⟨_, h⟩ | ⟨_, h⟩ | ⟨_, h⟩ | ⟨_, h⟩ <;> simp [State.serveHome, h, first, free]

/-- What memory gives for an access of a retry list that nothing holds back. -/
theorem State.serveRetry_memory (h : e.acc.loc.home.isMemory = true) (opened : s.scOpen core e = true)
    (free : s.seamHeld core e.acc e.seq = false) : s.serveRetry core e = s.serveMemory core e.acc := by
  rcases Home.isMemory_iff.1 h with ⟨_, h⟩ | ⟨_, h⟩ | ⟨_, h⟩ | ⟨_, h⟩ <;> simp [State.serveRetry, h, opened, free]

/-- An access that is neither an engine's read nor a read of a block is answered with its value. -/
theorem State.memoryAnswer_plain {a : Access} (read : a.isFetch = false) (block : ∀ view, a.kind ≠ .load view true) :
    t.memoryAnswer a v = .val v a.hops := by
  unfold State.memoryAnswer
  unfold Access.isFetch at read
  split
  · rename_i h
    rw [h] at read
    cases read
  · rename_i h
    rw [h] at read
    cases read
  · rename_i h
    exact absurd h (block _)
  · rename_i h
    rw [h] at read
    exact if_neg (Bool.eq_false_iff.1 read)
  · rfl

/-- A plain access that memory performs. -/
theorem State.serveMemory_done {a : Access} (read : a.isFetch = false) (block : ∀ view, a.kind ≠ .load view true)
    (h : s.perform core a = .done t v) : s.serveMemory core a = .done t (.val v a.hops) := by
  rw [State.serveMemory, h]
  exact congrArg (Served.done t) (State.memoryAnswer_plain read block)

/-- HOME_PERFORM of an access that is its own and may be performed now, and is. -/
theorem execHomePerform_done {x : Ans} {peer : List Byte} {code : Nat} (h : s.pathEntry core seq = some e)
    (may : s.mayPerform core e = true) (row : rowOf e.acc = .perform) (served : s.serveHome core e peer code = .done t x) :
    execHomePerform core seq peer code s = .next ((s.settle core e (.done t x)).newPass e.acc) := by
  simp [execHomePerform, h, may, row, served, Served.performed]

/-- HOME_PERFORM of an access that is its own and may be performed now, and is not. -/
theorem execHomePerform_kept {r : Served} {peer : List Byte} {code : Nat} (h : s.pathEntry core seq = some e)
    (may : s.mayPerform core e = true) (row : rowOf e.acc = .perform) (served : s.serveHome core e peer code = r)
    (kept : r.performed = false) : execHomePerform core seq peer code s = .next (s.settle core e r) := by
  simp [execHomePerform, h, may, row, served, kept]

/-- An access of a retry list that its home performs now (R231). -/
theorem execRetryListRetry_goes (h : s.retry[k]? = some (core, e)) (armed : e.acc.armed = false) (older : s.olderGoes k e = false)
    (goes : (s.serveRetry core e).goes = true) :
    execRetryListRetry k s = .next ((s.passBy k e).settle core e ((s.passBy k e).serveRetry core e)) := by
  rw [execRetryListRetry, h]
  dsimp only
  rw [armed, older]
  revert goes
  cases s.serveRetry core e <;> simp [Served.goes]

/-- An access of a retry list whose test does not hold (R231). -/
theorem execRetryListRetry_waits {kind : Option Nat} (h : s.retry[k]? = some (core, e)) (armed : e.acc.armed = false)
    (older : s.olderGoes k e = false) (waits : s.serveRetry core e = .waits kind) :
    execRetryListRetry k s = .next (s.startWait e.acc kind) := by
  rw [execRetryListRetry, h]
  dsimp only
  rw [armed, older, waits]
  rfl

end

section
variable (s : State) (core : Nat) (e : PathEntry)

theorem State.takeOut_core : (s.takeOut core e).core core = { s.core core with path := (s.core core).path.erase e } :=
  State.core_modCore_same _ _ _

/-- An access answered at a slip mark (R236). -/
theorem State.settle_slips (d : Word) (size : Nat) :
    (s.settle core e (.slips d size)).mem = s.mem ∧ (s.settle core e (.slips d size)).tags = s.tags ∧
      ((s.settle core e (.slips d size)).core core).path = (s.core core).path.erase e ∧
      ((s.settle core e (.slips d size)).core core).slipped = (s.core core).slipped ++ [(e, hopAt e.acc.va d size)] := by
  have core_ : (s.settle core e (.slips d size)).core core = { (s.takeOut core e).core core with
      slipped := ((s.takeOut core e).core core).slipped ++ [(e, hopAt e.acc.va d size)] } := State.core_modCore_same _ _ _
  rw [core_, State.takeOut_core]
  exact ⟨rfl, rfl, rfl, rfl⟩

/-- An access that nobody waits for, and that its home does not perform, goes into the retry list while that has room (R230). -/
theorem State.settle_waits (kind : Option Nat) (quiet : e.acc.answers = false) (room : s.retryRoom e.acc.loc.home = true)
    (here : e ∈ (s.core core).path) :
    s.settle core e (.waits kind) = { s.takeOut core e with retry := s.retry ++ [(core, e)] } := by
  have start (u : State) : u.startWait e.acc kind = u := by cases kind <;> simp [State.startWait, quiet]
  simp [State.settle, start, room, here]

end

/-- A strand that is parked for the answer of a synchronising access begins to wait (R278). -/
theorem State.beginWait_sync {s : State} {h : Nat} (parked : (s.strand h).status = .parked .answer) (badva : Word) :
    s.beginWait h 4 badva = s.modStrand h fun t => { t with status := .parked (.wait (s.newWait h 4 badva none)) } := by
  have wakes : s.noWake h (s.newWait h 4 badva none) = none := rfl
  rw [State.beginWait, parked, if_pos (by rfl)]
  dsimp only
  rw [wakes]

end Sys2Proof.Machine

/-! SUPPORT. Slip-mark hops (R235, R236). -/

namespace Sys2Proof.Machine

/-- A slip-mark hop's access, out of the list of those that met a slip mark. -/
def State.outOfSlipped (s : State) (core seq : Nat) : State :=
  s.modCore core fun q => { q with slipped := q.slipped.filter fun p => p.1.seq != seq }

section
variable (s : State) (c : Nat) (e : PathEntry) (hop : Hop) (va : Word) (l : Loc)

theorem State.goOn_mem : (s.goOn c e hop va l).mem = s.mem := by
  unfold State.goOn
  dsimp only
  split
  · exact s.movePosted_mem c _
  · rfl

/-- An access that goes on stands last in its path queue, with its serial number, one hop more. -/
theorem State.goOn_last :
    (((s.goOn c e hop va l).core c).path.getLast?).map (fun p => (p.path, p.seq, p.acc.va, p.acc.loc, p.acc.kind, p.acc.hops)) =
      some (e.path, e.seq, va, l, e.acc.kind, e.acc.hops ++ [hop]) := by
  unfold State.goOn
  dsimp only
  rw [State.core_modCore_same, List.getLast?_concat]
  rfl

end

/-- An access that may not take another hop. -/
theorem Access.deep_iff {a : Access} : a.deep = false ↔ a.hops.length < 4 ∨ (a.sure = true ∧ a.ending = none) := by
  cases sure : a.sure <;> cases ending : a.ending <;> simp [Access.deep, sure, ending]

section
variable {s t : State} {core seq m off : Nat} {e : PathEntry} {hop : Hop} {l : Loc} {movable : Bool} {tr : Trap}
  (slipped : (s.core core).slipped.find? (fun p => p.1.seq == seq) = some (e, hop))
  (own : e.acc.root = none) (module : core < 4132)
include slipped own module

/-- A hop too many. -/
theorem execSlipMarkHop_deep (deep : e.acc.deep = true) :
    execSlipMarkHop core seq s = .next ((s.outOfSlipped core seq).cannotGo core e (trapMCHAIN e.acc.va) statMCHAIN) := by
  rw [execSlipMarkHop, slipped]
  dsimp only
  rw [own, deep]
  dsimp only
  rw [if_neg (by omega), if_pos rfl]
  rfl

variable (more : e.acc.deep = false)
include more

/-- A hop to a peer module. -/
theorem execSlipMarkHop_peer (there : windowOf (e.acc.va + hop.delta).toNat = (.peer m, off)) :
    execSlipMarkHop core seq s =
      .next ((s.outOfSlipped core seq).goOn core e hop (e.acc.va + hop.delta) (s.peerPlace m off)) := by
  rw [execSlipMarkHop, slipped]
  dsimp only
  rw [own, more]
  dsimp only
  rw [if_neg (by omega), if_neg Bool.false_ne_true, there]
  rfl

/-- A hop within the module. -/
theorem execSlipMarkHop_here (here : ∀ p, (windowOf (e.acc.va + hop.delta).toNat).1 ≠ .peer p)
    (found : s.translate core (s.modeOf core e.acc) (e.acc.va + hop.delta) e.acc.kind.need = (.ok l movable, t)) :
    execSlipMarkHop core seq s = .next ((t.outOfSlipped core seq).goOn core e hop (e.acc.va + hop.delta) l) := by
  rw [execSlipMarkHop, slipped]
  dsimp only
  rw [own, more]
  dsimp only
  rw [if_neg (by omega), if_neg Bool.false_ne_true]
  split
  · rename_i w
    exact absurd (congrArg Prod.fst w) (here _)
  · rw [found]
    rfl

/-- A checked write whose new address does not translate. -/
theorem execSlipMarkHop_held (here : ∀ p, (windowOf (e.acc.va + hop.delta).toNat).1 ≠ .peer p) (sure : e.acc.sure = true)
    (lost : s.translate core (s.modeOf core e.acc) (e.acc.va + hop.delta) e.acc.kind.need = (.fault tr, t)) :
    execSlipMarkHop core seq s = .next (t.holdWrite core e.acc tr) := by
  rw [execSlipMarkHop, slipped]
  dsimp only
  rw [own, more]
  dsimp only
  rw [if_neg (by omega), if_neg Bool.false_ne_true]
  split
  · rename_i w
    exact absurd (congrArg Prod.fst w) (here _)
  · rw [lost]
    dsimp only
    rw [if_pos sure]

end

/-- An access of the module that cannot go on and is no seam message's fails. -/
theorem State.cannotGo_fails (s : State) (c : Nat) {e : PathEntry}
    (own : e.acc.root = none) (seam : ∀ m, e.acc.kind ≠ .seam m) (tr : Trap) (status : Nat) : s.cannotGo c e tr status = s.failAccess c e tr status := by
  unfold State.cannotGo
  rw [own]
  split
  · rename_i h
    exact absurd h (seam _)
  · contradiction
  · rfl

/-- An engine's read is no seam message's. -/
theorem Access.not_seam_of_isFetch {a : Access} (h : a.isFetch = true) (m : SeamMsg) : a.kind ≠ .seam m := by
  intro k
  rw [Access.isFetch, k] at h
  cases h

end Sys2Proof.Machine

/-! SUPPORT. Walks, barriers, registers, answers and scrubbing (R219, R292, R318, R327, R360). -/

namespace Sys2Proof.Machine

/-! Walks. -/

section
variable (s : State)

@[simp] theorem State.fireWatch_clusters (h : Nat) : (s.fireWatch h).clusters = s.clusters := by
  unfold State.fireWatch; dsimp only; repeat' split
  all_goals rfl
@[simp] theorem State.fireWatches_clusters (ws : List Loc) : (s.fireWatches ws).clusters = s.clusters :=
  foldl_keeps State.clusters (fun s _ => s.fireWatch_clusters _) _ _

theorem State.touchLeaf_clusters (l : Loc) (e : Word) (write : Bool) : (s.touchLeaf l e write).clusters = s.clusters :=
  State.fireWatches_clusters _ _

end

/-- From s to t no walk begins or ends, and no strand that is ready stops being so. -/
structure State.WalksOn (s t : State) : Prop where
  walks : ∀ n, (t.cluster n).walks = (s.cluster n).walks
  ready : ∀ h, (s.strand h).status = .ready → (t.strand h).status = .ready

namespace State.WalksOn

variable {s t u : State}

theorem refl (s : State) : s.WalksOn s := ⟨fun _ => rfl, fun _ h => h⟩

theorem trans (a : s.WalksOn t) (b : t.WalksOn u) : s.WalksOn u :=
  ⟨fun n => (b.walks n).trans (a.walks n), fun h r => b.ready h (a.ready h r)⟩

theorem modStrand (s : State) (h : Nat) {f : Strand → Strand} (keeps : ∀ t, t.status = .ready → (f t).status = .ready) :
    s.WalksOn (s.modStrand h f) where
  walks _ := rfl
  ready n r := by
    by_cases e : h = n
    · subst e
      rw [State.strand_modStrand_same]
      exact keeps _ r
    · rwa [State.strand_modStrand_ne s f e]

theorem wake (s : State) (h : Nat) : s.WalksOn (s.wake h) := modStrand s h fun _ _ => rfl

theorem answer (s : State) (h : Nat) (a : Ans) : s.WalksOn (s.answer h a) := by
  unfold State.answer
  refine trans ?_ (wake _ h)
  exact modStrand s h fun _ r => r

theorem fireWatch (s : State) (h : Nat) : s.WalksOn (s.fireWatch h) := by
  unfold State.fireWatch
  dsimp only
  split
  · rename_i va _ _
    have fired : s.WalksOn ((s.modStrand h fun t => { t with watch := .fired va }).dropWatch h) := by
      refine trans (t := s.modStrand h fun t => { t with watch := .fired va }) ?_ ⟨fun _ => rfl, fun _ r => r⟩
      exact modStrand s h fun _ r => r
    split
    · split
      · exact fired.trans (wake _ h)
      · exact fired
    · exact fired
  · exact refl s

theorem foldl {β : Type} {step : State → β → State} (h : ∀ (s : State) b, s.WalksOn (step s b)) (bs : List β)
    (s : State) : s.WalksOn (bs.foldl step s) := by
  induction bs generalizing s with
  | nil => exact refl s
  | cons b bs ih => exact (h s b).trans (ih _)

theorem touchLeaf (s : State) (l : Loc) (e : Word) (write : Bool) : s.WalksOn (s.touchLeaf l e write) := by
  unfold State.touchLeaf
  refine trans (t := s.putRaw l (bytesOfNat 8 (leafTouched e write).toNat)) ⟨fun _ => rfl, fun _ r => r⟩ ?_
  exact foldl (fun s _ => fireWatch s _) _ _

theorem cached (s : State) (k : Nat) (f : Cluster → List CtuEntry) :
    s.WalksOn (s.modCluster k fun q => { q with ctu := f q }) where
  walks n := by
    by_cases e : k = n
    · rw [e, State.cluster_modCluster_same]
    · rw [State.cluster_modCluster_ne s _ e]
  ready _ r := r

theorem walkNow (s : State) (k asid : Nat) (root : Word) (mode : Mode) (va : Word) (need : Need) (setsA : Bool) :
    s.WalksOn (s.walkNow k asid root mode va need setsA).2 := by
  unfold State.walkNow
  split
  · exact refl s
  · dsimp only
    split
    · exact refl s
    · split
      · exact refl s
      · dsimp only
        refine trans ?_ (cached _ k _)
        split
        · exact touchLeaf s _ _ _
        · exact refl s

theorem endWalk (s : State) (k : Nat) (w : Walk) (h : Nat) (need : Need) : s.WalksOn (s.endWalk k w h need) := by
  have walked := walkNow s k w.asid w.root (s.strand h).mode (s.strand h).walkAddress need true
  unfold State.endWalk
  dsimp only
  split
  · rename_i e
    rw [e] at walked
    exact walked.trans (answer _ h _)
  · rename_i e
    rw [e] at walked
    exact walked.trans (wake _ h)

end State.WalksOn

/-- A strand whose walk ends is ready. -/
theorem State.endWalk_ready (s : State) (k : Nat) (w : Walk) (h : Nat) (need : Need) :
    ((s.endWalk k w h need).strand h).status = .ready := by
  unfold State.endWalk
  dsimp only
  split
  · rw [State.answer, State.wake, State.strand_modStrand_same]
  · rw [State.wake, State.strand_modStrand_same]

/-- Every strand of a list whose walks end is ready. -/
theorem State.foldl_endWalk_ready (k : Nat) (w : Walk) (js : List (Nat × Need)) {h : Nat} (s : State)
    (mem : h ∈ js.map Prod.fst ∨ (s.strand h).status = .ready) :
    ((js.foldl (fun t j => t.endWalk k w j.1 j.2) s).strand h).status = .ready := by
  induction js generalizing s with
  | nil => exact mem.resolve_left List.not_mem_nil
  | cons j js ih =>
    refine ih _ ?_
    rcases mem with mem | ready
    · rcases List.mem_cons.1 mem with rfl | mem
      · exact .inr (s.endWalk_ready k w _ _)
      · exact .inl mem
    · exact .inr ((State.WalksOn.endWalk s k w _ _).ready h ready)

/-- The end of a walk that is one of the 64 in flight (R327). -/
theorem execCtuWalkComplete_ends {s : State} {n k : Nat} {w : Walk} (inFlight : k < 64) (hw : (s.cluster n).walks[k]? = some w) :
    ∃ t, execCtuWalkComplete n k s = .next t ∧ (t.cluster n).walks = (s.cluster n).walks.eraseIdx k ∧
      ∀ h ∈ strandsOf n, (s.joined w ((s.core (coreOf h)).asid.toNat % 65536) (s.strand h)).isSome = true →
        (t.strand h).status = .ready := by
  rw [execCtuWalkComplete, hw]
  dsimp only
  rw [if_neg (by omega)]
  have walked := State.WalksOn.walkNow s n w.asid w.root (if w.user then .u else .s) w.va
    (if w.write then .write else .read) w.setsA
  refine ⟨_, rfl, ?_, fun h mem joined => ?_⟩
  · rw [(State.WalksOn.foldl (fun s j => State.WalksOn.endWalk s n w _ _) _ _).walks, State.cluster_modCluster_same]
    dsimp only
    rw [walked.walks]
  · refine State.foldl_endWalk_ready n w _ _ (.inl ?_)
    obtain ⟨need, hn⟩ := Option.isSome_iff_exists.1 joined
    refine List.mem_map.2 ⟨(h, need), List.mem_filterMap.2 ⟨h, mem, ?_⟩, rfl⟩
    rw [hn]
    rfl

/-! Barriers. -/

/-- A barrier object after a change of it. -/
theorem State.barrier_modBarrier {s : State} (k : Nat) {n : Nat} (hn : n < 32) (f : Barrier → Barrier) :
    (s.modBarrier k n f).barrier k n = f (s.barrier k n) := by
  rw [State.barrier, State.modBarrier, State.cluster_modCluster_same, State.barrier]
  simp [List.getD, hn]

/-- An arrival below COUNT only counts (R291). -/
theorem State.arriveAt_below {s : State} {k n : Nat} (hn : n < 32) (below : (s.barrier k n).arrived + 1 < (s.barrier k n).count) :
    s.arriveAt k n none = s.modBarrier k n fun q => { q with arrived := q.arrived + 1 } := by
  have none_ : (fun o : Barrier =>
      { o with arrived := o.arrived + 1, children := o.children ++ (none : Option (Nat × Nat)).toList })
      = fun o => { o with arrived := o.arrived + 1 } := by
    funext o
    simp
  unfold State.arriveAt
  dsimp only
  rw [none_, State.barrier_modBarrier k hn]
  exact if_neg (Nat.not_le.2 below)

theorem State.serveArrive_below {s : State} {k n : Nat} (hn : n < 32) (open_ : (s.barrier k n).hold = false)
    (below : (s.barrier k n).arrived + 1 < (s.barrier k n).count) :
    s.serveArrive k n = .done (s.modBarrier k n fun q => { q with arrived := q.arrived + 1 })
      (wordAns ((s.barrier k n).phase.setWidth 64)) := by
  have count : ((s.barrier k n).count == 0) = false := by
    rw [beq_eq_false_iff_ne]
    omega
  unfold State.serveArrive
  dsimp only
  rw [open_, count, State.arriveAt_below hn below]
  rfl

/-! Answers. -/

theorem State.answer_core (s : State) (h : Nat) (x : Ans) (c : Nat) : (s.answer h x).core c = s.core c := rfl

/-! Scrubbing. -/

theorem getD_getBytes (m : List Host.Cell) (k n i : Nat) (h : i < n) :
    (getBytes m k n).getD i 0#8 = tableGet Memory.blank m (k + i) := by
  induction n generalizing k i with
  | zero => omega
  | succ n ih =>
    cases i with
    | zero => rfl
    | succ i =>
      rw [getBytes, List.getD_cons_succ, ih _ _ (by omega)]
      congr 1
      omega

/-- Bytes put where they were read leave every byte as it was. -/
theorem State.byteAt_putRaw_bytesAt (s : State) (l a : Loc) (n : Nat) : (s.putRaw l (s.bytesAt l n)).byteAt a = s.byteAt a := by
  rw [State.byteAt, State.putRaw, tableGet_putBytes, State.length_bytesAt]
  split
  · rename_i h
    rw [State.bytesAt, getD_getBytes _ _ _ _ (by omega), State.byteAt, Nat.add_sub_of_le h.1]
  · rfl

end Sys2Proof.Machine

namespace Sys2Proof.Proofs

open Sys2Proof.Machine Sys2Proof.Claims

/-- Settles O45: each event by the equation of its case: what memory gives is applied by `settle`, a hop goes on or cannot, a
walk's end makes ready the strands that joined it, and a scrubbed line is put back as it was read. -/
theorem homeResults : Obligations.HomeResults := by
  unfold Obligations.HomeResults
  intro s t core seq k b n slice off size e a v x w d hop l m wk peer code id fin p tr
  dsimp only
  have toDeep (h : ¬ (e.acc.hops.length < 4 ∨ (e.acc.sure = true ∧ e.acc.ending = none))) : e.acc.deep = true := by
    rw [← Access.deep_iff, Bool.not_eq_false] at h
    exact h
  have fails (own : e.acc.root = none) (seam : ∀ m, e.acc.kind ≠ .seam m) :=
    (s.outOfSlipped core seq).cannotGo_fails core own seam (trapMCHAIN e.acc.va) statMCHAIN
  refine ⟨fun found older => ?posted, fun ⟨found, may, memory, first, free⟩ ⟨read, block⟩ done => ?performed,
    fun ⟨found, may, memory, first, free⟩ slips => ?slips,
    fun ⟨found, may, memory, first, free⟩ waits quiet room here => ?waits,
    fun hn ⟨found, may, place⟩ kind open_ below => ?arrives,
    fun found armed older goes memory opened free ⟨read, block⟩ done => ?retried,
    fun slipped ⟨own, module⟩ more here translated => ?hops, fun slipped ⟨own, module⟩ more there => ?hopsAway,
    fun slipped ⟨own, module⟩ deep read ending seam => ?traps, fun found parked => ?answer, fun parked drained => ?drain,
    fun inFlight hw => execCtuWalkComplete_ends inFlight hw, fun hb ⟨⟨found, may, place⟩, stored⟩ => ?mgmt,
    fun hb ⟨⟨found, may, place⟩, stored⟩ => ?fqHead, ?scrub,
    fun slipped ⟨own, module⟩ deep read => ?fetch, fun slipped ⟨own, module⟩ deep read op ending seam => ?write,
    fun slipped ⟨own, module⟩ more here sure lost open_ => ?held,
    fun found armed older waits answers parked => ?begins⟩
  case posted =>
    have free : ((s.core core).posted.take k).any (fun o => o.loc.home == a.loc.home) = false := by
      rw [List.any_eq_false]
      exact fun p hp => by simpa using older p hp
    refine ⟨(s.modCore core fun c => { c with posted := c.posted.eraseIdx k }).enterPath core .core a, ?_, ?_, ?_, rfl⟩
    · show execPostedStoreMove core k s = _
      rw [execPostedStoreMove, found]
      dsimp only
      rw [free]
      rfl
    · rw [State.enterPath_core, State.core_modCore_same]
    · rw [State.enterPath_core, List.getLast?_concat]
      rfl
  case performed =>
    have served := (State.serveHome_memory memory first free peer code).trans (State.serveMemory_done read block done)
    exact execHomePerform_done found may (rowOf_memory memory) served
  case slips =>
    have served : s.serveHome core e peer code = .slips d size := by
      rw [State.serveHome_memory memory first free, State.serveMemory, slips]
    exact ⟨_, execHomePerform_kept found may (rowOf_memory memory) served rfl, s.settle_slips core e d size⟩
  case waits =>
    have served : s.serveHome core e peer code = .waits (s.memoryWait e.acc) := by
      rw [State.serveHome_memory memory first free, State.serveMemory, waits]
    refine ⟨_, execHomePerform_kept found may (rowOf_memory memory) served rfl, ?_⟩
    rw [s.settle_waits core e _ quiet (decide_eq_true room) here]
    exact ⟨rfl, rfl, congrArg Core.path (s.takeOut_core core e), List.getLast?_concat⟩
  case arrives =>
    have row : rowOf e.acc = .perform := by simp [rowOf, place, eventRow, kind]
    have served : s.serveHome core e peer code = .done (s.modBarrier k n fun q => { q with arrived := q.arrived + 1 })
        (wordAns ((s.barrier k n).phase.setWidth 64)) := by
      rw [← State.serveArrive_below hn open_ below]
      simp [State.serveHome, State.serveEvent, row, place, kind]
    exact execHomePerform_done found may row served
  case retried =>
    have served := (State.serveRetry_memory memory opened free).trans (State.serveMemory_done read block done)
    refine (execRetryListRetry_goes found armed older goes).trans ?_
    rw [served]
    rfl
  case hops =>
    exact ⟨_, execSlipMarkHop_here slipped own module (Access.deep_iff.2 more) here translated, State.goOn_mem _ _ _ _ _ _,
      State.goOn_last _ _ _ _ _ _⟩
  case hopsAway =>
    exact ⟨_, execSlipMarkHop_peer slipped own module (Access.deep_iff.2 more) there, State.goOn_mem _ _ _ _ _ _,
      State.goOn_last _ _ _ _ _ _⟩
  case traps =>
    refine (execSlipMarkHop_deep slipped own module (toDeep deep)).trans ?_
    rw [fails own seam, State.failAccess, read, ending]
    simp [State.outOfSlipped]
  case answer =>
    refine ⟨(s.modCore s.here fun c => { c with answers := c.answers.erase (s.cur, x) }).answer s.cur x, ?_, ?_⟩
    · show execAccessResponse s = _
      rw [execAccessResponse, found]
      dsimp only
      rw [parked, if_pos (by rfl)]
    · have me : ((s.modCore s.here fun c => { c with answers := c.answers.erase (s.cur, x) }).answer s.cur x).me =
          { s.me with log := s.me.log ++ [x], status := .ready } := by
        rw [State.answer, State.wake, State.modStrand_modStrand]
        exact State.strand_modStrand_same _ _ _
      rw [me]
      refine ⟨rfl, rfl, rfl, ?_, rfl⟩
      rw [State.answer_core, State.core_modCore_same]
  case drain =>
    refine ⟨s.wake s.cur, ?_, ?_⟩
    · show execDrainComplete s = _
      rw [execDrainComplete, parked]
      simp [State.drained, drained]
    · have me : (s.wake s.cur).me = { s.me with status := .ready } := State.strand_modStrand_same _ _ _
      rw [me]
      exact ⟨rfl, rfl, rfl, rfl⟩
  case mgmt =>
    have written : s.serveRegister e.acc w = s.privWrite b 0 w := by
      simp [State.serveRegister, blockOfAccess, place, Nat.ne_of_lt hb]
    refine (serveStore_offered (f := State.serveRegister) found may (row := .register) ?_ stored).trans ?_
    · simp [rowOf, place, stored, Nat.ne_of_lt hb, privRow]
    · rw [written]
      rfl
  case fqHead =>
    have written : s.serveRegister e.acc w = s.privWrite b 0x20000 w := by
      simp [State.serveRegister, blockOfAccess, place, Nat.ne_of_lt hb]
    refine (serveStore_offered (f := State.serveRegister) found may (row := .register) ?_ stored).trans ?_
    · simp [rowOf, place, stored, Nat.ne_of_lt hb, privRow]
    · rw [written]
      rfl
  case scrub =>
    exact ⟨_, rfl, rfl, rfl, fun l => s.byteAt_putRaw_bytesAt _ l 64⟩
  case fetch =>
    refine (execSlipMarkHop_deep slipped own module (toDeep deep)).trans ?_
    rw [fails own (Access.not_seam_of_isFetch read), State.failAccess, read]
    rfl
  case write =>
    refine (execSlipMarkHop_deep slipped own module (toDeep deep)).trans ?_
    rw [fails own seam, State.failAccess, read, op, ending]
    rfl
  case held =>
    refine (execSlipMarkHop_held slipped own module (Access.deep_iff.2 more) here sure lost).trans ?_
    rw [State.holdWrite, open_]
  case begins =>
    refine ⟨s.startWait e.acc (some 4), execRetryListRetry_waits found armed older waits, ?_⟩
    rw [State.startWait, answers, if_pos rfl, if_neg (by decide), State.beginWait_sync parked, Strand.waiting?,
      State.strand_modStrand_same]
    exact ⟨rfl, rfl, rfl⟩

end Sys2Proof.Proofs

/-! SUPPORT. Rows of an engine operation between places of its own module, and one to a peer module (R262). -/

namespace Sys2Proof.Machine

/-! Windows and pieces. -/

theorem windowOf_cluster {b : Nat} (h : b < 2 ^ 40) : windowOf (clusterBase + b) = (.cluster, b) := by
  have quotient : (clusterBase + b - 2 ^ 56) / 2 ^ 40 = 0x100 := by rw [clusterBase]; omega
  have rest : (clusterBase + b - 2 ^ 56) % 2 ^ 40 = b := by rw [clusterBase]; omega
  rw [windowOf, if_neg (by rw [clusterBase]; omega), if_neg (by rw [clusterBase]; omega), if_neg (by rw [clusterBase]; omega)]
  dsimp only
  rw [quotient, rest]
  rfl

/-- A range within one line is one piece. -/
theorem pieces_one {a n : Nat} (hn : 0 < n) (h : a % 64 + n ≤ 64) : pieces a n = [(a, n)] := by
  have lines : (a + n - 1) / 64 - a / 64 + 1 = 1 := by omega
  rw [pieces, if_neg (by omega)]
  dsimp only
  rw [lines]
  simp only [List.range, List.range.loop, List.map, List.cons.injEq, Prod.mk.injEq, and_true]
  omega

theorem pos_of_mem_pieces {a n : Nat} {p : Nat × Nat} (h : p ∈ pieces a n) : p.1 < a + n := by
  unfold pieces at h
  split at h
  · exact absurd h List.not_mem_nil
  · obtain ⟨i, hi, rfl⟩ := List.mem_map.1 h
    have := List.mem_range.1 hi
    dsimp only
    omega

/-! Where a row is. -/

section
variable {s : State} {c : Nat} {mode : Mode} {need : Need}

/-- A piece outside GLOBAL is where its row is, and is found without a walk. -/
theorem State.piecePlace_of_rowPlace {a n : Nat} {l : Loc} {view : View} (away : (windowOf a).1 ≠ .global)
    (h : s.rowPlace c a n need.writes = some (l, view)) :
    s.piecePlace c mode need a n = (.ok { va := BitVec.ofNat 64 a, loc := l, view := view }, s) := by
  unfold State.piecePlace
  dsimp only
  split
  · rename_i w
    exact absurd w away
  · rw [h]

theorem State.placePieces_one {a n : Nat} {p : Place} (h : s.piecePlace c mode need a n = (.ok p, s)) :
    s.placePieces c mode need [(a, n)] = (.ok [(p, n)], s) := by
  simp [State.placePieces, h]

/-- Pieces that are all found are found together. -/
theorem State.placePieces_found (ps : List (Nat × Nat))
    (h : ∀ p ∈ ps, ∃ q, s.piecePlace c mode need p.1 p.2 = (.ok q, s)) :
    ∃ r, s.placePieces c mode need ps = (.ok r, s) := by
  induction ps with
  | nil => exact ⟨[], rfl⟩
  | cons p ps ih =>
    obtain ⟨q, hq⟩ := h p List.mem_cons_self
    obtain ⟨r, hr⟩ := ih fun p hp => h p (List.mem_cons_of_mem _ hp)
    exact ⟨(q, p.2) :: r, by simp [State.placePieces, hq, hr]⟩

end

/-- A range of a core's own unit data scratch that lies within one line. -/
structure InUnit (core a n : Nat) : Prop where
  compute : core < 4096
  pos : 0 < n
  line : a % 64 + n ≤ 64
  bound : a + n ≤ 0x20000

namespace InUnit

variable {s : State} {core a n : Nat} (h : InUnit core a n)
include h

theorem window : windowOf (0x0100000000000000 + a) = (.unit, a) := by
  obtain ⟨-, pos, -, bound⟩ := h
  rw [windowOf_unit (by rw [unitBase]; omega) (by rw [unitBase]; omega)]
  exact congrArg (Prod.mk _) (by rw [unitBase]; omega)

theorem one : twoWindows (0x0100000000000000 + a) n = false :=
  twoWindows_unit (by rw [unitBase]; omega) (by have := h.bound; rw [unitBase]; omega)

theorem pieces : pieces (0x0100000000000000 + a) n = [(0x0100000000000000 + a, n)] := by
  obtain ⟨-, pos, line, -⟩ := h
  exact pieces_one pos (by omega)

theorem rowPlace (write : Bool) :
    s.rowPlace core (0x0100000000000000 + a) n write = some ({ home := .unit core, off := a }, .plain) := by
  obtain ⟨compute, pos, -, bound⟩ := id h
  have own : isControl core = false := decide_eq_false (by omega)
  have below : ¬ 2 ^ 57 ≤ 0x0100000000000000 + a + n - 1 := by omega
  have populated : ¬ 0x28000 < a + n := by omega
  unfold State.rowPlace
  rw [h.window]
  simp only [Window.refusedInCompute, own, below, populated, decide_false, Bool.and_false, Bool.or_self, Bool.false_eq_true,
    if_false]

/-- Where the one piece is. -/
theorem placePieces (mode : Mode) (need : Need) :
    s.placePieces core mode need [(0x0100000000000000 + a, n)] =
      (.ok [({ va := BitVec.ofNat 64 (0x0100000000000000 + a), loc := { home := .unit core, off := a }
               view := .plain }, n)], s) := by
  refine State.placePieces_one (State.piecePlace_of_rowPlace ?_ (h.rowPlace _))
  rw [h.window]
  exact fun w => by cases w

end InUnit

/-- A range of a core's own cluster scratch that lies within one line. -/
structure InCluster (core b n : Nat) : Prop where
  compute : core < 4096
  pos : 0 < n
  line : b % 64 + n ≤ 64
  bound : b + n ≤ 0x400000

namespace InCluster

variable {s : State} {core b n : Nat} (h : InCluster core b n)
include h

theorem window : windowOf (clusterBase + b) = (.cluster, b) := by
  obtain ⟨-, pos, -, bound⟩ := h
  exact windowOf_cluster (by omega)

theorem one : twoWindows (clusterBase + b) n = false := by
  obtain ⟨-, pos, -, bound⟩ := id h
  have last : clusterBase + b + n - 1 = clusterBase + (b + n - 1) := by omega
  rw [twoWindows, h.window, last, windowOf_cluster (by omega), bne_self_eq_false, Bool.and_false]

theorem pieces : pieces (clusterBase + b) n = [(clusterBase + b, n)] := by
  obtain ⟨-, pos, line, -⟩ := h
  exact pieces_one pos (by rw [clusterBase]; omega)

theorem rowPlace (write : Bool) :
    s.rowPlace core (clusterBase + b) n write = some ({ home := .cluster (clusterOf core), off := b }, .plain) := by
  obtain ⟨compute, pos, line, bound⟩ := id h
  have own : isControl core = false := decide_eq_false (by omega)
  have below : ¬ 2 ^ 57 ≤ clusterBase + b + n - 1 := by rw [clusterBase]; omega
  unfold State.rowPlace
  rw [h.window]
  simp only [Window.refusedInCompute, own, below, bound, decide_false, Bool.and_false, Bool.or_self, Bool.false_eq_true,
    if_false, if_true]

/-- Where the one piece is. -/
theorem placePieces (mode : Mode) (need : Need) :
    s.placePieces core mode need [(clusterBase + b, n)] =
      (.ok [({ va := BitVec.ofNat 64 (clusterBase + b), loc := { home := .cluster (clusterOf core), off := b }
               view := .plain }, n)], s) := by
  refine State.placePieces_one (State.piecePlace_of_rowPlace ?_ (h.rowPlace _))
  rw [h.window]
  exact fun w => by cases w

theorem notAlias : isAlias (clusterBase + b) = false := by
  rw [isAlias, h.window]

end InCluster

/-- A range of one peer module. -/
structure InPeer (b n : Nat) : Prop where
  pos : 0 < n
  low : 2 ^ 55 ≤ b
  one : b % 2 ^ 45 + n ≤ 2 ^ 45
  high : b + n ≤ 2 ^ 56

namespace InPeer

variable {s : State} {core b n : Nat} (h : InPeer b n)
include h

theorem window : windowOf b = (.peer (b / 2 ^ 45 % 1024), b % 2 ^ 45) :=
  windowOf_peer h.low (by have := h.pos; have := h.high; omega)

theorem oneWindow : twoWindows b n = false := by
  obtain ⟨pos, low, one, high⟩ := id h
  have same : (b + n - 1) / 2 ^ 45 = b / 2 ^ 45 := by omega
  rw [twoWindows, h.window, windowOf_peer (by omega) (by omega), same, bne_self_eq_false, Bool.and_false]

theorem rowPlace {a k : Nat} (low : b ≤ a) (high : a + k ≤ b + n) (below : a < b + n)
    (quiet : s.inCompute core = false) (write : Bool) :
    s.rowPlace core a k write = some (s.peerPlace (a / 2 ^ 45 % 1024) (a % 2 ^ 45), .plain) := by
  obtain ⟨-, low', -, high'⟩ := h
  have bound : ¬ 2 ^ 57 ≤ a + k - 1 := by omega
  unfold State.rowPlace
  rw [windowOf_peer (by omega) (by omega)]
  dsimp only
  rw [quiet, if_neg (by simpa using bound)]

theorem placePieces (quiet : s.inCompute core = false) (mode : Mode) (need : Need) :
    ∃ r, s.placePieces core mode need (pieces b n) = (.ok r, s) := by
  refine State.placePieces_found _ fun p hp => ?_
  obtain ⟨low, high⟩ := mem_pieces hp
  have below := pos_of_mem_pieces hp
  refine ⟨_, State.piecePlace_of_rowPlace ?_ (h.rowPlace low high below quiet _)⟩
  obtain ⟨-, low', -, high'⟩ := h
  rw [windowOf_peer (by omega) (by omega)]
  exact fun w => by cases w

theorem notAlias : isAlias b = false := by
  rw [isAlias, h.window]

end InPeer

end Sys2Proof.Machine

/-! SUPPORT. One row of an engine operation taken a step further (R262, R263). -/

namespace Sys2Proof.Machine

/-- A row of n bytes that are neither converted nor kept back. -/
def plainRow (src dst n : Nat) : Row :=
  { src := src, n := n, dst := dst, nd := n, skip := 0, fe := false, conv := fun bs => (bs, []) }

/-- A row that passes every check but translation. -/
theorem State.rowStatus_none {s : State} {c : Nat} {mode : Mode} {src ns dst nd : Nat} {from_ into : Loc × View}
    (oneSrc : twoWindows src ns = false) (oneDst : twoWindows dst nd = false) (hsrc : s.rowPlace c src ns false = some from_)
    (hdst : s.rowPlace c dst nd true = some into) (plain : isAlias dst = false)
    (guardSrc : guardsPass (s.core c) mode src ns .read = true) (guardDst : guardsPass (s.core c) mode dst nd .write = true) :
    s.rowStatus c mode src ns dst nd = none := by
  simp [State.rowStatus, oneSrc, oneDst, hsrc, hdst, plain, guardSrc, guardDst]

section
variable {s : State} {q : Sender} {o : EngineOp} {core a b n : Nat}

/-- An address of the own module is refused by none. -/
theorem State.peerRefusal_own {a : Nat} (own : ∀ m, (windowOf a).1 ≠ .peer m) (code : Nat) :
    s.peerRefusal q a code = none := by
  unfold State.peerRefusal
  split
  · rename_i w
    exact absurd w (own _)
  · rfl

/-- What a refusal by a peer module leaves: the violation logged where the module is absent (R21, R374). -/
def State.refused (s : State) (q : Sender) (b code : Nat) : State :=
  if code = 1 ∨ s.allDown = true then
    s.logViolation (dieOf q.core) (BitVec.ofNat 64 b) (s.endpoint q.core) (isControl q.core) 7 q.path.code 1
  else s

theorem State.peerRefusal_peer (h : InPeer b n) {code : Nat} (refuses : code ≠ 0 ∨ s.allDown = true) :
    s.peerRefusal q b code = some (s.refused q b code) := by
  rw [State.peerRefusal, h.window, State.refused]
  cases down : s.allDown with
  | true => simp
  | false =>
    have bad : code ≠ 0 := refuses.resolve_right (by rw [down]; exact Bool.false_ne_true)
    by_cases one : code = 1 <;> simp [bad, one]

section
variable (src : InUnit core a n) (sender : q.core = core) (fresh : o.reads = [])
  (guardSrc : guardsPass (s.core core) o.mode (0x0100000000000000 + a) n .read = true) (from_ into : Nat)
include src sender fresh guardSrc

/-- A row to a peer module that refuses it. -/
theorem State.stepRow_refused (dst : InPeer b n) (guardDst : guardsPass (s.core core) o.mode b n .write = true)
    (quiet : s.inCompute core = false) (refuses : into ≠ 0 ∨ s.allDown = true) :
    s.stepRow q o (plainRow (0x0100000000000000 + a) b n) from_ into = some (.status statREMOTE (s.refused q b into)) := by
  have pass := State.rowStatus_none src.one dst.oneWindow (src.rowPlace false)
    (dst.rowPlace le_rfl le_rfl (by have := dst.pos; omega) quiet true) dst.notAlias guardSrc guardDst
  obtain ⟨r, found⟩ := dst.placePieces quiet o.mode .write
  have own : s.peerRefusal q (0x0100000000000000 + a) from_ = none :=
    State.peerRefusal_own (by rw [src.window]; exact fun _ w => by cases w) _
  rw [State.stepRow, fresh, List.isEmpty_nil, if_pos rfl, State.readRow]
  dsimp only [plainRow]
  rw [sender, pass, src.pieces, src.placePieces]
  dsimp only
  rw [found]
  dsimp only
  rw [own, State.peerRefusal_peer dst refuses]
  rfl

/-- A row within the core's own scratches: its read is planned. -/
theorem State.stepRow_reads (dst : InCluster core b n)
    (guardDst : guardsPass (s.core core) o.mode (clusterBase + b) n .write = true) :
    s.stepRow q o (plainRow (0x0100000000000000 + a) (clusterBase + b) n) from_ into =
      some (.reads (s.planOp core o.id [{ s.engineAccess q (BitVec.ofNat 64 (0x0100000000000000 + a))
        { home := .unit core, off := a } (.fetch .plain) n with sure := false }])) := by
  have pass := State.rowStatus_none src.one dst.one (src.rowPlace false) (dst.rowPlace true) dst.notAlias guardSrc guardDst
  have own : s.peerRefusal q (0x0100000000000000 + a) from_ = none :=
    State.peerRefusal_own (by rw [src.window]; exact fun _ w => by cases w) _
  have away : s.peerRefusal q (clusterBase + b) into = none :=
    State.peerRefusal_own (by rw [dst.window]; exact fun _ w => by cases w) _
  rw [State.stepRow, fresh, List.isEmpty_nil, if_pos rfl, State.readRow]
  dsimp only [plainRow]
  rw [sender, pass, src.pieces, src.placePieces, dst.pieces]
  dsimp only
  rw [dst.placePieces]
  dsimp only
  rw [own, away]
  rfl

end

/-- What one read of a row came back with. -/
def EngineOp.Back (o : EngineOp) (got : Got) : Prop := ∃ seq, o.reads = [{ seq := seq, got := some got }]

namespace EngineOp.Back

variable {got : Got}

theorem done (h : o.Back got) : readsDone o.reads = some [got] := by
  obtain ⟨seq, h⟩ := h
  rw [h]
  rfl

theorem nonempty (h : o.Back got) : o.reads.isEmpty = false := by
  obtain ⟨seq, h⟩ := h
  rw [h]
  rfl

theorem stepRow (h : o.Back got) (r : Row) (from_ into : Nat) : s.stepRow q o r from_ into = some (s.writeRow q o r [got]) := by
  rw [State.stepRow, h.nonempty, if_neg Bool.false_ne_true, h.done]
  rfl

end EngineOp.Back

/-- A read that failed for another reason than translation ends its row with its status. -/
theorem State.writeRow_failed {got : Got} (r : Row) (bad : got.status ≠ 0) (fault : got.fault = none) :
    s.writeRow q o r [got] = .status got.status s := by
  have first : firstFailed [got] = some got := by simp [firstFailed, bad]
  rw [State.writeRow, first]
  dsimp only
  rw [fault]

/-- A clean line of a row: all its bytes are taken, and are clean (R263). -/
theorem takenOf_clean {src : Nat} {bs : List (Byte × Bool)} {n : Nat} (h : ∀ b ∈ bs, b.2 = false) :
    takenOf src n bs = (n, n) := by
  have none_ : bs.findIdx? (fun b => b.2) = none := List.findIdx?_eq_none_iff.2 fun b hb => by rw [h b hb]
  rw [takenOf, none_]

/-- The write of one piece, all of whose bytes are clean. -/
theorem State.writesFor_one (p : Place) {data : List Byte} (hn : 0 < n) (len : data.length = n) :
    s.writesFor q data n none [(p, n)] 0 = [s.engineAccess q p.va p.loc (.store data none false) n] := by
  have all : data.take n = data := List.take_of_length_le (le_of_eq len)
  have place : p.loc.plus 0 = p.loc := rfl
  have va : p.va + BitVec.ofNat 64 0 = p.va := BitVec.add_zero _
  simp only [State.writesFor, List.drop_zero, all, len, Nat.sub_zero, Nat.min_self, Nat.sub_self, place, va, if_true,
    if_neg (Nat.ne_of_gt hn), List.append_nil]

/-- A row whose one read has come back clean: its one write. -/
theorem State.writeRow_clean {got : Got} (sender : q.core = core) (dst : InCluster core b n) (src : Nat)
    (good : got.status = 0) (fault : got.fault = none) (clean : got.line = false) (len : got.data.length = n) :
    s.writeRow q o (plainRow src (clusterBase + b) n) [got] =
      .moved s [s.engineAccess q (BitVec.ofNat 64 (clusterBase + b)) { home := .cluster (clusterOf core), off := b }
        (.store got.data none false) n] n n 0#5 := by
  have pos := dst.pos
  have first : firstFailed [got] = none := by simp [firstFailed, good, fault]
  have bytes : gotBytes [got] = got.data.map (·, false) := by simp [gotBytes, clean]
  have taken : takenOf src n (got.data.map (·, false)) = (n, n) := takenOf_clean fun x hx => by
    obtain ⟨y, -, rfl⟩ := List.mem_map.1 hx
    rfl
  have all : ((got.data.map (·, false)).take n).map Prod.fst = got.data := by
    rw [List.take_of_length_le (by rw [List.length_map, len]), List.map_map]
    exact List.map_id _
  have share : n * n / max n 1 = n := by rw [max_eq_left pos, Nat.mul_div_cancel _ pos]
  rw [State.writeRow, first]
  dsimp only [plainRow]
  rw [sender, Nat.add_zero, Nat.sub_zero, dst.pieces, dst.placePieces, bytes]
  dsimp only
  rw [taken]
  dsimp only
  rw [all, len, share, List.drop_zero, Nat.sub_zero]
  show RowResult.moved s (s.writesFor q got.data n none _ 0) n n (orFlags (List.take _ [])) = _
  rw [State.writesFor_one _ pos len, List.take_nil]
  rfl

end

/-! What a refusal leaves unchanged. -/

section
variable (s : State) (q : Sender) (b code : Nat)

theorem State.refused_mem : (s.refused q b code).mem = s.mem := by
  unfold State.refused
  split
  · exact State.mem_of_store (State.logViolation_store ..)
  · rfl

theorem State.refused_cores : (s.refused q b code).cores = s.cores := by
  unfold State.refused State.logViolation State.signalManager State.raiseExt State.wakeWfi
  dsimp only
  repeat' split
  all_goals rfl

/-- The log entry names the core, the engines as its strand, and the copy path. -/
theorem State.refused_vlog {core : Nat} (compute : isControl core = false) (sender : q.core = core) (copies : q.path = .copy) :
    ((s.refused q b code).die (dieOf core)).vlog =
      if code = 1 ∨ s.allDown = true then (s.die (dieOf core)).vlog.push 256 [s.time, BitVec.ofNat 64 b,
        BitVec.ofNat 64 (s.endpoint core % 2 ^ 22 + 7 * 2 ^ 24 + 2 ^ 28), 1#64]
      else (s.die (dieOf core)).vlog := by
  unfold State.refused
  split
  · have who : s.endpoint core % 2 ^ 22 + (if isControl core = true then 2 ^ 22 else 0) + 7 * 2 ^ 24 + Path.copy.code * 2 ^ 28 =
        s.endpoint core % 2 ^ 22 + 7 * 2 ^ 24 + 2 ^ 28 := by
      rw [compute, Path.code, if_neg Bool.false_ne_true, Nat.add_zero, Nat.one_mul]
    rw [sender, copies, State.logViolation, who, State.die, State.signalManager_dies]
    exact congrArg Die.vlog (State.die_modDie_same _ _ _)
  · rfl

end

end Sys2Proof.Machine

/-! SUPPORT. The message of an operation, and the events of gathers (R222, R264, R267). -/

namespace Sys2Proof.Machine

/-- What a strand's waiting is checked for leaves of a core all but its path queues. -/
theorem State.recheck_core_keeps {α : Type} (f : Core → α)
    (hf : ∀ (c : Core) p l, f { c with path := p, slipped := l } = f c) (s : State) (h c : Nat) :
    f ((s.recheck h).core c) = f (s.core c) := by
  have withdrawn (t : Trap) : f ((s.trapWait h t).core c) = f (s.core c) := by
    rw [State.trapWait, State.answer_core, State.withdraw]
    dsimp only
    by_cases e : coreOf h = c
    · rw [e, State.core_modCore_same]
      exact hf _ _ _
    · rw [State.core_modCore_ne _ _ e]
      rfl
  unfold State.recheck
  split
  · split
    · exact withdrawn _
    · rfl
  · rfl

theorem State.recheck_mem (s : State) (h : Nat) : (s.recheck h).mem = s.mem := State.mem_of_store (s.recheck_store h)

/-- A message for a strand that has room for it and whose unit lives: it enters the strand's mailbox at once. -/
theorem State.post_delivers {s : State} {m : Held} {c : Nat} (strand : coreOf m.msg.strand = c) (held : (s.core c).held = [])
    (kept : (s.core c).diverts = false) (empty : (s.core c).mailbox = []) (lives : s.unitLives m.msg.strand m.msg.uid = true)
    (own : m.cmd = false) :
    (s.post m).mem = s.mem ∧ ((s.post m).core c).mailbox = [{ m.msg with shared := false }] ∧
      ((s.post m).core c).ops = ((s.core c).freeOp m).ops := by
  have room : (s.core c).hasRoom m.msg.strand = true := by simp [Core.hasRoom, Core.reservedFree, empty]
  have delivers : s.post m = s.deliver m := by
    rw [State.post, strand, held, kept, room]
    rfl
  have freed : ((s.core c).freeOp m).mailbox = [] := by
    rw [Core.freeOp, own, if_neg Bool.false_ne_true]
    split <;> exact empty
  have placed : (s.placeMessage m).mem = s.mem ∧ (s.placeMessage m).core c =
      { (s.core c).freeOp m with mailbox := [{ m.msg with shared := false }] } := by
    constructor
    · exact State.mem_of_store (s.placeMessage_store m)
    · rw [State.placeMessage]
      dsimp only
      rw [lives, if_pos rfl, State.freeHeld, own, if_neg Bool.false_ne_true, strand]
      have woken (t : State) (b : Bool) (h : Nat) : (if b then t.wake h else t.wakeWfi h).core c = t.core c := by
        unfold State.wakeWfi
        repeat' split
        all_goals rfl
      have entered : (((s.modCore c fun t => t.freeOp m).modCore c fun t =>
          { t with mailbox := t.mailbox ++ [{ m.msg with shared := !t.reservedFree m.msg.strand }] }).core c) =
          { (s.core c).freeOp m with mailbox := [{ m.msg with shared := false }] } := by
        rw [State.core_modCore_same, State.core_modCore_same]
        simp [freed, Core.reservedFree]
      exact (woken _ _ _).trans entered
  obtain ⟨mem, core_⟩ := placed
  rw [delivers, State.deliver]
  refine ⟨(State.recheck_mem _ _).trans mem, ?_, ?_⟩
  · rw [State.recheck_core_keeps Core.mailbox (fun _ _ _ => rfl), core_]
  · rw [State.recheck_core_keeps Core.ops (fun _ _ _ => rfl), core_]

/-- The message of an operation that has ended is posted, and the operation is in flight no longer. -/
theorem State.completeOp_posts {s : State} {c id : Nat} {o : EngineOp} {os : List EngineOp} {out : Outcome}
    (ops : (s.core c).ops = o :: os) (hid : o.id = id) (idle : o.todo = []) (done : o.done = some out) (goes : o.parked = false)
    (held : (s.core c).held = []) (strand : coreOf o.strand = c) (kept : (s.core c).diverts = false)
    (empty : (s.core c).mailbox = []) (lives : s.unitLives o.strand o.uid = true) :
    (s.completeOp c id).mem = s.mem ∧ ((s.completeOp c id).core c).mailbox = [{ (o.message out).msg with shared := false }] ∧
      ((s.completeOp c id).core c).ops = os.filter fun p => p.id != id := by
  have op : (s.core c).op? id = some o := by rw [Core.op?, ops]; simp [hid]
  have posts : s.completeOp c id = (s.post (o.message out)).recheck o.strand := by
    simp [State.completeOp, op, done, idle, goes, held]
  have freed : ((s.core c).freeOp (o.message out)).ops = os.filter fun p => p.id != id := by
    simp [Core.freeOp, EngineOp.message, ops, hid]
  obtain ⟨mem, box, rest⟩ := State.post_delivers (m := o.message out) strand held kept empty lives rfl
  rw [posts, State.recheck_core_keeps Core.mailbox (fun _ _ _ => rfl), State.recheck_core_keeps Core.ops (fun _ _ _ => rfl)]
  exact ⟨(State.recheck_mem _ _).trans mem, box, rest.trans freed⟩

/-- An event line signalled counts on, no further than it can (R267, R289). -/
theorem State.lineCount_signalLine (s : State) (k : Nat) {n : Nat} (hn : n < 32) (amount : Nat) :
    ((s.signalLine k n amount).lineCount k n).toNat = min ((s.lineCount k n).toNat + amount) (2 ^ 32 - 1) := by
  have set : (s.signalLine k n amount).lineCount k n =
      BitVec.ofNat 32 (min ((s.lineCount k n).toNat + amount) (2 ^ 32 - 1)) := by
    rw [State.lineCount, State.signalLine, State.cluster_modCluster_same, State.lineCount]
    simp [List.getD, hn]
  rw [set, BitVec.toNat_ofNat, Nat.mod_eq_of_lt (by omega)]

end Sys2Proof.Machine

/-! SUPPORT. Each step of a copy and of a gather (R260 to R267). -/

namespace Sys2Proof.Machine

/-- Writes of which each ends its operation, where it would need a fifth hop, so (R236, R262). -/
def chased (word1 : Word) (flags : FlagSet) (ws : List Access) : List Access :=
  ws.map (·.orEnds { status := statMCHAIN, word1 := word1, flags := flags })

/-! An access planned is put on its path first (R216). -/

section
variable {s t : State} {core id from_ into : Nat} (step : s.stepOp core id = some t)
include step

theorem execCopyRow_step : execCopyRow core id from_ into s = .next t := by
  rw [execCopyRow, stepOr_some s core id _ step]

theorem execGatherRow_step : execGatherRow core id from_ into s = .next t := by
  rw [execGatherRow, stepOr_some s core id _ step]

theorem execCopyCompletion_step : execCopyCompletion core id s = .next t := by
  rw [execCopyCompletion, stepOr_some s core id _ step]

theorem execGatherMark_step : execGatherMark core id s = .next t := by
  rw [execGatherMark, stepOr_some s core id _ step]

theorem execGatherCompletion_step : execGatherCompletion core id s = .next t := by
  rw [execGatherCompletion, stepOr_some s core id _ step]

end

section
variable {s t : State} {core from_ into row pos st n good : Nat} {o : EngineOp} {g : Vector Word 13} {rm : BitVec 3}
  {fl : FlagSet} {ws : List Access}

/-! Copies. -/

theorem execCopyRow_running (op : (s.core core).op? o.id = some o) (idle : o.todo = []) (open_ : o.done = none)
    (goes : o.parked = false) (kind : o.kind = .copy g rm row pos) (row_ : s.copyRow core o g rm row pos from_ into = t) :
    execCopyRow core o.id from_ into s = .next t := by
  rw [execCopyRow, stepOr_none s core o.id _ (s.stepOp_nil core o.id op idle), op]
  dsimp only
  rw [kind, open_, goes, ← row_]

theorem State.copyRow_empty (empty : geomEmpty g = true) :
    s.copyRow core o g rm row pos from_ into = s.stopOp core o.id statOK 0 0#5 := by
  rw [State.copyRow, empty]
  rfl

variable (full : geomEmpty g = false)
include full

theorem State.copyRow_waits (step : s.stepRow (copySender core o g) o (copyRowOf g rm row) from_ into = none) :
    s.copyRow core o g rm row pos from_ into = s := by
  simp [State.copyRow, full, step]

theorem State.copyRow_reads (step : s.stepRow (copySender core o g) o (copyRowOf g rm row) from_ into = some (.reads t)) :
    s.copyRow core o g rm row pos from_ into = t := by
  simp [State.copyRow, full, step]

theorem State.copyRow_status (step : s.stepRow (copySender core o g) o (copyRowOf g rm row) from_ into = some (.status st t)) :
    s.copyRow core o g rm row pos from_ into = t.stopOp core o.id st (BitVec.ofNat 64 pos) o.flags := by
  simp [State.copyRow, full, step]

theorem State.copyRow_poisoned (bad : good < n)
    (step : s.stepRow (copySender core o g) o (copyRowOf g rm row) from_ into = some (.moved t ws n good fl)) :
    s.copyRow core o g rm row pos from_ into = (t.planOp core o.id (chased (BitVec.ofNat 64 pos) o.flags ws)).stopOp core o.id
      statPOISON (BitVec.ofNat 64 (pos + good)) (o.flags ||| fl) := by
  simp only [State.copyRow, full, step, bad, if_true, Bool.false_eq_true, if_false, chased]

variable (step : s.stepRow (copySender core o g) o (copyRowOf g rm row) from_ into = some (.moved t ws n n fl))
include step

theorem State.copyRow_last (last : row + 1 = rowCount g) :
    s.copyRow core o g rm row pos from_ into = (t.planOp core o.id (chased (BitVec.ofNat 64 pos) o.flags ws)).stopOp core o.id
      statOK (BitVec.ofNat 64 (pos + (geomReg g 2).toNat)) (o.flags ||| fl) := by
  simp only [State.copyRow, full, step, last, if_true, Bool.false_eq_true, if_false, chased, lt_irrefl]
  rfl

theorem State.copyRow_goesOn (more : row + 1 ≠ rowCount g) :
    s.copyRow core o g rm row pos from_ into = (t.planOp core o.id (chased (BitVec.ofNat 64 pos) o.flags ws)).modOp core o.id
      fun p => { p with flags := o.flags ||| fl, kind := .copy g rm (row + 1) (pos + (geomReg g 2).toNat) } := by
  simp only [State.copyRow, full, step, more, Bool.false_eq_true, if_false, chased, lt_irrefl]
  rfl

end

/-! Gathers. -/

section
variable {s t : State} {core from_ into row st n good : Nat} {o : EngineOp} {q : GatherRec} {index : Option Int} {j : Int}
  {first : Option Word} {w : Word} {fl : FlagSet} {ws : List Access} {got : Got} {gs : List Got}

theorem execGatherRow_running (op : (s.core core).op? o.id = some o) (idle : o.todo = []) (open_ : o.done = none)
    (goes : o.parked = false) (kind : o.kind = .gather q row index first) (more : row < q.nrow)
    (row_ : s.gatherRow core o q row index first from_ into = t) : execGatherRow core o.id from_ into s = .next t := by
  have taken : q.allTaken row = false := decide_eq_false (Nat.not_le.2 more)
  rw [execGatherRow, stepOr_none s core o.id _ (s.stepOp_nil core o.id op idle), op]
  dsimp only
  rw [kind, open_, goes]
  dsimp only
  rw [taken, row_]
  rfl

theorem State.gatherRow_index (fresh : o.reads = []) (read : s.readIndex core o q row = .ok t) :
    s.gatherRow core o q row none first from_ into = t := by
  simp [State.gatherRow, fresh, read]

theorem State.gatherRow_indexed (back : o.Back got) (good : got.status = 0) (clean : got.poison.any (fun p => p) = false) :
    s.gatherRow core o q row none first from_ into = s.modOp core o.id fun p =>
      { p with reads := [], kind := .gather q row (some (laneInt 32 (BitVec.ofNat 64 (natOfBytes got.data)))) first } := by
  have clean' : got.poison.any id = false := clean
  simp [State.gatherRow, back.nonempty, back.done, good, clean']

theorem State.gatherRow_indexFailed (back : o.Back got) (bad : got.status ≠ 0) :
    s.gatherRow core o q row none first from_ into =
      s.stopOp core o.id got.status (BitVec.ofNat 64 (row * q.rowb)) 0#5 := by
  simp [State.gatherRow, back.nonempty, back.done, bad]

variable {src : Int} (at_ : (q.base.toNat : Int) + j * q.stride.toInt = src)
include at_

theorem State.gatherRow_outside (out : src < 0 ∨ 2 ^ 57 ≤ src + q.rowb - 1) :
    s.gatherRow core o q row (some j) first from_ into =
      s.stopOp core o.id statACCERR (BitVec.ofNat 64 (row * q.rowb)) 0#5 := by
  rw [State.gatherRow]
  dsimp only
  rw [at_, if_pos (by simpa using out)]
  rfl

variable (low : 0 ≤ src) (high : src + q.rowb - 1 < 2 ^ 57)
include low high

theorem State.gatherRow_reads
    (step : s.stepRow (gatherSender core o) o (gatherRowOf q row src.toNat) from_ into = some (.reads t)) :
    s.gatherRow core o q row (some j) first from_ into = t := by
  rw [State.gatherRow]
  dsimp only
  rw [at_, if_neg (by simp; omega), step]

theorem State.gatherRow_moved
    (step : s.stepRow (gatherSender core o) o (gatherRowOf q row src.toNat) from_ into = some (.moved t ws n n fl))
    (back : readsDone o.reads = some gs) :
    s.gatherRow core o q row (some j) first from_ into =
      (t.planOp core o.id (chased (BitVec.ofNat 64 (row * q.rowb)) 0#5 ws)).modOp core o.id fun p =>
        { p with kind := .gather q (row + 1) none (if q.mark = true ∧ row = 0 then
            some (BitVec.ofNat 64 (natOfBytes ((gs.flatMap Got.data).take 8))) else first) } := by
  have kept : (q.mark && row == 0) = true ↔ q.mark = true ∧ row = 0 := by simp
  rw [State.gatherRow]
  dsimp only
  rw [at_, if_neg (by simp; omega), step]
  dsimp only
  rw [if_neg (lt_irrefl n), back]
  simp only [kept]
  rfl

end

/-! Ends and marks. -/

section
variable {s : State} {core row st n : Nat} {o : EngineOp} {q : GatherRec} {first : Option Word} {w : Word}
  (op : (s.core core).op? o.id = some o) (idle : o.todo = [])
include op idle

theorem execCopyCompletion_copy {g : Vector Word 13} {rm : BitVec 3} {pos : Nat} (kind : o.kind = .copy g rm row pos) :
    execCopyCompletion core o.id s = .next (s.completeOp core o.id) := by
  rw [execCopyCompletion, stepOr_none s core o.id _ (s.stepOp_nil core o.id op idle), op]
  dsimp only [Option.map_some]
  rw [kind]

/-- An operation that has ended posts its message, while none is held back (R222). -/
theorem execGatherCompletion_ended {index : Option Int} {out : Outcome} (kind : o.kind = .gather q row index first)
    (done : o.done = some out) (held : (s.core core).held = []) :
    execGatherCompletion core o.id s = .next (s.completeOp core o.id) := by
  rw [execGatherCompletion, stepOr_none s core o.id _ (s.stepOp_nil core o.id op idle)]
  dsimp only
  rw [op]
  dsimp only
  rw [kind, done, held]
  rfl

variable (open_ : o.done = none) (goes : o.parked = false) (kind : o.kind = .gather q row none first) (all : q.nrow ≤ row)
include open_ goes kind all

/-- A gather that has put its last write on its path, and its mark, ends (R267). -/
theorem execGatherCompletion_ends (marked : q.mark = false ∨ first = none) :
    execGatherCompletion core o.id s = .next (s.endGather core o q) := by
  have taken : q.allTaken row = true := decide_eq_true all
  have unmarked : (q.mark && first.isSome) = false := by
    rcases marked with h | h
    · rw [h]
      rfl
    · rw [h]
      exact Bool.and_false _
  rw [execGatherCompletion, stepOr_none s core o.id _ (s.stepOp_nil core o.id op idle)]
  dsimp only
  rw [op]
  dsimp only
  rw [kind, open_]
  dsimp only
  rw [taken, unmarked, goes]
  rfl

/-- The mark of a gather, once its other writes are performed (R223, R267). -/
theorem execGatherMark_ready (marked : first = some w) (performed : s.opPending core o.id (s.core core).seq = false) :
    execGatherMark core o.id s = .next ((s.send (gatherSender core o) q.dst
      { home := .cluster (clusterOf core), off := q.dst.toNat - clusterBase } (.sync .setFull w) 8).modOp core o.id fun o =>
        { o with kind := .gather q row none none }) := by
  have taken : q.allTaken row = true := decide_eq_true all
  rw [execGatherMark, stepOr_none s core o.id _ (s.stepOp_nil core o.id op idle), op]
  dsimp only
  rw [kind, marked, open_, goes]
  dsimp only
  rw [taken, performed]
  rfl

end

/-- The event of an earlier gather whose writes are all performed (R267). -/
theorem execGatherCompletion_event {s : State} {core id st n : Nat} (none_ : (s.core core).ops = [])
    (events : (s.core core).events = [(id, st, n)]) (performed : s.opPending core id n = false) :
    execGatherCompletion core id s = .next ((s.signalLine (clusterOf core) st 1).modCore core fun q =>
      { q with events := q.events.filter fun f => f != (id, st, n) }) := by
  have op : (s.core core).op? id = none := by rw [Core.op?, none_]; rfl
  have idle : s.stepOp core id = none := by simp [State.stepOp, State.putOp, op]
  rw [execGatherCompletion, stepOr_none s core id _ idle, op]
  dsimp only
  rw [events]
  simp [performed]

/-! A parked operation goes no further (R334). -/

section
variable {s : State} {core from_ into : Nat} {o : EngineOp} (op : (s.core core).op? o.id = some o) (parked : o.parked = true)
include op parked

theorem execCopyRow_parked : execCopyRow core o.id from_ into s = .next s := by
  rw [execCopyRow, stepOr_none s core o.id _ (s.stepOp_parked core o.id op parked), op]
  dsimp only
  rw [parked]
  split
  · contradiction
  · rfl

theorem execGatherRow_parked : execGatherRow core o.id from_ into s = .next s := by
  rw [execGatherRow, stepOr_none s core o.id _ (s.stepOp_parked core o.id op parked), op]
  dsimp only
  rw [parked]
  split
  · contradiction
  · rfl

theorem State.completeOp_parked : s.completeOp core o.id = s := by
  rw [State.completeOp, op]
  dsimp only
  rw [parked]
  split
  · contradiction
  · rfl

theorem execCopyCompletion_parked : execCopyCompletion core o.id s = .next s := by
  rw [execCopyCompletion, stepOr_none s core o.id _ (s.stepOp_parked core o.id op parked), op]
  dsimp only [Option.map_some]
  split
  · rw [State.completeOp_parked op parked]
  · rfl

theorem execGatherMark_parked : execGatherMark core o.id s = .next s := by
  rw [execGatherMark, stepOr_none s core o.id _ (s.stepOp_parked core o.id op parked), op]
  dsimp only
  rw [parked]
  split
  · contradiction
  · rfl

end

end Sys2Proof.Machine

namespace Sys2Proof.Proofs

open Sys2Proof.Machine Sys2Proof.Claims

/-- Settles O46: an access planned is put on its path first; with none planned, each event by the equation of its case, for what
its row's step has come to. -/
theorem copyAndGatherSteps : Obligations.CopyAndGatherSteps := by
  unfold Obligations.CopyAndGatherSteps
  intro s t core id row pos st n good a b o os g rm fl q w j first got gs out from_ into ws next rest
  dsimp only
  have found (ops : (s.core core).ops = o :: os) : (s.core core).op? o.id = some o := by simp [Core.op?, ops]
  refine ⟨fun i mem ⟨ops, rfl⟩ goes planned => ?planned,
    fun ⟨⟨⟨ops, rfl⟩, idle, open_, goes⟩, kind⟩ empty => ?empty,
    fun ⟨⟨⟨ops, rfl⟩, idle, open_, goes⟩, kind⟩ full step => ?waits,
    fun ⟨⟨⟨ops, rfl⟩, idle, open_, goes⟩, kind⟩ full step => ?reads,
    fun ⟨⟨⟨ops, rfl⟩, idle, open_, goes⟩, kind⟩ full step last => ?last,
    fun ⟨⟨⟨ops, rfl⟩, idle, open_, goes⟩, kind⟩ full step more => ?goesOn,
    fun ⟨⟨⟨ops, rfl⟩, idle, open_, goes⟩, kind⟩ full step bad => ?poisoned,
    fun ⟨⟨⟨ops, rfl⟩, idle, open_, goes⟩, kind⟩ full step => ?status,
    fun src fresh guardSrc low one high guardDst quiet refuses => ?refused,
    fun ⟨src, line, bound⟩ fresh guardSrc guardDst => ?rowReads,
    fun ⟨src, line, bound⟩ back ok fault clean len => ?rowWrites,
    fun back bad fault => ?rowFails, fun ⟨⟨ops, rfl⟩, idle, done, goes⟩ kind held strand kept empty lives => ?copyMessage,
    fun ⟨⟨⟨ops, rfl⟩, idle, open_, goes⟩, kind⟩ more fresh read => ?index,
    fun ⟨⟨⟨ops, rfl⟩, idle, open_, goes⟩, kind⟩ more back ok clean => ?indexed,
    fun ⟨⟨⟨ops, rfl⟩, idle, open_, goes⟩, kind⟩ more low high step => ?gatherReads,
    fun ⟨⟨⟨ops, rfl⟩, idle, open_, goes⟩, kind⟩ more low high step back => ?gatherMoves,
    fun ⟨⟨⟨ops, rfl⟩, idle, open_, goes⟩, kind⟩ more outside => ?outside,
    fun ⟨⟨⟨ops, rfl⟩, idle, open_, goes⟩, kind⟩ more back bad => ?indexFails,
    fun ⟨⟨⟨ops, rfl⟩, idle, open_, goes⟩, kind⟩ all performed => ?marks,
    fun ⟨⟨⟨ops, rfl⟩, idle, open_, goes⟩, kind⟩ all marked msg evt => ?ends,
    fun ⟨⟨ops, rfl⟩, idle, done, goes⟩ kind held strand kept empty lives => ?gatherMessage,
    fun ⟨⟨⟨ops, rfl⟩, idle, open_, goes⟩, kind⟩ all marked msg evt => ?endsQuietly,
    fun ops events performed line => ?event, fun i mem ⟨ops, rfl⟩ parked => ?parked⟩
  case planned =>
    obtain ⟨u, step⟩ : ∃ u, s.stepOp core o.id = some u := ⟨_, s.stepOp_cons core o.id (found ops) goes planned⟩
    obtain ⟨o', a', r, op', -, planned', mem', -, todo, path⟩ := s.stepOp_spec core o.id step
    cases (found ops).symm.trans op'
    cases planned.symm.trans planned'
    refine ⟨u, ?_, mem', path, todo⟩
    simp only [List.mem_cons, List.not_mem_nil, or_false] at mem
    rcases mem with rfl | rfl | rfl | rfl | rfl
    · exact execCopyRow_step step
    · exact execGatherRow_step step
    · exact execCopyCompletion_step step
    · exact execGatherMark_step step
    · exact execGatherCompletion_step step
  case empty =>
    exact execCopyRow_running (found ops) idle open_ goes kind (State.copyRow_empty empty)
  case waits => exact execCopyRow_running (found ops) idle open_ goes kind (State.copyRow_waits full step)
  case reads => exact execCopyRow_running (found ops) idle open_ goes kind (State.copyRow_reads full step)
  case last => exact execCopyRow_running (found ops) idle open_ goes kind (State.copyRow_last full step last)
  case goesOn =>
    exact execCopyRow_running (found ops) idle open_ goes kind (State.copyRow_goesOn full step more)
  case poisoned =>
    exact execCopyRow_running (found ops) idle open_ goes kind (State.copyRow_poisoned full bad step)
  case status =>
    exact execCopyRow_running (found ops) idle open_ goes kind (State.copyRow_status full step)
  case refused =>
    obtain ⟨compute, pos, line, bound⟩ := src
    have own : isControl core = false := decide_eq_false (by omega)
    refine ⟨s.refused (copySender core o g) b into,
      State.stepRow_refused ⟨compute, pos, line, bound⟩ rfl fresh guardSrc from_ into
        ⟨pos, low, one, high⟩ guardDst quiet refuses,
      s.refused_mem _ _ _, ?_, ?_⟩
    · rw [State.core_of_cores (s.refused_cores _ _ _)]
    · exact s.refused_vlog (copySender core o g) b into own rfl rfl
  case rowReads =>
    obtain ⟨compute, pos, line', bound'⟩ := src
    exact State.stepRow_reads ⟨compute, pos, line', bound'⟩ rfl fresh guardSrc from_ into
      ⟨compute, pos, line, bound⟩ guardDst
  case rowWrites =>
    obtain ⟨compute, pos, line', bound'⟩ := src
    refine (EngineOp.Back.stepRow back _ from_ into).trans (congrArg some ?_)
    exact State.writeRow_clean rfl ⟨compute, pos, line, bound⟩ _ ok fault clean len
  case rowFails =>
    exact (EngineOp.Back.stepRow back _ from_ into).trans (congrArg some (State.writeRow_failed _ bad fault))
  case copyMessage =>
    obtain ⟨mem, box, rest⟩ := State.completeOp_posts ops rfl idle done goes held strand kept empty lives
    refine ⟨_, execCopyCompletion_copy (found ops) idle kind, mem, box.trans ?_, rest⟩
    simp [EngineOp.message, kind, OpKind.codes, OpKind.handle]
  case index =>
    exact execGatherRow_running (found ops) idle open_ goes kind more (State.gatherRow_index fresh read)
  case indexed =>
    exact execGatherRow_running (found ops) idle open_ goes kind more (State.gatherRow_indexed back ok clean)
  case gatherReads =>
    exact execGatherRow_running (found ops) idle open_ goes kind more (State.gatherRow_reads rfl low high step)
  case gatherMoves =>
    exact execGatherRow_running (found ops) idle open_ goes kind more (State.gatherRow_moved rfl low high step back)
  case outside =>
    exact execGatherRow_running (found ops) idle open_ goes kind more (State.gatherRow_outside rfl outside)
  case indexFails =>
    exact execGatherRow_running (found ops) idle open_ goes kind more (State.gatherRow_indexFailed back bad)
  case marks =>
    refine ⟨_, execGatherMark_ready (found ops) idle open_ goes kind all rfl performed, rfl, ?_⟩
    rw [State.modOp_path, State.send]
    dsimp only [gatherSender]
    rw [State.enterPath_core, List.getLast?_concat]
    rfl
  case ends =>
    refine (execGatherCompletion_ends (found ops) idle open_ goes kind all marked).trans ?_
    rw [State.endGather, evt, msg]
    rfl
  case gatherMessage =>
    obtain ⟨mem, box, rest⟩ := State.completeOp_posts ops rfl idle done goes held strand kept empty lives
    refine ⟨_, execGatherCompletion_ended (found ops) idle kind done held, mem, box.trans ?_, rest⟩
    simp [EngineOp.message, kind, OpKind.codes, OpKind.handle]
  case endsQuietly =>
    refine ⟨_, execGatherCompletion_ends (found ops) idle open_ goes kind all marked, ?_⟩
    rw [State.endGather, evt, msg]
    dsimp only
    rw [if_neg Bool.false_ne_true, State.recheck_mem, State.recheck_core_keeps Core.ops (fun _ _ _ => rfl),
      State.recheck_core_keeps Core.events (fun _ _ _ => rfl), State.core_modCore_same, State.core_modCore_same]
    exact ⟨rfl, by simp [ops], rfl⟩
  case event =>
    refine ⟨_, execGatherCompletion_event ops events performed, ?_, ?_⟩
    · rw [State.core_modCore_same]
      show (State.core s core).events.filter _ = _
      rw [events]
      simp
    · exact s.lineCount_signalLine (clusterOf core) line 1
  case parked =>
    simp only [List.mem_cons, List.not_mem_nil, or_false] at mem
    rcases mem with rfl | rfl | rfl | rfl
    · exact execCopyRow_parked (found ops) parked
    · exact execGatherRow_parked (found ops) parked
    · exact execCopyCompletion_parked (found ops) parked
    · exact execGatherMark_parked (found ops) parked

end Sys2Proof.Proofs
